-- ==== Sys2Proof/Word.lean ====
section
/-!
DEFINITION. The word types of the KZ7 (00_scope R1, R2) and the sparse map used for numbered state.
-/
namespace Sys2Proof

/-- A byte of memory. -/
abbrev Byte := BitVec 8
/-- A 32-bit lane word. -/
abbrev Word := BitVec 32
/-- A 64-bit value: a register pair, a scalar register, an address. -/
abbrev DWord := BitVec 64
/-- A set of lanes, lane l in bit l (R104, R148). -/
abbrev Mask := BitVec 64
/-- Sparse numbered state: an absent key holds the default its reader names. -/
abbrev Map (α : Type) := List (Nat × α)

end Sys2Proof
end

