-- ==== Sys2Proof/Syntax.lean ====
section
/-!
DEFINITION. Syntax of the KZ7: the operand forms of the two instruction streams (02_encoding R34 to R41) and
`Instr`, one constructor per row of the table of operations and events.
-/
namespace Sys2Proof

/-- The two streams of a group (01_machine R23). -/
inductive Stream where
  | scalar
  | lane
  deriving DecidableEq, Repr

/-- The `.i32` and `.n32` variants of an operation. -/
inductive SU where
  | i32
  | n32
  deriving DecidableEq, Repr

/-- The two half formats. -/
inductive Half where
  | f16
  | bf16
  deriving DecidableEq, Repr

/-- The rounding field of an opcode (R50); `dflt` is code 0, the `fpc` default. -/
inductive RM where
  | dflt
  | rne
  | rtz
  | rup
  | rdn
  deriving DecidableEq, Repr

/-- Conditions of `icmp` in opcode order (R199). -/
inductive ICond where
  | eq
  | ne
  | ltI
  | leI
  | gtI
  | geI
  | ltN
  | leN
  | gtN
  | geN
  deriving DecidableEq, Repr

/-- Conditions of `fcmp` and `plcmp` in opcode order (R202, R332). -/
inductive FCond where
  | eq
  | ne
  | lt
  | le
  | gt
  | ge
  | ord
  | uno
  deriving DecidableEq, Repr

/-- The four forms of `shfl` (R219). -/
inductive ShflKind where
  | idx
  | up
  | dn
  | xor
  deriving DecidableEq, Repr

/-- Operations of `red` and `scan` in opcode order (R222). -/
inductive RedOp where
  | addI
  | addF
  | minI
  | minN
  | maxI
  | maxN
  | minF
  | maxF
  | and
  | or
  | xor
  deriving DecidableEq, Repr

/-- Operations of `atom` in opcode order (R259). -/
inductive AtomOp where
  | add
  | min
  | max
  | and
  | or
  | xor
  | xch
  | cas
  deriving DecidableEq, Repr

/-- Operations of `ared` in opcode order (R259). -/
inductive AredOp where
  | add
  | min
  | max
  | and
  | or
  | xor
  deriving DecidableEq, Repr

/-- The control fields of an L64 or L96 word, bits [63:44] (R36). -/
structure Ctl where
  stall : BitVec 3
  wait : BitVec 6
  set : BitVec 3
  last : BitVec 3
  gpred : BitVec 3
  gneg : Bool
  gen : Bool
  deriving DecidableEq, Repr

/-- The operands of an L64 word, and the literal of its L96 form (R36, R37). The four specifier fields are raw:
the checks of R58 judge them when the instruction issues. -/
structure LaneForm where
  dst : BitVec 8
  src1 : BitVec 8
  src2 : BitVec 8
  src3 : BitVec 8
  ctl : Ctl
  lit : Option (BitVec 32)
  deriving DecidableEq, Repr

/-- The operands of an L32 word (R34). -/
structure ShortForm where
  dst : BitVec 8
  src : BitVec 8
  stall : BitVec 3
  lastDst : Bool
  lastSrc : Bool
  waitAll : Bool
  deriving DecidableEq, Repr

/-- The operands of `chain` (R38); slot i is bits [6i + 5 : 6i] of `slots`. -/
structure ChainForm where
  dst : BitVec 8
  in0 : BitVec 8
  in1 : BitVec 8
  in2 : BitVec 8
  in3 : BitVec 8
  waitAll : Bool
  slots : BitVec 42
  deriving DecidableEq, Repr

/-- The operands of `ckptx` (R39). -/
structure CkptxForm where
  pairs : BitVec 48
  stall : BitVec 3
  deriving DecidableEq, Repr

/-- A scalar register name s0 to s63 (R40). -/
abbrev SName := BitVec 6

/-- Register form of a scalar ALU instruction (R40, R41). -/
structure SReg where
  sd : SName
  sa : SName
  sb : SName
  deriving DecidableEq, Repr

/-- S32 immediate form of a scalar ALU instruction: a 10-bit immediate {imm4, imm6} (R41). -/
structure SImm where
  sd : SName
  sa : SName
  imm : BitVec 10
  deriving DecidableEq, Repr

/-- S64 immediate form of a scalar ALU instruction (R41). -/
structure SLit where
  sd : SName
  sa : SName
  lit : BitVec 32
  deriving DecidableEq, Repr

/-- Scopes of synchronising operations (R21, R49). -/
inductive Scope where
  | lane
  | core
  | quad
  | die
  | package
  | pod
  deriving DecidableEq, Repr

/-- The name of a barrier (R282): its scope, the scope instance that holds the issuing core (for the core barrier
the core number and the first resident slot of the cohort make up the instance), the context and the id. -/
structure BarrierId where
  scope : Scope
  inst : Nat
  ctx : Nat
  id : Nat
  deriving DecidableEq, Repr

/-- Who read data that ECC cannot correct (R351): no context, a stream of a group on a core, or another agent of a
context. -/
inductive Reader where
  | nobody
  | group (core slot : Nat) (st : Stream)
  | agent (ctx : Nat)
  deriving DecidableEq, Repr

/-- Where an RMA operation is addressed (R385, R470). -/
inductive RmaTarget where
  | context (ctx : Nat)
  | mailbox
  deriving DecidableEq, Repr

/-- The demands on a quad's pass count that expire on a timer (R420). -/
inductive PassDemand where
  | burst
  | balance
  | thermal
  deriving DecidableEq, Repr

/-- Reasons of a BOOT_FAIL event, codes 1 to 9 in order (R472). -/
inductive BootFailure where
  | timeLimit
  | selfTest
  | training
  | noPort
  | magicOrLength
  | keyHash
  | signature
  | bodyHash
  | svn
  deriving DecidableEq, Repr

/-- A Grendex image as it is delivered (R464). -/
structure Image where
  magic : BitVec 32
  svn : BitVec 32
  length : BitVec 64
  keyHash : BitVec 256
  bodyHash : BitVec 256
  signature : List Byte
  body : List Byte
  deriving DecidableEq, Repr

/-- One command slot of the management mailbox: its ring slot, tag and argument words (R467, R473). -/
structure Mbox where
  slot : BitVec 6
  tag : BitVec 16
  a0 : DWord
  a1 : DWord
  a2 : DWord
  a3 : DWord
  a4 : DWord
  a5 : DWord
  a6 : DWord
  deriving DecidableEq, Repr

/-- What the single native word does that Flinte emits for a word it cannot translate (R438, R444). -/
inductive LegacyKind where
  /-- LEGACY with subcode 1 to 5. -/
  | legacy (sub : BitVec 8)
  /-- ILLEGAL_OP, subcode 9. -/
  | illegalOp
  /-- ILLEGAL_OPERAND with a field index and a value. -/
  | illegalOperand (index : BitVec 4) (value : BitVec 8)
  deriving DecidableEq, Repr

/-- One constructor per row of spec/opcode_table.json: the instructions of both streams, the steps the
hardware takes on its own, and the host's commands and inputs. -/
inductive Instr where
  /-- IADD (R196). -/
  | iadd (f : LaneForm)
  /-- IADD_SHORT (R64). -/
  | iaddShort (f : ShortForm)
  /-- ISUB (R196). -/
  | isub (f : LaneForm)
  /-- ISUB_SHORT (R64). -/
  | isubShort (f : ShortForm)
  /-- IMUL (R196). -/
  | imul (f : LaneForm)
  /-- IMUL_SHORT (R64). -/
  | imulShort (f : ShortForm)
  /-- IMULH (R196). -/
  | imulh (v : SU) (f : LaneForm)
  /-- IMAD (R196). -/
  | imad (f : LaneForm)
  /-- IABS (R196). -/
  | iabs (f : LaneForm)
  /-- IABS_SHORT (R64). -/
  | iabsShort (f : ShortForm)
  /-- IMIN (R196). -/
  | imin (v : SU) (f : LaneForm)
  /-- IMAX (R196). -/
  | imax (v : SU) (f : LaneForm)
  /-- IMIN_I32_SHORT (R64). -/
  | iminI32Short (f : ShortForm)
  /-- IMAX_I32_SHORT (R64). -/
  | imaxI32Short (f : ShortForm)
  /-- IMIN_N32_SHORT (R64). -/
  | iminN32Short (f : ShortForm)
  /-- IMAX_N32_SHORT (R64). -/
  | imaxN32Short (f : ShortForm)
  /-- ADD64 (R196). -/
  | add64 (f : LaneForm)
  /-- SUB64 (R196). -/
  | sub64 (f : LaneForm)
  /-- IADD_SAT (R196). -/
  | iaddSat (v : SU) (f : LaneForm)
  /-- ISUB_SAT (R196). -/
  | isubSat (v : SU) (f : LaneForm)
  /-- AND (R196). -/
  | and (f : LaneForm)
  /-- AND_SHORT (R64). -/
  | andShort (f : ShortForm)
  /-- OR (R196). -/
  | or (f : LaneForm)
  /-- OR_SHORT (R64). -/
  | orShort (f : ShortForm)
  /-- XOR (R196). -/
  | xor (f : LaneForm)
  /-- XOR_SHORT (R64). -/
  | xorShort (f : ShortForm)
  /-- ANDN (R196). -/
  | andn (f : LaneForm)
  /-- ANDN_SHORT (R64). -/
  | andnShort (f : ShortForm)
  /-- NOT (R196). -/
  | not (f : LaneForm)
  /-- NOT_SHORT (R64). -/
  | notShort (f : ShortForm)
  /-- MOV (R196). -/
  | mov (f : LaneForm)
  /-- MOV_SHORT (R64). -/
  | movShort (f : ShortForm)
  /-- SEL (R196). -/
  | sel (f : LaneForm)
  /-- SHL (R197). -/
  | shl (f : LaneForm)
  /-- SHL_SHORT (R64). -/
  | shlShort (f : ShortForm)
  /-- SHR (R197). -/
  | shr (f : LaneForm)
  /-- SHR_SHORT (R64). -/
  | shrShort (f : ShortForm)
  /-- SAR (R197). -/
  | sar (f : LaneForm)
  /-- SAR_SHORT (R64). -/
  | sarShort (f : ShortForm)
  /-- ROT (R197). -/
  | rot (f : LaneForm)
  /-- ROT_SHORT (R64). -/
  | rotShort (f : ShortForm)
  /-- POPC (R196). -/
  | popc (f : LaneForm)
  /-- POPC_SHORT (R64). -/
  | popcShort (f : ShortForm)
  /-- CLZ (R196). -/
  | clz (f : LaneForm)
  /-- CLZ_SHORT (R64). -/
  | clzShort (f : ShortForm)
  /-- CTZ (R196). -/
  | ctz (f : LaneForm)
  /-- CTZ_SHORT (R64). -/
  | ctzShort (f : ShortForm)
  /-- BREV (R196). -/
  | brev (f : LaneForm)
  /-- BREV_SHORT (R64). -/
  | brevShort (f : ShortForm)
  /-- BFX (R198). -/
  | bfx (v : SU) (f : LaneForm)
  /-- BFI (R198). -/
  | bfi (f : LaneForm)
  /-- ICMP (R199). -/
  | icmp (c : ICond) (f : LaneForm)
  /-- FADD (R200). -/
  | fadd (rm : RM) (f : LaneForm)
  /-- FADD_SHORT (R64). -/
  | faddShort (f : ShortForm)
  /-- FSUB (R200). -/
  | fsub (rm : RM) (f : LaneForm)
  /-- FSUB_SHORT (R64). -/
  | fsubShort (f : ShortForm)
  /-- FMUL (R200). -/
  | fmul (rm : RM) (f : LaneForm)
  /-- FMUL_SHORT (R64). -/
  | fmulShort (f : ShortForm)
  /-- FFMA (R200). -/
  | ffma (rm : RM) (f : LaneForm)
  /-- FMIN (R201). -/
  | fmin (f : LaneForm)
  /-- FMIN_SHORT (R64). -/
  | fminShort (f : ShortForm)
  /-- FMAX (R201). -/
  | fmax (f : LaneForm)
  /-- FMAX_SHORT (R64). -/
  | fmaxShort (f : ShortForm)
  /-- FABS (R201). -/
  | fabs (f : LaneForm)
  /-- FABS_SHORT (R64). -/
  | fabsShort (f : ShortForm)
  /-- FNEG (R201). -/
  | fneg (f : LaneForm)
  /-- FNEG_SHORT (R64). -/
  | fnegShort (f : ShortForm)
  /-- FRND (R201). -/
  | frnd (rm : RM) (f : LaneForm)
  /-- FCMP (R202). -/
  | fcmp (c : FCond) (f : LaneForm)
  /-- FCLASS (R203). -/
  | fclass (f : LaneForm)
  /-- SETFPC (R204). -/
  | setfpc (f : LaneForm)
  /-- HADD2 (R205). -/
  | hadd2 (h : Half) (f : LaneForm)
  /-- HADD2_F16_SHORT (R64). -/
  | hadd2F16Short (f : ShortForm)
  /-- HADD2_BF16_SHORT (R64). -/
  | hadd2Bf16Short (f : ShortForm)
  /-- HSUB2 (R205). -/
  | hsub2 (h : Half) (f : LaneForm)
  /-- HMUL2 (R205). -/
  | hmul2 (h : Half) (f : LaneForm)
  /-- HMUL2_F16_SHORT (R64). -/
  | hmul2F16Short (f : ShortForm)
  /-- HMUL2_BF16_SHORT (R64). -/
  | hmul2Bf16Short (f : ShortForm)
  /-- HFMA2 (R205). -/
  | hfma2 (h : Half) (f : LaneForm)
  /-- HMIN2 (R205). -/
  | hmin2 (h : Half) (f : LaneForm)
  /-- HMAX2 (R205). -/
  | hmax2 (h : Half) (f : LaneForm)
  /-- CVT (R206). -/
  | cvt (rm : RM) (f : LaneForm)
  /-- CVT_SR (R207). -/
  | cvtSr (f : LaneForm)
  /-- PK2 (R208). -/
  | pk2 (h : Half) (f : LaneForm)
  /-- PK2_SR (R208). -/
  | pk2Sr (h : Half) (f : LaneForm)
  /-- UPK2 (R208). -/
  | upk2 (h : Half) (f : LaneForm)
  /-- RNGSEED (R209). -/
  | rngseed (f : LaneForm)
  /-- RCP (R210). -/
  | rcp (f : LaneForm)
  /-- RSQ (R210). -/
  | rsq (f : LaneForm)
  /-- SQT (R210). -/
  | sqt (f : LaneForm)
  /-- EX2 (R210). -/
  | ex2 (f : LaneForm)
  /-- LG2 (R210). -/
  | lg2 (f : LaneForm)
  /-- SINR (R212). -/
  | sinr (f : LaneForm)
  /-- COSR (R212). -/
  | cosr (f : LaneForm)
  /-- TNH (R210). -/
  | tnh (f : LaneForm)
  /-- CHAIN (R216). -/
  | chain (f : ChainForm)
  /-- SHFL (R219). -/
  | shfl (k : ShflKind) (f : LaneForm)
  /-- SWP (R220). -/
  | swp (f : LaneForm)
  /-- VOTE_ANY (R221). -/
  | voteAny (f : LaneForm)
  /-- VOTE_ALL (R221). -/
  | voteAll (f : LaneForm)
  /-- VOTE_BAL (R221). -/
  | voteBal (f : LaneForm)
  /-- RED (R222). -/
  | red (op : RedOp) (f : LaneForm)
  /-- SCAN (R222). -/
  | scan (op : RedOp) (f : LaneForm)
  /-- PAND (R224). -/
  | pand (f : LaneForm)
  /-- POR (R224). -/
  | por (f : LaneForm)
  /-- PXOR (R224). -/
  | pxor (f : LaneForm)
  /-- PNOT (R224). -/
  | pnot (f : LaneForm)
  /-- PCAT (R224). -/
  | pcat (f : LaneForm)
  /-- PSPLIT (R224). -/
  | psplit (f : LaneForm)
  /-- PMOV (R224). -/
  | pmov (f : LaneForm)
  /-- BRA (R174). -/
  | bra (f : LaneForm)
  /-- BRAU (R175). -/
  | brau (f : LaneForm)
  /-- JMPI (R176). -/
  | jmpi (f : LaneForm)
  /-- CALL (R177). -/
  | call (f : LaneForm)
  /-- RET (R177). -/
  | ret (f : LaneForm)
  /-- MELD (R178). -/
  | meld (f : LaneForm)
  /-- MTAB (R178). -/
  | mtab (f : LaneForm)
  /-- LEND (R179). -/
  | lend (f : LaneForm)
  /-- EXIT (R179). -/
  | exit (f : LaneForm)
  /-- CKPT (R180). -/
  | ckpt (f : LaneForm)
  /-- CKPTX (R180). -/
  | ckptx (f : CkptxForm)
  /-- WAIT (R181). -/
  | wait (f : LaneForm)
  /-- NOP (R181). -/
  | nop (f : LaneForm)
  /-- NOP_SHORT (R64). -/
  | nopShort (f : ShortForm)
  /-- YIELD (R181). -/
  | yield (f : LaneForm)
  /-- EMRD (R182). -/
  | emrd (f : LaneForm)
  /-- EMWR (R182). -/
  | emwr (f : LaneForm)
  /-- SALLOC (R183). -/
  | salloc (f : LaneForm)
  /-- SFREE (R183). -/
  | sfree (f : LaneForm)
  /-- TRAP (R184). -/
  | trap (f : LaneForm)
  /-- TRET (R171). -/
  | tret (f : LaneForm)
  /-- BRK (R184). -/
  | brk (f : LaneForm)
  /-- LD (R256). -/
  | ld (f : LaneForm)
  /-- LD_ACQ (R256). -/
  | ldAcq (f : LaneForm)
  /-- ST (R257). -/
  | st (f : LaneForm)
  /-- ST_REL (R257). -/
  | stRel (f : LaneForm)
  /-- LDS (R256). -/
  | lds (f : LaneForm)
  /-- STS (R257). -/
  | sts (f : LaneForm)
  /-- ATOM (R261). -/
  | atom (op : AtomOp) (f : LaneForm)
  /-- ARED (R261). -/
  | ared (op : AredOp) (f : LaneForm)
  /-- FENCE (R262). -/
  | fence (f : LaneForm)
  /-- WAITW (R263). -/
  | waitw (f : LaneForm)
  /-- CPY (R266). -/
  | cpy (f : LaneForm)
  /-- CPYW (R266). -/
  | cpyw (f : LaneForm)
  /-- KICK (R270). -/
  | kick (f : LaneForm)
  /-- KCFG (R268). -/
  | kcfg (f : LaneForm)
  /-- RLD (R272). -/
  | rld (f : LaneForm)
  /-- VFPUT (R276). -/
  | vfput (f : LaneForm)
  /-- VFCFG (R275). -/
  | vfcfg (f : LaneForm)
  /-- TSMP (R280). -/
  | tsmp (f : LaneForm)
  /-- TFET (R280). -/
  | tfet (f : LaneForm)
  /-- TSIZ (R280). -/
  | tsiz (f : LaneForm)
  /-- PREF (R281). -/
  | pref (f : LaneForm)
  /-- CWB (R281). -/
  | cwb (f : LaneForm)
  /-- CINV (R281). -/
  | cinv (f : LaneForm)
  /-- MMA (R306). -/
  | mma (f : LaneForm)
  /-- MMZ (R307). -/
  | mmz (f : LaneForm)
  /-- MMRD (R308). -/
  | mmrd (f : LaneForm)
  /-- MMWR (R308). -/
  | mmwr (f : LaneForm)
  /-- BFILL (R309). -/
  | bfill (f : LaneForm)
  /-- MSYNC (R310). -/
  | msync (f : LaneForm)
  /-- SETFMT (R311). -/
  | setfmt (f : LaneForm)
  /-- PHINT (R315). -/
  | phint (f : LaneForm)
  /-- PLACQ (R320). -/
  | placq (f : LaneForm)
  /-- PLREL (R322). -/
  | plrel (f : LaneForm)
  /-- PLORG (R323). -/
  | plorg (f : LaneForm)
  /-- PLIN (R330). -/
  | plin (f : LaneForm)
  /-- PLQUAD (R330). -/
  | plquad (f : LaneForm)
  /-- PLEXQ (R331). -/
  | plexq (f : LaneForm)
  /-- PLADD (R332). -/
  | pladd (f : LaneForm)
  /-- PLSUB (R332). -/
  | plsub (f : LaneForm)
  /-- PLMUL (R332). -/
  | plmul (f : LaneForm)
  /-- PLFMA (R332). -/
  | plfma (f : LaneForm)
  /-- PLMIN (R332). -/
  | plmin (f : LaneForm)
  /-- PLMAX (R332). -/
  | plmax (f : LaneForm)
  /-- PLMOV (R332). -/
  | plmov (f : LaneForm)
  /-- PLSEL (R332). -/
  | plsel (f : LaneForm)
  /-- PLCMP (R332). -/
  | plcmp (c : FCond) (f : LaneForm)
  /-- PLEN (R334). -/
  | plen (f : LaneForm)
  /-- PLELS (R334). -/
  | plels (f : LaneForm)
  /-- PLPOP (R334). -/
  | plpop (f : LaneForm)
  /-- PLCLR (R333). -/
  | plclr (f : LaneForm)
  /-- PLFLAG (R335). -/
  | plflag (f : LaneForm)
  /-- PLTRAP (R336). -/
  | pltrap (f : LaneForm)
  /-- PLRD (R339). -/
  | plrd (f : LaneForm)
  /-- PLWR (R339). -/
  | plwr (f : LaneForm)
  /-- PLCOV (R340). -/
  | plcov (f : LaneForm)
  /-- BARV (R288). -/
  | barv (f : LaneForm)
  /-- BARW (R288). -/
  | barw (f : LaneForm)
  /-- BARS (R288). -/
  | bars (f : LaneForm)
  /-- BARI (R287). -/
  | bari (f : LaneForm)
  /-- KLAUNCH (R134). -/
  | klaunch (f : LaneForm)
  /-- KWAIT (R136). -/
  | kwait (f : LaneForm)
  /-- XINV (R354). -/
  | xinv (f : LaneForm)
  /-- PGQ (R355). -/
  | pgq (f : LaneForm)
  /-- NMLOAD (R374). -/
  | nmload (f : LaneForm)
  /-- NMCMD (R375). -/
  | nmcmd (f : LaneForm)
  /-- NMLEASE (R376). -/
  | nmlease (f : LaneForm)
  /-- NMREL (R376). -/
  | nmrel (f : LaneForm)
  /-- UNASSIGNED_OPCODE (R63). -/
  | unassignedOpcode (stream : Stream) (word : BitVec 64)
  /-- LEGACY_WORD (R444). -/
  | legacyWord (kind : LegacyKind) (word : BitVec 64) (ctl : Ctl)
  /-- SFU_RESULT (R214). -/
  | sfuResult (core slot : Nat)
  /-- SR_RESULT (R207). -/
  | srResult (core slot idx : Nat)
  /-- WAIT_EXPIRE (R181). -/
  | waitExpire (core slot : Nat)
  /-- MEMORY_ACCESS_COMPLETE (R252). -/
  | memoryAccessComplete (core slot idx : Nat)
  /-- WAITW_WAKE (R263). -/
  | waitwWake (core slot : Nat) (timeout : Bool)
  /-- COPY_COMPLETE (R266). -/
  | copyComplete (core : Nat)
  /-- ENGINE_ACCESS_FAULT (R267). -/
  | engineAccessFault (core : Nat)
  /-- ENGINE_PAGE_FAULT (R267). -/
  | enginePageFault (core : Nat)
  /-- PULL_START (R271). -/
  | pullStart (core : Nat)
  /-- PULL_LANDED (R271). -/
  | pullLanded (core : Nat)
  /-- RLD_RESPONSE (R273). -/
  | rldResponse (core slot idx : Nat)
  /-- NARROWS_DELIVER (R274). -/
  | narrowsDeliver (core : Nat)
  /-- BFILL_COMPLETE (R314). -/
  | bfillComplete (core : Nat)
  /-- MMA_PASS (R303). -/
  | mmaPass (core : Nat)
  /-- ACCUMULATOR_WRITE (R302). -/
  | accumulatorWrite (core : Nat)
  /-- ARRAY_ENTRY (R300). -/
  | arrayEntry (core : Nat)
  /-- PLANE_ENTRY (R326). -/
  | planeEntry (core : Nat)
  /-- ACQUISITION_CLEAR (R321). -/
  | acquisitionClear (core : Nat)
  /-- PLANE_UPKEEP (R327). -/
  | planeUpkeep (core : Nat)
  /-- PLCOV_PUSH (R340). -/
  | plcovPush (core slot q : Nat)
  /-- BARRIER_PHASE_COMPLETE (R284). -/
  | barrierPhaseComplete (b : BarrierId)
  /-- BARRIER_RELEASE (R291). -/
  | barrierRelease (core slot : Nat)
  /-- KWAIT_WAKE (R136). -/
  | kwaitWake (core slot : Nat)
  /-- INVALIDATION_COMPLETE (R350). -/
  | invalidationComplete (core slot idx : Nat)
  /-- SADD (R229). -/
  | sadd (f : SReg)
  /-- SSUB (R229). -/
  | ssub (f : SReg)
  /-- SMUL (R229). -/
  | smul (f : SReg)
  /-- SMULH_I64 (R229). -/
  | smulhI64 (f : SReg)
  /-- SMULH_N64 (R229). -/
  | smulhN64 (f : SReg)
  /-- SAND (R229). -/
  | sand (f : SReg)
  /-- SOR (R229). -/
  | sor (f : SReg)
  /-- SXOR (R229). -/
  | sxor (f : SReg)
  /-- SSHL (R229). -/
  | sshl (f : SReg)
  /-- SSHR (R229). -/
  | sshr (f : SReg)
  /-- SSAR (R229). -/
  | ssar (f : SReg)
  /-- SMIN_I64 (R229). -/
  | sminI64 (f : SReg)
  /-- SMIN_N64 (R229). -/
  | sminN64 (f : SReg)
  /-- SMAX_I64 (R229). -/
  | smaxI64 (f : SReg)
  /-- SMAX_N64 (R229). -/
  | smaxN64 (f : SReg)
  /-- SADD_IMM (R229). -/
  | saddImm (f : SImm)
  /-- SSUB_IMM (R229). -/
  | ssubImm (f : SImm)
  /-- SMUL_IMM (R229). -/
  | smulImm (f : SImm)
  /-- SMULH_I64_IMM (R229). -/
  | smulhI64Imm (f : SImm)
  /-- SMULH_N64_IMM (R229). -/
  | smulhN64Imm (f : SImm)
  /-- SAND_IMM (R229). -/
  | sandImm (f : SImm)
  /-- SOR_IMM (R229). -/
  | sorImm (f : SImm)
  /-- SXOR_IMM (R229). -/
  | sxorImm (f : SImm)
  /-- SSHL_IMM (R229). -/
  | sshlImm (f : SImm)
  /-- SSHR_IMM (R229). -/
  | sshrImm (f : SImm)
  /-- SSAR_IMM (R229). -/
  | ssarImm (f : SImm)
  /-- SMIN_I64_IMM (R229). -/
  | sminI64Imm (f : SImm)
  /-- SMIN_N64_IMM (R229). -/
  | sminN64Imm (f : SImm)
  /-- SMAX_I64_IMM (R229). -/
  | smaxI64Imm (f : SImm)
  /-- SMAX_N64_IMM (R229). -/
  | smaxN64Imm (f : SImm)
  /-- SADD_IMM_S64 (R229). -/
  | saddImmS64 (f : SLit)
  /-- SSUB_IMM_S64 (R229). -/
  | ssubImmS64 (f : SLit)
  /-- SMUL_IMM_S64 (R229). -/
  | smulImmS64 (f : SLit)
  /-- SMULH_I64_IMM_S64 (R229). -/
  | smulhI64ImmS64 (f : SLit)
  /-- SMULH_N64_IMM_S64 (R229). -/
  | smulhN64ImmS64 (f : SLit)
  /-- SAND_IMM_S64 (R229). -/
  | sandImmS64 (f : SLit)
  /-- SOR_IMM_S64 (R229). -/
  | sorImmS64 (f : SLit)
  /-- SXOR_IMM_S64 (R229). -/
  | sxorImmS64 (f : SLit)
  /-- SSHL_IMM_S64 (R229). -/
  | sshlImmS64 (f : SLit)
  /-- SSHR_IMM_S64 (R229). -/
  | sshrImmS64 (f : SLit)
  /-- SSAR_IMM_S64 (R229). -/
  | ssarImmS64 (f : SLit)
  /-- SMIN_I64_IMM_S64 (R229). -/
  | sminI64ImmS64 (f : SLit)
  /-- SMIN_N64_IMM_S64 (R229). -/
  | sminN64ImmS64 (f : SLit)
  /-- SMAX_I64_IMM_S64 (R229). -/
  | smaxI64ImmS64 (f : SLit)
  /-- SMAX_N64_IMM_S64 (R229). -/
  | smaxN64ImmS64 (f : SLit)
  /-- SMOV (R229). -/
  | smov (sd sa : SName)
  /-- SLI (R229). -/
  | sli (sd : SName) (imm : BitVec 10)
  /-- SLI_S64 (R229). -/
  | sliS64 (sd : SName) (lit : BitVec 32)
  /-- SBEQ (R231). -/
  | sbeq (sa sb : SName) (off : BitVec 10)
  /-- SBNE (R231). -/
  | sbne (sa sb : SName) (off : BitVec 10)
  /-- SBLT (R231). -/
  | sblt (sa sb : SName) (off : BitVec 10)
  /-- SBGE (R231). -/
  | sbge (sa sb : SName) (off : BitVec 10)
  /-- SBLTN (R231). -/
  | sbltn (sa sb : SName) (off : BitVec 10)
  /-- SBGEN (R231). -/
  | sbgen (sa sb : SName) (off : BitVec 10)
  /-- SBEQ_S64 (R231). -/
  | sbeqS64 (sa sb : SName) (lit : BitVec 32)
  /-- SBNE_S64 (R231). -/
  | sbneS64 (sa sb : SName) (lit : BitVec 32)
  /-- SBLT_S64 (R231). -/
  | sbltS64 (sa sb : SName) (lit : BitVec 32)
  /-- SBGE_S64 (R231). -/
  | sbgeS64 (sa sb : SName) (lit : BitVec 32)
  /-- SBLTN_S64 (R231). -/
  | sbltnS64 (sa sb : SName) (lit : BitVec 32)
  /-- SBGEN_S64 (R231). -/
  | sbgenS64 (sa sb : SName) (lit : BitVec 32)
  /-- SJMP (R231). -/
  | sjmp (off : BitVec 10)
  /-- SJMP_S64 (R231). -/
  | sjmpS64 (lit : BitVec 32)
  /-- SCALL (R232). -/
  | scall (off : BitVec 10)
  /-- SCALL_S64 (R232). -/
  | scallS64 (lit : BitVec 32)
  /-- SRET (R232). -/
  | sret
  /-- SLD (R233). -/
  | sld (sd sa : SName) (mode : BitVec 6)
  /-- SLD_S64 (R233). -/
  | sldS64 (sd sa : SName) (mode : BitVec 6) (lit : BitVec 32)
  /-- SST (R233). -/
  | sst (sd sa : SName) (mode : BitVec 6)
  /-- SST_S64 (R233). -/
  | sstS64 (sd sa : SName) (mode : BitVec 6) (lit : BitVec 32)
  /-- AFF (R239). -/
  | aff (qn : BitVec 6) (sa : SName)
  /-- AFF_PUSH (R240). -/
  | affPush (core slot q : Nat)
  /-- AFF_STREAM_FAULT (R241). -/
  | affStreamFault (core slot q : Nat)
  /-- SQLD (R238). -/
  | sqld (qn : BitVec 6) (sa sb : SName) (wide : Bool)
  /-- QUEUE_ENTRY_FILL (R235). -/
  | queueEntryFill (core slot q : Nat)
  /-- SQEND (R242). -/
  | sqend (qn : BitVec 6)
  /-- QUEUE_END_EFFECT (R237). -/
  | queueEndEffect (core slot q : Nat)
  /-- LRUN (R243). -/
  | lrun (first : SName) (count : BitVec 6)
  /-- LRUN_S64 (R243). -/
  | lrunS64 (first : SName) (count : BitVec 6) (lit : BitVec 32)
  /-- LSYNC (R244). -/
  | lsync
  /-- SRD (R245). -/
  | srd (sd : SName) (number : BitVec 10)
  /-- SWR (R245). -/
  | swr (number : BitVec 10) (sa : SName)
  /-- GR_SP (R152). -/
  | grSp (sa : SName)
  /-- GR_STKLIM (R152). -/
  | grStklim (sa : SName)
  /-- SWAITW (R246). -/
  | swaitw (sd sa sb : SName)
  /-- SWAITW_S64 (R246). -/
  | swaitwS64 (sd sa sb : SName) (lit : BitVec 32)
  /-- SWAITW_WAKE (R246). -/
  | swaitwWake (core slot : Nat) (timeout : Bool)
  /-- SKICK (R247). -/
  | skick (sa sb : SName)
  /-- SEXIT (R248). -/
  | sexit
  /-- SCALAR_STEP_LIMIT (R230). -/
  | scalarStepLimit (word : BitVec 64)
  /-- LANE_ISSUE_OPPORTUNITY (R142). -/
  | laneIssueOpportunity (core : Nat)
  /-- OPERAND_GRANT (R144). -/
  | operandGrant (core : Nat)
  /-- DEFERRED_TRAP (R250). -/
  | deferredTrap (core slot : Nat)
  /-- GROUP_FORMED (R138). -/
  | groupFormed (core slot : Nat)
  /-- ALLOCATION_RESERVE (R169). -/
  | allocationReserve (core : Nat)
  /-- COHORT_PREEMPT (R165). -/
  | cohortPreempt (core first : Nat)
  /-- COHORT_RESTORE (R165). -/
  | cohortRestore (saved core : Nat)
  /-- QUEUE_TAIL_WRITE (R111). -/
  | queueTailWrite (q : Nat)
  /-- RECORD_READ (R113). -/
  | recordRead (die : Nat)
  /-- KERNEL_DECLARE (R126). -/
  | kernelDeclare (kernel : Nat)
  /-- PLACEMENT_STEP (R132). -/
  | placementStep (die : Nat)
  /-- PLACEMENT_AGING (R132). -/
  | placementAging (kernel : Nat)
  /-- KERNEL_COMPLETE (R130). -/
  | kernelComplete (kernel : Nat)
  /-- CX_TEARDOWN_DONE (R101). -/
  | cxTeardownDone (ctx : Nat)
  /-- TABLE_WALK (R343). -/
  | tableWalk (core ctx va : Nat)
  /-- UNCORRECTABLE_ERROR (R351). -/
  | uncorrectableError (pa : Nat) (reader : Reader)
  /-- COPY_EXPIRY (R393). -/
  | copyExpiry (core line : Nat)
  /-- SIGNATURE_EXPIRY (R400). -/
  | signatureExpiry (line : Nat)
  /-- CACHE_EVICTION (R392). -/
  | cacheEviction (core line : Nat) (l2 : Bool)
  /-- CASNIS_FILL (R433). -/
  | casnisFill (core ctx va : Nat)
  /-- SKERRY_ACCEPT (R364). -/
  | skerryAccept (chan : Nat)
  /-- NMLOAD_APPLY (R374). -/
  | nmloadApply (chan : Nat)
  /-- SKERRY_COMMAND_START (R371). -/
  | skerryCommandStart (chan : Nat)
  /-- SKERRY_WORD (R360). -/
  | skerryWord (chan : Nat)
  /-- BANK_REFRESH (R370). -/
  | bankRefresh (chan bank : Nat) (starts : Bool)
  /-- CATCHUP_REPLAY (R370). -/
  | catchupReplay (chan bank : Nat)
  /-- TRANSFER_COLUMN (R367). -/
  | transferColumn (chan : Nat)
  /-- SKERRY_COMMAND_FINISH (R372). -/
  | skerryCommandFinish (chan : Nat)
  /-- LINK_TRAINED (R377). -/
  | linkTrained (link : Nat) (full : Bool)
  /-- LINK_TRAINING_FAILED (R377). -/
  | linkTrainingFailed (link : Nat)
  /-- LINK_ERRORS_OVER_LIMIT (R378). -/
  | linkErrorsOverLimit (link : Nat)
  /-- LINK_DRAINED (R377). -/
  | linkDrained (link : Nat)
  /-- FLIT_REPLAY (R383). -/
  | flitReplay (link : Nat)
  /-- RMA_WRITE (R385). -/
  | rmaWrite (ep : RmaTarget) (port addr : Nat) (bytes : List Byte)
  /-- RMA_READ (R385). -/
  | rmaRead (ep : RmaTarget) (port addr len : Nat)
  /-- RMA_ATOMIC (R385). -/
  | rmaAtomic (ctx port addr : Nat) (cas : Bool) (operand compare : BitVec 64)
  /-- UNSUPPORTED_DELIVERY (R384). -/
  | unsupportedDelivery (port : Nat)
  /-- HOLM_BALANCE (R416 to R418): the cores of the holm whose copy engine moves data in this ac, and the energy in nJ that a shunt
  of it takes (log 19). -/
  | holmBalance (holm : Nat) (moving : BitVec 8) (energy : BitVec 64)
  /-- UNDECLARED_BURST (R316). -/
  | undeclaredBurst (core : Nat)
  /-- PASS_DEMAND_EXPIRY (R420). -/
  | passDemandExpiry (quad : Nat) (which : PassDemand)
  /-- HINT_ONSET (R315). -/
  | hintOnset (core slot : Nat)
  /-- HINT_END (R315). -/
  | hintEnd (core slot : Nat)
  /-- RAIL_STEP (R423). -/
  | railStep (rail : Nat) (upper : Bool)
  /-- RAIL_HOLD_EXPIRY (R424). -/
  | railHoldExpiry (rail : Nat) (upper : Bool)
  /-- BANK_TEMP_COMPARE (R421). -/
  | bankTempCompare (core : Nat) (t0 t1 : BitVec 8)
  /-- ENERGY_UPDATE (R107). -/
  | energyUpdate (ctx : Nat) (nj : BitVec 64)
  /-- THERMAL_LEVEL_CHANGE (R429). -/
  | thermalLevelChange (stack : Nat) (temp : BitVec 8)
  /-- STACK_THERMAL_DEMAND (R431). -/
  | stackThermalDemand (stack : Nat) (temp : BitVec 8)
  /-- QUAD_GATE_CLOSE (R427). -/
  | quadGateClose (quad : Nat)
  /-- QUAD_WAKE_DONE (R428). -/
  | quadWakeDone (quad : Nat)
  /-- POWER_ON (R461). -/
  | powerOn
  /-- START_STEP_DONE (R461). -/
  | startStepDone (failure : Option BootFailure)
  /-- IMAGE_FETCH (R464). -/
  | imageFetch (img : Image)
  /-- PORT_RETRY (R463). -/
  | portRetry (port : Nat) (trained : Bool)
  /-- RECOVERY_IMAGE (R463). -/
  | recoveryImage (img : Image)
  /-- QUOTE_SIGNED (R466). -/
  | quoteSigned
  /-- EVENT_SINK_UPDATE (R471). -/
  | eventSinkUpdate
  /-- EVENT_CONSUMED_WRITE (R471). -/
  | eventConsumedWrite (count : BitVec 64)
  /-- BAD_CMD (R473). -/
  | badCmd (m : Mbox)
  /-- CX_CREATE (R473). -/
  | cxCreate (m : Mbox)
  /-- CX_BIND (R98). -/
  | cxBind (m : Mbox)
  /-- CX_START (R100). -/
  | cxStart (m : Mbox)
  /-- CX_SUSPEND (R100). -/
  | cxSuspend (m : Mbox)
  /-- CX_RESUME (R100). -/
  | cxResume (m : Mbox)
  /-- CX_TEARDOWN (R101). -/
  | cxTeardown (m : Mbox)
  /-- CX_SET (R473). -/
  | cxSet (m : Mbox)
  /-- CX_CLEAR (R107). -/
  | cxClear (m : Mbox)
  /-- CX_READ (R473). -/
  | cxRead (m : Mbox)
  /-- Q_CREATE (R109). -/
  | qCreate (m : Mbox)
  /-- Q_START (R117). -/
  | qStart (m : Mbox)
  /-- Q_HALT (R118). -/
  | qHalt (m : Mbox)
  /-- Q_DRAIN (R118). -/
  | qDrain (m : Mbox)
  /-- Q_TEARDOWN (R119). -/
  | qTeardown (m : Mbox)
  /-- Q_PRIO (R474). -/
  | qPrio (m : Mbox)
  /-- Q_READ (R474). -/
  | qRead (m : Mbox)
  /-- PF_REPLY (R347). -/
  | pfReply (m : Mbox)
  /-- INVALIDATE (R475). -/
  | invalidate (m : Mbox)
  /-- UNPOISON (R475). -/
  | unpoison (m : Mbox)
  /-- POISON_READ (R475). -/
  | poisonRead (m : Mbox)
  /-- LINK_ENABLE (R377). -/
  | linkEnable (m : Mbox)
  /-- LINK_DRAIN (R377). -/
  | linkDrain (m : Mbox)
  /-- LINK_DISABLE (R377). -/
  | linkDisable (m : Mbox)
  /-- LINK_READ (R476). -/
  | linkRead (m : Mbox)
  /-- EP_BIND (R385). -/
  | epBind (m : Mbox)
  /-- APERTURE (R386). -/
  | aperture (m : Mbox)
  /-- POD_SET (R476). -/
  | podSet (m : Mbox)
  /-- GATE (R427). -/
  | gate (m : Mbox)
  /-- UNGATE (R428). -/
  | ungate (m : Mbox)
  /-- PASSFLOOR (R420). -/
  | passfloor (m : Mbox)
  /-- VOTE (R422). -/
  | vote (m : Mbox)
  /-- SHARE (R430). -/
  | share (m : Mbox)
  /-- CORESET (R477). -/
  | coreset (m : Mbox)
  /-- PARTITION (R477). -/
  | partition (m : Mbox)
  /-- WARM (R462). -/
  | warm (m : Mbox)
  /-- COLD (R469). -/
  | cold (m : Mbox)
  /-- QUOTE (R466). -/
  | quote (m : Mbox)
  /-- IDKEY (R465). -/
  | idkey (m : Mbox)
  /-- IMAGE (R469). -/
  | image (m : Mbox)
  /-- EVSINK (R471). -/
  | evsink (m : Mbox)
  /-- HELPERS (R442). -/
  | helpers (m : Mbox)
  /-- NOTICE_ACCEPTED (R270). -/
  | noticeAccepted (core slot : Nat)
  /-- RELEASE_COMPLETE (R398). -/
  | releaseComplete (core slot idx : Nat)
  deriving DecidableEq, Repr

end Sys2Proof
end

