-- ==== Sys2Proof/Decode.lean ====
section
/-!
DEFINITION. Decoding of both streams (02_encoding), total on any bits; the table of the lane instructions' forms; and
after it the encoder, written from the same layouts.
-/
namespace Sys2Proof

/-! ## Codes of the fields of an opcode -/

/-- `.i32` and `.n32` in opcode order. -/
def suCode : SU → Nat
  | .i32 => 0
  | .n32 => 1

/-- `.f16` and `.bf16` in opcode order. -/
def halfCode : Half → Nat
  | .f16 => 0
  | .bf16 => 1

/-- The rounding field (R50). -/
def rmCode : RM → Nat
  | .dflt => 0
  | .rne => 1
  | .rtz => 2
  | .rup => 3
  | .rdn => 4

/-- Conditions of `icmp` in opcode order (R199). -/
def icondCode : ICond → Nat
  | .eq => 0
  | .ne => 1
  | .ltI => 2
  | .leI => 3
  | .gtI => 4
  | .geI => 5
  | .ltN => 6
  | .leN => 7
  | .gtN => 8
  | .geN => 9

/-- Conditions of `fcmp` in opcode order (R202). -/
def fcondCode : FCond → Nat
  | .eq => 0
  | .ne => 1
  | .lt => 2
  | .le => 3
  | .gt => 4
  | .ge => 5
  | .ord => 6
  | .uno => 7

/-- Forms of `shfl` in opcode order (R219). -/
def shflCode : ShflKind → Nat
  | .idx => 0
  | .up => 1
  | .dn => 2
  | .xor => 3

/-- Operations of `red` in opcode order (R222). -/
def redCode : RedOp → Nat
  | .addI => 0
  | .addF => 1
  | .minI => 2
  | .minN => 3
  | .maxI => 4
  | .maxN => 5
  | .minF => 6
  | .maxF => 7
  | .and => 8
  | .or => 9
  | .xor => 10

/-- Operations of `atom` in opcode order (R259). -/
def atomCode : AtomOp → Nat
  | .add => 0
  | .min => 1
  | .max => 2
  | .and => 3
  | .or => 4
  | .xor => 5
  | .xch => 6
  | .cas => 7

/-- Operations of `ared` in opcode order (R259). -/
def aredCode : AredOp → Nat
  | .add => 0
  | .min => 1
  | .max => 2
  | .and => 3
  | .or => 4
  | .xor => 5

/-! ## Field classes -/

/-- What a field of a lane instruction holds (R42, R46, R186, R251, R305, R328). -/
inductive Cls where
  /-- Must be zero (R47). -/
  | unused
  /-- Any bits; the instruction's own rule reads them. -/
  | free
  /-- D: 32-bit destination. -/
  | d
  /-- D2: 64-bit destination. -/
  | d2
  /-- S: 32-bit source, which may read an L96 literal. -/
  | s
  /-- S2 in an integer position, which may read an L96 literal. -/
  | s2
  /-- S2 that reads no literal. -/
  | s2f
  /-- S that reads no literal. -/
  | sn
  /-- S that may not name a q register (R187). -/
  | snq
  /-- A: a 64-bit address (R251). -/
  | a
  /-- A v or o name. -/
  | vo
  /-- An even v or o name. -/
  | vo2
  /-- An even v or o name or a k name (R182). -/
  | emw
  /-- K: a k name (R251). -/
  | k
  /-- P: a predicate (R46). -/
  | p
  /-- A raw number between two limits. -/
  | range (lo hi : Nat)
  /-- T: one of the listed type codes (R48). -/
  | types (allowed : List Nat)
  /-- An even column number below 64 (R308). -/
  | evenCol
  /-- A memory control field (R255): a store, a synchronising form, a scratchpad form. -/
  | mctl (store sync scratch : Bool)
  /-- An atomic control field (R260) of the operation with a code, and whether it is `ared`. -/
  | nctl (op : Nat) (ared : Bool)
  /-- The scope and kind of `fence` (R262). -/
  | fence
  /-- The raw barrier field (R286). -/
  | barrier
  /-- An accumulator name a0 to a15. -/
  | acc
  /-- A B slot name b0 to b7. -/
  | bslot
  /-- The A operand of `mma`, whose width `fmt` gives (R305). -/
  | amat
  /-- The A scale of `mma`: S with blocks, zero without (R305). -/
  | scale
  /-- A c name. -/
  | c
  /-- B of the cell plane: a c name or an S source (R328). -/
  | cb
  /-- A coefficient block (R330). -/
  | q6
  deriving DecidableEq, Repr

/-- What the literal of an L96 form is (R37). -/
inductive LitRule where
  | never
  | source
  | imm
  | always
  deriving DecidableEq, Repr

/-- What the set field may hold: anything but 6; a scoreboard; or 7 only. -/
inductive SetRule where
  | opt
  | var
  | none
  deriving DecidableEq, Repr

/-- A row of the table of lane instructions. -/
structure LaneInfo where
  form : LaneForm
  op : Nat
  uniform : Bool
  dst : Cls
  src1 : Cls
  src2 : Cls
  src3 : Cls
  lit : LitRule
  set : SetRule
  deriving DecidableEq, Repr

/-- One of two classes. -/
def pairIf (b : Bool) (x y : Cls) : Cls := if b then x else y

/-- Types that occupy a register pair: i64, n64, af36 (R189). -/
def wideType (t : Nat) : Bool := t = 3 || t = 7 || t = 13

/-- The pair class for a wide type code, else the other class. -/
def pairOr (t : BitVec 8) (x y : Cls) : Cls := if wideType t.toNat then x else y

/-- The source class of `cvt` for a type code (R206, R43). -/
def cvtSrc (t : BitVec 8) : Cls :=
  if t.toNat = 13 then .s2f else if wideType t.toNat then .s2 else .s

/-- Codes 0 to 13 (R48). -/
def allTypes : List Nat := List.range 14

/-- Targets of `cvt.sr` (R207): f16, bf16, f32, t8, t6. -/
def srTargets : List Nat := [8, 9, 10, 11, 12]

/-- Precision of a type (R207). -/
def precision : Nat → Nat
  | 0 => 7
  | 1 => 15
  | 2 => 31
  | 3 => 63
  | 4 => 8
  | 5 => 16
  | 6 => 32
  | 7 => 64
  | 8 => 11
  | 9 => 8
  | 10 => 24
  | 11 => 5
  | 12 => 3
  | 13 => 28
  | _ => 0

/-- Sources of `cvt.sr` for a target (R207). -/
def srSources (t : BitVec 8) : List Nat := allTypes.filter (fun x => decide (precision t.toNat < precision x))

/-- Size 3 of a memory control field (R255). -/
def mWide (m : BitVec 8) : Bool := m.toNat % 4 = 3

/-- Size bit of an atomic control field (R260). -/
def nWide (n : BitVec 8) : Bool := n.toNat / 8 % 2 = 1

/-! ## The lane opcode map -/

/-- The op10 codes of the integer and logic instructions (R63). -/
def opsIntegerAndLogic : List (Nat × (LaneForm → Instr)) :=
  [ (0x000, .iadd), (0x001, .isub), (0x002, .imul), (0x003, .imulh .i32),
    (0x004, .imulh .n32), (0x005, .imad), (0x006, .iabs), (0x007, .imin .i32),
    (0x008, .imin .n32), (0x009, .imax .i32), (0x00A, .imax .n32), (0x00B, .add64),
    (0x00C, .sub64), (0x010, .iaddSat .i32), (0x011, .iaddSat .n32), (0x012, .isubSat .i32),
    (0x013, .isubSat .n32), (0x020, .and), (0x021, .or), (0x022, .xor),
    (0x023, .andn), (0x024, .not), (0x025, .mov), (0x026, .sel),
    (0x030, .shl), (0x031, .shr), (0x032, .sar), (0x033, .rot),
    (0x038, .popc), (0x039, .clz), (0x03A, .ctz), (0x03B, .brev),
    (0x03C, .bfx .i32), (0x03D, .bfx .n32), (0x03E, .bfi), (0x040, .icmp .eq),
    (0x041, .icmp .ne), (0x042, .icmp .ltI), (0x043, .icmp .leI), (0x044, .icmp .gtI),
    (0x045, .icmp .geI), (0x046, .icmp .ltN), (0x047, .icmp .leN), (0x048, .icmp .gtN),
    (0x049, .icmp .geN) ]

/-- The op10 codes of the floating point instructions (R63). -/
def opsFloatingPoint : List (Nat × (LaneForm → Instr)) :=
  [ (0x100, .fadd .dflt), (0x101, .fadd .rne), (0x102, .fadd .rtz), (0x103, .fadd .rup),
    (0x104, .fadd .rdn), (0x108, .fsub .dflt), (0x109, .fsub .rne), (0x10A, .fsub .rtz),
    (0x10B, .fsub .rup), (0x10C, .fsub .rdn), (0x110, .fmul .dflt), (0x111, .fmul .rne),
    (0x112, .fmul .rtz), (0x113, .fmul .rup), (0x114, .fmul .rdn), (0x118, .ffma .dflt),
    (0x119, .ffma .rne), (0x11A, .ffma .rtz), (0x11B, .ffma .rup), (0x11C, .ffma .rdn),
    (0x120, .fmin), (0x121, .fmax), (0x122, .fabs), (0x123, .fneg),
    (0x128, .frnd .dflt), (0x129, .frnd .rne), (0x12A, .frnd .rtz), (0x12B, .frnd .rup),
    (0x12C, .frnd .rdn), (0x130, .fcmp .eq), (0x131, .fcmp .ne), (0x132, .fcmp .lt),
    (0x133, .fcmp .le), (0x134, .fcmp .gt), (0x135, .fcmp .ge), (0x136, .fcmp .ord),
    (0x137, .fcmp .uno), (0x138, .fclass), (0x13C, .setfpc), (0x180, .hadd2 .f16),
    (0x181, .hadd2 .bf16), (0x182, .hsub2 .f16), (0x183, .hsub2 .bf16), (0x184, .hmul2 .f16),
    (0x185, .hmul2 .bf16), (0x186, .hfma2 .f16), (0x187, .hfma2 .bf16), (0x188, .hmin2 .f16),
    (0x189, .hmin2 .bf16), (0x18A, .hmax2 .f16), (0x18B, .hmax2 .bf16), (0x1C0, .cvt .dflt),
    (0x1C1, .cvt .rne), (0x1C2, .cvt .rtz), (0x1C3, .cvt .rup), (0x1C4, .cvt .rdn),
    (0x1C5, .cvtSr), (0x1C8, .pk2 .f16), (0x1C9, .pk2 .bf16), (0x1CA, .pk2Sr .f16),
    (0x1CB, .pk2Sr .bf16), (0x1CC, .upk2 .f16), (0x1CD, .upk2 .bf16), (0x1D0, .rngseed),
    (0x1E0, .rcp), (0x1E1, .rsq), (0x1E2, .sqt), (0x1E3, .ex2),
    (0x1E4, .lg2), (0x1E5, .sinr), (0x1E6, .cosr), (0x1E7, .tnh) ]

/-- The op10 codes of the cross-lane and predicate instructions (R63). -/
def opsCrossLaneAndPredicate : List (Nat × (LaneForm → Instr)) :=
  [ (0x200, .shfl .idx), (0x201, .shfl .up), (0x202, .shfl .dn), (0x203, .shfl .xor),
    (0x204, .swp), (0x208, .voteAny), (0x209, .voteAll), (0x20A, .voteBal),
    (0x210, .red .addI), (0x211, .red .addF), (0x212, .red .minI), (0x213, .red .minN),
    (0x214, .red .maxI), (0x215, .red .maxN), (0x216, .red .minF), (0x217, .red .maxF),
    (0x218, .red .and), (0x219, .red .or), (0x21A, .red .xor), (0x220, .scan .addI),
    (0x221, .scan .addF), (0x222, .scan .minI), (0x223, .scan .minN), (0x224, .scan .maxI),
    (0x225, .scan .maxN), (0x226, .scan .minF), (0x227, .scan .maxF), (0x228, .scan .and),
    (0x229, .scan .or), (0x22A, .scan .xor), (0x230, .pand), (0x231, .por),
    (0x232, .pxor), (0x233, .pnot), (0x234, .pcat), (0x235, .psplit),
    (0x236, .pmov) ]

/-- The op10 codes of the control and group instructions (R63). -/
def opsControlAndGroup : List (Nat × (LaneForm → Instr)) :=
  [ (0x240, .bra), (0x241, .brau), (0x242, .jmpi), (0x243, .call),
    (0x244, .ret), (0x248, .meld), (0x249, .mtab), (0x250, .lend),
    (0x251, .exit), (0x254, .ckpt), (0x258, .wait), (0x259, .nop),
    (0x25A, .yield), (0x25C, .emrd), (0x25D, .emwr), (0x260, .salloc),
    (0x261, .sfree), (0x268, .trap), (0x269, .tret), (0x26A, .brk) ]

/-- The op10 codes of the memory, engine, narrows, texture instructions (R63). -/
def opsMemory : List (Nat × (LaneForm → Instr)) :=
  [ (0x280, .ld), (0x281, .ldAcq), (0x282, .st), (0x283, .stRel),
    (0x284, .lds), (0x285, .sts), (0x288, .atom .add), (0x289, .atom .min),
    (0x28A, .atom .max), (0x28B, .atom .and), (0x28C, .atom .or), (0x28D, .atom .xor),
    (0x28E, .atom .xch), (0x28F, .atom .cas), (0x290, .ared .add), (0x291, .ared .min),
    (0x292, .ared .max), (0x293, .ared .and), (0x294, .ared .or), (0x295, .ared .xor),
    (0x298, .fence), (0x299, .waitw), (0x2A0, .cpy), (0x2A1, .cpyw),
    (0x2A2, .kick), (0x2A3, .kcfg), (0x2A4, .rld), (0x2A8, .vfput),
    (0x2A9, .vfcfg), (0x2B0, .tsmp), (0x2B1, .tfet), (0x2B2, .tsiz),
    (0x2B8, .pref), (0x2B9, .cwb), (0x2BA, .cinv) ]

/-- The op10 codes of the matrix array instructions (R63). -/
def opsMatrixArray : List (Nat × (LaneForm → Instr)) :=
  [ (0x300, .mma), (0x301, .mmz), (0x302, .mmrd), (0x303, .mmwr),
    (0x304, .bfill), (0x305, .msync), (0x306, .setfmt), (0x308, .phint) ]

/-- The op10 codes of the cell plane instructions (R63). -/
def opsCellPlane : List (Nat × (LaneForm → Instr)) :=
  [ (0x340, .placq), (0x341, .plrel), (0x342, .plorg), (0x344, .plin),
    (0x345, .plquad), (0x346, .plexq), (0x348, .pladd), (0x349, .plsub),
    (0x34A, .plmul), (0x34B, .plfma), (0x34C, .plmin), (0x34D, .plmax),
    (0x34E, .plmov), (0x34F, .plsel), (0x350, .plcmp .eq), (0x351, .plcmp .ne),
    (0x352, .plcmp .lt), (0x353, .plcmp .le), (0x354, .plcmp .gt), (0x355, .plcmp .ge),
    (0x356, .plcmp .ord), (0x357, .plcmp .uno), (0x358, .plen), (0x359, .plels),
    (0x35A, .plpop), (0x35B, .plclr), (0x35C, .plflag), (0x35D, .pltrap),
    (0x360, .plrd), (0x361, .plwr), (0x362, .plcov) ]

/-- The op10 codes of the barrier, launch, page, skerry instructions (R63). -/
def opsBarrier : List (Nat × (LaneForm → Instr)) :=
  [ (0x380, .barv), (0x381, .barw), (0x382, .bars), (0x383, .bari),
    (0x388, .klaunch), (0x389, .kwait), (0x38C, .xinv), (0x38D, .pgq),
    (0x390, .nmload), (0x391, .nmcmd), (0x392, .nmlease), (0x393, .nmrel) ]

/-- The op10 map (R63); `chain` and `ckptx` have their own layouts. -/
def laneOps : List (Nat × (LaneForm → Instr)) :=
  opsIntegerAndLogic ++ opsFloatingPoint ++ opsCrossLaneAndPredicate ++ opsControlAndGroup ++ opsMemory ++ opsMatrixArray ++ opsCellPlane ++ opsBarrier

/-- The table of the lane instructions in the layout of R36: opcode, uniform or not, the class of each field, what the
literal of an L96 form is, what the set field may hold (R172, R195, R252, R286, R305, R328, R353, R373, R134, R136). -/
def laneInfo : Instr → Option LaneInfo
  | .iadd f => some ⟨f, 0x0, false, .d, .s, .s, .unused, .source, .opt⟩
  | .isub f => some ⟨f, 0x1, false, .d, .s, .s, .unused, .source, .opt⟩
  | .imul f => some ⟨f, 0x2, false, .d, .s, .s, .unused, .source, .opt⟩
  | .imulh v f => some ⟨f, 0x003 + suCode v, false, .d, .s, .s, .unused, .source, .opt⟩
  | .imad f => some ⟨f, 0x005, false, .d, .s, .s, .s, .source, .opt⟩
  | .iabs f => some ⟨f, 0x006, false, .d, .s, .unused, .unused, .source, .opt⟩
  | .imin v f => some ⟨f, 0x007 + suCode v, false, .d, .s, .s, .unused, .source, .opt⟩
  | .imax v f => some ⟨f, 0x009 + suCode v, false, .d, .s, .s, .unused, .source, .opt⟩
  | .add64 f => some ⟨f, 0x00B, false, .d2, .s2, .s2, .unused, .source, .opt⟩
  | .sub64 f => some ⟨f, 0x00C, false, .d2, .s2, .s2, .unused, .source, .opt⟩
  | .iaddSat v f => some ⟨f, 0x010 + suCode v, false, .d, .s, .s, .unused, .source, .opt⟩
  | .isubSat v f => some ⟨f, 0x012 + suCode v, false, .d, .s, .s, .unused, .source, .opt⟩
  | .and f => some ⟨f, 0x20, false, .d, .s, .s, .unused, .source, .opt⟩
  | .or f => some ⟨f, 0x21, false, .d, .s, .s, .unused, .source, .opt⟩
  | .xor f => some ⟨f, 0x22, false, .d, .s, .s, .unused, .source, .opt⟩
  | .andn f => some ⟨f, 0x23, false, .d, .s, .s, .unused, .source, .opt⟩
  | .not f => some ⟨f, 0x024, false, .d, .s, .unused, .unused, .source, .opt⟩
  | .mov f => some ⟨f, 0x025, false, .d, .s, .unused, .unused, .source, .opt⟩
  | .sel f => some ⟨f, 0x026, false, .d, .s, .s, .p, .source, .opt⟩
  | .shl f => some ⟨f, 0x30, false, .d, .s, .s, .unused, .source, .opt⟩
  | .shr f => some ⟨f, 0x31, false, .d, .s, .s, .unused, .source, .opt⟩
  | .sar f => some ⟨f, 0x32, false, .d, .s, .s, .unused, .source, .opt⟩
  | .rot f => some ⟨f, 0x33, false, .d, .s, .s, .unused, .source, .opt⟩
  | .popc f => some ⟨f, 0x38, false, .d, .s, .unused, .unused, .source, .opt⟩
  | .clz f => some ⟨f, 0x39, false, .d, .s, .unused, .unused, .source, .opt⟩
  | .ctz f => some ⟨f, 0x3a, false, .d, .s, .unused, .unused, .source, .opt⟩
  | .brev f => some ⟨f, 0x3b, false, .d, .s, .unused, .unused, .source, .opt⟩
  | .bfx v f => some ⟨f, 0x03C + suCode v, false, .d, .s, .s, .unused, .source, .opt⟩
  | .bfi f => some ⟨f, 0x03E, false, .d, .s, .s, .s, .source, .opt⟩
  | .icmp c f => some ⟨f, 0x040 + icondCode c, false, .p, .s, .s, .unused, .source, .opt⟩
  | .fadd rm f => some ⟨f, 0x100 + rmCode rm, false, .d, .s, .s, .unused, .source, .opt⟩
  | .fsub rm f => some ⟨f, 0x108 + rmCode rm, false, .d, .s, .s, .unused, .source, .opt⟩
  | .fmul rm f => some ⟨f, 0x110 + rmCode rm, false, .d, .s, .s, .unused, .source, .opt⟩
  | .ffma rm f => some ⟨f, 0x118 + rmCode rm, false, .d, .s, .s, .s, .source, .opt⟩
  | .fmin f => some ⟨f, 0x120, false, .d, .s, .s, .unused, .source, .opt⟩
  | .fmax f => some ⟨f, 0x121, false, .d, .s, .s, .unused, .source, .opt⟩
  | .fabs f => some ⟨f, 0x122, false, .d, .s, .unused, .unused, .source, .opt⟩
  | .fneg f => some ⟨f, 0x123, false, .d, .s, .unused, .unused, .source, .opt⟩
  | .frnd rm f => some ⟨f, 0x128 + rmCode rm, false, .d, .s, .unused, .unused, .source, .opt⟩
  | .fcmp c f => some ⟨f, 0x130 + fcondCode c, false, .p, .s, .s, .unused, .source, .opt⟩
  | .fclass f => some ⟨f, 0x138, false, .d, .s, .unused, .unused, .source, .opt⟩
  | .setfpc f => some ⟨f, 0x13C, true, .d, .s, .s, .unused, .source, .opt⟩
  | .hadd2 h f => some ⟨f, 0x180 + halfCode h, false, .d, .s, .s, .unused, .source, .opt⟩
  | .hsub2 h f => some ⟨f, 0x182 + halfCode h, false, .d, .s, .s, .unused, .source, .opt⟩
  | .hmul2 h f => some ⟨f, 0x184 + halfCode h, false, .d, .s, .s, .unused, .source, .opt⟩
  | .hfma2 h f => some ⟨f, 0x186 + halfCode h, false, .d, .s, .s, .s, .source, .opt⟩
  | .hmin2 h f => some ⟨f, 0x188 + halfCode h, false, .d, .s, .s, .unused, .source, .opt⟩
  | .hmax2 h f => some ⟨f, 0x18A + halfCode h, false, .d, .s, .s, .unused, .source, .opt⟩
  | .cvt rm f => some ⟨f, 0x1C0 + rmCode rm, false, pairOr f.src2 .d2 .d, cvtSrc f.src3, .types allTypes, .types allTypes, .source, .opt⟩
  | .cvtSr f => some ⟨f, 0x1C5, false, .d, cvtSrc f.src3, .types srTargets, .types (srSources f.src2), .source, .var⟩
  | .pk2 h f => some ⟨f, 0x1C8 + halfCode h, false, .d, .s, .s, .unused, .source, .opt⟩
  | .pk2Sr h f => some ⟨f, 0x1CA + halfCode h, false, .d, .s, .s, .unused, .source, .var⟩
  | .upk2 h f => some ⟨f, 0x1CC + halfCode h, false, .d2, .s, .unused, .unused, .source, .opt⟩
  | .rngseed f => some ⟨f, 0x1D0, true, .unused, .s, .unused, .unused, .source, .opt⟩
  | .rcp f => some ⟨f, 0x1e0, false, .d, .s, .unused, .unused, .source, .var⟩
  | .rsq f => some ⟨f, 0x1e1, false, .d, .s, .unused, .unused, .source, .var⟩
  | .sqt f => some ⟨f, 0x1e2, false, .d, .s, .unused, .unused, .source, .var⟩
  | .ex2 f => some ⟨f, 0x1e3, false, .d, .s, .unused, .unused, .source, .var⟩
  | .lg2 f => some ⟨f, 0x1e4, false, .d, .s, .unused, .unused, .source, .var⟩
  | .sinr f => some ⟨f, 0x1e5, false, .d, .s, .unused, .unused, .source, .var⟩
  | .cosr f => some ⟨f, 0x1e6, false, .d, .s, .unused, .unused, .source, .var⟩
  | .tnh f => some ⟨f, 0x1e7, false, .d, .s, .unused, .unused, .source, .var⟩
  | .shfl k f => some ⟨f, 0x200 + shflCode k, false, .d, .snq, .s, .range 1 6, .source, .opt⟩
  | .swp f => some ⟨f, 0x204, false, .d, .snq, .range 0 5, .unused, .source, .opt⟩
  | .voteAny f => some ⟨f, 0x208, false, .p, .p, .unused, .unused, .never, .opt⟩
  | .voteAll f => some ⟨f, 0x209, false, .p, .p, .unused, .unused, .never, .opt⟩
  | .voteBal f => some ⟨f, 0x20A, false, .d2, .p, .unused, .unused, .never, .opt⟩
  | .red op f => some ⟨f, 0x210 + redCode op, false, .d, .snq, .unused, .range 1 6, .source, .opt⟩
  | .scan op f => some ⟨f, 0x220 + redCode op, false, .d, .snq, .unused, .range 1 6, .source, .opt⟩
  | .pand f => some ⟨f, 0x230, false, .p, .p, .p, .unused, .never, .opt⟩
  | .por f => some ⟨f, 0x231, false, .p, .p, .p, .unused, .never, .opt⟩
  | .pxor f => some ⟨f, 0x232, false, .p, .p, .p, .unused, .never, .opt⟩
  | .pnot f => some ⟨f, 0x233, false, .p, .p, .unused, .unused, .never, .opt⟩
  | .pcat f => some ⟨f, 0x234, false, .d, .unused, .unused, .unused, .never, .opt⟩
  | .psplit f => some ⟨f, 0x235, false, .unused, .s, .unused, .unused, .source, .opt⟩
  | .pmov f => some ⟨f, 0x236, false, .p, .s, .unused, .unused, .source, .opt⟩
  | .bra f => some ⟨f, 0x240, false, .unused, .unused, .free, .free, .always, .none⟩
  | .brau f => some ⟨f, 0x241, true, .unused, .p, .range 0 1, .unused, .always, .none⟩
  | .jmpi f => some ⟨f, 0x242, false, .unused, .vo2, .free, .free, .never, .none⟩
  | .call f => some ⟨f, 0x243, false, .unused, .unused, .unused, .unused, .always, .none⟩
  | .ret f => some ⟨f, 0x244, false, .unused, .unused, .unused, .unused, .never, .none⟩
  | .meld f => some ⟨f, 0x248, true, .unused, .p, .free, .free, .never, .none⟩
  | .mtab f => some ⟨f, 0x249, true, .range 0 1, .range 0 3, .unused, .unused, .always, .none⟩
  | .lend f => some ⟨f, 0x250, true, .unused, .unused, .unused, .unused, .never, .none⟩
  | .exit f => some ⟨f, 0x251, false, .unused, .unused, .unused, .unused, .never, .none⟩
  | .ckpt f => some ⟨f, 0x254, true, .free, .free, .free, .free, .never, .none⟩
  | .wait f => some ⟨f, 0x258, true, .unused, .unused, .free, .free, .never, .none⟩
  | .nop f => some ⟨f, 0x259, true, .unused, .unused, .unused, .unused, .never, .none⟩
  | .yield f => some ⟨f, 0x25A, true, .unused, .unused, .unused, .unused, .never, .none⟩
  | .emrd f => some ⟨f, 0x25C, false, .d2, .unused, .unused, .unused, .never, .none⟩
  | .emwr f => some ⟨f, 0x25D, true, .unused, .emw, .unused, .unused, .never, .none⟩
  | .salloc f => some ⟨f, 0x260, true, .unused, .unused, .unused, .unused, .always, .none⟩
  | .sfree f => some ⟨f, 0x261, true, .unused, .unused, .unused, .unused, .always, .none⟩
  | .trap f => some ⟨f, 0x268, false, .unused, .unused, .free, .free, .never, .none⟩
  | .tret f => some ⟨f, 0x269, true, .unused, .unused, .unused, .unused, .never, .none⟩
  | .brk f => some ⟨f, 0x26A, true, .unused, .unused, .free, .free, .never, .none⟩
  | .ld f => some ⟨f, 0x280, false, pairIf (mWide f.src2) .d2 .d, .a, .mctl false false false, .unused, .imm, .var⟩
  | .ldAcq f => some ⟨f, 0x281, false, pairIf (mWide f.src2) .d2 .d, .a, .mctl false true false, .unused, .imm, .var⟩
  | .st f => some ⟨f, 0x282, false, .unused, .a, .mctl true false false, pairIf (mWide f.src2) .s2f .sn, .imm, .opt⟩
  | .stRel f => some ⟨f, 0x283, false, .unused, .a, .mctl true true false, pairIf (mWide f.src2) .s2f .sn, .imm, .opt⟩
  | .lds f => some ⟨f, 0x284, false, pairIf (mWide f.src2) .d2 .d, .sn, .mctl false false true, .unused, .imm, .var⟩
  | .sts f => some ⟨f, 0x285, false, .unused, .sn, .mctl true false true, pairIf (mWide f.src2) .s2f .sn, .imm, .opt⟩
  | .atom op f => some ⟨f, 0x288 + atomCode op, false, pairIf (nWide f.src3) .d2 .d, .a, pairIf (nWide f.src3) .s2f .sn, .nctl (atomCode op) false, .imm, .var⟩
  | .ared op f => some ⟨f, 0x290 + aredCode op, false, .unused, .a, pairIf (nWide f.src3) .s2f .sn, .nctl (aredCode op) true, .imm, .opt⟩
  | .fence f => some ⟨f, 0x298, true, .unused, .fence, .unused, .unused, .never, .opt⟩
  | .waitw f => some ⟨f, 0x299, false, .d2, .a, .s2f, .unused, .imm, .opt⟩
  | .cpy f => some ⟨f, 0x2A0, true, .unused, .sn, .unused, .unused, .never, .opt⟩
  | .cpyw f => some ⟨f, 0x2A1, true, .unused, .sn, .unused, .unused, .never, .opt⟩
  | .kick f => some ⟨f, 0x2A2, true, .unused, .sn, .sn, .unused, .never, .opt⟩
  | .kcfg f => some ⟨f, 0x2A3, true, .unused, .sn, .unused, .unused, .never, .opt⟩
  | .rld f => some ⟨f, 0x2A4, true, .unused, .a, .sn, .unused, .never, .opt⟩
  | .vfput f => some ⟨f, 0x2A8, false, .unused, .s, .unused, .unused, .source, .opt⟩
  | .vfcfg f => some ⟨f, 0x2A9, true, .unused, .range 0 1, .unused, .unused, .never, .opt⟩
  | .tsmp f => some ⟨f, 0x2B0, false, .d2, .s2f, .k, .range 0 1, .never, .var⟩
  | .tfet f => some ⟨f, 0x2B1, false, .d2, .s2f, .k, .range 0 1, .never, .var⟩
  | .tsiz f => some ⟨f, 0x2B2, false, .d2, .unused, .k, .unused, .never, .var⟩
  | .pref f => some ⟨f, 0x2B8, false, .unused, .a, .range 0 2, .unused, .imm, .opt⟩
  | .cwb f => some ⟨f, 0x2B9, false, .unused, .a, .range 1 5, .unused, .imm, .opt⟩
  | .cinv f => some ⟨f, 0x2BA, false, .unused, .a, .range 1 5, .unused, .imm, .opt⟩
  | .mma f => some ⟨f, 0x300, false, .acc, .amat, .s, .scale, .source, .var⟩
  | .mmz f => some ⟨f, 0x301, true, .acc, .unused, .unused, .unused, .never, .opt⟩
  | .mmrd f => some ⟨f, 0x302, false, pairOr f.src2 .d2 .d, .acc, .types [2, 3, 9, 10, 13], pairIf (f.src2 = 9) .evenCol (.range 0 63), .never, .var⟩
  | .mmwr f => some ⟨f, 0x303, false, .acc, pairOr f.src2 .s2f .s, .types [2, 3, 10, 13], .range 0 63, .source, .opt⟩
  | .bfill f => some ⟨f, 0x304, true, .bslot, .a, .s, .unused, .source, .opt⟩
  | .msync f => some ⟨f, 0x305, true, .d, .unused, .unused, .unused, .never, .opt⟩
  | .setfmt f => some ⟨f, 0x306, true, .d, .s, .s, .unused, .source, .opt⟩
  | .phint f => some ⟨f, 0x308, true, .unused, .range 1 16, .free, .free, .always, .none⟩
  | .placq f => some ⟨f, 0x340, true, .p, .s, .unused, .unused, .source, .opt⟩
  | .plrel f => some ⟨f, 0x341, true, .unused, .unused, .unused, .unused, .never, .opt⟩
  | .plorg f => some ⟨f, 0x342, true, .unused, .s, .s, .unused, .source, .opt⟩
  | .plin f => some ⟨f, 0x344, true, .c, .s, .s, .s, .source, .opt⟩
  | .plquad f => some ⟨f, 0x345, true, .c, .q6, .unused, .unused, .never, .opt⟩
  | .plexq f => some ⟨f, 0x346, true, .c, .q6, .unused, .unused, .never, .opt⟩
  | .pladd f => some ⟨f, 0x348, true, .c, .c, .cb, .unused, .source, .opt⟩
  | .plsub f => some ⟨f, 0x349, true, .c, .c, .cb, .unused, .source, .opt⟩
  | .plmul f => some ⟨f, 0x34a, true, .c, .c, .cb, .unused, .source, .opt⟩
  | .plfma f => some ⟨f, 0x34B, true, .c, .c, .cb, .cb, .source, .opt⟩
  | .plmin f => some ⟨f, 0x34C, true, .c, .c, .cb, .unused, .source, .opt⟩
  | .plmax f => some ⟨f, 0x34D, true, .c, .c, .cb, .unused, .source, .opt⟩
  | .plmov f => some ⟨f, 0x34E, true, .c, .cb, .unused, .unused, .source, .opt⟩
  | .plsel f => some ⟨f, 0x34F, true, .c, .c, .cb, .c, .source, .opt⟩
  | .plcmp c f => some ⟨f, 0x350 + fcondCode c, true, .c, .c, .cb, .unused, .source, .opt⟩
  | .plen f => some ⟨f, 0x358, true, .unused, .c, .unused, .unused, .never, .opt⟩
  | .plels f => some ⟨f, 0x359, true, .unused, .unused, .unused, .unused, .never, .opt⟩
  | .plpop f => some ⟨f, 0x35A, true, .unused, .unused, .unused, .unused, .never, .opt⟩
  | .plclr f => some ⟨f, 0x35B, true, .unused, .unused, .free, .free, .never, .opt⟩
  | .plflag f => some ⟨f, 0x35C, true, .d, .range 0 1, .unused, .unused, .never, .var⟩
  | .pltrap f => some ⟨f, 0x35D, true, .unused, .range 0 31, .unused, .unused, .never, .opt⟩
  | .plrd f => some ⟨f, 0x360, false, .d, .c, .sn, .unused, .never, .var⟩
  | .plwr f => some ⟨f, 0x361, false, .c, .s, .sn, .unused, .source, .opt⟩
  | .plcov f => some ⟨f, 0x362, false, .d, .range 0 7, .unused, .unused, .never, .var⟩
  | .barv f => some ⟨f, 0x380, true, .unused, .barrier, .unused, .unused, .never, .none⟩
  | .barw f => some ⟨f, 0x381, true, .unused, .barrier, .unused, .unused, .never, .none⟩
  | .bars f => some ⟨f, 0x382, true, .unused, .barrier, .unused, .unused, .never, .none⟩
  | .bari f => some ⟨f, 0x383, true, .unused, .barrier, .s, .unused, .source, .none⟩
  | .klaunch f => some ⟨f, 0x388, false, .vo, .vo2, .unused, .unused, .never, .var⟩
  | .kwait f => some ⟨f, 0x389, true, .p, .unused, .unused, .unused, .never, .none⟩
  | .xinv f => some ⟨f, 0x38C, true, .unused, .a, .s, .range 1 4, .source, .opt⟩
  | .pgq f => some ⟨f, 0x38D, false, .d2, .a, .unused, .unused, .imm, .var⟩
  | .nmload f => some ⟨f, 0x390, true, .d, .a, .a, .s, .source, .var⟩
  | .nmcmd f => some ⟨f, 0x391, true, .d, .sn, .unused, .unused, .never, .var⟩
  | .nmlease f => some ⟨f, 0x392, true, .d, .a, .unused, .unused, .never, .var⟩
  | .nmrel f => some ⟨f, 0x393, true, .d, .a, .unused, .unused, .never, .var⟩
  | _ => none

/-! ## The short map and the scalar map -/

/-- The short map (R64): slot, instruction. -/
def shortOps : List (Nat × (ShortForm → Instr)) :=
  [ (0x01, .nopShort), (0x02, .iaddShort), (0x03, .isubShort), (0x04, .imulShort),
    (0x05, .andShort), (0x06, .orShort), (0x07, .xorShort), (0x08, .andnShort),
    (0x09, .shlShort), (0x0A, .shrShort), (0x0B, .sarShort), (0x0C, .rotShort),
    (0x0D, .iminI32Short), (0x0E, .imaxI32Short), (0x0F, .iminN32Short), (0x10, .imaxN32Short),
    (0x11, .movShort), (0x12, .notShort), (0x13, .iabsShort), (0x14, .popcShort),
    (0x15, .clzShort), (0x16, .ctzShort), (0x17, .brevShort), (0x20, .faddShort),
    (0x21, .fsubShort), (0x22, .fmulShort), (0x23, .fminShort), (0x24, .fmaxShort),
    (0x25, .fabsShort), (0x26, .fnegShort), (0x28, .hadd2F16Short), (0x29, .hadd2Bf16Short),
    (0x2A, .hmul2F16Short), (0x2B, .hmul2Bf16Short) ]

/-- The slot and operands of an L32 instruction. -/
def shortInfo : Instr → Option (Nat × ShortForm)
  | .nopShort f => some (0x01, f)
  | .iaddShort f => some (0x02, f)
  | .isubShort f => some (0x03, f)
  | .imulShort f => some (0x04, f)
  | .andShort f => some (0x05, f)
  | .orShort f => some (0x06, f)
  | .xorShort f => some (0x07, f)
  | .andnShort f => some (0x08, f)
  | .shlShort f => some (0x09, f)
  | .shrShort f => some (0x0A, f)
  | .sarShort f => some (0x0B, f)
  | .rotShort f => some (0x0C, f)
  | .iminI32Short f => some (0x0D, f)
  | .imaxI32Short f => some (0x0E, f)
  | .iminN32Short f => some (0x0F, f)
  | .imaxN32Short f => some (0x10, f)
  | .movShort f => some (0x11, f)
  | .notShort f => some (0x12, f)
  | .iabsShort f => some (0x13, f)
  | .popcShort f => some (0x14, f)
  | .clzShort f => some (0x15, f)
  | .ctzShort f => some (0x16, f)
  | .brevShort f => some (0x17, f)
  | .faddShort f => some (0x20, f)
  | .fsubShort f => some (0x21, f)
  | .fmulShort f => some (0x22, f)
  | .fminShort f => some (0x23, f)
  | .fmaxShort f => some (0x24, f)
  | .fabsShort f => some (0x25, f)
  | .fnegShort f => some (0x26, f)
  | .hadd2F16Short f => some (0x28, f)
  | .hadd2Bf16Short f => some (0x29, f)
  | .hmul2F16Short f => some (0x2A, f)
  | .hmul2Bf16Short f => some (0x2B, f)
  | _ => none

/-! ## Layouts -/

/-- The fields of a scalar word (R40). -/
structure ScalarFields where
  op : Nat
  sd : BitVec 6
  sa : BitVec 6
  sb : BitVec 6
  imm4 : BitVec 4
  lit : Option (BitVec 32)
  deriving DecidableEq, Repr

/-- The low six bits of a 10-bit immediate (R40). -/
def low6 (x : BitVec 10) : BitVec 6 := BitVec.ofNat 6 x.toNat

/-- The high four bits of a 10-bit immediate (R40). -/
def high4 (x : BitVec 10) : BitVec 4 := BitVec.ofNat 4 (x.toNat / 64)

/-- The 10-bit immediate imm4, imm6 (R40). -/
def imm10 (h : BitVec 4) (l : BitVec 6) : BitVec 10 := BitVec.ofNat 10 (h.toNat * 64 + l.toNat)

/-- Register, immediate and literal forms of the scalar ALU block (R41, R65). -/
noncomputable def scalarAlu : List (Nat × (SReg → Instr) × (SImm → Instr) × (SLit → Instr)) :=
  [ (0x00, .sadd, .saddImm, .saddImmS64),
    (0x01, .ssub, .ssubImm, .ssubImmS64),
    (0x02, .smul, .smulImm, .smulImmS64),
    (0x03, .smulhI64, .smulhI64Imm, .smulhI64ImmS64),
    (0x04, .smulhN64, .smulhN64Imm, .smulhN64ImmS64),
    (0x08, .sand, .sandImm, .sandImmS64),
    (0x09, .sor, .sorImm, .sorImmS64),
    (0x0A, .sxor, .sxorImm, .sxorImmS64),
    (0x0C, .sshl, .sshlImm, .sshlImmS64),
    (0x0D, .sshr, .sshrImm, .sshrImmS64),
    (0x0E, .ssar, .ssarImm, .ssarImmS64),
    (0x10, .sminI64, .sminI64Imm, .sminI64ImmS64),
    (0x11, .sminN64, .sminN64Imm, .sminN64ImmS64),
    (0x12, .smaxI64, .smaxI64Imm, .smaxI64ImmS64),
    (0x13, .smaxN64, .smaxN64Imm, .smaxN64ImmS64) ]

/-- The branches: S32 and S64 forms (R65). -/
noncomputable def scalarBranches : List (Nat × (SName → SName → BitVec 10 → Instr) × (SName → SName → BitVec 32 → Instr)) :=
  [ (0x40, .sbeq, .sbeqS64),
    (0x41, .sbne, .sbneS64),
    (0x42, .sblt, .sbltS64),
    (0x43, .sbge, .sbgeS64),
    (0x44, .sbltn, .sbltnS64),
    (0x45, .sbgen, .sbgenS64) ]

/-- The op8 code and fields of a scalar instruction, sd, sa, [27:22], imm4 and the literal (R228). -/
def scalarFields : Instr → Option ScalarFields
  | .sadd f => some ⟨0x00, f.sd, f.sa, f.sb, 0, none⟩
  | .ssub f => some ⟨0x01, f.sd, f.sa, f.sb, 0, none⟩
  | .smul f => some ⟨0x02, f.sd, f.sa, f.sb, 0, none⟩
  | .smulhI64 f => some ⟨0x03, f.sd, f.sa, f.sb, 0, none⟩
  | .smulhN64 f => some ⟨0x04, f.sd, f.sa, f.sb, 0, none⟩
  | .sand f => some ⟨0x08, f.sd, f.sa, f.sb, 0, none⟩
  | .sor f => some ⟨0x09, f.sd, f.sa, f.sb, 0, none⟩
  | .sxor f => some ⟨0x0A, f.sd, f.sa, f.sb, 0, none⟩
  | .sshl f => some ⟨0x0C, f.sd, f.sa, f.sb, 0, none⟩
  | .sshr f => some ⟨0x0D, f.sd, f.sa, f.sb, 0, none⟩
  | .ssar f => some ⟨0x0E, f.sd, f.sa, f.sb, 0, none⟩
  | .sminI64 f => some ⟨0x10, f.sd, f.sa, f.sb, 0, none⟩
  | .sminN64 f => some ⟨0x11, f.sd, f.sa, f.sb, 0, none⟩
  | .smaxI64 f => some ⟨0x12, f.sd, f.sa, f.sb, 0, none⟩
  | .smaxN64 f => some ⟨0x13, f.sd, f.sa, f.sb, 0, none⟩
  | .saddImm f => some ⟨0x20, f.sd, f.sa, low6 f.imm, high4 f.imm, none⟩
  | .ssubImm f => some ⟨0x21, f.sd, f.sa, low6 f.imm, high4 f.imm, none⟩
  | .smulImm f => some ⟨0x22, f.sd, f.sa, low6 f.imm, high4 f.imm, none⟩
  | .smulhI64Imm f => some ⟨0x23, f.sd, f.sa, low6 f.imm, high4 f.imm, none⟩
  | .smulhN64Imm f => some ⟨0x24, f.sd, f.sa, low6 f.imm, high4 f.imm, none⟩
  | .sandImm f => some ⟨0x28, f.sd, f.sa, low6 f.imm, high4 f.imm, none⟩
  | .sorImm f => some ⟨0x29, f.sd, f.sa, low6 f.imm, high4 f.imm, none⟩
  | .sxorImm f => some ⟨0x2A, f.sd, f.sa, low6 f.imm, high4 f.imm, none⟩
  | .sshlImm f => some ⟨0x2C, f.sd, f.sa, low6 f.imm, high4 f.imm, none⟩
  | .sshrImm f => some ⟨0x2D, f.sd, f.sa, low6 f.imm, high4 f.imm, none⟩
  | .ssarImm f => some ⟨0x2E, f.sd, f.sa, low6 f.imm, high4 f.imm, none⟩
  | .sminI64Imm f => some ⟨0x30, f.sd, f.sa, low6 f.imm, high4 f.imm, none⟩
  | .sminN64Imm f => some ⟨0x31, f.sd, f.sa, low6 f.imm, high4 f.imm, none⟩
  | .smaxI64Imm f => some ⟨0x32, f.sd, f.sa, low6 f.imm, high4 f.imm, none⟩
  | .smaxN64Imm f => some ⟨0x33, f.sd, f.sa, low6 f.imm, high4 f.imm, none⟩
  | .saddImmS64 f => some ⟨0x20, f.sd, f.sa, 0, 0, some f.lit⟩
  | .ssubImmS64 f => some ⟨0x21, f.sd, f.sa, 0, 0, some f.lit⟩
  | .smulImmS64 f => some ⟨0x22, f.sd, f.sa, 0, 0, some f.lit⟩
  | .smulhI64ImmS64 f => some ⟨0x23, f.sd, f.sa, 0, 0, some f.lit⟩
  | .smulhN64ImmS64 f => some ⟨0x24, f.sd, f.sa, 0, 0, some f.lit⟩
  | .sandImmS64 f => some ⟨0x28, f.sd, f.sa, 0, 0, some f.lit⟩
  | .sorImmS64 f => some ⟨0x29, f.sd, f.sa, 0, 0, some f.lit⟩
  | .sxorImmS64 f => some ⟨0x2A, f.sd, f.sa, 0, 0, some f.lit⟩
  | .sshlImmS64 f => some ⟨0x2C, f.sd, f.sa, 0, 0, some f.lit⟩
  | .sshrImmS64 f => some ⟨0x2D, f.sd, f.sa, 0, 0, some f.lit⟩
  | .ssarImmS64 f => some ⟨0x2E, f.sd, f.sa, 0, 0, some f.lit⟩
  | .sminI64ImmS64 f => some ⟨0x30, f.sd, f.sa, 0, 0, some f.lit⟩
  | .sminN64ImmS64 f => some ⟨0x31, f.sd, f.sa, 0, 0, some f.lit⟩
  | .smaxI64ImmS64 f => some ⟨0x32, f.sd, f.sa, 0, 0, some f.lit⟩
  | .smaxN64ImmS64 f => some ⟨0x33, f.sd, f.sa, 0, 0, some f.lit⟩
  | .sbeq sa sb off => some ⟨0x40, low6 off, sa, sb, high4 off, none⟩
  | .sbne sa sb off => some ⟨0x41, low6 off, sa, sb, high4 off, none⟩
  | .sblt sa sb off => some ⟨0x42, low6 off, sa, sb, high4 off, none⟩
  | .sbge sa sb off => some ⟨0x43, low6 off, sa, sb, high4 off, none⟩
  | .sbltn sa sb off => some ⟨0x44, low6 off, sa, sb, high4 off, none⟩
  | .sbgen sa sb off => some ⟨0x45, low6 off, sa, sb, high4 off, none⟩
  | .sbeqS64 sa sb lit => some ⟨0x40, 0, sa, sb, 0, some lit⟩
  | .sbneS64 sa sb lit => some ⟨0x41, 0, sa, sb, 0, some lit⟩
  | .sbltS64 sa sb lit => some ⟨0x42, 0, sa, sb, 0, some lit⟩
  | .sbgeS64 sa sb lit => some ⟨0x43, 0, sa, sb, 0, some lit⟩
  | .sbltnS64 sa sb lit => some ⟨0x44, 0, sa, sb, 0, some lit⟩
  | .sbgenS64 sa sb lit => some ⟨0x45, 0, sa, sb, 0, some lit⟩
  | .smov sd sa => some ⟨0x18, sd, sa, 0, 0, none⟩
  | .sli sd imm => some ⟨0x38, sd, 0, low6 imm, high4 imm, none⟩
  | .sliS64 sd lit => some ⟨0x38, sd, 0, 0, 0, some lit⟩
  | .sjmp off => some ⟨0x48, 0, 0, low6 off, high4 off, none⟩
  | .sjmpS64 lit => some ⟨0x48, 0, 0, 0, 0, some lit⟩
  | .scall off => some ⟨0x49, 0, 0, low6 off, high4 off, none⟩
  | .scallS64 lit => some ⟨0x49, 0, 0, 0, 0, some lit⟩
  | .sret => some ⟨0x4A, 0, 0, 0, 0, none⟩
  | .sld sd sa mode => some ⟨0x60, sd, sa, mode, 0, none⟩
  | .sldS64 sd sa mode lit => some ⟨0x60, sd, sa, mode, 0, some lit⟩
  | .sst sd sa mode => some ⟨0x61, sd, sa, mode, 0, none⟩
  | .sstS64 sd sa mode lit => some ⟨0x61, sd, sa, mode, 0, some lit⟩
  | .aff qn sa => some ⟨0x68, qn, sa, 0, 0, none⟩
  | .sqld qn sa sb wide => some ⟨0x70, qn, sa, sb, if wide then 1 else 0, none⟩
  | .sqend qn => some ⟨0x71, qn, 0, 0, 0, none⟩
  | .lrun first count => some ⟨0x80, 0, first, count, 0, none⟩
  | .lrunS64 first count lit => some ⟨0x80, 0, first, count, 0, some lit⟩
  | .lsync => some ⟨0x81, 0, 0, 0, 0, none⟩
  | .srd sd number => some ⟨0xA0, sd, 0, low6 number, high4 number, none⟩
  | .swr number sa => some ⟨0xA1, 0, sa, low6 number, high4 number, none⟩
  | .grSp sa => some ⟨0xA1, 0, sa, 0x10, 0x1, none⟩
  | .grStklim sa => some ⟨0xA1, 0, sa, 0x11, 0x1, none⟩
  | .swaitw sd sa sb => some ⟨0xA2, sd, sa, sb, 0, none⟩
  | .swaitwS64 sd sa sb lit => some ⟨0xA2, sd, sa, sb, 0, some lit⟩
  | .skick sa sb => some ⟨0xA3, 0, sa, sb, 0, none⟩
  | .sexit => some ⟨0xA4, 0, 0, 0, 0, none⟩
  | _ => none

/-- The length in bits that a first word gives (R30). -/
def lengthOf (w : Nat) : Nat := if w % 4 = 3 then 96 else if w % 4 = 2 then 64 else 32

/-- The fields of an L64 or L96 word (R36, R37). -/
def laneForm (w : Nat) : LaneForm :=
  { dst := BitVec.ofNat 8 (w / 2 ^ 12), src1 := BitVec.ofNat 8 (w / 2 ^ 20), src2 := BitVec.ofNat 8 (w / 2 ^ 28),
    src3 := BitVec.ofNat 8 (w / 2 ^ 36),
    ctl := { stall := BitVec.ofNat 3 (w / 2 ^ 44), wait := BitVec.ofNat 6 (w / 2 ^ 47),
             set := BitVec.ofNat 3 (w / 2 ^ 53), last := BitVec.ofNat 3 (w / 2 ^ 56),
             gpred := BitVec.ofNat 3 (w / 2 ^ 59), gneg := decide (w / 2 ^ 62 % 2 = 1),
             gen := decide (w / 2 ^ 63 % 2 = 1) },
    lit := if w % 4 = 3 then some (BitVec.ofNat 32 (w / 2 ^ 64)) else none }

/-- The fields of an L32 word (R34). -/
def shortForm (w : Nat) : ShortForm :=
  { dst := BitVec.ofNat 8 (w / 2 ^ 8), src := BitVec.ofNat 8 (w / 2 ^ 16), stall := BitVec.ofNat 3 (w / 2 ^ 24),
    lastDst := decide (w / 2 ^ 27 % 2 = 1), lastSrc := decide (w / 2 ^ 28 % 2 = 1),
    waitAll := decide (w / 2 ^ 29 % 2 = 1) }

/-- The fields of a `chain` (R38). -/
def chainForm (w : Nat) : ChainForm :=
  { dst := BitVec.ofNat 8 (w / 2 ^ 12), in0 := BitVec.ofNat 8 (w / 2 ^ 20), in1 := BitVec.ofNat 8 (w / 2 ^ 28),
    in2 := BitVec.ofNat 8 (w / 2 ^ 36), in3 := BitVec.ofNat 8 (w / 2 ^ 44),
    waitAll := decide (w / 2 ^ 52 % 4 = 1), slots := BitVec.ofNat 42 (w / 2 ^ 54) }

/-- Slot i of a chain: operator and select (R38). -/
def chainSlot (slots : BitVec 42) (i : Nat) : Nat × Nat :=
  (slots.toNat / 2 ^ (6 * i + 2) % 16, slots.toNat / 2 ^ (6 * i) % 4)

/-- The used slots of a chain: those before the first whose operator is 0 (R38). -/
def chainUsed (slots : BitVec 42) : List (Nat × Nat) :=
  ((List.range 7).map (chainSlot slots)).takeWhile (fun s => decide (s.1 ≠ 0))

/-! ## Checks of length, control fields and form (R58, check 2) -/

/-- The literal is present exactly as the entry allows (R37). -/
def litOk (r : LitRule) (lit : Option (BitVec 32)) : Bool :=
  match r with
  | .never => lit.isNone
  | .source => true
  | .imm => true
  | .always => lit.isSome

/-- The set field holds what the entry allows; 6 never (R36). -/
def setOk (r : SetRule) (set : BitVec 3) : Bool :=
  match r with
  | .opt => decide (set ≠ 6)
  | .var => decide (set.toNat < 6)
  | .none => decide (set = 7)

/-- With gen = 0 the other guard bits are zero (R36), and a uniform instruction has no guard at all (R56). -/
def guardOk (uniform : Bool) (c : Ctl) : Bool :=
  (c.gen || (decide (c.gpred = 0) && !c.gneg)) && !(uniform && c.gen)

/-- The control fields and the form of a lane instruction are legal; `kwait` has no last-read bits (R136). -/
def laneOk (i : Instr) (x : LaneInfo) : Bool :=
  litOk x.lit x.form.lit && setOk x.set x.form.ctl.set && guardOk x.uniform x.form.ctl &&
    (match i with
     | .kwait f => decide (f.ctl.last = 0)
     | _ => true)

/-- A chain's slots are legal (R38, R215): slot 0 is LDA, no operator is 14 or 15, a unary operator and END select
nothing, and every slot after END is all zeros. -/
def chainOk (f : ChainForm) : Bool :=
  decide ((chainSlot f.slots 0).1 = 1) &&
    (chainUsed f.slots).all (fun s => decide (s.1 < 14) && (decide (s.1 < 10) || decide (s.2 = 0))) &&
    decide (f.slots.toNat / 2 ^ (6 * (chainUsed f.slots).length) = 0)

/-- The mode field of `sst` has no sign extension, at size 3 neither: R234 does not say whether its 'ignored at size 3' frees an `sst`
as well (log 135). -/
def sstModeOk (mode : BitVec 6) : Bool := decide (mode.toNat < 32)

/-- The register range of `lrun` (R243). -/
def lrunOk (first : SName) (count : BitVec 6) : Bool :=
  decide (count.toNat ≤ 8) && decide (first.toNat + count.toNat ≤ 64)

/-- Check 2 of R58: an instruction that fails it is none and traps ILLEGAL_OP. The system registers with a constructor
of their own are no `swr`. -/
def accepts (i : Instr) : Bool :=
  match laneInfo i with
  | some x => laneOk i x
  | none =>
    match i with
    | .chain f => chainOk f
    | .sst _ _ mode => sstModeOk mode
    | .sstS64 _ _ mode _ => sstModeOk mode
    | .lrun first count => lrunOk first count
    | .lrunS64 first count _ => lrunOk first count
    | .swr number _ => decide (number ≠ 0x050) && decide (number ≠ 0x051)
    | _ => true

/-! ## Decoding -/

/-- The instruction, if check 2 accepts it. -/
def accepted (i : Instr) : Option Instr := if accepts i then some i else none

/-- The entry of an opcode list. -/
def lookupOp {α : Type} : List (Nat × α) → Nat → Option α
  | [], _ => none
  | (k, v) :: l, n => if k = n then some v else lookupOp l n

/-- An L32 word (R34). -/
def decodeShort (w : Nat) : Option Instr :=
  if w / 2 ^ 30 % 4 = 0 then
    match lookupOp shortOps (w % 2 * 64 + w / 4 % 64) with
    | some mk => some (mk (shortForm w))
    | none => none
  else none

/-- A `chain` word, 96 bits (R38). -/
def decodeChain (w : Nat) : Option Instr :=
  if w % 4 = 3 ∧ w / 2 ^ 52 % 4 < 2 then accepted (.chain (chainForm w)) else none

/-- A `ckptx` word, 96 bits (R39). -/
def decodeCkptx (w : Nat) : Option Instr :=
  if w % 4 = 3 ∧ w / 2 ^ 63 % 2 ^ 33 = 0 then
    some (.ckptx { pairs := BitVec.ofNat 48 (w / 2 ^ 12), stall := BitVec.ofNat 3 (w / 2 ^ 60) })
  else none

/-- A lane instruction whose bits are `w` (R30, R34 to R39, R63). -/
def decodeLane (w : Nat) : Option Instr :=
  if w % 4 < 2 then decodeShort w
  else if w / 4 % 1024 = 0x1F0 then decodeChain w
  else if w / 4 % 1024 = 0x255 then decodeCkptx w
  else
    match lookupOp laneOps (w / 4 % 1024) with
    | some mk => accepted (mk (laneForm w))
    | none => none

/-- The fields of a scalar word (R40). -/
def scalarForm (w : Nat) : ScalarFields :=
  { op := w / 4 % 256, sd := BitVec.ofNat 6 (w / 2 ^ 10), sa := BitVec.ofNat 6 (w / 2 ^ 16),
    sb := BitVec.ofNat 6 (w / 2 ^ 22), imm4 := BitVec.ofNat 4 (w / 2 ^ 28),
    lit := if w % 4 = 2 then some (BitVec.ofNat 32 (w / 2 ^ 32)) else none }

/-- `swr`, with the two writable group registers under their own constructors (R152). -/
noncomputable def swrInstr (number : BitVec 10) (sa : SName) : Instr :=
  if number = 0x050 then .grSp sa else if number = 0x051 then .grStklim sa else .swr number sa

/-- Scalar instructions outside the ALU block and the branches (R65, R228): the S32 forms. -/
noncomputable def decodeOther32 (f : ScalarFields) : Option Instr :=
  match f.op with
  | 0x18 => some (.smov f.sd f.sa)
  | 0x38 => some (.sli f.sd (imm10 f.imm4 f.sb))
  | 0x48 => some (.sjmp (imm10 f.imm4 f.sb))
  | 0x49 => some (.scall (imm10 f.imm4 f.sb))
  | 0x4A => some .sret
  | 0x60 => some (.sld f.sd f.sa f.sb)
  | 0x61 => some (.sst f.sd f.sa f.sb)
  | 0x68 => some (.aff f.sd f.sa)
  | 0x70 => some (.sqld f.sd f.sa f.sb (decide (f.imm4 = 1)))
  | 0x71 => some (.sqend f.sd)
  | 0x80 => some (.lrun f.sa f.sb)
  | 0x81 => some .lsync
  | 0xA0 => some (.srd f.sd (imm10 f.imm4 f.sb))
  | 0xA1 => some (swrInstr (imm10 f.imm4 f.sb) f.sa)
  | 0xA2 => some (.swaitw f.sd f.sa f.sb)
  | 0xA3 => some (.skick f.sa f.sb)
  | 0xA4 => some .sexit
  | _ => none

/-- Scalar instructions outside the ALU block and the branches (R65, R228): the S64 forms. -/
noncomputable def decodeOther64 (f : ScalarFields) (lit : BitVec 32) : Option Instr :=
  match f.op with
  | 0x38 => some (.sliS64 f.sd lit)
  | 0x48 => some (.sjmpS64 lit)
  | 0x49 => some (.scallS64 lit)
  | 0x60 => some (.sldS64 f.sd f.sa f.sb lit)
  | 0x61 => some (.sstS64 f.sd f.sa f.sb lit)
  | 0x80 => some (.lrunS64 f.sa f.sb lit)
  | 0xA2 => some (.swaitwS64 f.sd f.sa f.sb lit)
  | _ => none

/-- The instruction that the opcode and fields of a scalar word name, before its unused fields are checked. -/
noncomputable def scalarCandidate (f : ScalarFields) : Option Instr :=
  match f.lit with
  | none =>
    match lookupOp scalarAlu f.op with
    | some (r, _, _) => some (r ⟨f.sd, f.sa, f.sb⟩)
    | none =>
      match (if 32 ≤ f.op then lookupOp scalarAlu (f.op - 32) else none) with
      | some (_, m, _) => some (m ⟨f.sd, f.sa, imm10 f.imm4 f.sb⟩)
      | none =>
        match lookupOp scalarBranches f.op with
        | some (b, _) => some (b f.sa f.sb (imm10 f.imm4 f.sd))
        | none => decodeOther32 f
  | some lit =>
    match (if 32 ≤ f.op then lookupOp scalarAlu (f.op - 32) else none) with
    | some (_, _, l) => some (l ⟨f.sd, f.sa, lit⟩)
    | none =>
      match lookupOp scalarBranches f.op with
      | some (_, b) => some (b f.sa f.sb lit)
      | none => decodeOther64 f lit

/-- A scalar instruction whose bits are `w` (R30, R40, R41, R65): every field the instruction does not use is zero. -/
noncomputable def decodeScalar (w : Nat) : Option Instr :=
  if w % 4 = 0 ∨ w % 4 = 2 then
    match scalarCandidate (scalarForm w) with
    | some i => if scalarFields i = some (scalarForm w) then accepted i else none
    | none => none
  else none

/-- The instruction of a stream whose bits are `w`, bit 0 the lowest of its first word. -/
noncomputable def decodeWord (st : Stream) (w : Nat) : Option Instr :=
  match st with
  | .scalar => decodeScalar w
  | .lane => decodeLane w

/-- The number that bytes give, lowest first (R2). -/
def wordOfBytes : List Byte → Nat
  | [] => 0
  | b :: bs => b.toNat + 256 * wordOfBytes bs

/-- The bytes of a number, lowest first (R2). -/
def bytesOfWord : Nat → Nat → List Byte
  | 0, _ => []
  | n + 1, w => BitVec.ofNat 8 w :: bytesOfWord n (w / 256)

/-- The decoder: the instruction at the head of a byte list, and how many bytes it takes; none where a word is
missing or the bits are no instruction. -/
noncomputable def decode (st : Stream) (bs : List Byte) : Option (Instr × Nat) :=
  let n := lengthOf (wordOfBytes (bs.take 4)) / 8
  if bs.length < 4 ∨ bs.length < n then none
  else
    match decodeWord st (wordOfBytes (bs.take n)) with
    | some i => some (i, n)
    | none => none

/-- The instruction the decoder reads from bits numbered as the opcode table numbers them. The two streams have
separate opcode spaces and share words: the scalar stream's reading is taken first (log 9). -/
noncomputable def decodeTableWord (nbits w : Nat) : Option Instr :=
  let bs := bytesOfWord 12 (w % 2 ^ nbits)
  match decode .scalar bs with
  | some (i, _) => some i
  | none =>
    match decode .lane bs with
    | some (i, _) => some i
    | none => none

/-! ## Encoding -/

/-- The bits of an L64 or L96 instruction (R36, R37). -/
def laneWord (op : Nat) (f : LaneForm) : Nat :=
  (if f.lit.isSome then 3 else 2) + op * 2 ^ 2 + f.dst.toNat * 2 ^ 12 + f.src1.toNat * 2 ^ 20 + f.src2.toNat * 2 ^ 28 +
    f.src3.toNat * 2 ^ 36 + f.ctl.stall.toNat * 2 ^ 44 + f.ctl.wait.toNat * 2 ^ 47 + f.ctl.set.toNat * 2 ^ 53 +
    f.ctl.last.toNat * 2 ^ 56 + f.ctl.gpred.toNat * 2 ^ 59 + f.ctl.gneg.toNat * 2 ^ 62 + f.ctl.gen.toNat * 2 ^ 63 +
    (f.lit.getD 0).toNat * 2 ^ 64

/-- The bits of an L32 instruction (R34). -/
def shortWord (slot : Nat) (f : ShortForm) : Nat :=
  slot / 64 + slot % 64 * 2 ^ 2 + f.dst.toNat * 2 ^ 8 + f.src.toNat * 2 ^ 16 + f.stall.toNat * 2 ^ 24 +
    f.lastDst.toNat * 2 ^ 27 + f.lastSrc.toNat * 2 ^ 28 + f.waitAll.toNat * 2 ^ 29

/-- The bits of a `chain` (R38). -/
def chainWord (f : ChainForm) : Nat :=
  3 + 0x1F0 * 2 ^ 2 + f.dst.toNat * 2 ^ 12 + f.in0.toNat * 2 ^ 20 + f.in1.toNat * 2 ^ 28 + f.in2.toNat * 2 ^ 36 +
    f.in3.toNat * 2 ^ 44 + f.waitAll.toNat * 2 ^ 52 + f.slots.toNat * 2 ^ 54

/-- The bits of a `ckptx` (R39). -/
def ckptxWord (f : CkptxForm) : Nat := 3 + 0x255 * 2 ^ 2 + f.pairs.toNat * 2 ^ 12 + f.stall.toNat * 2 ^ 60

/-- The bits of a scalar instruction (R40). -/
def scalarWord (f : ScalarFields) : Nat :=
  (if f.lit.isSome then 2 else 0) + f.op * 2 ^ 2 + f.sd.toNat * 2 ^ 10 + f.sa.toNat * 2 ^ 16 + f.sb.toNat * 2 ^ 22 +
    f.imm4.toNat * 2 ^ 28 + (f.lit.getD 0).toNat * 2 ^ 32

/-- The stream of an instruction with an encoding, its length in bits and its bits; none for hardware steps and
commands. -/
def encode (i : Instr) : Option (Stream × Nat × Nat) :=
  match laneInfo i with
  | some x => some (.lane, if x.form.lit.isSome then 96 else 64, laneWord x.op x.form)
  | none =>
    match shortInfo i with
    | some (slot, f) => some (.lane, 32, shortWord slot f)
    | none =>
      match scalarFields i with
      | some f => some (.scalar, if f.lit.isSome then 64 else 32, scalarWord f)
      | none =>
        match i with
        | .chain f => some (.lane, 96, chainWord f)
        | .ckptx f => some (.lane, 96, ckptxWord f)
        | _ => none

/-- The bytes an instruction takes; 0 where it has no encoding. -/
def instrBytes (i : Instr) : Nat :=
  match encode i with
  | some (_, n, _) => n / 8
  | none => 0

/-- Bits [63:0] of an instruction, as ILLEGAL_OP reports them (R59). -/
def instrBits (i : Instr) : BitVec 64 :=
  match encode i with
  | some (_, _, w) => BitVec.ofNat 64 w
  | none =>
    match i with
    | .unassignedOpcode _ w => w
    | .legacyWord _ w _ => w
    | .scalarStepLimit w => w
    | _ => 0

end Sys2Proof
end

