-- ==== Sys2Proof/Machine/Util.lean ====
section
/-!
DEFINITION. Plain helpers: sparse maps, the canonical byte memory, little-endian assembly of bytes, bit fields and
lane masks.
-/
namespace Sys2Proof.Machine

open Sys2Proof

/-- The entry of a sparse map under a key. -/
def mget? {α : Type} : Map α → Nat → Option α
  | [], _ => none
  | (k, v) :: m, n => if k = n then some v else mget? m n

/-- The entry under a key, or the default that an absent key holds. -/
def mget {α : Type} (m : Map α) (n : Nat) (d : α) : α := (mget? m n).getD d

/-- The map with one entry set; keys stay strictly rising. -/
def mset {α : Type} : Map α → Nat → α → Map α
  | [], n, x => [(n, x)]
  | (k, v) :: m, n, x =>
    if n < k then (n, x) :: (k, v) :: m
    else if n = k then (n, x) :: m
    else (k, v) :: mset m n x

/-- The map without one key. -/
def merase {α : Type} : Map α → Nat → Map α
  | [], _ => []
  | (k, v) :: m, n => if k = n then m else (k, v) :: merase m n

/-- The map with its entry under a key changed, if there is one. -/
def mmod {α : Type} (m : Map α) (n : Nat) (f : α → α) : Map α :=
  match mget? m n with
  | some x => mset m n (f x)
  | none => m

/-- Byte memory: cells at strictly rising addresses, none holding 0, which is what an unlisted address reads as
(log 2). -/
abbrev Memory := List Host.Cell

/-- The byte at an address. -/
def Memory.read : Memory → Nat → Byte
  | [], _ => 0
  | (k, v) :: m, a => if k = a then v else Memory.read m a

/-- The memory with one byte written, in canonical form. -/
def Memory.write : Memory → Nat → Byte → Memory
  | [], a, b => if b = 0 then [] else [(a, b)]
  | (k, v) :: m, a, b =>
    if a < k then (if b = 0 then (k, v) :: m else (a, b) :: (k, v) :: m)
    else if a = k then (if b = 0 then m else (a, b) :: m)
    else (k, v) :: Memory.write m a b

/-- Every address listed is at least `lo`, addresses rise strictly, and no cell holds 0. -/
def Memory.sortedFrom : Nat → Memory → Bool
  | _, [] => true
  | lo, (k, v) :: m => decide (lo ≤ k) && decide (v ≠ 0) && Memory.sortedFrom (k + 1) m

/-- The canonical form of a memory. -/
def Memory.wf (m : Memory) : Bool := Memory.sortedFrom 0 m

/-- `n` bytes from an address upward. -/
def Memory.readBytes (m : Memory) (a : Nat) : Nat → List Byte
  | 0 => []
  | n + 1 => Memory.read m a :: Memory.readBytes m (a + 1) n

/-- Bytes written from an address upward. -/
def Memory.writeBytes (m : Memory) (a : Nat) : List Byte → Memory
  | [] => m
  | b :: bs => Memory.writeBytes (Memory.write m a b) (a + 1) bs

/-- The number that bytes give, lowest address first (R2). -/
def bytesToNat : List Byte → Nat
  | [] => 0
  | b :: bs => b.toNat + 256 * bytesToNat bs

/-- The low `n` bytes of a number, lowest first (R2). -/
def natToBytes : Nat → Nat → List Byte
  | 0, _ => []
  | n + 1, x => BitVec.ofNat 8 x :: natToBytes n (x / 256)

/-- The low `n` bytes of a 64-bit value. -/
def dwordBytes (n : Nat) (x : DWord) : List Byte := natToBytes n x.toNat

/-- The 64-bit value that up to eight bytes give, zero-extended. -/
def bytesDword (bs : List Byte) : DWord := BitVec.ofNat 64 (bytesToNat bs)

/-- Bits [hi:lo] of a number, as a number (R8). -/
def bits (x hi lo : Nat) : Nat := x / 2 ^ lo % 2 ^ (hi + 1 - lo)

/-- One bit of a number. -/
def bitOf (x i : Nat) : Bool := x.testBit i

/-- A truth value as a number. -/
def b2n (b : Bool) : Nat := if b then 1 else 0

/-- The natural numbers below `n`, rising. -/
def upto (n : Nat) : List Nat := List.range n

/-- The mask of the lanes below a width. -/
def lanesBelow (w : Nat) : Mask := BitVec.ofNat 64 (2 ^ w - 1)

/-- The lanes of a mask, ascending. -/
def lanesOf (m : Mask) : List Nat := (List.range 64).filter (fun l => m.getLsbD l)

/-- The mask of the lanes that satisfy a test. -/
def maskOf (p : Nat → Bool) : Mask := BitVec.ofNat 64 ((List.range 64).foldl (fun a l => if p l then a + 2 ^ l else a) 0)

/-- The lowest lane of a mask, 0 for the empty mask. -/
def lowestLane (m : Mask) : Nat := (lanesOf m).headD 0

/-- The number of lanes in a mask. -/
def laneCount (m : Mask) : Nat := (lanesOf m).length

/-- The eight lanes of quarter `q` of a mask. -/
def quarterMask (m : Mask) (q : Nat) : Mask := m &&& BitVec.ofNat 64 (255 * 2 ^ (8 * q))

/-- The quarters that have a lane in a mask. -/
def quartersOf (m : Mask) : List Nat := (List.range 8).filter (fun q => quarterMask m q ≠ 0)

/-- A list with the entry at an index changed; past its end it is first filled up with `d`. -/
def lset {α : Type} (d : α) : List α → Nat → α → List α
  | [], 0, x => [x]
  | [], n + 1, x => d :: lset d [] n x
  | _ :: l, 0, x => x :: l
  | y :: l, n + 1, x => y :: lset d l n x

/-- Sign extension of the low `n` bits of a number to 64 bits. -/
def sext64 (n x : Nat) : DWord :=
  let y := x % 2 ^ n
  if y < 2 ^ (n - 1) then BitVec.ofNat 64 y else BitVec.ofNat 64 (y + 2 ^ 64 - 2 ^ n)

/-- A number as an exact integer read in two's complement of `n` bits. -/
def toSigned (n x : Nat) : Int :=
  let y := x % 2 ^ n
  if y < 2 ^ (n - 1) then (y : Int) else (y : Int) - (2 ^ n : Nat)

/-- Wrapping of an exact integer to `n` bits. -/
def wrapTo (n : Nat) (x : Int) : Nat := (x % (2 ^ n : Nat)).toNat

/-- Clamping of an exact integer. -/
def clampInt (lo hi x : Int) : Int := if x < lo then lo else if hi < x then hi else x

/-- The first key of a map that satisfies a test. -/
def mfind? {α : Type} (m : Map α) (p : Nat → α → Bool) : Option (Nat × α) := m.find? (fun e => p e.1 e.2)

/-- Every entry of a map changed. -/
def mapEntries {α : Type} (m : Map α) (f : Nat → α → α) : Map α := m.map (fun e => (e.1, f e.1 e.2))

/-- A list with its first element that passes a test changed, if there is one. -/
def modFirst {α : Type} (p : α → Bool) (f : α → α) : List α → Option (List α)
  | [] => none
  | x :: l => if p x then some (f x :: l) else (modFirst p f l).map (fun r => x :: r)

/-- An element put before the first one that does not go before it. -/
def insertBy {α : Type} (before : α → α → Bool) (x : α) : List α → List α
  | [] => [x]
  | y :: l => if before y x then y :: insertBy before x l else x :: y :: l

/-- A list in order. -/
def sortBy {α : Type} (before : α → α → Bool) (l : List α) : List α := l.foldr (insertBy before) []

/-- Lexicographic order of number lists. -/
def lexLt : List Nat → List Nat → Bool
  | [], _ => false
  | _ :: _, [] => false
  | a :: l, b :: m => decide (a < b) || (decide (a = b) && lexLt l m)

end Sys2Proof.Machine
end

