-- ==== Sys2Proof/Machine/Floats.lean ====
section
/-!
DEFINITION. Number formats and rounding (03_numbers): exact values, rounding to the IEEE-style and tapered formats in
every mode, NaN choice, flushing.
-/
namespace Sys2Proof.Machine

open Sys2Proof

/-! ## Formats and modes -/

/-- An IEEE-style format: exponent bits, fraction bits, bias (R66). -/
structure Fmt where
  eb : Nat
  fb : Nat
  bias : Nat
  deriving DecidableEq, Repr

/-- FP32 (R66). -/
def fp32 : Fmt := ⟨8, 23, 127⟩
/-- FP16 (R66). -/
def fp16 : Fmt := ⟨5, 10, 15⟩
/-- BF16 (R66). -/
def bf16 : Fmt := ⟨8, 7, 127⟩
/-- AF36 (R66). -/
def af36 : Fmt := ⟨8, 27, 127⟩

/-- The format of a half (R205). -/
def halfFmt : Half → Fmt
  | .f16 => fp16
  | .bf16 => bf16

/-- Rounding modes (R78); SR carries the lane's random word. -/
inductive Mode where
  | rne
  | rtz
  | rup
  | rdn
  | sr (w : Word)
  deriving DecidableEq, Repr

/-- The mode of a code of `fpc`.rnd or of an opcode (R50, R88). -/
def modeOfCode : Nat → Mode
  | 2 => .rtz
  | 3 => .rup
  | 4 => .rdn
  | _ => .rne

/-- What of `fpc` governs arithmetic (R88): den, nan, minmax, contract, rnd. -/
structure FEnv where
  den : Nat
  nan : Nat
  minmax : Bool
  contract : Bool
  rnd : Mode
  deriving DecidableEq, Repr

/-- The arithmetic fields of an `fpc` image (R88). -/
def envOf (fpc : Word) : FEnv :=
  let x := fpc.toNat
  ⟨x % 4, x / 4 % 4, decide (x / 16 % 2 = 1), decide (x / 32 % 2 = 1), modeOfCode (x / 64 % 8)⟩

/-- The rules of the cell plane, the matrix array, atomics, texture and skerries (R90): RNE, subnormals kept, the
canonical NaN. -/
def envPlain : FEnv := ⟨0, 2, false, false, .rne⟩

/-- The mode of an opcode's rounding field under `fpc` (R50). -/
def modeOf (env : FEnv) : RM → Mode
  | .dflt => env.rnd
  | .rne => .rne
  | .rtz => .rtz
  | .rup => .rup
  | .rdn => .rdn

/-! ## Flags (R80) -/

/-- Flags in the order of `fpc`.flags. -/
abbrev Flags := BitVec 5

/-- Invalid. -/
def flInvalid : Flags := 1
/-- Divide by zero. -/
def flDivZero : Flags := 2
/-- Overflow and inexact. -/
def flOverflow : Flags := 4 ||| 16
/-- Underflow and inexact. -/
def flUnderflow : Flags := 8 ||| 16
/-- Inexact. -/
def flInexact : Flags := 16

/-- A code and the flags raised in delivering it. -/
structure FRes where
  code : Nat
  flags : Flags
  deriving DecidableEq, Repr

/-- The flags of two steps together. -/
def FRes.or (r : FRes) (f : Flags) : FRes := { r with flags := r.flags ||| f }

/-! ## Codes and values -/

/-- An exact value: NaN, infinity, or sign, magnitude m × 2^e; a zero keeps its sign. -/
inductive FVal where
  | nan
  | inf (neg : Bool)
  | fin (neg : Bool) (m : Nat) (e : Int)
  deriving DecidableEq, Repr

/-- The all-ones exponent, with a zero fraction: the code of +∞. -/
def infCode (f : Fmt) : Nat := (2 ^ f.eb - 1) * 2 ^ f.fb

/-- The sign bit of a format. -/
def signBit (f : Fmt) : Nat := 2 ^ (f.eb + f.fb)

/-- The canonical NaN (R68). -/
def canonNaN (f : Fmt) : Nat := infCode f + 2 ^ (f.fb - 1)

/-- The sign of a code. -/
def isNeg (f : Fmt) (c : Nat) : Bool := decide (c / signBit f % 2 = 1)

/-- The code without its sign. -/
def magCode (f : Fmt) (c : Nat) : Nat := c % signBit f

/-- The code is a NaN (R67). -/
def isNaN (f : Fmt) (c : Nat) : Bool := decide (infCode f < magCode f c)

/-- The code is a signalling NaN (R67). -/
def isSNaN (f : Fmt) (c : Nat) : Bool := isNaN f c && decide (magCode f c < canonNaN f)

/-- The code is a subnormal (R67). -/
def isSub (f : Fmt) (c : Nat) : Bool := decide (0 < magCode f c) && decide (magCode f c < 2 ^ f.fb)

/-- The exact value of a code (R66). -/
def valueOf (f : Fmt) (c : Nat) : FVal :=
  let m := magCode f c
  if infCode f < m then .nan
  else if m = infCode f then .inf (isNeg f c)
  else if m < 2 ^ f.fb then .fin (isNeg f c) m (1 - (f.bias : Int) - f.fb)
  else .fin (isNeg f c) (m % 2 ^ f.fb + 2 ^ f.fb) ((m / 2 ^ f.fb : Nat) - (f.bias : Int) - f.fb)

/-- A code with a sign. -/
def withSign (f : Fmt) (neg : Bool) (m : Nat) : Nat := if neg then m + signBit f else m

/-- A NaN code made quiet (R68). -/
def quieted (f : Fmt) (c : Nat) : Nat := if isSNaN f c then c + 2 ^ (f.fb - 1) else c

/-- Input flushing (R91). -/
def flushIn (f : Fmt) (env : FEnv) (c : Nat) : Nat :=
  if env.den % 2 = 1 ∧ isSub f c then withSign f (isNeg f c) 0 else c

/-- Output flushing (R91). -/
def flushOut (f : Fmt) (env : FEnv) (r : FRes) : FRes :=
  if 2 ≤ env.den ∧ isSub f r.code then ⟨withSign f (isNeg f r.code) 0, r.flags ||| flUnderflow⟩ else r

/-- The NaN that a covered instruction delivers, from its sources in operand order (R92). -/
def chooseNaN (f : Fmt) (env : FEnv) (srcs : List Nat) : Nat :=
  if env.nan = 2 then canonNaN f
  else if env.nan = 1 then
    match srcs with
    | a :: _ => if isNaN f a then quieted f a else canonNaN f
    | [] => canonNaN f
  else
    match srcs.find? (isNaN f) with
    | some a => quieted f a
    | none => canonNaN f

/-- Invalid where a source is a signalling NaN (R68). -/
def snanFlag (f : Fmt) (srcs : List Nat) : Flags := if srcs.any (isSNaN f) then flInvalid else 0

/-! ## Rounding (R78, R79, R80, R82) -/

/-- The top bit's position of a positive number. -/
def log2 (m : Nat) : Nat := Nat.log2 m

/-- The smallest exponent k with u ≤ 2^k. -/
def ceilLog2 (u : Nat) : Nat := if u ≤ 2 ^ log2 u then log2 u else log2 u + 1

/-- SR chooses the upper neighbour (R82): `num / den` is (|x| − lo) ÷ u, `d` is D'. -/
def srUp (w : Word) (num den d : Nat) : Bool := decide (2 ^ d ≤ num * 2 ^ d / den + w.toNat % 2 ^ d)

/-- The upper neighbour is delivered: `rem` of `2^k` is what lies above `lo`; `odd` is the last bit of `lo`; `d` is the
D' of an SR rounding. -/
def roundsUp (mode : Mode) (neg odd : Bool) (rem k d : Nat) : Bool :=
  match mode with
  | .rne => decide (2 ^ k < 2 * rem) || (decide (2 ^ k = 2 * rem) && odd)
  | .rtz => false
  | .rup => decide (rem ≠ 0) && !neg
  | .rdn => decide (rem ≠ 0) && neg
  | .sr w => decide (rem ≠ 0) && srUp w rem (2 ^ k) d

/-- What an overflow delivers (R79). -/
def overflowCode (f : Fmt) (mode : Mode) (neg : Bool) : Nat :=
  let big := infCode f - 1
  match mode with
  | .rne => withSign f neg (infCode f)
  | .rtz => withSign f neg big
  | .rup => withSign f neg (if neg then big else infCode f)
  | .rdn => withSign f neg (if neg then infCode f else big)
  | .sr _ => withSign f neg (infCode f)

/-- Rounding of an exact value m × 2^e with a sign to a format. `prec` and `es` are the source's significand bits and
the weight of its last bit, which R82 counts for SR. -/
def roundTo (f : Fmt) (mode : Mode) (neg : Bool) (m : Nat) (e : Int) (prec : Nat := 0) (es : Int := 0) : FRes :=
  if m = 0 then ⟨withSign f neg 0, 0⟩
  else
    let top : Int := (log2 m : Int) + e
    let emin : Int := 1 - (f.bias : Int)
    let q : Int := (if top < emin then emin else top) - f.fb
    if q ≤ e then
      let mant := m * 2 ^ (e - q).toNat
      let code := (q + f.fb + f.bias - 1).toNat * 2 ^ f.fb + mant
      if infCode f ≤ code then ⟨overflowCode f mode neg, flOverflow⟩ else ⟨withSign f neg code, 0⟩
    else
      let k := (q - e).toNat
      let lo := m / 2 ^ k
      let rem := m % 2 ^ k
      let d := min (min prec (q - es).toNat) 32
      let mant := if roundsUp mode neg (decide (lo % 2 = 1)) rem k d then lo + 1 else lo
      let code := (q + f.fb + f.bias - 1).toNat * 2 ^ f.fb + mant
      if infCode f ≤ code then ⟨overflowCode f mode neg, flOverflow⟩
      else if rem = 0 then ⟨withSign f neg code, 0⟩
      else ⟨withSign f neg code, if code < 2 ^ f.fb then flUnderflow else flInexact⟩

/-! ## Tapered formats (R72 to R75) -/

/-- The length of the run of bits equal to `r` downward from bit `n - 1`. -/
def runLength (m : Nat) (r : Bool) : Nat → Nat
  | 0 => 0
  | n + 1 => if m.testBit n = r then 1 + runLength m r n else 0

/-- The positive value of a magnitude of `n` bits as m × 2^e (R72). -/
def taperedMag (n m : Nat) : Nat × Int :=
  if m = 0 then (0, 0)
  else
    let r := m.testBit (n - 1)
    let l := runLength m r n
    let k : Int := if r then (l : Int) - 1 else -(l : Int)
    if n ≤ l + 1 then (1, 2 * k)
    else
      let rest := n - l - 1
      let ex := m / 2 ^ (rest - 1) % 2
      let fbits := rest - 1
      (2 ^ fbits + m % 2 ^ fbits, 2 * k + (ex : Int) - fbits)

/-- A tapered code: NaR, or sign and magnitude (R72); n is 7 for T8 and 5 for T6. -/
def taperedVal (n c : Nat) : Option (Bool × Nat × Int) :=
  let m := c % 2 ^ n
  let neg := decide (c / 2 ^ n % 2 = 1)
  if m = 0 then (if neg then none else some (false, 0, 0))
  else
    let v := taperedMag n m
    some (neg, v.1, v.2)

/-- A tapered magnitude as a multiple of 2^-20, which every finite code is. -/
def taperedScaled (n m : Nat) : Nat :=
  let v := taperedMag n m
  v.1 * 2 ^ (v.2 + 20).toNat

/-- The largest code whose magnitude is at most x, where x is `num` × 2^-20 ÷ 2^k, counted down from `c`. -/
def taperedFloor (n num k : Nat) : Nat → Nat
  | 0 => 0
  | c + 1 => if taperedScaled n (c + 1) * 2 ^ k ≤ num then c + 1 else taperedFloor n num k c

/-- Rounding of a finite value to a tapered format (R75). -/
def roundTapered (n : Nat) (mode : Mode) (neg : Bool) (m : Nat) (e : Int) (prec : Nat := 0) (es : Int := 0) : FRes :=
  if m = 0 then ⟨0, 0⟩
  else
    let k := (-(e + 20)).toNat
    let num := m * 2 ^ (e + 20).toNat
    let big := 2 ^ n - 1
    let s (c : Nat) : Nat := if neg ∧ c ≠ 0 then c + 2 ^ n else c
    let lo := taperedFloor n num k big
    let vlo := taperedScaled n lo * 2 ^ k
    if lo = big then (if vlo = num then ⟨s big, 0⟩ else ⟨s big, flOverflow⟩)
    else if vlo = num then ⟨s lo, 0⟩
    else
      let u := taperedScaled n (lo + 1) * 2 ^ k - vlo
      let rem := num - vlo
      let ulog : Int := (ceilLog2 u : Int) - 20 - k
      let d := min (min prec (ulog - es).toNat) 32
      let up := match mode with
        | .rne => decide (u < 2 * rem) || (decide (u = 2 * rem) && decide (lo % 2 = 1))
        | .rtz => false
        | .rup => !neg
        | .rdn => neg
        | .sr w => srUp w rem u d
      let c := if up then lo + 1 else lo
      ⟨s c, if c = 0 then flUnderflow else flInexact⟩

/-! ## Arithmetic (R200, R205) -/

/-- An exact signed sum of two finite values: sign, magnitude, exponent; a zero sum takes the sign rule of IEEE 754 for
the mode (R200). -/
def exactSum (mode : Mode) (n1 : Bool) (m1 : Nat) (e1 : Int) (n2 : Bool) (m2 : Nat) (e2 : Int) : Bool × Nat × Int :=
  let e := if e1 ≤ e2 then e1 else e2
  let a : Int := (m1 * 2 ^ (e1 - e).toNat : Nat)
  let b : Int := (m2 * 2 ^ (e2 - e).toNat : Nat)
  let x := (if n1 then -a else a) + (if n2 then -b else b)
  if x = 0 then ((if m1 = 0 ∧ m2 = 0 ∧ n1 = n2 then n1 else decide (mode = .rdn)), 0, e)
  else (decide (x < 0), x.natAbs, e)

/-- A NaN result with the flags of its sources and any further ones. -/
def nanRes (f : Fmt) (env : FEnv) (srcs : List Nat) (fl : Flags) : FRes := ⟨chooseNaN f env srcs, snanFlag f srcs ||| fl⟩

/-- a + b rounded once. -/
def fAdd (f : Fmt) (env : FEnv) (mode : Mode) (a b : Nat) : FRes :=
  let a := flushIn f env a
  let b := flushIn f env b
  match valueOf f a, valueOf f b with
  | .nan, _ => nanRes f env [a, b] 0
  | _, .nan => nanRes f env [a, b] 0
  | .inf n1, .inf n2 => if n1 = n2 then ⟨a, 0⟩ else nanRes f env [a, b] flInvalid
  | .inf _, _ => ⟨a, 0⟩
  | _, .inf _ => ⟨b, 0⟩
  | .fin n1 m1 e1, .fin n2 m2 e2 =>
    let x := exactSum mode n1 m1 e1 n2 m2 e2
    flushOut f env (roundTo f mode x.1 x.2.1 x.2.2)

/-- The code with its sign inverted. -/
def negCode (f : Fmt) (c : Nat) : Nat := if isNeg f c then c - signBit f else c + signBit f

/-- a − b rounded once; a NaN b keeps its sign. -/
def fSub (f : Fmt) (env : FEnv) (mode : Mode) (a b : Nat) : FRes :=
  if isNaN f b then nanRes f env [flushIn f env a, b] 0 else fAdd f env mode a (negCode f b)

/-- a × b rounded once. -/
def fMul (f : Fmt) (env : FEnv) (mode : Mode) (a b : Nat) : FRes :=
  let a := flushIn f env a
  let b := flushIn f env b
  let neg := isNeg f a != isNeg f b
  match valueOf f a, valueOf f b with
  | .nan, _ => nanRes f env [a, b] 0
  | _, .nan => nanRes f env [a, b] 0
  | .inf _, .fin _ m _ => if m = 0 then nanRes f env [a, b] flInvalid else ⟨withSign f neg (infCode f), 0⟩
  | .fin _ m _, .inf _ => if m = 0 then nanRes f env [a, b] flInvalid else ⟨withSign f neg (infCode f), 0⟩
  | .inf _, .inf _ => ⟨withSign f neg (infCode f), 0⟩
  | .fin _ m1 e1, .fin _ m2 e2 => flushOut f env (roundTo f mode neg (m1 * m2) (e1 + e2))

/-- The product is 0 × ∞ (R200). -/
def zeroTimesInf (f : Fmt) (a b : Nat) : Bool :=
  (decide (magCode f a = 0) && decide (magCode f b = infCode f)) ||
    (decide (magCode f b = 0) && decide (magCode f a = infCode f))

/-- a × b + c rounded once (R200); 0 × ∞ raises invalid also when c is a NaN. -/
def fFused (f : Fmt) (env : FEnv) (mode : Mode) (a b c : Nat) : FRes :=
  let a := flushIn f env a
  let b := flushIn f env b
  let c := flushIn f env c
  let zi : Flags := if zeroTimesInf f a b then flInvalid else 0
  let neg := isNeg f a != isNeg f b
  if isNaN f a || isNaN f b || isNaN f c || zeroTimesInf f a b then nanRes f env [a, b, c] zi
  else
    match valueOf f a, valueOf f b, valueOf f c with
    | .fin _ m1 e1, .fin _ m2 e2, .fin n3 m3 e3 =>
      let x := exactSum mode neg (m1 * m2) (e1 + e2) n3 m3 e3
      flushOut f env (roundTo f mode x.1 x.2.1 x.2.2)
    | .fin _ _ _, .fin _ _ _, _ => ⟨c, 0⟩
    | _, _, .inf n3 => if neg = n3 then ⟨c, 0⟩ else nanRes f env [a, b, c] flInvalid
    | _, _, _ => ⟨withSign f neg (infCode f), 0⟩

/-- a × b + c by R94: fused, or a multiply followed by an add. -/
def fFma (f : Fmt) (env : FEnv) (mode : Mode) (a b c : Nat) : FRes :=
  if env.contract then
    let p := fMul f env mode a b
    (fAdd f env mode p.code c).or p.flags
  else fFused f env mode a b c

/-- The order of two codes that are no NaN, with −0 below +0: a signed number that rises with the value. -/
def orderKey (f : Fmt) (c : Nat) : Int := if isNeg f c then -(magCode f c : Int) - 1 else (magCode f c : Int)

/-- a < b as IEEE 754 compares: false for a NaN, zeros equal. -/
def fLess (f : Fmt) (a b : Nat) : Bool :=
  !isNaN f a && !isNaN f b &&
    (let x : Int := if isNeg f a then -(magCode f a : Int) else magCode f a
     let y : Int := if isNeg f b then -(magCode f b : Int) else magCode f b
     decide (x < y))

/-- a = b as IEEE 754 compares. -/
def fEqual (f : Fmt) (a b : Nat) : Bool :=
  !isNaN f a && !isNaN f b && (decide (a = b) || (decide (magCode f a = 0) && decide (magCode f b = 0)))

/-- `fmin` and `fmax` (R93); `less` says minimum. -/
def fMinMax (f : Fmt) (env : FEnv) (least : Bool) (a b : Nat) : FRes :=
  let a := flushIn f env a
  let b := flushIn f env b
  if env.minmax then
    ⟨if (if least then fLess f a b else fLess f b a) then a else b, 0⟩
  else if isNaN f a ∧ isNaN f b then nanRes f env [a, b] 0
  else if isNaN f a then flushOut f env ⟨b, snanFlag f [a, b]⟩
  else if isNaN f b then flushOut f env ⟨a, snanFlag f [a, b]⟩
  else
    flushOut f env ⟨if (if least then decide (orderKey f a ≤ orderKey f b) else decide (orderKey f b ≤ orderKey f a))
      then a else b, 0⟩

/-- A finite magnitude m × 2^e rounded to an integer in a mode: the integer and whether it is inexact. -/
def roundInt (mode : Mode) (neg : Bool) (m : Nat) (e : Int) : Nat × Bool :=
  if 0 ≤ e then (m * 2 ^ e.toNat, false)
  else
    let k := (-e).toNat
    let lo := m / 2 ^ k
    let rem := m % 2 ^ k
    (if roundsUp mode neg (decide (lo % 2 = 1)) rem k 0 then lo + 1 else lo, decide (rem ≠ 0))

/-- `frnd` (R201). -/
def fRound (f : Fmt) (env : FEnv) (mode : Mode) (a : Nat) : FRes :=
  let a := flushIn f env a
  match valueOf f a with
  | .nan => nanRes f env [a] 0
  | .inf _ => ⟨a, 0⟩
  | .fin neg m e => ⟨(roundTo f .rtz neg (roundInt mode neg m e).1 0).code, 0⟩

/-- `fcmp` (R202): the truth of the condition and its flags. -/
def fCompare (f : Fmt) (env : FEnv) (c : FCond) (a b : Nat) : Bool × Flags :=
  let a := flushIn f env a
  let b := flushIn f env b
  let un := isNaN f a || isNaN f b
  let any : Flags := if un then flInvalid else 0
  match c with
  | .eq => (fEqual f a b, snanFlag f [a, b])
  | .ne => (!fEqual f a b, snanFlag f [a, b])
  | .lt => (fLess f a b, any)
  | .le => (fLess f a b || fEqual f a b, any)
  | .gt => (fLess f b a, any)
  | .ge => (fLess f b a || fEqual f a b, any)
  | .ord => (!un, snanFlag f [a, b])
  | .uno => (un, snanFlag f [a, b])

/-- `fclass` (R203). -/
def fClass (f : Fmt) (a : Nat) : Nat :=
  let neg := isNeg f a
  if isSNaN f a then 2 ^ 8
  else if isNaN f a then 2 ^ 9
  else if magCode f a = infCode f then (if neg then 2 ^ 0 else 2 ^ 7)
  else if magCode f a = 0 then (if neg then 2 ^ 3 else 2 ^ 4)
  else if isSub f a then (if neg then 2 ^ 2 else 2 ^ 5)
  else (if neg then 2 ^ 1 else 2 ^ 6)

/-! ## Conversion (R81, R206) -/

/-- The IEEE-style format of a type code (R48). -/
def ieeeType : Nat → Option Fmt
  | 8 => some fp16
  | 9 => some bf16
  | 10 => some fp32
  | 13 => some af36
  | _ => none

/-- The magnitude bits of a tapered type code. -/
def taperedType : Nat → Option Nat
  | 11 => some 7
  | 12 => some 5
  | _ => none

/-- Width and signedness of an integer type code (R48). -/
def intType (t : Nat) : Option (Nat × Bool) := if t < 8 then some (8 * 2 ^ (t % 4), decide (t < 4)) else none

/-- The exact integer that the low bits of a pattern hold under an integer type (R189). -/
def intValue (w : Nat) (signed : Bool) (x : Nat) : Int := if signed then toSigned w x else ((x % 2 ^ w : Nat) : Int)

/-- The range of an integer type. -/
def intMin (w : Nat) (signed : Bool) : Int := if signed then -((2 ^ (w - 1) : Nat) : Int) else 0
/-- The range of an integer type. -/
def intMax (w : Nat) (signed : Bool) : Int := if signed then ((2 ^ (w - 1) : Nat) : Int) - 1 else ((2 ^ w : Nat) : Int) - 1

/-- An integer rounded into a narrow, wide or tapered float type, or clamped into an integer type. -/
def cvtInt (env : FEnv) (mode : Mode) (tgt src : Nat) (x : Int) : FRes :=
  match intType tgt with
  | some (w, s) => ⟨wrapTo 64 (clampInt (intMin w s) (intMax w s) x), 0⟩
  | none =>
    let prec := match intType src with
      | some (w, s) => if s then w - 1 else w
      | none => 0
    match ieeeType tgt with
    | some f => flushOut f env (roundTo f mode (decide (x < 0)) x.natAbs 0 prec 0)
    | none =>
      match taperedType tgt with
      | some n => roundTapered n mode (decide (x < 0)) x.natAbs 0 prec 0
      | none => ⟨0, 0⟩

/-- A finite value rounded into any type; `prec` and `es` describe the source's significand (R82). -/
def cvtFin (env : FEnv) (mode : Mode) (tgt : Nat) (neg : Bool) (m : Nat) (e : Int) (prec : Nat) (es : Int) : FRes :=
  match intType tgt with
  | some (w, s) =>
    let r := roundInt mode neg m e
    let x : Int := if neg then -(r.1 : Int) else r.1
    if x < intMin w s ∨ intMax w s < x then ⟨wrapTo 64 (clampInt (intMin w s) (intMax w s) x), flInvalid⟩
    else ⟨wrapTo 64 x, if r.2 then flInexact else 0⟩
  | none =>
    match ieeeType tgt with
    | some f => flushOut f env (roundTo f mode neg m e prec es)
    | none =>
      match taperedType tgt with
      | some n => roundTapered n mode neg m e prec es
      | none => ⟨0, 0⟩

/-- An infinity converted to a type (R75, R81). -/
def cvtInf (tgt : Nat) (neg : Bool) : FRes :=
  match intType tgt with
  | some (w, s) => ⟨wrapTo 64 (if neg then intMin w s else intMax w s), flInvalid⟩
  | none =>
    match ieeeType tgt with
    | some f => ⟨withSign f neg (infCode f), 0⟩
    | none =>
      match taperedType tgt with
      | some n => ⟨2 ^ n, flInvalid⟩
      | none => ⟨0, 0⟩

/-- A NaN of one format as the quiet NaN of another that keeps the high bits of its payload (R81, R92). -/
def cvtPayload (f g : Fmt) (c : Nat) : Nat :=
  let frac := magCode f c % 2 ^ f.fb
  let frac := if f.fb ≤ g.fb then frac * 2 ^ (g.fb - f.fb) else frac / 2 ^ (f.fb - g.fb)
  let frac := if frac / 2 ^ (g.fb - 1) % 2 = 1 then frac else frac + 2 ^ (g.fb - 1)
  withSign g (isNeg f c) (infCode g + frac)

/-- A format holds every value of another. -/
def holdsAll (g f : Fmt) : Bool := decide (f.eb ≤ g.eb) && decide (f.fb ≤ g.fb)

/-- A NaN code converted to a type: to a format that holds every value of its own it is quieted, its payload kept; to another
it becomes the NaN that `fpc` chooses (R75, R81, R92). -/
def cvtNaN (env : FEnv) (tgt : Nat) (f : Fmt) (c : Nat) : FRes :=
  match ieeeType tgt with
  | some g => ⟨if env.nan = 2 ∧ !holdsAll g f then canonNaN g else cvtPayload f g c, snanFlag f [c]⟩
  | none =>
    match taperedType tgt with
    | some n => ⟨2 ^ n, flInvalid⟩
    | none => ⟨0, flInvalid⟩

/-- NaR converted to a type (R75, R81). -/
def cvtNaR (tgt : Nat) : FRes :=
  match ieeeType tgt with
  | some g => ⟨canonNaN g, flInvalid⟩
  | none =>
    match taperedType tgt with
    | some n => ⟨2 ^ n, 0⟩
    | none => ⟨0, flInvalid⟩

/-- The weight of the last significand bit of an IEEE-style value. -/
def lastWeight (f : Fmt) (c : Nat) : Int :=
  match valueOf f c with
  | .fin _ _ e => e
  | _ => 0

/-- `cvt` (R206): the pattern `x` of type `src` converted to type `to`. -/
def cvtValue (env : FEnv) (mode : Mode) (tgt src x : Nat) : FRes :=
  match intType src with
  | some (w, s) => cvtInt env mode tgt src (intValue w s x)
  | none =>
    match ieeeType src with
    | some f =>
      let c := flushIn f env (x % 2 ^ (1 + f.eb + f.fb))
      match valueOf f c with
      | .nan => cvtNaN env tgt f c
      | .inf neg => cvtInf tgt neg
      | .fin neg m e => cvtFin env mode tgt neg m e (f.fb + 1) e
    | none =>
      match taperedType src with
      | some n =>
        match taperedVal n (x % 2 ^ (n + 1)) with
        | none => cvtNaR tgt
        | some (neg, m, e) => cvtFin env mode tgt neg m e (log2 m + 1) e
      | none => ⟨0, 0⟩

end Sys2Proof.Machine
end

