-- ==== Sys2Proof/Config.lean ====
section
/-!
DEFINITION. What the manual leaves open or to the implementation. Every value here is an opaque constant without a
body: nothing can be proved about it, so a claim holds whatever it is.
-/
namespace Sys2Proof

/-- A value the manual calls undefined (R7), or gives no value for: applied to the state's `fresh` counter, a tag
naming the place it is used and a lane or byte number (log 4). -/
opaque Config.freeValue : Nat → Nat → Nat → BitVec 64
/-- A choice between two permitted outcomes: older or newer value (R57), written or not (R267), applied as
`freeValue` (log 4). -/
opaque Config.freeBit : Nat → Nat → Nat → Bool
/-- Nanoseconds of package time that pass during one step, applied to the `fresh` counter (R25, log 5). -/
opaque Config.elapsed : Nat → Nat
/-- The SFU's native result for a function number and an argument; used where R211 bounds it (log 7). -/
opaque Config.sfuNative : Nat → BitVec 32 → BitVec 32
/-- The fused device secret, never readable (R465). -/
opaque Config.deviceSecret : BitVec 256
/-- The Vrelotte public key, PK.seed then PK.root (R464). -/
opaque Config.vendorKey : BitVec 256
/-- The fused hash of the Vrelotte public key (R464). -/
opaque Config.fusedKeyHash : BitVec 256
/-- The fused minimum security version (R464). -/
opaque Config.fusedMinSvn : BitVec 16
/-- The bytes of the fuse record that step 6 measures (R461). -/
opaque Config.fuseRecord : List Byte
/-- The bytes of the trained configuration that step 6 measures (R461), applied to the training values in use. -/
opaque Config.trainedConfig : List Nat → List Byte
/-- The physical address at which Grendex keeps its helper image (R442, log 17). -/
opaque Config.helperImage : BitVec 46
/-- The lanes of a strait trained at full width, of which half train when it is degraded (R378). -/
opaque Config.straitLanes : Nat

end Sys2Proof
end

