-- ==== Sys2Proof/Machine/State.lean ====
section
/-!
DEFINITION. The state of the KZ7 package, held as plain data, and the state after reset.
-/
namespace Sys2Proof.Machine

open Sys2Proof

/-! ## Outcomes -/

/-- Why the model stops: it never does, so there is no such reason (log 14). -/
inductive Fault where
  deriving DecidableEq, Repr

/-- Instructions without a meaning. -/
inductive Refusal where
  /-- The instruction has no meaning in the model yet (raised by `exec`'s arm only; safe). -/
  | notModelled (mnemonic : String)
  deriving DecidableEq, Repr

/-- The reasons a lane stream stalls (R138). -/
inductive StallReason where
  | scoreboard
  | collector
  | queueEmpty
  | narrowsFull
  | barrier
  | allocation
  deriving DecidableEq, Repr

/-- One step of a pc inside translated code: the Casnis word's address and the native sub-index (R104, R434). -/
structure Pc where
  addr : BitVec 48
  sub : Nat
  deriving DecidableEq, Repr

/-- The address of an instruction, and whether it is translated code (R104). -/
structure Site where
  pc : Pc
  casnis : Bool
  deriving DecidableEq, Repr

/-- A precise trap about to be taken (R103, R105): code, subcode, code-specific word, and the record's mask and address
where they are not the ones R104 gives by default. -/
structure Trap where
  code : Nat
  sub : Nat
  word : DWord
  mask : Option Mask
  site : Option Site
  deriving DecidableEq, Repr

/-- A signature of the lines a release pushed, with the package time of the release (R399, R400). -/
structure Sig where
  bits : BitVec 1024
  time : Nat
  deriving DecidableEq, Repr

/-- The identity of a group: context, launch sequence number, cohort number, index in the cohort. -/
structure GroupId where
  ctx : Nat
  seq : Nat
  cohort : Nat
  index : Nat
  deriving DecidableEq, Repr

/-- A page fault that an agent waits on (R347): the die and fault id of its entry, and the trap that is delivered if
system software declines it. -/
structure FaultWait where
  die : Nat
  id : Nat
  trap : Trap
  deriving DecidableEq, Repr

/-! ## Registers of a group -/

/-- Kinds of reconvergence entries (R148). -/
inductive StackKind where
  | reconv
  | pending
  | call
  | meld
  deriving DecidableEq, Repr

/-- A reconvergence entry (R148). -/
structure StackEntry where
  kind : StackKind
  pc : BitVec 48
  rpc : BitVec 48
  mask : Mask
  fmt : Word
  deriving DecidableEq, Repr

/-- A fixed-latency write that has not landed: the specifier (0xF8 + p for a predicate, R57) and the time from which it may be read,
in eighths of an issue step (R51, log 16). -/
structure Hazard where
  spec : Nat
  lands : Nat
  deriving DecidableEq, Repr

/-- Values on their way to a register: its specifier, the lanes written and one word per lane. -/
structure RegWrite where
  spec : Nat
  mask : Mask
  vals : List Word
  deriving DecidableEq, Repr

/-- What a pending result waits for: the step of the table that completes it. -/
inductive PendingKind where
  | sfu
  | stochastic
  | memory
  | remote
  | notice
  | release
  | fence
  | invalidate
  | engine
  | array
  | plane
  | launch
  | skerry
  deriving DecidableEq, Repr

/-- A variable-latency result that has been computed and not yet written (R190, R52), with the place of its instruction
and `fpc` as it issued (R193); `ready` says that its words have come and wait for registers (R169). -/
structure Pending where
  kind : PendingKind
  tag : Nat
  sb : Option Nat
  writes : List RegWrite
  flags : BitVec 5
  site : Site
  fpc : Word
  ready : Bool
  deriving DecidableEq, Repr

/-- A lane block enqueued by `lrun` (R243). -/
structure Block where
  entry : BitVec 48
  ks : List DWord
  deriving DecidableEq, Repr

/-- What a region save holds (R159, R490). -/
structure Save where
  fmt : Word
  fpc : Word
  em : Mask
  sp : BitVec 19
  stklim : BitVec 19
  rsp : BitVec 19
  head : Pc
  liveLow : BitVec 32
  livePairs : BitVec 48
  gen : List Word
  preds : List Mask
  path : Option Mask
  t0 : List Nat
  t1 : List Nat
  stack : List StackEntry
  spilled : List StackEntry
  ofile : Map (List Word)
  live : Map (List Word)
  ks : List DWord
  matrixFlags : BitVec 6
  deriving DecidableEq, Repr

/-- The region of a lane stream: the save it restarts from, whether a block start opened it, whether a `ckpt` did (R158,
R490), and the accumulator rows whose shadows it holds (R312). -/
structure Region where
  save : Save
  fromBlock : Bool
  byCkpt : Bool
  rows : List Nat
  deriving DecidableEq, Repr

/-- Why a lane stream sleeps (R138). -/
inductive Sleep where
  /-- `wait` with its count of ac and the core's ac in which it issued (R181). -/
  | ac (count from_ : Nat)
  /-- `waitw` (R263). -/
  | word
  /-- `kwait` (R136). -/
  | children
  deriving DecidableEq, Repr

/-- What a word wait holds: the physical line watched, the write count of that line when the wait began, the package
time then, the time-out in ns after which it ends, whether the wait has been woken, so that its instruction loads
the word again when it issues next (R246, R263), and the step in which a word at a peer has been asked for: until it is
answered the stream has not begun to sleep (R380, R387). -/
structure WordWait where
  line : Nat
  count : Nat
  start : Nat
  timeout : Option Nat
  woken : Bool
  asked : Option Nat
  deriving DecidableEq, Repr

/-- What the lane handler's entry keeps (R171). -/
structure HandlerSave where
  em : Mask
  fmt : Word
  preds : List Mask
  depth : Nat
  path : Option Mask
  justCkpt : Bool
  deriving DecidableEq, Repr

/-- States of the lane stream (R137). -/
inductive GroupState where
  | forming
  | ready
  | issuing
  | stalled (r : StallReason)
  | sleeping
  | trapped
  | preempted
  | exited
  deriving DecidableEq, Repr

/-- A power hint (R315); `begun` says that the first pass of its burst has run (R423). -/
structure Hint where
  onset : Nat
  intensity : Nat
  length : Nat
  active : Bool
  issued : Nat
  begun : Bool
  deriving DecidableEq, Repr

/-- The lane stream of a group. `need` counts the quarter-registers that the pool must hold for the write that waits,
`grant` those that the reserve has given it for that write (R169). `sets` holds the bank set that each register was allocated in
(R170); `word` holds the translation of the Casnis word that the stream stands within (R446). -/
structure Lane where
  state : GroupState
  pc : Pc
  word : List Instr
  em : Mask
  exited : Mask
  inBlock : Bool
  ks : List DWord
  regs : Map (List Word)
  sets : Map Bool
  ofile : Map (List Word)
  preds : List Mask
  lr : List Word
  lrLegal : Bool
  sb : List Nat
  fpc : Word
  fmt : Word
  gen : List Word
  stack : List StackEntry
  mark : Option Nat
  sp : BitVec 19
  stklim : BitVec 19
  rsp : BitVec 19
  t0 : List Nat
  t1 : List Nat
  path : Option Mask
  region : Option Region
  needCkpt : Bool
  justCkpt : Bool
  matrixFlags : BitVec 6
  matrixShadow : BitVec 6
  clock : Nat
  next : Nat
  hazards : List Hazard
  outstanding : List Pending
  sleep : Option Sleep
  watch : Option WordWait
  handler : Option HandlerSave
  yielded : Bool
  hint : Option Hint
  fence : Bool
  need : Nat
  grant : Nat
  fault : Option FaultWait
  faultRestarts : Bool
  deferred : List Trap
  deriving DecidableEq, Repr

/-- The scalar stream of a group (R226). -/
structure Scalar where
  s : List DWord
  pc : BitVec 48
  rstack : List DWord
  rmark : Option Nat
  steps : Nat
  handler : Bool
  stopped : Bool
  sexited : Bool
  blocks : List Block
  stalled : Bool
  watch : Option WordWait
  deferred : List Trap
  fault : Option FaultWait
  deriving DecidableEq, Repr

/-! ## Queues of a group -/

/-- That a `plcov` of the open region pushed an entry or began a stream: its address, and whether the region has restarted
since (R342). -/
structure CoverMark where
  at_ : BitVec 48
  stale : Bool
  deriving DecidableEq, Repr

/-- A queue entry: one element per lane, whether its data has arrived (R235), the `plcov` that pushed it, and the step in which
its loads were made, by which what they ask of peers is known (R387). -/
structure QEntry where
  elems : List Word
  filled : Bool
  cover : Option CoverMark
  tag : Nat
  deriving DecidableEq, Repr

/-- An affine stream: its descriptor (R239), its position and its `aff`'s address. -/
structure AffStream where
  base : DWord
  lstride : DWord
  st0 : DWord
  st1 : DWord
  st2 : DWord
  n0 : Nat
  n1 : Nat
  n2 : Nat
  wide : Bool
  i0 : Nat
  i1 : Nat
  i2 : Nat
  at_ : BitVec 48
  fault : Option FaultWait
  deriving DecidableEq, Repr

/-- A coverage stream (R340, R341): the tag of its `plcov`, the lanes that take part, the cells still to be pushed, in
order, once its entry has taken effect, and its mark. -/
structure CoverStream where
  tag : Nat
  lanes : Mask
  cells : Option (List Nat)
  mark : Option CoverMark
  deriving DecidableEq, Repr

/-- What fills a queue by itself (R240, R341). -/
inductive QStream where
  | affine (a : AffStream)
  | cover (c : CoverStream)
  deriving DecidableEq, Repr

/-- A queue q0 to q7 (R235): entries oldest first, of which the first `held` are popped and held (R164); the first
`narrow` came through the narrows and occupy slots of it (R274); `saved` holds the elements of entries that waited in the
narrows at a pre-emption and count as reserved (R277). -/
structure Queue where
  entries : List QEntry
  held : Nat
  narrow : Nat
  saved : List (List Word)
  stream : Option QStream
  ended : Bool
  pendingEnd : Bool
  nmode : Bool
  deriving DecidableEq, Repr

/-- A remote load in flight (R273): the tag of its result, what it read at its line's home, its landing place. -/
structure RemoteLoad where
  tag : Nat
  bytes : List Byte
  off : Nat
  deriving DecidableEq, Repr

/-- A group resident in a slot of a core; `formed` says that it has formed once (R141); `deferredAccess` holds the failing addresses
of commands of its that have stopped at an ACCESS, each with its command's address (R267). -/
structure Group where
  ctx : Nat
  kernel : Nat
  seq : Nat
  cohort : Nat
  index : Nat
  wcode : Nat
  cap : Nat
  floor : Nat
  prio : Nat
  checking : Bool
  formed : Bool
  age : Nat
  pass : Nat
  spass : Nat
  stkTop : BitVec 19
  ckptBase : BitVec 48
  ckptSize : Nat
  lcode : BitVec 48
  faulting : Bool
  ln : Lane
  sc : Scalar
  qs : List Queue
  rlds : List RemoteLoad
  deferredAccess : List (DWord × BitVec 48)
  sigLane : List Sig
  sigScalar : List Sig
  fenceSig : List Sig
  loadSig : List Sig
  deriving DecidableEq, Repr

/-! ## A core -/

/-- A 32-byte sector in L1 or L2: its bytes, which of them are present and which are dirty, and the package time at which
its fill read the level below (R392, R393; log 11). -/
structure Sector where
  data : List Byte
  valid : BitVec 32
  dirty : BitVec 32
  filled : Nat
  deriving DecidableEq, Repr

/-- A cached translation (R349): context, first virtual address of the page, level of the leaf, the leaf entry. -/
structure Translation where
  ctx : Nat
  base : Nat
  level : Nat
  leaf : DWord
  deriving DecidableEq, Repr

/-- A member of a barrier (R287, R292). `half` holds the address of a `bars` whose arrival has been made and which still
waits. -/
structure Member where
  gid : GroupId
  a : Nat
  c : Nat
  a0 : Nat
  s : Nat
  exited : Bool
  half : Option (BitVec 48)
  deriving DecidableEq, Repr

/-- The members of a pod barrier on the other KZ7s of its pod: how many have joined, how many of them have arrived in the present
phase or exited, how many have exited (R282, R284). -/
structure PodMembers where
  joined : Nat
  arrived : Nat
  exited : Nat
  deriving DecidableEq, Repr

/-- A barrier entry (R282 to R285): the phase it is in, its members, those of other packages, the signatures of the arrivals of its
phase and of the phases that have completed (R404). -/
structure Barrier where
  id : BarrierId
  count : Nat
  phase : Nat
  members : List Member
  others : PodMembers
  arriving : List Sig
  complete : List Sig
  deriving DecidableEq, Repr

/-- No member on another package. -/
def PodMembers.none : PodMembers := ⟨0, 0, 0⟩

/-- A cohort resident on a core (R131, R154). -/
structure Cohort where
  kernel : Nat
  ctx : Nat
  seq : Nat
  number : Nat
  slots : List Nat
  base : Nat
  size : Nat
  accBase : Nat
  acc : Nat
  bBase : Nat
  bsl : Nat
  placed : Nat
  barrier : Barrier
  deriving DecidableEq, Repr

/-- One quarter of a pass (R301, R303): its group and that group's slot, the row quarter it drives, the physical accumulator
slot, for each of its eight lanes the A operand and the A scale code, and the tags of the fills whose bytes are defined for it,
since its group had observed them as the `mma` issued (R314). -/
structure PassQuarter where
  owner : GroupId
  slot : Nat
  rho : Nat
  acc : Nat
  avals : List Nat
  scales : List Nat
  seen : List Nat
  deriving DecidableEq, Repr

/-- A `bfill` under way, or complete and not observed by every group (R314): who issued it, its bytes, its scoreboard;
whether it is complete, or stopped at an ACCESS (R309); whether an `msync` covers it and the phase of the core barrier
in which its group arrived after that; the groups, by index in the cohort, whose passes read its bytes as defined. -/
structure Fill where
  owner : GroupId
  tag : Nat
  bslot : Nat
  off : Nat
  n : Nat
  sb : Option Nat
  done : Bool
  failed : Bool
  synced : Bool
  phase : Option Nat
  known : List Nat
  deriving DecidableEq, Repr

/-- What an entry of the array queue does (R300). -/
inductive ArrayOp where
  /-- A pass: the `fmt` of its quarters, the physical B slot, the column offset, its quarters, and the results, as slot
  and tag, of which it is the last pass. -/
  | pass (fmt : Word) (bslot off : Nat) (qs : List PassQuarter) (dones : List (Nat × Nat))
  /-- `mmz`: rows as 32 × physical slot + row. -/
  | zero (rows : List Nat)
  /-- `mmrd`: type, and for each lane its row, as in `zero`, and column. -/
  | read (ty : Nat) (cells : List (Nat × Nat × Nat))
  /-- `mmwr`: rows, columns and new cells. -/
  | write (cells : List (Nat × Nat × BitVec 36))
  /-- The start of a `bfill`. -/
  | fill (x : Fill)
  /-- `msync`. -/
  | sync
  deriving DecidableEq, Repr

/-- An entry of the array queue with the group that issued it and its slot. -/
structure ArrayEntry where
  owner : GroupId
  slot : Nat
  tag : Nat
  op : ArrayOp
  deriving DecidableEq, Repr

/-- Accumulator writes of a pass on their way (R302): rows as 32 × physical slot + row; the groups of the pass; whether it
read B from the slices, not from the latch, and the pass count at which it began (R416, R420). -/
structure Landing where
  owners : List GroupId
  sliced : Bool
  count : Nat
  rows : List (Nat × List (BitVec 36))
  flags : List (Nat × BitVec 6)
  done : List (Nat × Nat)
  deriving DecidableEq, Repr

/-- What a cell instruction reads: a c register, or a uniform word (R328). -/
inductive CellSrc where
  | reg (c : Nat)
  | word (w : Word)
  deriving DecidableEq, Repr

/-- Two-operand cell instructions (R332). -/
inductive CellOp where
  | add
  | sub
  | mul
  | min
  | max
  | cmp (c : FCond)
  deriving DecidableEq, Repr

/-- The state of a plane that is saved with its holder (R317, R324). -/
structure PlaneImage where
  regs : Map (List Word)
  flags : List (BitVec 5)
  enables : List (BitVec 4096)
  ox : Int
  oy : Int
  trapMask : BitVec 5
  status : Nat
  deriving DecidableEq, Repr

/-- What an entry of the plane queue does (R326); `restore` is the write-back of a saved holder's plane behind what a former
holder has queued (R324). -/
inductive PlaneOp where
  | restore (x : PlaneImage)
  | clear
  | origin (ox oy : Int)
  | linear (d : Nat) (a b c : Word)
  | quad (d : Nat) (q : List Word) (exp : Bool)
  | bin (op : CellOp) (d a : Nat) (b : CellSrc)
  | fma (d a : Nat) (b c : CellSrc)
  | mov (d : Nat) (b : CellSrc)
  | sel (d a : Nat) (b : CellSrc) (c : Nat)
  | enable (c : Nat)
  | elseEnable
  | popEnable
  | clearRegs (mask : BitVec 16)
  | flags (clear : Bool)
  | trapMask (m : BitVec 5)
  | read (c : Nat) (cells : List (Nat × Nat))
  | write (c : Nat) (cells : List (Nat × Word))
  | cover (q : Nat)
  deriving DecidableEq, Repr

/-- An entry of the plane queue: the group and its slot, the instruction's pc, the mask its record would hold, and the pass count at
which it began to take effect, if it has (R420). -/
structure PlaneEntry where
  owner : GroupId
  slot : Nat
  pc : Pc
  em : Mask
  tag : Nat
  op : PlaneOp
  count : Option Nat
  deriving DecidableEq, Repr

/-- The cell plane (R317, R326, R338); its holder is a context, a sequence number and a cohort number. -/
structure Plane where
  regs : Map (List Word)
  flags : List (BitVec 5)
  enables : List (BitVec 4096)
  ox : Int
  oy : Int
  trapMask : BitVec 5
  status : Nat
  holder : Option (Nat × Nat × Nat)
  queue : List PlaneEntry
  handlerQueue : List PlaneEntry
  unreturned : Option Nat
  deriving DecidableEq, Repr

/-- What is saved of a plane. -/
def Plane.image (p : Plane) : PlaneImage := ⟨p.regs, p.flags, p.enables, p.ox, p.oy, p.trapMask, p.status⟩

/-- A plane with a saved state written back. -/
def Plane.withImage (p : Plane) (x : PlaneImage) : Plane :=
  { p with regs := x.regs, flags := x.flags, enables := x.enables, ox := x.ox, oy := x.oy, trapMask := x.trapMask, status := x.status }

/-- The kick receiver of a core (R268). -/
structure Receiver where
  cohort : Nat × Nat
  ctx : Nat
  lbase : Nat
  lsize : Nat
  ring : Nat
  count : Nat
  deriving DecidableEq, Repr

/-- What the copy engine has been asked to do (R265, R271, R309, R374). A pull holds the receiver it lands its bytes for,
none when line 002 of R271 drops its notice; the lines it read; and whether lines 005 and 006 have been done. -/
inductive EngineOp where
  | copy (dest source length : Nat) (dspace sspace : Bool) (scope : Scope) (flag : Option Nat) (value : DWord)
  | fill (va bslot off n : Nat)
  | load (va chan count : Nat)
  | pull (notice : List Byte) (sender : Nat) (rcv : Option Receiver) (lines : List Nat) (recorded : Bool)
  deriving DecidableEq, Repr

/-- How far a command has come: not begun; its source has been asked of a peer in a step; a copy's payload has been written in a
step, and the lines of memory it lies in; a pull's count has been asked of a peer in a step. -/
inductive CopyStage where
  | start
  | asked (tag : Nat)
  | written (tag : Nat) (lines : List Nat)
  | counting (tag : Nat)
  deriving DecidableEq, Repr

/-- A command of the copy engine: the group that issued it, its identity, the instruction's address, the tag of its result,
and the fault id it waits on when it is paused (R267). -/
structure EngineCmd where
  slot : Nat
  gid : GroupId
  pc : Pc
  tag : Nat
  op : EngineOp
  paused : Option FaultWait
  stage : CopyStage
  deriving DecidableEq, Repr

/-- An accepted notice (R270): its 32 bytes, the sender's core and cohort, its context, whether its receiver has been
released since, and whether its sender's cohort has left that core since (R271). -/
structure Notice where
  bytes : List Byte
  sender : Nat
  cohort : Nat × Nat
  ctx : Nat
  dropped : Bool
  gone : Bool
  deriving DecidableEq, Repr

/-- A waiting entry of a narrows: 32 elements and the context that put it (R274). -/
structure NarrowsEntry where
  elems : List Word
  ctx : Nat
  deriving DecidableEq, Repr

/-- The narrows of a vertical pair, kept on its lower core (R274 to R278). `toUpper` is its direction, `bound` the
consumer's core and slot, `inQ7` the slots occupied by entries that moved into a q7. -/
structure Narrows where
  waiting : List NarrowsEntry
  inQ7 : Nat
  toUpper : Option Bool
  bound : Option (Nat × Nat)
  deriving DecidableEq, Repr

/-- A read of a register bank that has not been granted: the bank, 8 × bank set + bank, how many ac its collector has lost for it
one after the other, and since which ac of the core it is starved (R144). -/
structure BankRead where
  bank : Nat
  lost : Nat
  starved : Option Nat
  deriving DecidableEq, Repr

/-- An operand collector in use (R143): the group's slot, its reads not yet granted, in operand order, the register names whose last
read this is (R54), how many of the group's fixed-latency writes, its last ones, count from the grant, and the group's clock as its
instruction issued (R51). -/
structure Collector where
  slot : Nat
  reads : List BankRead
  frees : List Nat
  starts : Nat
  since : Nat
  deriving DecidableEq, Repr

/-- A core (R18); `l1sigs` holds the signatures attached to each 128-byte line in its L1 (R400); `ac` counts
its array cycles. `offered` and `scalarOffered` hold the slots whose lane and scalar streams its opportunities of this ac may still
be given to (R141, R417), `granted` says that this ac's register reads have been granted (R144), and `drawing` holds what the lane
instruction in its passes draws, in quarters of a cu, in each ac that is still to be counted (R416). `sfuBusy` counts the quarters
that the SFU has still to accept, of the opportunity `sfuOpp` (R214), `burstGap` the ac for which a declared burst's start still waits
behind the last one of its holm or rail (R425). -/
structure Core where
  groups : Map Group
  cohorts : List Cohort
  scratch : Memory
  l1 : Map Sector
  l1sigs : Map (List Sig)
  tlb : List Translation
  icache : Map (List Instr)
  pool : Nat
  reserve : Nat
  accs : Map (List (BitVec 36))
  shadows : Map (List (BitVec 36))
  bmem : Memory
  fills : List Fill
  arrayQ : List ArrayEntry
  landing : List Landing
  latch : Option (Nat × Nat)
  plane : Plane
  engine : List EngineCmd
  receiver : Option Receiver
  notices : List Notice
  narrows : Narrows
  collectors : List Collector
  orphans : List (GroupId × RemoteLoad)
  bankSet : Bool
  temp0 : BitVec 8
  temp1 : BitVec 8
  recent : List Sig
  idles : BitVec 32
  shunts : BitVec 32
  ac : Nat
  offered : List Nat
  scalarOffered : List Nat
  granted : Bool
  drawing : List Nat
  sfuBusy : Nat
  burstGap : Nat
  sfuOpp : Nat
  deriving DecidableEq, Repr

/-! ## Contexts, queues, kernels -/

/-- States of a context (R100); an absent context is free. -/
inductive CtxState where
  | created
  | bound
  | runnable
  | suspended
  | faulted
  | tornDown
  deriving DecidableEq, Repr

/-- A context (R97, R107). `endpoint` is its RMA endpoint binding, ports and id (R476), `rmaSigs` the
signatures of the RMA writes of late (R413). `suspending` holds the tag of
a suspend's command until the SUSPENDED event has been posted, `tearing` that of a teardown until it completes (R472). -/
structure Context where
  state : CtxState
  root : BitVec 46
  profile : Word
  partition : Nat
  ceiling : Nat
  hlane : BitVec 48
  hscal : BitVec 48
  checking : Bool
  debug : Bool
  logBase : BitVec 46
  logSize : Nat
  written : Nat
  dropped : Nat
  helper : BitVec 48
  ubc : BitVec 32
  energy : BitVec 64
  seq : BitVec 64
  endpoint : Option (BitVec 8 × DWord)
  rmaSigs : List Sig
  suspending : Option Nat
  tearing : Option Nat
  deriving DecidableEq, Repr

/-- States of a queue (R117); an absent queue number is free. -/
inductive QueueState where
  | empty
  | armed
  | dispatching
  | blocked
  | draining
  | halted
  | tornDown
  deriving DecidableEq, Repr

/-- A host queue (R109 to R119). `exposed` lists the tail values observed and not yet read past, each with the package
time at which it became visible and the attachments of its write (R113, R413); `tag` is that of the last drain or teardown
command (R472); `after` is the state that a halt or a drain has asked for during a read (R117). -/
structure HostQueue where
  state : QueueState
  ctx : Nat
  die : Nat
  ring : BitVec 48
  size : Nat
  tailAddr : BitVec 48
  headAddr : BitVec 48
  prio : Nat
  head : BitVec 64
  last : BitVec 64
  window : List Nat
  reading : List Nat
  status : Nat
  exposed : List (BitVec 64 × Nat × List Sig)
  tag : Nat
  after : Option QueueState
  deriving DecidableEq, Repr

/-- A byte range a record declares: first byte and the byte after the last (R123). -/
structure Range where
  lo : Nat
  hi : Nat
  deriving DecidableEq, Repr

/-- A launch record (R122). -/
structure Record where
  sentry : BitVec 48
  casnis : Bool
  lcode : BitVec 48
  wcode : Nat
  groups : Nat
  cap : Nat
  floor : Nat
  acc : Nat
  bsl : Nat
  cohorts : Nat
  scratch : Nat
  stack : Nat
  ckpt : Nat
  prio : Nat
  fstop : Bool
  flag : BitVec 48
  value : DWord
  args : List DWord
  ckbase : BitVec 48
  rd : List Range
  wr : List Range
  deriving DecidableEq, Repr

/-- States of a kernel (R128). -/
inductive KernelState where
  | declared
  | waiting
  | ready
  | placing
  | running
  | retiring
  | done
  | faulted
  deriving DecidableEq, Repr

/-- A kernel (R122 to R132): its record, who declared it (`launch` is the tag of the `klaunch`), what it waits for, which
cohorts are placed, since when it has been the first in its scheduler's order, whether it holds a reservation; `flagged` says that
its flag has been sent to a peer (R130). -/
structure Kernel where
  record : Record
  ctx : Nat
  seq : Nat
  die : Nat
  state : KernelState
  queue : Option (Nat × Nat)
  parent : Option GroupId
  ancestors : List Nat
  deps : List Nat
  next : Nat
  preempted : List Nat
  live : Nat
  prio : Nat
  boost : Nat
  readyAt : Nat
  agedAt : Nat
  firstAt : Option Nat
  reserved : Bool
  launch : Nat
  flagged : Bool
  sigs : List Sig
  deriving DecidableEq, Repr

/-- A pre-empted cohort in save memory (R165, R313, R324): the cohort, its groups, its scratchpad bytes relative to
its allocation, its accumulator shadows and B bytes relative to its slots, its plane, and the narrows entries of a
bound consumer. -/
structure SavedCohort where
  cohort : Cohort
  groups : List Group
  scratch : Memory
  shadows : Map (List (BitVec 36))
  bmem : Memory
  fills : List Fill
  plane : Option PlaneImage
  narrows : List (Nat × List NarrowsEntry)
  deriving DecidableEq, Repr

/-- Kinds of access that faults report (R472). -/
inductive AccessKind where
  | read
  | write
  | atomic
  | fetch
  deriving DecidableEq, Repr

/-- An unanswered page fault (R347). -/
structure FaultEntry where
  id : Nat
  ctx : Nat
  page : Nat
  kind : AccessKind
  sub : Nat
  deriving DecidableEq, Repr

/-- An event record without its number (R472). -/
structure Event where
  kind : Nat
  status : Nat
  source : Nat
  tag : Nat
  time : Nat
  ws : List DWord
  deriving DecidableEq, Repr

/-- What a die's management unit holds (R113, R134, R347, R351, R471). -/
structure Die where
  faults : List FaultEntry
  poison : List Nat
  buffer : List Event
  trapReserve : List Event
  lost : Nat
  deriving DecidableEq, Repr

/-- What a compute stack holds besides its cores (R349, R392, R431); `l2sigs` holds the signatures attached to each 128-byte
line in its L2 (R400). -/
structure Stack where
  l2 : Map Sector
  l2sigs : Map (List Sig)
  recent : List Sig
  tlb : List Translation
  walk : List (Nat × Nat × Nat)
  temp : BitVec 8
  hot : Bool
  deriving DecidableEq, Repr

/-! ## Skerries -/

/-- A skerry command (R363) with the group that issued it and the value of `fresh` then,
which tells commands apart; `vas` holds the virtual addresses of its row, its destination row, its completion word and its
status word; rows and word addresses are physical; `source` is false in the
FIFO of a transfer's destination channel (R367). -/
structure SkCmd where
  gid : GroupId
  issued : Nat
  vas : List Nat
  kind : Nat
  ctx : Nat
  row : Nat
  iter : Nat
  p0 : Nat
  p1 : Nat
  p2 : Nat
  entry : Nat
  count : Nat
  drow : Nat
  flag : Option Nat
  scope : Nat
  value : DWord
  stat : Option Nat
  source : Bool
  deriving DecidableEq, Repr

/-- Entries of a channel's FIFO (R369); a load's image is there once the copy engine has fetched it (R374). -/
inductive SkOp where
  | run (c : SkCmd)
  | load (gid : GroupId) (core slot tag count : Nat) (image : Option (List DWord))
  | lease (gid : GroupId) (core slot tag : Nat)
  | unlease (gid : GroupId) (core slot tag : Nat)
  | reset (gid : GroupId)
  deriving DecidableEq, Repr

/-- A request on its way to a channel (R364): the issuer, where its status goes, and what enters the FIFO. -/
structure SkRequest where
  gid : GroupId
  core : Nat
  slot : Nat
  tag : Nat
  op : SkOp
  deriving DecidableEq, Repr

/-- The command a skerry is executing (R365 to R367): iterations done, flags, catch-up depth, the physical ranges that the
homes hold for it (R371), how bytes stood there that other agents have written since its start, the lines it has
written, its stop code, the columns a transfer has moved, and the page fault that it waits on (R351). -/
structure SkRun where
  cmd : SkCmd
  done : Nat
  flags : BitVec 5
  depth : Nat
  held : List (Nat × Nat)
  view : Map Byte
  lines : List Nat
  stop : Option Nat
  column : Nat
  fault : Option FaultWait
  deriving DecidableEq, Repr

/-- A word that a bank has missed (R370): the command it belongs to, and the pointers it executes with. -/
structure Missed where
  id : Nat
  word : DWord
  cps : Nat × Nat × Nat
  deriving DecidableEq, Repr

/-- A skerry (R358). Registers and condition bits are kept per bank: `n` under 16 * register + bank as 16 words, `z`
under 16 * bit + bank as 16 bits; `catchup` holds, per bank, the words it has missed; `replaying` holds the commands
that have stopped while a bank still replays (R370), oldest first; `sigs` covers the lines that its commands have
written of late (R412). -/
structure Skerry where
  n : Map (List Word)
  z : Map (BitVec 16)
  cp0 : Nat
  cp1 : Nat
  cp2 : Nat
  program : List DWord
  owner : Option Nat
  lease : Option GroupId
  pc : Nat
  fifo : List SkOp
  requests : List SkRequest
  refreshing : List Nat
  catchup : Map (List Missed)
  running : Option SkRun
  replaying : List SkRun
  sigs : List Sig
  deriving DecidableEq, Repr

/-! ## Links, power, firmware -/

/-- States of a link (R377), in the codes of the LINK event. -/
inductive LinkState where
  | down
  | training
  | up
  | degraded
  | draining
  deriving DecidableEq, Repr

/-- A link (R377, R384): attempts of the current training, whether it trained at full width, the times of its replays of
the last 1 ms, packets refused, and the tag of the command whose change is under way (R472). -/
structure Link where
  state : LinkState
  attempts : Nat
  full : Bool
  replays : List Nat
  refused : Nat
  tag : Nat
  deriving DecidableEq, Repr

/-- A pod aperture entry (R386). -/
structure Aperture where
  enabled : Bool
  port : Nat
  peer : DWord
  ctx : Nat
  base : BitVec 48
  deriving DecidableEq, Repr

/-- What an RMA operation asks of a peer (R387): so many bytes read, bytes written, a 64-bit fetch-and-add, or a 64-bit
compare-and-swap. -/
inductive ApertureAsk where
  | read (n : Nat)
  | write (bytes : List Byte)
  | add (operand : DWord)
  | cas (swap compare : DWord)
  deriving DecidableEq, Repr

/-- An RMA operation to a peer (R386, R387): the aperture entry and what it held when the operation was made, the virtual address at
the peer, the core that made it and the stream of it, if it was one's instruction, the group for which it was made, whoever made
it, the step in which it was made, whether it has left its port, at which it waits until then (R380), and whether the peer's home has acknowledged it. -/
structure ApertureOp where
  entry : Nat
  port : Nat
  peer : DWord
  ctx : Nat
  addr : Nat
  ask : ApertureAsk
  core : Nat
  maker : Option (Stream × GroupId)
  owner : Option GroupId
  tag : Nat
  sent : Bool
  acked : Bool
  deriving DecidableEq, Repr

/-- An RMA operation of the fabric on a context's endpoint (R385). -/
inductive RmaAsk where
  | write (bytes : List Byte)
  | read (n : Nat)
  | atomic (cas : Bool) (operand compare : DWord)
  deriving DecidableEq, Repr

/-- An RMA operation that has arrived at a port and waits to be performed (R121, R371, R379). -/
structure RmaOp where
  ctx : Nat
  port : Nat
  addr : Nat
  ask : RmaAsk
  deriving DecidableEq, Repr

/-- What the package answers to an RMA operation or to a request in recovery-listen (R385, R463), and a BOOT_FAIL record
that leaves by a listening port (R463). -/
inductive Reply where
  | done
  | data (bytes : List Byte)
  | error
  | status (code : Nat)
  | event (port : Nat) (bytes : List Byte)
  deriving DecidableEq, Repr

/-- Power states of a quad (R426). -/
inductive QuadState where
  | active
  | draining
  | gated
  | waking
  deriving DecidableEq, Repr

/-- A quad (R420, R426): its power state, the host floor, the demands on its pass count, and the tag of
the command whose change is under way (R472). -/
structure Quad where
  state : QuadState
  floor : Nat
  burst : Bool
  balance : Nat
  thermal : Bool
  tag : Nat
  deriving DecidableEq, Repr

/-- One layer of a rail (R422 to R424): level in mV, whether a hold runs, whether a rise of the target has stopped a fall, and the
target and the voters as they were last seen. -/
structure RailLayer where
  level : Nat
  hold : Bool
  stopped : Bool
  target : Nat
  voters : List Nat
  deriving DecidableEq, Repr

/-- An HBM4 stack (R429, R430). -/
structure HbmStack where
  level : Nat
  temp : BitVec 8
  deriving DecidableEq, Repr

/-- A trap record on its way to its context's trap log (R106, R381): the context, the core of the group, the record, and the
tag of the command that caused it, or 0 (R472). -/
structure LogWrite where
  ctx : Nat
  core : Nat
  bytes : List Byte
  tag : Nat
  deriving DecidableEq, Repr

/-- A partition (R98, R131, R422, R430, R476): the vote of a rail layer under 2 * rail + layer, the share of a stack
under its number. -/
structure Partition where
  configured : Bool
  cores : BitVec 1024
  votes : Map (Nat × Nat)
  shares : Map Nat
  podId : BitVec 32
  podSize : Nat
  deriving DecidableEq, Repr

/-- Where the start sequence stands (R461, R463). -/
inductive Boot where
  /-- No power. -/
  | off
  /-- A step from 1 to 7 is under way. -/
  | step (n : Nat)
  /-- Grendex runs. -/
  | running
  /-- Recovery-listen, with the step that failed. -/
  | recovery (n : Nat)
  deriving DecidableEq, Repr

/-- A write of the event count to the sink: peer, address, count, package time (R471). -/
structure SinkWrite where
  peer : DWord
  addr : DWord
  count : Nat
  time : Nat
  deriving DecidableEq, Repr

/-- A host invalidation that has not completed (R350): what INVAL reports, and the value of `fresh` when it was accepted. -/
structure Inval where
  ctx : Nat
  base : Nat
  length : Nat
  tag : Nat
  issued : Nat
  deriving DecidableEq, Repr

/-- Saved training values of an HBM4 stack or a strait (R462): the temperature at which they were saved, the value of
`fresh` by which the model names them, and whether a strait trained at full width. -/
structure Training where
  temp : BitVec 8
  value : Nat
  full : Bool
  deriving DecidableEq, Repr

/-- Grendex and its endpoint memory (R461 to R472); `mhead` counts the mailbox slots executed, `quote` is the command whose
quote is being signed, `tag` that of the command that a start under way was commanded by, or 0 (R472), `unsent` the BOOT_FAIL records that no port has listened for yet (R463), `trained` the saved training
values, of strait n under n, of HBM4 stack n under 16 + n (R462). -/
structure Firmware where
  boot : Boot
  warm : Bool
  skipFetch : Bool
  fatal : Bool
  image : Option Image
  measurement : BitVec 256
  ep : Memory
  mhead : Nat
  quote : Option Mbox
  tag : Nat
  sink : Option (DWord × DWord)
  sinkOut : List SinkWrite
  invals : List Inval
  unsent : List (List Byte)
  trained : Map Training
  deriving DecidableEq, Repr

/-! ## The package -/

/-- Whose turn it is to issue. -/
inductive Turn where
  | idle
  /-- A core's streams are given its opportunities of this ac (R141). -/
  | offer (core : Nat)
  | scalar (core slot : Nat)
  | lane (core slot : Nat)
  deriving DecidableEq, Repr

/-- The state of the package. `fresh`, `agenda`, `turn`, `packed` (the groups still to issue at this opportunity),
`passed` (the slots that it passes over once it issues, R142) and `opp` (the value of `fresh` from which on it issues) are the
model's own (log 1, log 4). `stamps` holds the writes that changed each 8-byte word of memory,
newest first, with their package times (R113). -/
structure State where
  fresh : Nat
  agenda : List Instr
  turn : Turn
  packed : List Nat
  passed : List Nat
  opp : Nat
  now : Nat
  mem : Memory
  attached : Map (List Sig)
  writes : Map Nat
  stamps : Map (List (Nat × DWord))
  cores : Map Core
  dieStacks : Map Stack
  ctxs : Map Context
  queues : Map HostQueue
  kernels : Map Kernel
  nextKernel : Nat
  barriers : List Barrier
  saved : Map SavedCohort
  nextSaved : Nat
  dies : Map Die
  skerries : Map Skerry
  links : Map Link
  apertures : Map Aperture
  outgoing : List ApertureOp
  rma : List RmaOp
  logging : List LogWrite
  replies : List Reply
  quads : Map Quad
  rails : Map RailLayer
  hbm : Map HbmStack
  partitions : Map Partition
  fw : Firmware
  deriving DecidableEq, Repr

/-! ## Reset -/

/-- A free plane (R317). -/
def Plane.reset : Plane :=
  { regs := [], flags := [], enables := [], ox := 0, oy := 0, trapMask := 0, status := 0, holder := none, queue := [],
    handlerQueue := [], unreturned := none }

/-- A narrows without entries (R274). -/
def Narrows.reset : Narrows := { waiting := [], inQ7 := 0, toUpper := none, bound := none }

/-- A core with nothing resident (R18, R166). -/
def Core.reset : Core :=
  { groups := [], cohorts := [], scratch := [], l1 := [], l1sigs := [], tlb := [], icache := [], pool := 15872, reserve := 512,
    accs := [], shadows := [], bmem := [], fills := [], arrayQ := [], landing := [], latch := none,
    plane := Plane.reset, engine := [], receiver := none, notices := [], narrows := Narrows.reset, collectors := [], orphans := [],
    bankSet := false, temp0 := 25, temp1 := 25, recent := [], idles := 0, shunts := 0, ac := 0, offered := [],
    scalarOffered := [], granted := false, drawing := [], sfuBusy := 0, sfuOpp := 0, burstGap := 0 }

/-- A stack with empty caches. -/
def Stack.reset : Stack := { l2 := [], l2sigs := [], recent := [], tlb := [], walk := [], temp := 25, hot := false }

/-- A die with no faults and an empty poison list. -/
def Die.reset : Die := { faults := [], poison := [], buffer := [], trapReserve := [], lost := 0 }

/-- A skerry at power-up (R358). -/
def Skerry.reset : Skerry :=
  { n := [], z := [], cp0 := 0, cp1 := 0, cp2 := 0, program := [], owner := none, lease := none, pc := 0, fifo := [],
    requests := [], refreshing := [], catchup := [], running := none, replaying := [], sigs := [] }

/-- A link that is down. -/
def Link.reset : Link := { state := .down, attempts := 0, full := false, replays := [], refused := 0, tag := 0 }

/-- A disabled aperture entry. -/
def Aperture.reset : Aperture := { enabled := false, port := 0, peer := 0, ctx := 0, base := 0 }

/-- An active quad with pass count 1 (R432). -/
def Quad.reset : Quad := { state := .active, floor := 1, burst := false, balance := 1, thermal := false, tag := 0 }

/-- A rail layer at its reset level (R432). -/
def RailLayer.reset : RailLayer := { level := 350, hold := false, stopped := false, target := 300, voters := [] }

/-- An HBM4 stack at level 0 (R432). -/
def HbmStack.reset : HbmStack := { level := 0, temp := 25 }

/-- A partition that is not configured. -/
def Partition.reset : Partition :=
  { configured := false, cores := 0, votes := [], shares := [], podId := 0, podSize := 1 }

/-- A context as CX_CREATE makes it (R97, R108). -/
def Context.created : Context :=
  { state := .created, root := 0, profile := 0, partition := 0, ceiling := 0, hlane := 0, hscal := 0,
    checking := false, debug := false, logBase := 0, logSize := 0, written := 0, dropped := 0, helper := 0, ubc := 0,
    energy := 0, seq := 0, endpoint := none, rmaSigs := [], suspending := none, tearing := none }

/-- A queue with no entries (R235). -/
def Queue.reset : Queue :=
  { entries := [], held := 0, narrow := 0, saved := [], stream := none, ended := false, pendingEnd := false, nmode := false }

/-- Grendex before the start sequence (R461). -/
def Firmware.reset : Firmware :=
  { boot := .off, warm := false, skipFetch := false, fatal := false, image := none, measurement := 0, ep := [],
    mhead := 0, quote := none, tag := 0, sink := none, sinkOut := [], invals := [], unsent := [], trained := [] }

/-- The package right after reset: power applied, the start sequence not begun (R461). -/
def State.reset : State :=
  { fresh := 0, agenda := [], turn := .idle, packed := [], passed := [], opp := 0, now := 0, mem := [], attached := [],
    writes := [], stamps := [], cores := [], dieStacks := [], ctxs := [], queues := [], kernels := [], nextKernel := 0, barriers := [], saved := [],
    nextSaved := 0, dies := [], skerries := [], links := [], apertures := [], outgoing := [], rma := [], logging := [],
    replies := [], quads := [], rails := [], hbm := [], partitions := [], fw := Firmware.reset }

end Sys2Proof.Machine
end

