-- ==== Sys2Proof/Machine/Caches.lean ====
section
/-!
DEFINITION. Physical memory behind L1, L2 and the L3 home, signatures, releases and acquires (17_model, log 3, log 11).
-/
namespace Sys2Proof.Machine

open Sys2Proof

/-! ## Accessors -/

/-- A core of the package. -/
def coreOf (s : State) (c : Nat) : Core := mget s.cores c Core.reset

/-- The package with one core replaced. -/
def setCore (s : State) (c : Nat) (k : Core) : State := { s with cores := mset s.cores c k }

/-- The package with one core changed. -/
def modCore (s : State) (c : Nat) (f : Core → Core) : State := setCore s c (f (coreOf s c))

/-- The compute stack of a core, which is also its die (R9, R14). -/
def dieOf (core : Nat) : Nat := core / 256

/-- A compute stack. -/
def stackOf (s : State) (d : Nat) : Stack := mget s.dieStacks d Stack.reset

/-- The package with one stack changed. -/
def modStack (s : State) (d : Nat) (f : Stack → Stack) : State := { s with dieStacks := mset s.dieStacks d (f (stackOf s d)) }

/-! ## Links as paths (R10, R377 to R380) -/

/-- A port's link id. -/
def portLink (port : Nat) : Nat := 1024 + port

/-- A link; a narrows that no gate has closed is up (log 26). -/
def linkOf (s : State) (id : Nat) : Link :=
  mget s.links id (if id / 1024 = 2 then { Link.reset with state := .up, full := true } else Link.reset)

/-- A link carries traffic. -/
def linkUp (s : State) (id : Nat) : Bool :=
  match (linkOf s id).state with
  | .up => true
  | .degraded => true
  | _ => false

/-- The strait between two dies that differ in one coordinate: 0 for 0-1, 1 for 2-3, 2 for 0-2, 3 for 1-3 (R10, R476). -/
def straitOf (a b : Nat) : Nat := if a / 2 = b / 2 then a / 2 else 2 + a % 2

/-- The straits that traffic from die `a` to die `b` passes: first the one that changes x, then the one that changes y
(R10). -/
def straitPath (a b : Nat) : List Nat :=
  let mid := b % 2 + a / 2 * 2
  (if a = mid then [] else [straitOf a mid]) ++ (if mid = b then [] else [straitOf mid b])

/-- Traffic from one die reaches another: every strait on its path carries traffic (R10, R378, R379). -/
def pathOpen (s : State) (a b : Nat) : Bool := (straitPath a b).all (linkUp s)

/-- A request and its answer both find their paths. -/
def pathsOpen (s : State) (a b : Nat) : Bool := pathOpen s a b && pathOpen s b a

/-! ## Signatures -/

/-- Rotation of a 10-bit number to the left (R399). -/
def rot10 (x n : Nat) : Nat := (x * 2 ^ n + x / 2 ^ (10 - n)) % 1024

/-- The 10 bits of a number in reverse order (R399). -/
def rev10 (x : Nat) : Nat := (List.range 10).foldl (fun a i => a + (x / 2 ^ i % 2) * 2 ^ (9 - i)) 0

/-- The three bits that a 128-byte line sets (R399). -/
def lineHashes (line : Nat) : Nat × Nat × Nat :=
  let a := line % 1024
  let b := line / 1024 % 1024
  let c := line / 1048576 % 1024
  let d := line / 1073741824 % 512
  (a ^^^ b ^^^ c ^^^ d, a ^^^ rot10 b 3 ^^^ rot10 c 6 ^^^ rot10 d 9, rev10 a ^^^ b ^^^ rot10 c 5 ^^^ rot10 d 1)

/-- The bits of one line. -/
def lineBits (line : Nat) : BitVec 1024 :=
  let h := lineHashes line
  (1#1024 <<< h.1) ||| (1#1024 <<< h.2.1) ||| (1#1024 <<< h.2.2)

/-- The signature bits of a set of lines (R399). -/
def linesBits (lines : List Nat) : BitVec 1024 := lines.foldl (fun x l => x ||| lineBits l) 0

/-- A line matches a signature when all three of its bits are set (R399). -/
def sigMatches (g : Sig) (line : Nat) : Bool :=
  let h := lineHashes line
  g.bits.getLsbD h.1 && g.bits.getLsbD h.2.1 && g.bits.getLsbD h.2.2

/-- 100 µs in ns: the life of a clean copy and of a signature (R393, R400, R402). -/
def copyLife : Nat := 100000

/-- The signatures that are still kept. -/
def liveSigs (now : Nat) (l : List Sig) : List Sig := l.filter (fun g => decide (now ≤ g.time + copyLife))

/-- The signature of lines pushed now, as a list; empty for no lines. -/
def sigOf (now : Nat) (lines : List Nat) : List Sig :=
  match lines with
  | [] => []
  | _ => [{ bits := linesBits lines, time := now }]

/-- Two signature lists as one, without repeats. -/
def joinSigs (a b : List Sig) : List Sig := a ++ b.filter (fun g => !a.contains g)

/-! ## Sectors -/

/-- Bytes of a sector (R18). -/
def sectorSize : Nat := 32

/-- The 128-byte line of a sector. -/
def sectorLine (sec : Nat) : Nat := sec / 4

/-- A sector without bytes. -/
def emptySector : Sector := { data := List.replicate 32 0, valid := 0, dirty := 0, filled := 0 }

/-- The bits of `n` bytes from an offset on. -/
def spanBits (off n : Nat) : BitVec 32 := BitVec.ofNat 32 ((2 ^ n - 1) * 2 ^ off)

/-- The sector after a read of the level below at time `now`: dirty bytes stay (R393). -/
def refill (now : Nat) (x : Sector) (below : List Byte) : Sector :=
  { data := (List.range 32).map (fun i => if x.dirty.getLsbD i then x.data.getD i 0 else below.getD i 0),
    valid := BitVec.allOnes 32, dirty := x.dirty, filled := now }

/-- The sector with bytes written into it. -/
def putBytes (x : Sector) (off : Nat) (bs : List Byte) : Sector :=
  { x with
    data := (List.range 32).map
      (fun i => if off ≤ i ∧ i < off + bs.length then bs.getD (i - off) 0 else x.data.getD i 0),
    valid := x.valid ||| spanBits off bs.length, dirty := x.dirty ||| spanBits off bs.length }

/-- A copy that may be used: all bytes present, and not older than 100 µs (R393). -/
def usable (now : Nat) (x : Sector) : Bool := decide (x.valid = BitVec.allOnes 32) && decide (now ≤ x.filled + copyLife)

/-- The dirty bytes of a sector with their offsets. -/
def dirtyBytes (x : Sector) : List (Nat × Byte) :=
  ((List.range 32).filter (fun i => x.dirty.getLsbD i)).map (fun i => (i, x.data.getD i 0))

/-! ## The home -/

/-- The end of HBM4 (R356). -/
def hbmTop : Nat := 12 * 2 ^ 36

/-- The die that carries an address's HBM4 stack (R9, R351). -/
def frameDie (pa : Nat) : Nat := pa / 2 ^ 36 / 3

/-- A pod aperture: physical bit 45 (R386). -/
def isAperture (pa : Nat) : Bool := decide (pa / 2 ^ 45 % 2 = 1)

/-- Attachments of a line at its home (R400). -/
def attachedAt (s : State) (line : Nat) : List Sig := liveSigs s.now (mget s.attached line [])

/-- The package with signatures attached to a line at its home. -/
def attach (s : State) (line : Nat) (sigs : List Sig) : State :=
  match sigs with
  | [] => s
  | _ => { s with attached := mset s.attached line (joinSigs (attachedAt s line) sigs) }

/-- Key of the write counter of a line at a place: 0 the home, 1 + d the L2 of stack d, 5 + c the L1 of core c. -/
def writeKey (line place : Nat) : Nat := line * 2048 + place

/-- The package with a write to a line noted, for the word waits of R246 and R263. -/
def noteWrite (s : State) (line place : Nat) : State :=
  { s with writes := mset s.writes (writeKey line place) (mget s.writes (writeKey line place) 0 + 1) }

/-- The writes to a line performed so far at a core: in its L1, its stack's L2 and at the home. -/
def writesSeen (s : State) (core line : Nat) : Nat :=
  mget s.writes (writeKey line 0) 0 + mget s.writes (writeKey line (1 + dieOf core)) 0 +
    mget s.writes (writeKey line (5 + core)) 0

/-- A physical byte is held for a running skerry command (R371). -/
def holdsByte (r : SkRun) (pa : Nat) : Bool := r.held.any (fun h => decide (h.1 ≤ pa) && decide (pa < h.2))

/-- The commands that a skerry has not finished, oldest first (R370). -/
def runsOf (k : Skerry) : List SkRun := k.replaying ++ k.running.toList

/-- Every command that a skerry has not finished changed. -/
def mapRuns (f : SkRun → SkRun) (k : Skerry) : Skerry := { k with running := k.running.map f, replaying := k.replaying.map f }

/-- A skerry command that holds bytes of a range keeps them as they stood at its start (R371). -/
def keepView (s : State) (pa n : Nat) : State :=
  { s with skerries := mapEntries s.skerries (fun _ k => mapRuns (fun r =>
      { r with view := ((List.range n).map (fun i => pa + i)).foldl (fun v a =>
          if holdsByte r a ∧ (mget? v a).isNone then mset v a (Memory.read s.mem a) else v) r.view }) k) }

/-- The writes of an 8-byte word, newest first, with one that changes its value at a time. -/
def stampWord (now : Nat) (v : DWord) (l : List (Nat × DWord)) : List (Nat × DWord) :=
  if l.head?.any (fun e => decide (e.2 = v)) then l else (now, v) :: l

/-- A write at the home kept with the 8-byte words it touches, their values as they now stand (R113). -/
def stampWords (s : State) (pa n : Nat) : State :=
  { s with stamps := ((List.range ((pa % 8 + n + 7) / 8)).map (fun i => pa / 8 + i)).foldl (fun m w =>
      mset m w (stampWord s.now (bytesDword (Memory.readBytes s.mem (8 * w) 8)) (mget m w []))) s.stamps }

/-- Bytes written at their home (R392, R406). -/
def storeHome (s : State) (pa : Nat) (bs : List Byte) (sigs : List Sig) : State :=
  let s := keepView s pa bs.length
  let s := stampWords { s with mem := Memory.writeBytes s.mem pa bs } pa bs.length
  let s := noteWrite s (pa / 128) 0
  attach s (pa / 128) sigs

/-- Bytes read at their home. -/
def loadHome (s : State) (pa n : Nat) : List Byte := Memory.readBytes s.mem pa n

/-! ## Attachments of cached lines (R400) -/

/-- The signatures attached to a line in a core's L1. -/
def l1SigsOf (s : State) (core line : Nat) : List Sig := liveSigs s.now (mget (coreOf s core).l1sigs line [])

/-- The signatures attached to a line in a stack's L2. -/
def l2SigsOf (s : State) (d line : Nat) : List Sig := liveSigs s.now (mget (stackOf s d).l2sigs line [])

/-- Signatures added to a line's attachments in a cache. -/
def addSigs (now : Nat) (m : Map (List Sig)) (line : Nat) (sigs : List Sig) : Map (List Sig) :=
  match sigs with
  | [] => m
  | _ => mset m line (joinSigs (liveSigs now (mget m line [])) sigs)

/-- The attachments of the lines that a cache still holds. -/
def keptSigs (m : Map Sector) (a : Map (List Sig)) : Map (List Sig) :=
  a.filter (fun e => m.any (fun x => decide (sectorLine x.1 = e.1)))

/-- The lines of which a cache holds a sector; sectors of one line stand next to each other. -/
def linesIn : Map Sector → List Nat
  | [] => []
  | [e] => [sectorLine e.1]
  | e :: x :: m => if sectorLine e.1 = sectorLine x.1 then linesIn (x :: m) else sectorLine e.1 :: linesIn (x :: m)

/-- The sectors of a line that a cache holds. -/
def sectorsOf (m : Map Sector) (line : Nat) : List Nat := (m.filter (fun e => decide (sectorLine e.1 = line))).map (fun e => e.1)

/-! ## Write-back and eviction -/

/-- The package with lines added to what a core's next releases carry (R396). -/
def noteRecent (s : State) (core : Nat) (sigs : List Sig) : State :=
  modCore s core (fun k => { k with recent := joinSigs (liveSigs s.now k.recent) sigs })

/-- The dirty bytes of an L2 sector written to the home; the sector stays, clean (R398). -/
def writeBackL2 (s : State) (d sec : Nat) : State :=
  match mget? (stackOf s d).l2 sec with
  | none => s
  | some x =>
    if x.dirty = 0 then s
    else
      let s := (dirtyBytes x).foldl (fun s e => keepView s (32 * sec + e.1) 1) s
      let s := { s with mem := (dirtyBytes x).foldl (fun m e => Memory.write m (32 * sec + e.1) e.2) s.mem }
      let s := (dirtyBytes x).foldl (fun s e => stampWords s (32 * sec + e.1) 1) s
      let s := noteWrite (attach s (sectorLine sec) (l2SigsOf s d (sectorLine sec))) (sectorLine sec) 0
      modStack s d (fun k =>
        { k with l2 := mset k.l2 sec { x with dirty := 0 },
                 recent := joinSigs (liveSigs s.now k.recent) (sigOf s.now [sectorLine sec]) })

/-- A sector evicted from a stack's L2 (R392). -/
def evictL2 (s : State) (d sec : Nat) : State :=
  modStack (writeBackL2 s d sec) d (fun k =>
    let m := merase k.l2 sec
    { k with l2 := m, l2sigs := keptSigs m k.l2sigs })

/-- The lines that an L1 of 128 KiB and an L2 of 64 MiB hold (R18, R19). -/
def l1Lines : Nat := 1024

/-- See `l1Lines`. -/
def l2Lines : Nat := 524288

/-- One of the lines that may leave a full cache for another one: which, is open (log 11); `key` names the line and the
cache. -/
def victimLine (s : State) (l : List Nat) (key : Nat) : Option Nat := l[(Config.freeValue s.fresh 740 key).toNat % l.length]?

/-- A cache holds dirty bytes of a line. -/
def dirtyLine (m : Map Sector) (line : Nat) : Bool := m.any (fun e => decide (sectorLine e.1 = line) && decide (e.2.dirty ≠ 0))

/-- A line may leave a stack's L2: it is clean, or its write-back finds the way to its home open (R10, R381). -/
def mayLeaveL2 (s : State) (d line : Nat) : Bool :=
  !dirtyLine (stackOf s d).l2 line || pathsOpen s d (frameDie (128 * line))

/-- A stack's L2 is full and does not hold a line. -/
def fullL2 (s : State) (d line : Nat) : Bool :=
  let m := (stackOf s d).l2
  !m.any (fun e => decide (sectorLine e.1 = line)) && decide (l2Lines ≤ (linesIn m).length)

/-- The lines for which a stack's L2 has room, or can make room. -/
def roomOf (s : State) (d : Nat) : Nat :=
  (l2Lines - (linesIn (stackOf s d).l2).length) + ((linesIn (stackOf s d).l2).filter (fun l => mayLeaveL2 s d l)).length

/-- The lines that one instruction may bring into an L2: one for each lane, and one that each of these may drive out of the L1. -/
def accessLines : Nat := 128

/-- A stack's L2 may run out of room for the lines of an access: what uses it waits until more lines may leave (R19, log 11). -/
def roomWaits (s : State) (d : Nat) : Bool := decide (roomOf s d < accessLines)

/-- Room for a line in a stack's L2: where it is full and does not hold the line, one line is evicted. -/
def roomL2 (s : State) (d line : Nat) : State :=
  let m := (stackOf s d).l2
  if !fullL2 s d line then s
  else
    match victimLine s ((linesIn m).filter (fun l => mayLeaveL2 s d l)) (writeKey line (1 + d)) with
    | none => s
    | some v => (sectorsOf m v).foldl (fun s sec => evictL2 s d sec) s

/-- A sector put into a stack's L2. -/
def putL2 (s : State) (d sec : Nat) (x : Sector) (sigs : List Sig) : State :=
  modStack (roomL2 s d (sectorLine sec)) d (fun k =>
    { k with l2 := mset k.l2 sec x, l2sigs := addSigs s.now k.l2sigs (sectorLine sec) sigs })

/-- The dirty bytes of an L1 sector written to L2; the sector stays, clean (R398). -/
def writeBackL1 (s : State) (core sec : Nat) : State :=
  match mget? (coreOf s core).l1 sec with
  | none => s
  | some x =>
    if x.dirty = 0 then s
    else
      let d := dieOf core
      let s := roomL2 s d (sectorLine sec)
      let y := mget (stackOf s d).l2 sec emptySector
      let s := putL2 s d sec ((dirtyBytes x).foldl (fun y e => putBytes y e.1 [e.2]) y) (l1SigsOf s core (sectorLine sec))
      let s := noteWrite s (sectorLine sec) (1 + d)
      let s := noteRecent s core (sigOf s.now [sectorLine sec])
      modCore s core (fun k => { k with l1 := mset k.l1 sec { x with dirty := 0 } })

/-- A sector evicted from a core's L1 (R392). -/
def evictL1 (s : State) (core sec : Nat) : State :=
  modCore (writeBackL1 s core sec) core (fun k =>
    let m := merase k.l1 sec
    { k with l1 := m, l1sigs := keptSigs m k.l1sigs })

/-- A line may leave a core's L1: it is clean, or its stack's L2 has room for what is written back. -/
def mayLeaveL1 (s : State) (core line : Nat) : Bool := !dirtyLine (coreOf s core).l1 line || decide (0 < roomOf s (dieOf core))

/-- Room for a line in a core's L1: where it is full and does not hold the line, one line is evicted. -/
def roomL1 (s : State) (core line : Nat) : State :=
  let m := (coreOf s core).l1
  if m.any (fun e => decide (sectorLine e.1 = line)) ∨ (linesIn m).length < l1Lines then s
  else
    match victimLine s ((linesIn m).filter (mayLeaveL1 s core)) (writeKey line (5 + core)) with
    | none => s
    | some v => (sectorsOf m v).foldl (fun s sec => evictL1 s core sec) s

/-- A sector put into a core's L1. -/
def putL1 (s : State) (core sec : Nat) (x : Sector) (sigs : List Sig) : State :=
  modCore (roomL1 s core (sectorLine sec)) core (fun k =>
    { k with l1 := mset k.l1 sec x, l1sigs := addSigs s.now k.l1sigs (sectorLine sec) sigs })

/-! ## Reads and writes at a level -/

/-- An L2 sector that may be read, filled from the home where needed (R392, R393). -/
def getL2 (s : State) (d sec : Nat) : Sector × State :=
  let x := mget (stackOf s d).l2 sec emptySector
  if usable s.now x then (x, s)
  else
    let s := roomL2 s d (sectorLine sec)
    let y := refill s.now x (loadHome s (32 * sec) 32)
    (y, putL2 s d sec y (attachedAt s (sectorLine sec)))

/-- An L1 sector that may be read, filled from L2 where needed. -/
def getL1 (s : State) (core sec : Nat) : Sector × State :=
  let x := mget (coreOf s core).l1 sec emptySector
  if usable s.now x then (x, s)
  else
    let s := roomL1 s core (sectorLine sec)
    let (z, s) := getL2 s (dieOf core) sec
    let y := refill s.now x z.data
    (y, putL1 s core sec y (l2SigsOf s (dieOf core) (sectorLine sec)))

/-- What a read delivers: its bytes, the attachments of its line, and the package after it. -/
structure Read where
  bytes : List Byte
  sigs : List Sig
  state : State

/-- `n` bytes of one sector, read at level 0 (through L1), 1 (in L2) or 2 (at the home) (R392, R401). A read below L1
first evicts the core's own copies above its level, so that a later read cannot return an older value (R390). -/
def readLevel (s : State) (core level pa n : Nat) : Read :=
  let sec := pa / 32
  let off := pa % 32
  if level = 0 then
    let (x, s) := getL1 s core sec
    ⟨(x.data.drop off).take n, l1SigsOf s core (sectorLine sec), s⟩
  else if level = 1 then
    let (x, s) := getL2 (evictL1 s core sec) (dieOf core) sec
    ⟨(x.data.drop off).take n, l2SigsOf s (dieOf core) (sectorLine sec), s⟩
  else
    let s := evictL2 (evictL1 s core sec) (dieOf core) sec
    ⟨loadHome s pa n, attachedAt s (pa / 128), s⟩

/-- Bytes within one sector, written at a level with their attachments (R392, R400). -/
def writeLevel (s : State) (core level pa : Nat) (bs : List Byte) (sigs : List Sig) : State :=
  let sec := pa / 32
  let off := pa % 32
  if level = 0 then
    let x := mget (coreOf s core).l1 sec emptySector
    noteWrite (putL1 s core sec (putBytes x off bs) sigs) (pa / 128) (5 + core)
  else if level = 1 then
    let d := dieOf core
    let s := evictL1 s core sec
    let x := mget (stackOf s d).l2 sec emptySector
    noteRecent (noteWrite (putL2 s d sec (putBytes x off bs) sigs) (pa / 128) (1 + d)) core (sigOf s.now [pa / 128])
  else
    let s := evictL2 (evictL1 s core sec) (dieOf core) sec
    noteRecent (storeHome s pa bs sigs) core (sigOf s.now [pa / 128])

/-! ## Releases and acquires -/

/-- The level of a scope's coherence point (R21): L1, L2 or the home. -/
def scopeLevel : Scope → Nat
  | .lane => 0
  | .core => 0
  | .quad => 1
  | .die => 1
  | .package => 2
  | .pod => 2

/-- The scope of a code of R49. -/
def scopeOfCode : Nat → Scope
  | 0 => .lane
  | 1 => .core
  | 2 => .quad
  | 3 => .die
  | 4 => .package
  | _ => .pod

/-- The keys of the sectors that hold dirty bytes. -/
def dirtySectors (m : Map Sector) : List Nat := (m.filter (fun e => decide (e.2.dirty ≠ 0))).map (fun e => e.1)

/-- The dirty lines that some cores of a stack would write back find no room in its L2 beside those of an access (R19). -/
def crowded (s : State) (d : Nat) (cores : List Nat) : Bool :=
  decide (roomOf s d <
    accessLines + (cores.map (fun c => (linesIn ((coreOf s c).l1.filter (fun e => decide (e.2.dirty ≠ 0)))).length)).foldl (· + ·) 0)

/-- Lines 001 to 008 of R398, or R397 at core scope: the write-backs of a release by an agent of a core with its
inherited signature, and the signature S it publishes (empty at core scope). -/
def release (s : State) (core : Nat) (scope : Scope) (inherited : List Sig) : List Sig × State :=
  let inh := liveSigs s.now inherited
  match scopeLevel scope with
  | 0 => ([], noteRecent s core inh)
  | 1 =>
    let s := (dirtySectors (coreOf s core).l1).foldl (fun s sec => writeBackL1 s core sec) s
    (joinSigs inh (liveSigs s.now (coreOf s core).recent), s)
  | _ =>
    let d := dieOf core
    let s := (dirtySectors (coreOf s core).l1).foldl (fun s sec => writeBackL1 s core sec) s
    let s := (dirtySectors (stackOf s d).l2).foldl (fun s sec => writeBackL2 s d sec) s
    (joinSigs inh (joinSigs (liveSigs s.now (coreOf s core).recent) (liveSigs s.now (stackOf s d).recent)), s)

/-- The sectors of a cache after the clean bytes of every line that matches a signature are dropped (R401). -/
def dropMatching (m : Map Sector) (sigs : List Sig) : Map Sector :=
  (m.map (fun e => if sigs.any (fun g => sigMatches g (sectorLine e.1)) then (e.1, { e.2 with valid := e.2.dirty }) else e)).filter
    (fun e => decide (e.2.valid ≠ 0))

/-- A core's L1 after such drops. -/
def dropL1 (sigs : List Sig) (k : Core) : Core :=
  let m := dropMatching k.l1 sigs
  { k with l1 := m, l1sigs := keptSigs m k.l1sigs }

/-- A stack's L2 after such drops. -/
def dropL2 (sigs : List Sig) (k : Stack) : Stack :=
  let m := dropMatching k.l2 sigs
  { k with l2 := m, l2sigs := keptSigs m k.l2sigs }

/-- The drops of an acquire at a scope for the signatures it read (R401): L1 at quad scope or wider, L2 as well at
package and pod scope, nothing at core scope (R397). -/
def acquireDrop (s : State) (core : Nat) (scope : Scope) (sigs : List Sig) : State :=
  match scopeLevel scope with
  | 0 => s
  | 1 => modCore s core (dropL1 sigs)
  | _ => modStack (modCore s core (dropL1 sigs)) (dieOf core) (dropL2 sigs)

end Sys2Proof.Machine
end

