-- ==== Sys2Proof/Machine/Ops.lean ====
section
/-!
DEFINITION. Shared operations: groups and contexts, events, the trap log, the reconvergence stack, address translation,
page faults, accesses in a context's address space, taking a trap and returning from one.
-/
namespace Sys2Proof.Machine

open Sys2Proof

/-! ## Why an instruction does not complete -/

/-- What keeps an instruction from taking its effect. -/
inductive Stop where
  /-- The stream stalls; the instruction issues again (R138). -/
  | stall (r : StallReason)
  /-- A precise trap (R103). -/
  | trap (t : Trap)
  /-- A translation fault (R346): address, kind of access, subcode. -/
  | page (va : DWord) (kind : AccessKind) (sub : Nat)
  /-- The stream waits for a word, in the package as its read has left it; its instruction issues again when it has been woken, or
  a peer has answered (R246, R263, R387). -/
  | sleepWord (w : WordWait) (s : State)
  /-- A register write needs this many quarter-registers and finds too few (R169). -/
  | alloc (need : Nat)
  deriving DecidableEq, Repr

/-- A result or a stop. -/
abbrev Res (α : Type) := Except Stop α

/-- A trap of a code with subcode 0 and a word. -/
def trapOf {α : Type} (code : Nat) (word : DWord) : Res α := .error (.trap ⟨code, 0, word, none, none⟩)

/-- A trap with a subcode. -/
def trapSub {α : Type} (code sub : Nat) (word : DWord) : Res α := .error (.trap ⟨code, sub, word, none, none⟩)

/-- ILLEGAL_OPERAND with its field index and value (R59). -/
def illegalOperand {α : Type} (index value : Nat) : Res α :=
  trapOf 0x02 (BitVec.ofNat 64 (index + value % 256 * 256))

/-! ## Groups and contexts -/

/-- The group in a slot of a core. -/
def groupOf (s : State) (c g : Nat) : Option Group := mget? (coreOf s c).groups g

/-- The package with one group replaced. -/
def setGroup (s : State) (c g : Nat) (x : Group) : State := modCore s c (fun k => { k with groups := mset k.groups g x })

/-- The package with one group changed, if it is there. -/
def modGroup (s : State) (c g : Nat) (f : Group → Group) : State :=
  match groupOf s c g with
  | some x => setGroup s c g (f x)
  | none => s

/-- The package with one lane stream changed. -/
def modLane (s : State) (c g : Nat) (f : Lane → Lane) : State := modGroup s c g (fun x => { x with ln := f x.ln })

/-- The package with one scalar stream changed. -/
def modScalar (s : State) (c g : Nat) (f : Scalar → Scalar) : State := modGroup s c g (fun x => { x with sc := f x.sc })

/-- A context's record; a free number reads as just created. -/
def ctxOf (s : State) (n : Nat) : Context := mget s.ctxs n Context.created

/-- The package with one context changed, if it exists. -/
def modCtx (s : State) (n : Nat) (f : Context → Context) : State := { s with ctxs := mmod s.ctxs n f }

/-- Lanes of a width code (R122). -/
def widthOf (code : Nat) : Nat := 8 * 2 ^ code

/-- The width of a group in lanes (R24). -/
def widthG (x : Group) : Nat := widthOf x.wcode

/-- The identity of a group. -/
def gidOf (x : Group) : GroupId := ⟨x.ctx, x.seq, x.cohort, x.index⟩

/-- The cohort of a group on its core: kernel sequence and cohort number under its context. -/
def cohortKey (x : Group) : Nat × Nat := (x.seq, x.cohort)

/-- The cohort record of a group. -/
def cohortOf (k : Core) (x : Group) : Option Cohort :=
  k.cohorts.find? (fun c => decide (c.ctx = x.ctx) && decide (c.seq = x.seq) && decide (c.number = x.cohort))

/-- The core with one cohort changed. -/
def modCohort (k : Core) (x : Group) (f : Cohort → Cohort) : Core :=
  { k with cohorts := k.cohorts.map (fun c =>
      if c.ctx = x.ctx ∧ c.seq = x.seq ∧ c.number = x.cohort then f c else c) }

/-- The quad of a core, and its record (R14). -/
def quadOf (s : State) (core : Nat) : Quad := mget s.quads (core / 4) Quad.reset

/-- The pass count of a quad: the largest demand (R420). -/
def passCount (q : Quad) : Nat := max (max q.floor q.balance) (max (if q.burst then 2 else 1) (if q.thermal then 2 else 1))

/-- The vertical partner of a core (R14). -/
def partner (core : Nat) : Nat := core ^^^ 4

/-- The lower core of a vertical pair, which keeps the pair's narrows. -/
def lowerOf (core : Nat) : Nat := if core / 4 % 2 = 1 then core - 4 else core

/-- The narrows of a core's pair. -/
def narrowsOf (s : State) (core : Nat) : Narrows := (coreOf s (lowerOf core)).narrows

/-- The package with the narrows of a core's pair changed. -/
def modNarrows (s : State) (core : Nat) (f : Narrows → Narrows) : State :=
  modCore s (lowerOf core) (fun k => { k with narrows := f k.narrows })

/-- The ac that an issue step of a group takes (R51). -/
def issueAc (s : State) (core : Nat) (x : Group) : Nat := passCount (quadOf s core) * ((widthG x + 31) / 32)

/-- A number of issue steps on a lane stream's clock, which counts eighths of them: an issue step takes 1, 2, 4 or 8 ac (R51). -/
def issueSteps (n : Nat) : Nat := 8 * n

/-- A free value for a use of this step (R7, log 4). -/
def freeWord (s : State) (tag i : Nat) : DWord := Config.freeValue s.fresh tag i

/-- Free bytes. -/
def freeBytes (s : State) (tag n : Nat) : List Byte := (List.range n).map (fun i => BitVec.ofNat 8 (freeWord s tag i).toNat)

/-! ## Events (R470 to R472) -/

/-- A die's management unit. -/
def dieRec (s : State) (d : Nat) : Die := mget s.dies d Die.reset

/-- The package with one die's management unit changed. -/
def modDie (s : State) (d : Nat) (f : Die → Die) : State := { s with dies := mset s.dies d (f (dieRec s d)) }

/-- The source number of a die's management unit (R26). -/
def unitSource (d : Nat) : Nat := 0x0B00 + d

/-- An 8-byte word of the mailbox endpoint. -/
def epWord (s : State) (off : Nat) : Nat := bytesToNat (Memory.readBytes s.fw.ep off 8)

/-- The package with bytes of the mailbox endpoint written. -/
def epWrite (s : State) (off : Nat) (bs : List Byte) : State :=
  { s with fw := { s.fw with ep := Memory.writeBytes s.fw.ep off bs } }

/-- The 64 bytes of an event record with its number (R472). -/
def eventBytes (e : Event) (n : Nat) : List Byte :=
  natToBytes 1 e.kind ++ natToBytes 1 e.status ++ natToBytes 2 e.source ++ natToBytes 4 e.tag ++ natToBytes 8 e.time ++
    ((List.range 5).map (fun i => dwordBytes 8 (e.ws.getD i 0))).flatten ++ natToBytes 8 n

/-- Where event number `n` stands in the ring (R471). -/
def ringAt (n : Nat) : Nat := 0x10000 + 64 * (n % 4096)

/-- Record `n` of the ring has the package time of an event and comes from a higher source: R27 lists it behind. -/
def ringAfter (s : State) (e : Event) (n : Nat) : Bool :=
  decide (epWord s (ringAt n + 8) = e.time % 2 ^ 64) && decide (e.source < epWord s (ringAt n) / 2 ^ 16 % 2 ^ 16)

/-- The number that an event takes: the records at the end of the ring that R27 lists behind it, and that the host has not
consumed, move up by one (log 119). -/
def ringPlace (e : Event) : Nat → Nat → State → Nat × State
  | 0, n, s => (n, s)
  | fuel + 1, n, s =>
    if epWord s 0x2100 < n ∧ ringAfter s e (n - 1) then
      ringPlace e fuel (n - 1) (epWrite s (ringAt n) (Memory.readBytes s.fw.ep (ringAt (n - 1)) 56 ++ natToBytes 8 n))
    else (n, s)

/-- An event written into the ring, in the order of R27, and counted (R471). -/
def ringWrite (s : State) (e : Event) : State :=
  let n := epWord s 0x2080
  let r := ringPlace e (min 4096 n) n s
  epWrite (epWrite r.2 (ringAt r.1) (eventBytes e r.1)) 0x2080 (natToBytes 8 (n + 1))

/-- Room in the event ring. -/
def ringRoom (s : State) : Nat := 4096 - (epWord s 0x2080 - epWord s 0x2100)

/-- No die holds an event back. -/
def noneWaiting (s : State) : Bool := s.dies.all (fun d => d.2.buffer.isEmpty && d.2.trapReserve.isEmpty)

/-- A LOST event of a die (R471). -/
def lostEvent (s : State) (d n : Nat) : Event := ⟨0x13, 0, unitSource d, 0, s.now, [BitVec.ofNat 64 n]⟩

/-- An event posted by a die's management unit, written, held back or dropped as R471 gives; the first that finds room
after a drop is preceded by a LOST event. -/
def postEvent (s : State) (d : Nat) (e : Event) : State :=
  let lost := (dieRec s d).lost
  let es := if lost = 0 then [e] else [lostEvent s d lost, e]
  let found := modDie s d (fun x => { x with lost := 0 })
  if es.length ≤ ringRoom s ∧ noneWaiting s then es.foldl ringWrite found
  else if e.kind = 0x03 then modDie s d (fun x => { x with trapReserve := x.trapReserve ++ [e] })
  else if (dieRec s d).buffer.length + es.length ≤ 256 then modDie found d (fun x => { x with buffer := x.buffer ++ es })
  else if e.kind = 0x01 ∨ e.kind = 0x02 ∨ e.kind = 0x0D then modDie s d (fun x => { x with buffer := x.buffer ++ [e] })
  else
    let s := epWrite s 0x2180 (natToBytes 8 (epWord s 0x2180 + 1))
    modDie s d (fun x => { x with lost := x.lost + 1 })

/-- The oldest event held back, with the die that holds it and whether it waits in the TRAP reserve (R27, R471). -/
def nextHeld (s : State) : Option (Event × Nat × Bool) :=
  (sortBy (fun a b => lexLt [a.1.time, a.1.source] [b.1.time, b.1.source])
    ((s.dies.filterMap (fun d => d.2.buffer.head?.map (fun e => (e, d.1, false)))) ++
      (s.dies.filterMap (fun d => d.2.trapReserve.head?.map (fun e => (e, d.1, true)))))).head?

/-- Events held back enter the ring while it has room; `fuel` bounds them. -/
def releaseHeld : Nat → State → State
  | 0, s => s
  | fuel + 1, s =>
    if ringRoom s = 0 then s
    else
      match nextHeld s with
      | none => s
      | some (e, d, true) => releaseHeld fuel (ringWrite (modDie s d (fun x => { x with trapReserve := x.trapReserve.tail })) e)
      | some (e, d, false) => releaseHeld fuel (ringWrite (modDie s d (fun x => { x with buffer := x.buffer.tail })) e)

/-- Every event held back enters the ring while it has room (R471). -/
def settleRing (s : State) : State :=
  releaseHeld ((s.dies.map (fun d => d.2.buffer.length + d.2.trapReserve.length)).foldl (· + ·) 0) s

/-- An event of a kind with its words, posted now by a die's unit. -/
def post (s : State) (d kind status tag : Nat) (ws : List Nat) : State :=
  postEvent s d ⟨kind, status, unitSource d, tag, s.now, ws.map (BitVec.ofNat 64)⟩

/-! ## The trap log and faulted contexts (R103, R106) -/

/-- Bytes written at a physical address that the host has named; where no memory is, nothing stays (log 14). -/
def storeAt (s : State) (pa : Nat) (bs : List Byte) : State := if pa < hbmTop then storeHome s pa bs [] else s

/-- Bytes read at a physical address that the host has named; where no memory is, free values (log 14). -/
def loadAt (s : State) (pa n : Nat) : List Byte := if pa < hbmTop then loadHome s pa n else freeBytes s 743 n

/-- The address of the three words that follow a context's trap log (R106). -/
def logWords (c : Context) : Nat := c.logBase.toNat + 64 * c.logSize

/-- A context's trap log has no room (R106). -/
def logFull (s : State) (ctx : Nat) : Bool :=
  decide ((ctxOf s ctx).written - bytesToNat (loadAt s (logWords (ctxOf s ctx) + 8) 8) = (ctxOf s ctx).logSize)

/-- Where record number `n` stands in a context's trap log (R106). -/
def logAt (c : Context) (n : Nat) : Nat := c.logBase.toNat + 64 * (n % c.logSize)

/-- Of two trap records the first goes behind the second (R27): they have one package time, and it comes from a higher
source. -/
def recordAfter (a b : List Byte) : Bool :=
  decide ((a.drop 0x20).take 8 = (b.drop 0x20).take 8) &&
    decide (bytesToNat ((b.drop 0x30).take 2) < bytesToNat ((a.drop 0x30).take 2))

/-- The number that a record takes in a context's trap log: the records at its end that R27 lists behind it, and that the
host has not consumed, move up by one (R106, log 119). -/
def logPlace (c : Context) (bs : List Byte) : Nat → Nat → State → Nat × State
  | 0, n, s => (n, s)
  | fuel + 1, n, s =>
    let last := loadAt s (logAt c (n - 1)) 64
    if bytesToNat (loadAt s (logWords c + 8) 8) < n ∧ recordAfter last bs then
      logPlace c bs fuel (n - 1) (storeAt s (logAt c n) last)
    else (n, s)

/-- A trap record copied to the context's trap log, in the order of R27: the package, the record's number and whether it was
dropped (R106). -/
def logRecord (s : State) (ctx : Nat) (bs : List Byte) : State × Nat × Bool :=
  let c := ctxOf s ctx
  if logFull s ctx then
    let s := storeAt s (logWords c + 16) (natToBytes 8 (c.dropped + 1))
    (modCtx s ctx (fun c => { c with dropped := c.dropped + 1 }), c.written, true)
  else
    let r := logPlace c bs (min c.logSize c.written) c.written s
    let s := storeAt r.2 (logAt c r.1) bs
    let s := storeAt s (logWords c) (natToBytes 8 (c.written + 1))
    (modCtx s ctx (fun c => { c with written := c.written + 1 }), r.1, false)

/-- A trap of a context's that has no handler faults it while it is runnable (R100), and also while it is suspended and a
group of it still runs in a handler, of which R100 says nothing; the suspend stays pending (log 94). -/
def mayFault (st : CtxState) : Bool :=
  match st with
  | .runnable => true
  | .suspended => true
  | _ => false

/-- A context in state faulted, with its TRAP event; `tag` is that of the command which caused it, or 0 (R472). -/
def becomeFaulted (s : State) (ctx d number : Nat) (dropped : Bool) (tag : Nat := 0) : State :=
  post (modCtx s ctx (fun c => { c with state := .faulted })) d 0x03 0 tag [ctx, number, b2n dropped]

/-- A context moved to faulted by a trap whose record has been logged; one TRAP event per fault (R106). A context that is
faulted or torn down, or has not started, stays as it is (R100, R101). -/
def faultContext (s : State) (ctx d number : Nat) (dropped : Bool) (tag : Nat := 0) : State :=
  if !mayFault (ctxOf s ctx).state then s else becomeFaulted s ctx d number dropped tag

/-- A context faulted without a record (R105, R267): the TRAP event carries the number that the next record will take, which
no rule gives (log 108). -/
def faultNoRecord (s : State) (ctx d : Nat) (tag : Nat := 0) : State := faultContext s ctx d (ctxOf s ctx).written false tag

/-- A trap record reaches its log, and its context goes to faulted (R103, R106). -/
def logTrap (s : State) (w : LogWrite) : State :=
  let r := logRecord s w.ctx w.bytes
  faultContext r.1 w.ctx (dieOf w.core) r.2.1 r.2.2 w.tag

/-! ## The reconvergence stack (R148 to R151) -/

/-- Bytes of an entry in spill memory and in the checkpoint area (R148). -/
def entryBytes (e : StackEntry) : List Byte :=
  let kind := match e.kind with
    | .reconv => 0
    | .pending => 1
    | .call => 2
    | .meld => 3
  natToBytes 8 (e.pc.toNat + kind * 2 ^ 48) ++ natToBytes 8 e.rpc.toNat ++ natToBytes 8 e.mask.toNat ++
    natToBytes 8 e.fmt.toNat

/-- The entry that 32 bytes hold. -/
def entryOfBytes (bs : List Byte) : StackEntry :=
  let w (i : Nat) : Nat := bytesToNat ((bs.drop (8 * i)).take 8)
  { kind := match w 0 / 2 ^ 48 % 4 with
      | 0 => .reconv
      | 1 => .pending
      | 2 => .call
      | _ => .meld,
    pc := BitVec.ofNat 48 (w 0), rpc := BitVec.ofNat 48 (w 1), mask := BitVec.ofNat 64 (w 2),
    fmt := BitVec.ofNat 32 (w 3 % 2 ^ 15) }

/-- The number of spilled entries. -/
def spillCount (l : Lane) : Nat := (l.rsp.toNat - l.stklim.toNat) / 32

/-- Held and spilled entries together. -/
def stackDepth (l : Lane) : Nat := spillCount l + l.stack.length

/-- A push; the held list is top first. The 33rd entry spills the oldest, or traps STACK_LIMIT with word rsp + 32
(R151). -/
def pushEntry (l : Lane) (m : Memory) (e : StackEntry) : Res (Lane × Memory) :=
  if l.stack.length < 32 then .ok ({ l with stack := e :: l.stack }, m)
  else if l.sp.toNat < l.rsp.toNat + 32 then trapOf 0x0B (BitVec.ofNat 64 (l.rsp.toNat + 32))
  else
    match l.stack.getLast? with
    | none => .ok ({ l with stack := e :: l.stack }, m)
    | some old =>
      .ok ({ l with stack := e :: l.stack.dropLast, rsp := BitVec.ofNat 19 (l.rsp.toNat + 32) },
        Memory.writeBytes m l.rsp.toNat (entryBytes old))

/-- A pop; while entries are spilled, the most recently spilled one is held again (R151). -/
def popEntry (l : Lane) (m : Memory) : Lane :=
  let rest := l.stack.tail
  if rest.length < 32 ∧ 0 < spillCount l then
    let at32 := l.rsp.toNat - 32
    { l with stack := rest ++ [entryOfBytes (Memory.readBytes m at32 32)], rsp := BitVec.ofNat 19 at32 }
  else { l with stack := rest }

/-- Pops until at most `n` entries remain; `fuel` bounds the pops. -/
def popTo (m : Memory) (n : Nat) : Nat → Lane → Lane
  | 0, l => l
  | fuel + 1, l => if stackDepth l ≤ n then l else popTo m n fuel (popEntry l m)

/-! ## Address translation (R343 to R349) -/

/-- The lowest virtual address bit that a level indexes (R343). -/
def levelShift : Nat → Nat
  | 0 => 38
  | 1 => 28
  | 2 => 23
  | 3 => 18
  | _ => 13

/-- The entries of a table of a level (R343). -/
def levelEntries (level : Nat) : Nat := if level < 2 then 1024 else 32

/-- A leaf at a level maps a page of this many bytes (R343). -/
def pageSize (level : Nat) : Nat := 2 ^ levelShift level

/-- Bits [45:8] of an entry as an address (R344). -/
def entryAddr (e : Nat) : Nat := e / 256 % 2 ^ 38 * 256

/-- A valid entry that is malformed at its level (R344). -/
def malformed (level e : Nat) : Bool :=
  let leaf := e / 2 % 2 = 1
  let pol := e / 2 ^ 46 % 4
  decide (e / 2 ^ 7 % 2 = 1) || decide (e / 2 ^ 56 ≠ 0) ||
    (if leaf then
      decide (level = 0) || decide (entryAddr e % pageSize level ≠ 0) || decide (pol = 3) ||
        (decide (e / 32 % 2 = 1) && decide (e / 16 % 2 = 0)) || (isAperture (entryAddr e) && decide (pol ≠ 2))
    else
      decide (level = 4) || decide (e / 4 % 64 ≠ 0) || decide (pol ≠ 0) ||
        decide (entryAddr e % (8 * levelEntries (level + 1)) ≠ 0))

/-- What a walk ends in: a leaf with its level, or a subcode of R346, with the signatures attached to the entries that were
read (R345), or nothing yet, since the way to a table is closed (R379) or a skerry command holds it (R371). -/
inductive Walk where
  | leaf (level : Nat) (e : Nat) (sigs : List Sig)
  | bad (sub : Nat) (sigs : List Sig)
  | wait
  deriving DecidableEq, Repr

/-- An address where HBM4 is; what lies neither there nor in an aperture is nothing (R356, log 14). -/
def isMemory (pa : Nat) : Bool := decide (pa < hbmTop)

/-- The 8 KiB frame of a physical address is on its die's poison list (R351). -/
def poisoned (s : State) (pa : Nat) : Bool := (dieRec s (frameDie pa)).poison.contains (pa / 8192)

/-- A skerry command holds bytes of a range (R371). -/
def skerryHolds (s : State) (pa n : Nat) : Bool :=
  s.skerries.any (fun k => (runsOf k.2).any (fun r => r.held.any (fun h => decide (pa < h.2) && decide (h.1 < pa + n))))

/-- A table entry read at its home; where no memory is, a free value (log 14). -/
def tableEntry (s : State) (pa : Nat) : Nat :=
  if isMemory pa then bytesToNat (Memory.readBytes s.mem pa 8) else (freeWord s 741 pa).toNat

/-- A walk by a die's walker from a table of a level (R343, R345); a table in a frame of the poison list gives subcode 4 (R351).
`fuel` counts the levels left. -/
def walkFrom (s : State) (d va : Nat) : Nat → Nat → Nat → List Sig → Walk
  | 0, _, _, sigs => .bad 2 sigs
  | fuel + 1, level, base, sigs =>
    let at8 := base + 8 * (va / 2 ^ levelShift level % levelEntries level)
    if isMemory at8 ∧ (!pathsOpen s d (frameDie at8) ∨ skerryHolds s at8 8) then .wait
    else if isMemory at8 ∧ poisoned s at8 then .bad 4 sigs
    else
      let e := tableEntry s at8
      let sigs := joinSigs sigs (attachedAt s (at8 / 128))
      if e % 2 = 0 then .bad 1 sigs
      else if malformed level e then .bad 2 sigs
      else if e / 2 % 2 = 1 then .leaf level e sigs
      else walkFrom s d va fuel (level + 1) (entryAddr e) sigs

/-- Key of a pointer entry in a walk cache: its table's level and the address bits above what that table indexes. -/
def walkKey (level va : Nat) : Nat := level * 2 ^ 48 + va / 2 ^ levelShift (level - 1)

/-- Where a walk on a stack begins: the deepest table whose pointer its walk cache holds, else the root (R349). -/
def walkStart (s : State) (d ctx va : Nat) : Nat × Nat :=
  match [4, 3, 2, 1].findSome? (fun l =>
    ((stackOf s d).walk.find? (fun w => decide (w.1 = ctx) && decide (w.2.1 = walkKey l va))).map (fun w => (l, w.2.2))) with
  | some x => x
  | none => (0, (ctxOf s ctx).root.toNat)

/-- The walk of a stack's walker. -/
def walkOn (s : State) (d ctx va : Nat) : Walk :=
  let x := walkStart s d ctx va
  walkFrom s d va (5 - x.1) x.1 x.2 []

/-- A cached translation of an address (R349). -/
def cachedIn (l : List Translation) (ctx va : Nat) : Option Translation :=
  l.find? (fun t => decide (t.ctx = ctx) && decide (t.base ≤ va) && decide (va < t.base + pageSize t.level))

/-- A translation: physical address, leaf and its level, and the signatures that its walk read (R345). -/
structure Xlat where
  pa : Nat
  level : Nat
  leaf : Nat
  sigs : List Sig
  deriving DecidableEq, Repr

/-- The pol field of a leaf (R344). -/
def polOf (leaf : Nat) : Nat := leaf / 2 ^ 46 % 4

/-- The leaf of an address, from the core's cache, the stack's cache or a walk. -/
def leafFor (s : State) (core ctx va : Nat) : Walk :=
  match cachedIn (coreOf s core).tlb ctx va with
  | some t => .leaf t.level t.leaf.toNat []
  | none =>
    match cachedIn (stackOf s (dieOf core)).tlb ctx va with
    | some t => .leaf t.level t.leaf.toNat []
    | none => walkOn s (dieOf core) ctx va

/-- Why an address does not translate. -/
inductive XFail where
  /-- PAGE_FAULT with a subcode (R346). -/
  | page (sub : Nat)
  /-- Bits [63:48] are nonzero: ACCESS (R251). -/
  | access
  /-- The way to a table is closed (R379). -/
  | wait
  deriving DecidableEq, Repr

/-- The subcode of R346 for a leaf and a physical address of its page, 0 where the access may go on; a migrating page in a frame
of the poison list is poisoned (R348). -/
def leafSub (s : State) (e pa : Nat) : Nat := if isMemory pa && poisoned s pa then 4 else if e / 64 % 2 = 1 then 3 else 0

/-- Translation of a virtual address (R343, R346). -/
def translate (s : State) (core ctx va : Nat) : Except XFail Xlat :=
  if 2 ^ 48 ≤ va then .error .access
  else
    match leafFor s core ctx va with
    | .bad sub _ => .error (.page sub)
    | .wait => .error .wait
    | .leaf level e sigs =>
      let pa := entryAddr e + va % pageSize level
      if leafSub s e pa ≠ 0 then .error (.page (leafSub s e pa)) else .ok ⟨pa, level, e, sigs⟩

/-- The package after the walk that an access of a core to an address makes, whatever it ends in: the entries read acquire at
package scope (R345, R401). -/
def walkSeen (s : State) (core ctx va : Nat) : State :=
  if 2 ^ 48 ≤ va then s
  else
    match leafFor s core ctx va with
    | .bad _ sigs => acquireDrop s core .package sigs
    | .leaf _ _ sigs => acquireDrop s core .package sigs
    | .wait => s

/-- A leaf permits a kind of access (R346). -/
def permits (leaf : Nat) : AccessKind → Bool
  | .read => decide (leaf / 4 % 2 = 1)
  | .write => decide (leaf / 8 % 2 = 1)
  | .atomic => decide (leaf / 4 % 2 = 1) && decide (leaf / 8 % 2 = 1)
  | .fetch => decide (leaf / 16 % 2 = 1)

/-- A pod aperture entry (R386). -/
def apertureOf (s : State) (pa : Nat) : Aperture := mget s.apertures (pa / 2 ^ 40 % 32) Aperture.reset

/-- The outcome of the checks of R254 on one address: which kind fails first. -/
inductive AddrCheck where
  | ok (x : Xlat)
  | align
  | page (sub : Nat)
  | access
  | held
  deriving DecidableEq, Repr

/-- The die to which an address's traffic goes: its home's, or its aperture's port's. -/
def homeDie (s : State) (pa : Nat) : Nat := if isAperture pa then (apertureOf s pa).port / 2 else frameDie pa

/-- Traffic of a core to the home of an address, or to its aperture's port, must wait (R379), or its stack's L2 may have no room
for the lines of the access. -/
def routeWaits (s : State) (core pa : Nat) : Bool :=
  (isMemory pa || isAperture pa) && (roomWaits s (dieOf core) || !pathsOpen s (dieOf core) (homeDie s pa))

/-- The port of an aperture's address carries no traffic (R380). -/
def portShut (s : State) (pa : Nat) : Bool := isAperture pa && !linkUp s (portLink (apertureOf s pa).port)

/-- A stack's L2 holds a copy of an address's sector that may be used (R393). -/
def copyInL2 (s : State) (d pa : Nat) : Bool := (mget? (stackOf s d).l2 (pa / 32)).any (usable s.now)

/-- A plain access that a core's caches serve without their home: a store that stays in L1 or L2, a read of a copy that
may be used, a fetch of one in L2 (R392, R393). -/
def servedNear (s : State) (core pa leaf : Nat) (kind : AccessKind) : Bool :=
  decide (polOf leaf ≠ 2) && isMemory pa &&
    (match kind with
     | .write => !roomWaits s (dieOf core)
     | .atomic => false
     | .fetch => copyInL2 s (dieOf core) pa
     | .read => (decide (polOf leaf = 0) && (mget? (coreOf s core).l1 (pa / 32)).any (usable s.now)) ||
         (!roomWaits s (dieOf core) && copyInL2 s (dieOf core) pa))

/-- The checks of R254 on one address: alignment, translation, permission; an access to a disabled aperture entry
fails as ACCESS (R386). An access to lines held for a skerry command waits until it has finished, and one whose way to its
home is closed waits until it opens (R371, R379, log 24); so does a fetch through a port that carries no traffic, at which every
other access waits as an operation that has been made (R380). `near` says that a plain access's copy nearer than its home may
serve. -/
def checkAddr (s : State) (core ctx va size : Nat) (kind : AccessKind) (near : Bool := false) : AddrCheck :=
  if va % size ≠ 0 then .align
  else
    match translate s core ctx va with
    | .error (.page sub) => .page sub
    | .error .access => .access
    | .error .wait => .held
    | .ok x =>
      if !permits x.leaf kind then .access
      else if isAperture x.pa && !(apertureOf s x.pa).enabled then .access
      else if skerryHolds s x.pa size then .held
      else if routeWaits s core x.pa ∧ !(near && servedNear s core x.pa x.leaf kind) then .held
      else if kind = .fetch ∧ portShut s x.pa then .held
      else .ok x

/-- One address checked for one access: the translation or the stop. -/
def checkOne (s : State) (core ctx va size : Nat) (kind : AccessKind) (near : Bool := false) : Res Xlat :=
  match checkAddr s core ctx va size kind near with
  | .ok x => .ok x
  | .align => trapOf 0x0C (BitVec.ofNat 64 va)
  | .page sub => .error (.page (BitVec.ofNat 64 va) kind sub)
  | .access => trapOf 0x0D (BitVec.ofNat 64 va)
  | .held => .error (.stall .scoreboard)

/-- The checks of R254 on the lanes of an access, ascending: the first failing kind with the lowest failing lane. -/
def checkLanes (s : State) (core ctx size : Nat) (kind : AccessKind) (l : List (Nat × Nat)) (near : Bool := false) :
    Res (List (Nat × Xlat)) :=
  let r := l.map (fun e => (e.1, e.2, checkAddr s core ctx e.2 size kind near))
  match r.find? (fun e => decide (e.2.2 = .align)) with
  | some e => trapOf 0x0C (BitVec.ofNat 64 e.2.1)
  | none =>
    match r.find? (fun e => match e.2.2 with
      | .page _ => true
      | _ => false) with
    | some (_, va, .page sub) => .error (.page (BitVec.ofNat 64 va) kind sub)
    | _ =>
      match r.find? (fun e => decide (e.2.2 = .access)) with
      | some e => trapOf 0x0D (BitVec.ofNat 64 e.2.1)
      | none =>
        if r.any (fun e => decide (e.2.2 = .held)) then .error (.stall .scoreboard)
        else .ok (r.filterMap (fun e => match e.2.2 with
          | .ok x => some (e.1, x)
          | _ => none))

/-! ## Reads and writes of translated addresses -/

/-- The level at which an access of a policy is performed on a page (R255, R392). -/
def accessLevel (policy leaf : Nat) : Nat :=
  if polOf leaf = 2 then 2 else if polOf leaf = 1 ∨ policy = 2 then 1 else 0

/-- The stream of a core whose turn it is, by its group's name. -/
def turnMaker (s : State) (core : Nat) : Option (Stream × GroupId) :=
  match s.turn with
  | .lane c slot => if c = core then (groupOf s c slot).map (fun g => (.lane, gidOf g)) else none
  | .scalar c slot => if c = core then (groupOf s c slot).map (fun g => (.scalar, gidOf g)) else none
  | _ => none

/-- The package after something that acts as a turn does, or, with `.idle`, as no stream's instruction. -/
def withTurn (t : Turn) (f : State → State) (s : State) : State := { f { s with turn := t } with turn := s.turn }

/-- An operation on an aperture's address as it is made: it leaves by its port, or waits there until the port carries traffic,
behind those that wait already (R380, R386, R387). -/
def sendOp (s : State) (core pa : Nat) (ask : ApertureAsk) : State :=
  let a := apertureOf s pa
  { s with outgoing := s.outgoing ++ [{
      entry := pa / 2 ^ 40 % 32, port := a.port, peer := a.peer, ctx := a.ctx, addr := a.base.toNat + pa % 2 ^ 40, ask := ask, core := core,
      maker := turnMaker s core, owner := (turnMaker s core).map (fun m => m.2), tag := s.fresh, sent := linkUp s (portLink a.port), acked := false }] }

/-- The package with the operations behind the first `n` of those at peers counted as a group's, where they are nobody's yet. -/
def claimOps (gid : GroupId) (n : Nat) (s : State) : State :=
  { s with outgoing := s.outgoing.take n ++ (s.outgoing.drop n).map (fun o => if o.owner.isNone then { o with owner := some gid } else o) }

/-- The package after something that an engine or a unit does for a group: no stream's instruction, and what it asks of peers is
the group's. -/
def actFor (gid : GroupId) (f : State → State) (s : State) : State := claimOps gid s.outgoing.length (withTurn .idle f s)

/-- Every operation made in a step has been answered. -/
def answered (s : State) (tag : Nat) : Bool := s.outgoing.all (fun o => decide (o.tag ≠ tag) || o.acked)

/-- An operation that only reads. -/
def asksOnly (o : ApertureOp) : Bool :=
  match o.ask with
  | .read _ => true
  | _ => false

/-- A scalar stream waits for what it has read from a peer. -/
def awaitsPeer (s : State) (g : Group) : Bool :=
  s.outgoing.any (fun o => decide (o.maker = some (.scalar, gidOf g)) && asksOnly o && !o.acked)

/-- The operation was made by an agent: by a group, whichever of its streams and on whichever core, else by a core's engine. -/
def madeBy (who : Option GroupId) (core : Nat) (o : ApertureOp) : Bool :=
  match who with
  | some g => decide (o.maker.map (fun m => m.2) = some g)
  | none => o.maker.isNone && decide (o.core = core)

/-- The word of a wait, as its instruction finds it (R246, R263): read, but where it lies at a peer, asked for first, and taken once
the peer has answered (R380, R387). -/
def waitRead (s : State) (x : Xlat) (watch : Option WordWait) (w : WordWait) (read : Read) : Res Read :=
  if !isAperture x.pa then .ok read
  else
    match watch.bind (fun w => w.asked) with
    | none => .error (.sleepWord { w with asked := some s.fresh, woken := watch.any (fun w => w.woken) } read.state)
    | some tag => if answered s tag then .ok { read with state := { read.state with outgoing := s.outgoing } } else .error (.stall .scoreboard)

/-- What a walk read with acquire semantics drops from the caches of the core it serves and of its stack (R345, R401). -/
def walkAcquire (s : State) (core : Nat) (x : Xlat) : State := acquireDrop s core .package x.sigs

/-- `n` bytes, inside one sector, read at a level; an aperture delivers what the peer answers, and a place where nothing is
some bytes: free values (log 14, log 15). -/
def readX (s : State) (core level : Nat) (x : Xlat) (n tag : Nat) : Read :=
  let s := walkAcquire s core x
  if isAperture x.pa then ⟨freeBytes s tag n, [], sendOp s core x.pa (.read n)⟩
  else if isMemory x.pa then readLevel s core level x.pa n
  else ⟨freeBytes s tag n, [], s⟩

/-- Bytes inside one sector written at a level; a write to an aperture becomes an RMA write (R387), and one to a place
where nothing is leaves nothing (log 14). -/
def writeX (s : State) (core level : Nat) (x : Xlat) (bs : List Byte) (sigs : List Sig) : State :=
  let s := walkAcquire s core x
  if isAperture x.pa then sendOp s core x.pa (.write bs)
  else if isMemory x.pa then writeLevel s core level x.pa bs sigs
  else s

/-- A write of an agent of a core to a peer has not been acknowledged (R387). -/
def owesAgent (s : State) (who : Option GroupId) (core : Nat) : Bool := s.outgoing.any (fun o => madeBy who core o && !o.acked && !asksOnly o)

/-- A dirty sector that a release of a core at package scope writes back finds the way to its home closed (R379, R398). -/
def flushShut (s : State) (core : Nat) : Bool :=
  (dirtySectors (coreOf s core).l1 ++ dirtySectors (stackOf s (dieOf core)).l2).any (fun x => routeWaits s core (32 * x))

/-- A release of an agent of a core must wait: from quad scope on for room in the L2 (R19), at package scope and wider for the way
to a home that a dirty sector is to be written back to (R379, R398), at pod scope for a write of its own to a peer that has not
been acknowledged (R387). The agent is the group whose turn it is, else the core's engine. -/
def releaseWaits (s : State) (core : Nat) (scope : Scope) : Bool :=
  match scope with
  | .lane => false
  | .core => false
  | .quad => crowded s (dieOf core) [core]
  | .die => crowded s (dieOf core) [core]
  | .package => crowded s (dieOf core) [core] || flushShut s core
  | .pod => crowded s (dieOf core) [core] || flushShut s core || owesAgent s ((turnMaker s core).map (fun m => m.2)) core

/-- The write of a release at a scope's coherence point with its signature attached (R398 line 009). -/
def releaseWrite (s : State) (core : Nat) (scope : Scope) (x : Xlat) (bs : List Byte) (inherited : List Sig) : State :=
  let r := release s core scope inherited
  writeX r.2 core (max (scopeLevel scope) (accessLevel 0 x.leaf)) x bs r.1

/-- An acquire read at a scope's coherence point, with the drops of R401. -/
def acquireRead (s : State) (core : Nat) (scope : Scope) (x : Xlat) (n tag : Nat) : Read :=
  let r := readX s core (max (scopeLevel scope) (accessLevel 0 x.leaf)) x n tag
  { r with state := acquireDrop r.state core scope r.sigs }

/-- The parts of a byte range that lie in one sector each: address and length; `fuel` bounds them. -/
def chunksFrom : Nat → Nat → Nat → List (Nat × Nat)
  | 0, _, _ => []
  | fuel + 1, va, n =>
    if n = 0 then [] else (va, min n (32 - va % 32)) :: chunksFrom fuel (va + min n (32 - va % 32)) (n - min n (32 - va % 32))

/-- The parts of `n` bytes from an address. -/
def chunksOf (va n : Nat) : List (Nat × Nat) := chunksFrom (n / 32 + 2) va n

/-- The translations of every part of a byte range, or its first failure. -/
def checkRange (s : State) (core ctx : Nat) (kind : AccessKind) (near : Bool := false) :
    List (Nat × Nat) → Res (List (Xlat × Nat))
  | [] => .ok []
  | (va, n) :: l =>
    match checkOne s core ctx va 1 kind near with
    | .error e => .error e
    | .ok x =>
      match checkRange s core ctx kind near l with
      | .error e => .error e
      | .ok r => .ok ((x, n) :: r)

/-- Bytes written over translated parts, through the level of each page. -/
def writeParts (s : State) (core policy : Nat) (sigs : List Sig) : List (Xlat × Nat) → List Byte → State
  | [], _ => s
  | (x, n) :: l, bs => writeParts (writeX s core (accessLevel policy x.leaf) x (bs.take n) sigs) core policy sigs l (bs.drop n)

/-- Bytes read over translated parts at a level of at least `level`. -/
def readParts (s : State) (core level tag : Nat) : List (Xlat × Nat) → Read
  | [] => ⟨[], [], s⟩
  | (x, n) :: l =>
    let r := readX s core (max level (accessLevel 0 x.leaf)) x n (tag + l.length)
    let q := readParts r.state core level tag l
    ⟨r.bytes ++ q.bytes, joinSigs r.sigs q.sigs, q.state⟩

/-- The package with the attachments of what a group's plain loads returned, for its next fence acquire (R403). -/
def noteLoads (s : State) (core slot : Nat) (sigs : List Sig) : State :=
  modGroup s core slot (fun g => { g with loadSig := joinSigs (liveSigs s.now g.loadSig) sigs })

/-- Plain stores of a byte range in a context's address space; nothing is written where any part fails. -/
def storeRange (s : State) (core ctx va : Nat) (bs : List Byte) : Res State :=
  match checkRange s core ctx .write true (chunksOf va bs.length) with
  | .error e => .error e
  | .ok l => .ok (writeParts s core 0 [] l bs)

/-- An 8-byte release store in a context's address space by an engine or scheduler of a core (R266, R271). -/
def engineStore8 (s : State) (core ctx va : Nat) (scope : Scope) (v : DWord) (sigs : List Sig) : Res State :=
  match checkOne s core ctx va 8 .write with
  | .error e => .error e
  | .ok x => if releaseWaits s core scope then .error (.stall .scoreboard) else .ok (releaseWrite s core scope x (dwordBytes 8 v) sigs)

/-! ## Taking a trap (R103, R104, R171, R249) -/

/-- The offset of a group's trap record slot (R104). -/
def trapSlot (g : Nat) : Nat := 0x7F800 + 64 * g

/-- The stream is in handler mode. -/
def inHandler (x : Group) : Stream → Bool
  | .lane => x.ln.handler.isSome
  | .scalar => x.sc.handler

/-- An address lies on a page of Casnis code, with c = 1, as far as it translates (R352). -/
def onCasnisPage (s : State) (core ctx va : Nat) : Bool :=
  match leafFor s core ctx va with
  | .leaf _ e _ => decide (e / 32 % 2 = 1)
  | _ => false

/-- The lane stream runs translated code: it stands within a translated word, or its address lies on a page of Casnis code. -/
def inCasnis (s : State) (core : Nat) (x : Group) : Bool :=
  decide (x.ln.pc.sub ≠ 0) || onCasnisPage s core x.ctx x.ln.pc.addr.toNat

/-- The address of a stream's next instruction, and whether it is translated code (R104). -/
def siteOf (s : State) (core : Nat) (x : Group) : Stream → Site
  | .lane => ⟨x.ln.pc, inCasnis s core x⟩
  | .scalar => ⟨⟨x.sc.pc, 0⟩, false⟩

/-- The trap record of R104. -/
def trapRecord (s : State) (core g : Nat) (x : Group) (st : Stream) (t : Trap) (time : Nat) : List Byte :=
  let at_ := t.site.getD (siteOf s core x st)
  let w0 := t.code + t.sub * 2 ^ 8 + (if st = .lane then 2 ^ 16 else 0) + b2n at_.casnis * 2 ^ 17 +
    (if at_.casnis then at_.pc.sub % 4 * 2 ^ 18 else 0) + b2n (inHandler x st) * 2 ^ 20
  let mask := t.mask.getD x.ln.em
  natToBytes 8 w0 ++ natToBytes 8 at_.pc.addr.toNat ++ natToBytes 8 mask.toNat ++ natToBytes 8 t.word.toNat ++
    natToBytes 8 time ++ natToBytes 8 (core + g * 2 ^ 10 + x.ctx * 2 ^ 16 + x.seq % 2 ^ 32 * 2 ^ 32) ++
    natToBytes 8 core ++ natToBytes 8 0

/-- Lane handler mode entered at an address with the record's mask, or with `em` where that mask is empty (R147, R171). A `ckpt`
that is due stays due: R160 says nothing of a handler, whose first instruction then traps unless it is that `ckpt` (log 107). A meld
region's path mask is cleared: R171 does not say whether a handler entered from inside the region runs inside it (log 128). -/
def enterLaneHandler (l : Lane) (h : BitVec 48) (mask : Mask) : Lane :=
  { l with
    handler := some ⟨l.em, l.fmt, l.preds, stackDepth l, l.path, l.justCkpt⟩, mark := some (stackDepth l),
    em := if mask &&& ~~~ l.exited = 0 then l.em else mask &&& ~~~ l.exited, path := none, pc := ⟨h, 0⟩, lr := [],
    lrLegal := true, justCkpt := false, state := .trapped }

/-- The way from a core to its context's trap log is open: a record crosses the straits on its path (R10, R381). -/
def logOpen (s : State) (core ctx : Nat) : Bool :=
  [(ctxOf s ctx).logBase.toNat, logWords (ctxOf s ctx)].all (fun pa => !isMemory pa || pathsOpen s (dieOf core) (frameDie pa))

/-- A trap record sent to its context's log: it waits behind those of the context that wait, and while its way is closed; its
context goes to faulted once it is written (log 120). -/
def sendRecord (s : State) (w : LogWrite) : State :=
  if logOpen s w.core w.ctx ∧ s.logging.all (fun x => decide (x.ctx ≠ w.ctx)) then logTrap s w
  else { s with logging := s.logging ++ [w] }

/-- The first trap record that waits, whose way is open and that no earlier one of its context waits before, reaches its log: a log
is in the order of R27 (R106). -/
def nextLog (s : State) : Option State :=
  match s.logging.zipIdx.find? (fun w => logOpen s w.1.core w.1.ctx && (s.logging.take w.2).all (fun x => decide (x.ctx ≠ w.1.ctx))) with
  | some w => some (logTrap { s with logging := s.logging.eraseIdx w.2 } w.1)
  | none => none

/-- A trap of one stream of a group taken (R103): the record is written to the group's slot; then the stream enters its
handler, or the record is logged and the context faults. BREAK under debug halt suspends the context (R105) and the
stream sleeps until it is pre-empted; its record is written to the slot all the same, and in a handler too: R105 does not
say (log 41). -/
def takeTrap (s : State) (core g : Nat) (st : Stream) (t : Trap) (tag : Nat := 0) : State :=
  match groupOf s core g with
  | none => s
  | some x =>
    let bs := trapRecord s core g x st t s.now
    let s := modCore s core (fun k => { k with scratch := Memory.writeBytes k.scratch (trapSlot g) bs })
    let c := ctxOf s x.ctx
    if t.code = 0x14 ∧ c.debug then
      let s := post s (dieOf core) 0x12 0 0 [x.ctx, core + g * 2 ^ 10 + x.ctx * 2 ^ 16 + x.seq % 2 ^ 32 * 2 ^ 32, t.word.toNat]
      let s := if c.state = .runnable then modCtx s x.ctx (fun c => { c with state := .suspended, suspending := some 0 }) else s
      modLane s core g (fun l => { l with state := .sleeping, sleep := none })
    else
      let h := match st with
        | .lane => c.hlane
        | .scalar => c.hscal
      if h ≠ 0 ∧ !inHandler x st ∧ t.code ≠ 0x0E ∧ t.code ≠ 0x18 then
        match st with
        | .lane => modLane s core g (fun l => enterLaneHandler l h (t.mask.getD l.em))
        | .scalar =>
          modScalar s core g (fun z => { z with handler := true, rmark := some z.rstack.length, pc := h })
      else sendRecord (modGroup s core g (fun x => { x with faulting := true })) ⟨x.ctx, core, bs, tag⟩

/-- The stream that shares the record slot. -/
def otherStream : Stream → Stream
  | .lane => .scalar
  | .scalar => .lane

/-- The traps of a stream that wait, oldest first (R250). -/
def waitingTraps (x : Group) : Stream → List Trap
  | .lane => x.ln.deferred
  | .scalar => x.sc.deferred

/-- A trap raised by a stream: outside its handler it waits while the other stream of the group is in handler mode, and
behind an earlier trap of the stream (R250), with its place as it is now (R104, R445); else it is taken. -/
def raiseTrap (s : State) (core g : Nat) (st : Stream) (t : Trap) (tag : Nat := 0) : State :=
  match groupOf s core g with
  | none => s
  | some x =>
    if !inHandler x st ∧ (inHandler x (otherStream st) ∨ !(waitingTraps x st).isEmpty) then
      let t := { t with site := some (t.site.getD (siteOf s core x st)) }
      match st with
      | .lane => modLane s core g (fun l => { l with deferred := l.deferred ++ [t] })
      | .scalar => modScalar s core g (fun z => { z with deferred := z.deferred ++ [t] })
    else takeTrap s core g st t tag

/-- The stream whose oldest waiting trap is due: the other stream is not in handler mode, and the lane stream's goes first
(R250). What waits behind a lane trap waits for its handler too (log 44); a scalar one is raised at the stream's next issue,
be it in its handler (R241); whether that comes, `dueScalar` says. -/
def trapDue (x : Group) : Option (Stream × Trap) :=
  if x.ln.handler.isSome then none
  else if x.sc.handler then x.sc.deferred.head?.map (fun t => (.scalar, t))
  else
    match x.ln.deferred, x.sc.deferred with
    | t :: _, _ => some (.lane, t)
    | [], t :: _ => some (.scalar, t)
    | [], [] => none

/-! ## Page faults (R347) -/

/-- Codes of access kinds in FAULT events (R472). -/
def kindCode : AccessKind → Nat
  | .read => 0
  | .write => 1
  | .atomic => 2
  | .fetch => 3

/-- The die and id of the unanswered event of a context, page, kind and subcode. -/
def openFault (s : State) (ctx page : Nat) (kind : AccessKind) (sub : Nat) : Option (Nat × Nat) :=
  s.dies.findSome? (fun d => (d.2.faults.find? (fun f =>
    decide (f.ctx = ctx) && decide (f.page = page) && decide (f.kind = kind) && decide (f.sub = sub))).map (fun f => (d.1, f.id)))

/-- The id of a new fault entry of a die: a free value that no unanswered fault of the die has (log 25). -/
def newFaultId (s : State) (d : Nat) : Nat :=
  let used := (dieRec s d).faults.map (fun f => f.id)
  let n := (freeWord s 750 0).toNat % 65536
  (((List.range 257).map (fun i => (n + i) % 65536)).find? (fun i => !used.contains i)).getD n

/-- A page fault sent to the host: merged onto an unanswered event for the same context, page, kind and subcode, or a
new entry of the die with its FAULT event; none when the die's 256 entries are in use. The die and id waited on. -/
def pageFault (s : State) (d ctx va : Nat) (kind : AccessKind) (sub : Nat) : Option ((Nat × Nat) × State) :=
  let page := va / 8192
  match openFault s ctx page kind sub with
  | some e => some (e, s)
  | none =>
    if 256 ≤ (dieRec s d).faults.length then none
    else
      let id := newFaultId s d
      let s := modDie s d (fun x => { x with faults := x.faults ++ [⟨id, ctx, page, kind, sub⟩] })
      some ((d, id), post s d 0x04 0 0 [ctx, page * 8192, kindCode kind + sub * 16 + id * 65536, d])

/-- The trap that a declined page fault is reported as; the lanes taking part in a lane stream's (R254), and its place. -/
def pageTrap (va : DWord) (sub : Nat) (lanes : Option Mask) (site : Option Site) : Trap := ⟨0x0E, sub, va, lanes, site⟩

/-! ## Returning from a trap (R171, R184, R249) -/

/-- The address at offset 0x08 of a group's record slot. R103 and R184 say nothing of bits [63:48], which a handler may have set:
they are ignored (log 109). -/
def recordAddress (s : State) (core g : Nat) : BitVec 48 :=
  BitVec.ofNat 48 (bytesToNat (Memory.readBytes (coreOf s core).scratch (trapSlot g + 8) 8))

/-- The return from the lane handler: kept state restored, entries above the mark dropped, execution at the record's
address (R171). -/
def leaveLaneHandler (l : Lane) (m : Memory) (h : HandlerSave) (pc : BitVec 48) (sub : Nat) : Lane :=
  let l := popTo m h.depth (stackDepth l - h.depth) l
  { l with
    handler := none, mark := none, em := h.em &&& ~~~ l.exited, fmt := h.fmt, preds := h.preds, path := h.path, justCkpt := h.justCkpt,
    pc := ⟨pc, sub⟩, lr := [], lrLegal := true, state := .ready }

/-- The return from the scalar handler (R249). -/
def leaveScalarHandler (z : Scalar) (pc : BitVec 48) : Scalar :=
  { z with handler := false, rstack := z.rstack.drop (z.rstack.length - z.rmark.getD 0), rmark := none, pc := pc }

end Sys2Proof.Machine
end

