-- ==== Sys2Proof/Machine/Flags.lean ====
section
/-!
DEFINITION. The flags of the lane stream: raised flags into `fpc`, and the trap LANE_FP (08_lane_ops R192).
-/
namespace Sys2Proof.Machine

open Sys2Proof

/-- `fpc` with flags raised: bits [23:19] (R88, R192). -/
def raiseFlags (fpc : Word) (f : Flags) : Word := fpc ||| BitVec.ofNat 32 (f.toNat * 2 ^ 19)

/-- The flags whose trap enables, bits [18:14], are set (R88). -/
def enabledFlags (fpc : Word) (f : Flags) : Flags := f &&& BitVec.ofNat 5 (fpc.toNat / 2 ^ 14)

/-- LANE_FP for the flags an instruction has raised, if one of them is enabled (R192). -/
def laneFp (fpc : Word) (f : Flags) : Option Trap :=
  if enabledFlags fpc f = 0 then none else some ⟨0x10, 0, BitVec.ofNat 64 (enabledFlags fpc f).toNat, none, none⟩

/-- A trap enable is set (R193). -/
def anyTrapEnable (fpc : Word) : Bool := decide (fpc.toNat / 2 ^ 14 % 32 ≠ 0)

/-- The flags of several results together. -/
def orFlags (l : List Flags) : Flags := l.foldl (fun a f => a ||| f) 0

end Sys2Proof.Machine
end

