-- ==== Sys2Proof/Machine/Operands.lean ====
section
/-!
DEFINITION. Operands of the lane stream: the fields of an instruction, the checks of R58 on them, reading them, and
writing results with register allocation (02_encoding, 07_group, 08_lane_ops R186 to R190).
-/
namespace Sys2Proof.Machine

open Sys2Proof

/-! ## Fields -/

/-- A field of an instruction: its index for R59, its class and its eight bits. -/
structure Field where
  idx : Nat
  cls : Cls
  spec : Nat
  deriving DecidableEq, Repr

/-- What the issue of a lane instruction uses: its fields, destination first, its schedule and guard, its literal. -/
structure Fields where
  fields : List Field
  ctl : Ctl
  uniform : Bool
  lit : Option Word
  litSource : Bool
  deriving DecidableEq, Repr

/-- The schedule and guard of a form without them: nothing waits, nothing is set, no guard (R35, R38). -/
def plainCtl (stall : BitVec 3) (waitAll : Bool) (last : BitVec 3) : Ctl :=
  { stall := stall, wait := if waitAll then 63 else 0, set := 7, last := last, gpred := 0, gneg := false, gen := false }

/-- The short slots with one source (R64). -/
def shortUnary (slot : Nat) : Bool := decide (0x11 ≤ slot) && decide (slot ≤ 0x17) || slot = 0x25 || slot = 0x26

/-- The fields of an L32 instruction, read as R35 gives. -/
def shortFields (slot : Nat) (f : ShortForm) : Fields :=
  let d := f.dst.toNat
  let a := f.src.toNat
  if slot = 0x01 then
    ⟨[⟨0, .unused, d⟩, ⟨4, .unused, a⟩], plainCtl f.stall f.waitAll 0, true, none, false⟩
  else if shortUnary slot then
    ⟨[⟨0, .d, d⟩, ⟨4, .s, a⟩], plainCtl f.stall f.waitAll (if f.lastSrc then 1 else 0), false, none, false⟩
  else
    ⟨[⟨0, .d, d⟩, ⟨1, .s, d⟩, ⟨4, .s, a⟩],
      plainCtl f.stall f.waitAll (BitVec.ofNat 3 (b2n f.lastDst + 2 * b2n f.lastSrc)), false, none, false⟩

/-- The inputs of a chain that no used slot selects must be 0 (R38); unary operators select nothing (R215). -/
def chainClass (f : ChainForm) (n : Nat) : Cls :=
  if (chainUsed f.slots).any (fun s => decide (s.1 < 10) && decide (s.2 = n)) then .sn else .unused

/-- The fields of a lane instruction. -/
def fieldsOf (i : Instr) : Option Fields :=
  match laneInfo i with
  | some x =>
    some ⟨[⟨0, x.dst, x.form.dst.toNat⟩, ⟨1, x.src1, x.form.src1.toNat⟩, ⟨2, x.src2, x.form.src2.toNat⟩,
        ⟨3, x.src3, x.form.src3.toNat⟩], x.form.ctl, x.uniform, x.form.lit, decide (x.lit = .source)⟩
  | none =>
    match shortInfo i with
    | some (slot, f) => some (shortFields slot f)
    | none =>
      match i with
      | .chain f =>
        some ⟨[⟨0, .d, f.dst.toNat⟩, ⟨1, chainClass f 0, f.in0.toNat⟩, ⟨2, chainClass f 1, f.in1.toNat⟩,
          ⟨3, chainClass f 2, f.in2.toNat⟩, ⟨4, chainClass f 3, f.in3.toNat⟩], plainCtl 0 f.waitAll 0, false, none, false⟩
      | .ckptx f => some ⟨[], plainCtl f.stall false 0, true, none, false⟩
      | .unassignedOpcode .lane _ => some ⟨[], plainCtl 0 false 0, true, none, false⟩
      | .legacyWord k _ c =>
        some ⟨[], c, (match k with
          | .legacy _ => false
          | _ => true), none, false⟩
      | _ => none

/-- A field whose class depends on `fmt`: `mma` has an A scale only with blocks (R305). -/
def settleField (fmt : Word) (f : Field) : Field :=
  if f.cls = .scale then { f with cls := if fmt.toNat / 256 % 4 = 0 then .unused else .s } else f

/-- The fields of an instruction under a group's `fmt`. -/
def settleFields (fmt : Word) (x : Fields) : Fields := { x with fields := x.fields.map (settleField fmt) }

/-! ## Specifiers (R42) -/

/-- The name is v0 to v127. -/
def isV (n : Nat) : Bool := decide (n < 128)
/-- The name is o0 to o7. -/
def isO (n : Nat) : Bool := decide (128 ≤ n) && decide (n < 136)
/-- The name is q0 to q7. -/
def isQ (n : Nat) : Bool := decide (136 ≤ n) && decide (n < 144)
/-- The name is k0 to k7. -/
def isK (n : Nat) : Bool := decide (144 ≤ n) && decide (n < 152)
/-- The name is m0 to m15. -/
def isM (n : Nat) : Bool := decide (188 ≤ n) && decide (n < 204)
/-- The name is c0 to c15. -/
def isC (n : Nat) : Bool := decide (172 ≤ n) && decide (n < 188)
/-- A register name that a lane may write. -/
def isReg (n : Nat) : Bool := isV n || isO n || isM n
/-- An even register name. -/
def isPair (n : Nat) : Bool := isReg n && decide (n % 2 = 0)

/-- The width in words of the register operand that a class names. -/
def clsWords (fmt : Word) : Cls → Nat
  | .d2 => 2
  | .s2 => 2
  | .s2f => 2
  | .a => 2
  | .vo2 => 2
  | .emw => 2
  | .amat => if fmt.toNat % 16 = 12 then 3 else 2
  | .q6 => 6
  | _ => 1

/-- A class whose field may name a register. -/
def clsNames : Cls → Bool
  | .d => true
  | .d2 => true
  | .s => true
  | .s2 => true
  | .s2f => true
  | .sn => true
  | .snq => true
  | .a => true
  | .vo => true
  | .vo2 => true
  | .emw => true
  | .amat => true
  | .cb => true
  | .q6 => true
  | _ => false

/-- A class that is read as a source register, queue, block parameter or constant. -/
def clsSource : Cls → Bool
  | .d => false
  | .d2 => false
  | .vo => false
  | c => clsNames c

/-- S specifiers other than the literal (R186); lr where the previous instruction lets it be named (R45). -/
def isS (lr : Bool) (n : Nat) : Bool :=
  decide (n < 152) || (decide (n = 152) && lr) || decide (n = 153) || decide (n = 154) || isM n

/-- S2 specifiers other than the literal (R186). -/
def isS2 (n : Nat) : Bool := isPair n || isQ n || isK n || decide (n = 153)

/-- The memory control field is within its limits (R255). -/
def mctlOk (store sync scratch : Bool) (m : Nat) : Bool :=
  let size := m % 4
  let sext := decide (m / 4 % 2 = 1)
  let scope := m / 8 % 8
  let policy := m / 64
  (!sext || (!store && decide (size < 2))) &&
    (if sync then decide (1 ≤ scope) && decide (scope ≤ 5) else decide (scope = 0)) &&
    decide (policy < 3) && (!scratch || decide (policy = 0))

/-- The atomic control field is within its limits for the operation with a code of R259 (R260). -/
def nctlOk (op : Nat) (ared : Bool) (n : Nat) : Bool :=
  let scope := n % 8
  let wide := decide (n / 8 % 2 = 1)
  let order := n / 16 % 4
  let signed := decide (n / 64 % 2 = 1)
  let float := decide (n / 128 = 1)
  decide (1 ≤ scope) && decide (scope ≤ 5) && (!ared || decide (order % 2 = 0)) &&
    (!signed || decide (op = 1) || decide (op = 2)) && (!float || (decide (op = 0) && !wide))

/-- A field is permitted by its class (check 3 of R58), an m name wherever a v name is (R482): `lr` says whether lr may be
named, `lit` whether 255 may. -/
def clsOk (fmt : Word) (lr lit : Bool) (c : Cls) (n : Nat) : Bool :=
  match c with
  | .unused => decide (n = 0)
  | .free => true
  | .d => isReg n || decide (n = 153)
  | .d2 => isPair n || decide (n = 153)
  | .s => isS lr n || (decide (n = 255) && lit)
  | .s2 => isS2 n || (decide (n = 255) && lit)
  | .s2f => isS2 n
  | .sn => isS lr n
  | .snq => (isS lr n && !isQ n) || (decide (n = 255) && lit)
  | .a => isS2 n
  | .vo => isReg n
  | .vo2 => isPair n
  | .emw => isPair n || isK n
  | .k => isK n
  | .p => decide (n < 8)
  | .range lo hi => decide (lo ≤ n) && decide (n ≤ hi)
  | .types l => l.contains n
  | .evenCol => decide (n < 64) && decide (n % 2 = 0)
  | .mctl store sync scratch => mctlOk store sync scratch n
  | .nctl op ared => nctlOk op ared n
  | .fence => decide (1 ≤ n % 8) && decide (n % 8 ≤ 5) && decide (n / 8 < 3)
  | .barrier => decide (n < 128) && decide (n % 8 < 6) && !(decide (n % 8 = 1) && decide (n / 8 ≠ 0))
  | .acc => decide (n < 16)
  | .bslot => decide (n < 8)
  | .amat => if fmt.toNat % 16 = 12 then isReg n && decide (n % 4 = 0) else isPair n || isQ n
  | .scale => isS lr n || (decide (n = 255) && lit)
  | .c => isC n
  | .cb => isC n || isS lr n || (decide (n = 255) && lit)
  | .q6 => (isK n && decide (n ≤ 149)) || (isV n && decide (n % 2 = 0) && decide (n + 5 < 128)) ||
      (isO n && decide (n % 2 = 0) && decide (n + 5 < 136)) || (isM n && decide (n % 2 = 0) && decide (n + 5 < 204))

/-! ## Melded names (R155, R156) -/

/-- The lanes on a path of the meld region. -/
def onPath (l : Lane) (p : Bool) : Mask :=
  let m := l.path.getD 0
  if p then m else ~~~ m

/-- The table of a path. -/
def meldTable (l : Lane) (p : Bool) : List Nat := if p then l.t1 else l.t0

/-- The paths with an active lane, each with its table entry for an m name. -/
def meldNames (l : Lane) (n : Nat) : List (Bool × Nat) :=
  ([false, true].filter (fun p => decide (onPath l p &&& l.em ≠ 0))).map (fun p => (p, (meldTable l p).getD (n - 188) 0))

/-- The register name that a lane's v or m specifier resolves to. -/
def laneName (l : Lane) (n lane : Nat) : Nat :=
  if isM n then (meldTable l ((l.path.getD 0).getLsbD lane)).getD (n - 188) 0 else n

/-- A melded pair or triple has consecutive registers from a multiple of 2 or 4 on each path that is taken (R156); of a
coefficient block each name is resolved by itself (R330, R482, log 45). -/
def meldRun (l : Lane) (n words : Nat) : Bool :=
  words < 2 || 3 < words || (meldNames l n).all (fun e =>
    decide (e.2 % (if words = 3 then 4 else 2) = 0) &&
      (List.range words).all (fun j => decide ((meldTable l e.1).getD (n - 188 + j) 0 = e.2 + j)))

/-- The v and o names that a specifier of so many words occupies. -/
def namesOf (l : Lane) (n words : Nat) : List Nat :=
  if isM n then ((meldNames l n).map (fun e => (List.range words).map (fun j => (meldTable l e.1).getD (n - 188 + j) 0))).flatten
  else if isV n || isO n then (List.range words).map (fun j => n + j)
  else []

/-- The names that a field occupies. -/
def fieldNames (l : Lane) (f : Field) : List Nat :=
  if clsNames f.cls then namesOf l f.spec (clsWords l.fmt f.cls) else []

/-! ## Checks 3 to 8 of R58 -/

/-- Check 3 on one field. A nonzero field that an instruction shows as 0 traps ILLEGAL_OPERAND, as R47 has it, also where R172 names
ILLEGAL_OP in one sentence with it (log 130). -/
def checkField (l : Lane) (x : Fields) (f : Field) : Res Unit :=
  if clsOk l.fmt l.lrLegal (x.lit.isSome && x.litSource) f.cls f.spec then .ok ()
  else illegalOperand f.idx f.spec

/-- The first failure of a list of checks. -/
def firstFail {α : Type} (p : α → Res Unit) : List α → Res Unit
  | [] => .ok ()
  | a :: l =>
    match p a with
    | .ok _ => firstFail p l
    | .error e => .error e

/-- The literal of an L96 form is read by some field (R37). -/
def checkLiteral (x : Fields) : Res Unit :=
  if x.lit.isSome ∧ x.litSource ∧ !x.fields.any (fun f => clsSource f.cls && decide (f.spec = 255)) then
    illegalOperand 15 0
  else .ok ()

/-- A 16-bit field in src2 and src3 (R172). -/
def wide16 (f : LaneForm) : Nat := f.src2.toNat + 256 * f.src3.toNat

/-- Raw fields that span several operand fields: rcv is zero exactly without a guard (R174, R176), end is not zero
(R178), nor is the mask of `plclr` (R333). -/
def checkRaw (i : Instr) : Res Unit :=
  let rcv (f : LaneForm) : Res Unit := if f.ctl.gen = decide (wide16 f ≠ 0) then .ok () else illegalOperand 15 (wide16 f)
  match i with
  | .bra f => rcv f
  | .jmpi f => rcv f
  | .meld f => if wide16 f = 0 then illegalOperand 15 0 else .ok ()
  | .plclr f => if wide16 f = 0 then illegalOperand 15 0 else .ok ()
  | _ => .ok ()

/-- Check 4: m names lie in a meld region. -/
def checkMeld (l : Lane) (f : Field) : Res Unit :=
  if clsNames f.cls ∧ isM f.spec ∧ l.path.isNone then trapOf 0x08 (BitVec.ofNat 64 f.spec) else .ok ()

/-- Resolution of an m operand that spans several names (R156); that it stands between checks 4 and 5 of R58 is the model's
choice (log 95). -/
def checkRun (l : Lane) (f : Field) : Res Unit :=
  if clsNames f.cls ∧ isM f.spec ∧ !meldRun l f.spec (clsWords l.fmt f.cls) then illegalOperand f.idx f.spec else .ok ()

/-- Check 5 on one register name. -/
def checkCap (cap n : Nat) : Res Unit :=
  if isV n ∧ cap ≤ n then trapOf 0x04 (BitVec.ofNat 64 (n + cap * 256)) else .ok ()

/-- Check 5 on accumulator names: below the cohort's acc, and even with its partner below it in a 64-lane group
(R293, R294). -/
def accOk (g : Group) (acc n : Nat) : Bool :=
  if g.wcode = 3 then decide (n % 2 = 0) && decide (n + 1 < acc) else decide (n < acc)

/-- Check 5 on one field after the caps: accumulator and B slot names (R298). -/
def checkArrays (g : Group) (c : Option Cohort) (f : Field) : Res Unit :=
  match f.cls, c with
  | .acc, some c => if accOk g c.acc f.spec then .ok () else illegalOperand 0 f.spec
  | .bslot, some c => if f.spec < c.bsl then .ok () else illegalOperand 0 f.spec
  | _, _ => .ok ()

/-- A matrix format code (R296). -/
def isMatFmt (n : Nat) : Bool := decide (n = 0 ∨ n = 4 ∨ n = 8 ∨ n = 9 ∨ n = 11 ∨ n = 12)
/-- The family of a matrix format: integer 0, IEEE 1, tapered 2 (R297). -/
def matFamily (n : Nat) : Nat := if n < 8 then 0 else if n < 10 then 1 else 2

/-- Check 6 for `mma` (R297). -/
def mmaFmtOk (fmt : Word) : Bool :=
  let x := fmt.toNat
  let a := x % 16
  let b := x / 16 % 16
  let blk := x / 256 % 4
  isMatFmt a && isMatFmt b && decide (matFamily a = matFamily b) && (decide (matFamily a ≠ 2) || decide (a = b)) &&
    (decide (blk = 0) || decide (matFamily a = 2)) && decide (blk ≠ 3) && !(decide (blk = 1) && decide (a = 12)) &&
    decide (x / 1024 % 4 = 0) && decide (x / 4096 % 4 ≠ 3)

/-- The type code of `mmrd` suits the family (R308). -/
def mmrdTypeOk (fmt : Word) (ty : Nat) : Bool :=
  let a := fmt.toNat % 16
  isMatFmt a && (if matFamily a = 0 then decide (ty = 2 ∨ ty = 3) else decide (ty = 9 ∨ ty = 10 ∨ ty = 13))

/-- Check 6 (R297). -/
def checkFmt (l : Lane) (i : Instr) : Res Unit :=
  let ok := match i with
    | .mma _ => mmaFmtOk l.fmt
    | .mmz _ => isMatFmt (l.fmt.toNat % 16)
    | .mmrd f => mmrdTypeOk l.fmt f.src2.toNat
    | .mmwr f => mmrdTypeOk l.fmt f.src2.toNat && decide (f.src2 ≠ 9)
    | _ => true
  if ok then .ok () else trapOf 0x03 (BitVec.ofNat 64 l.fmt.toNat)

/-- Check 7: the sub-group width or swap distance against the group's width (R217, R220). -/
def checkWidth (g : Group) (i : Instr) : Res Unit :=
  let w := match i with
    | .shfl _ f => some (2 ^ f.src3.toNat)
    | .red _ f => some (2 ^ f.src3.toNat)
    | .scan _ f => some (2 ^ f.src3.toNat)
    | .swp f => if widthG g ≤ 2 ^ f.src2.toNat then some (2 ^ f.src2.toNat) else none
    | _ => none
  match w with
  | none => .ok ()
  | some w =>
    match i with
    | .swp _ => trapOf 0x19 (BitVec.ofNat 64 w)
    | _ => if widthG g < w then trapOf 0x19 (BitVec.ofNat 64 w) else .ok ()

/-- The issue step from which a name may be read (R51). -/
def landsAt (l : Lane) (n : Nat) : Nat :=
  (l.hazards.filter (fun h => decide (h.spec = n))).foldl (fun a h => max a h.lands) 0

/-- Predicate names in hazards and in STALL_SHORT's word: 0xF8 + p (R57). -/
def predName (p : Nat) : Nat := 0xF8 + p

/-- The names that check 8 looks at for a field, each with the specifier it reports. -/
def hazardNames (l : Lane) (f : Field) : List (Nat × Nat) :=
  match f.cls with
  | .p => [(predName (f.spec % 8), predName (f.spec % 8))]
  | _ => (fieldNames l f).map (fun n => (f.spec, n))

/-- Predicates that an instruction reads or writes without naming them (R224), and its guard. -/
def hiddenPreds (i : Instr) (x : Fields) : List Nat :=
  (match i with
   | .pcat _ => List.range 7
   | .psplit _ => List.range 7
   | _ => []) ++ (if x.ctl.gen then [x.ctl.gpred.toNat] else [])

/-- The issue steps that a name's value still lacks (R57). -/
def missingSteps (l : Lane) (n : Nat) : Nat := (landsAt l n - l.clock + 7) / 8

/-- Check 8 on one name: STALL_SHORT (R57). Of several short registers the first in field order is reported, predicates
that no field names last: the model's choice (log 95). -/
def checkLanded (l : Lane) (e : Nat × Nat) : Res Unit :=
  if l.clock < landsAt l e.2 then
    trapOf 0x09 (BitVec.ofNat 64 (min (missingSteps l e.2) 255 + e.1 % 256 * 256))
  else .ok ()

/-- Instructions after which the next must open a region (R160). -/
def nonIdempotent : Instr → Bool
  | .atom _ _ => true
  | .ared _ _ => true
  | .klaunch _ => true
  | .kick _ => true
  | .vfput _ => true
  | .stRel _ => true
  | .nmcmd _ => true
  | .waitw _ => true
  | _ => false

/-- `ckpt` and `ckptx`. -/
def opensRegion : Instr → Bool
  | .ckpt _ => true
  | .ckptx _ => true
  | _ => false

/-- Register names that an instruction names outside its specifier fields: live names and table entries (R178, R180). -/
def extraNames : Instr → List Nat
  | .ckpt f =>
    let m := f.dst.toNat + 256 * f.src1.toNat + 65536 * f.src2.toNat + 16777216 * f.src3.toNat
    (List.range 32).filter (fun i => m.testBit i)
  | .ckptx f => (((List.range 48).filter (fun i => f.pairs.getLsbD i)).map (fun i => [32 + 2 * i, 33 + 2 * i])).flatten
  | .mtab f => (List.range 4).map (fun j => (f.lit.getD 0).toNat / 256 ^ j % 256)
  | _ => []

/-- A name held in a literal is a v name (R178). -/
def checkExtra (i : Instr) (n : Nat) : Res Unit :=
  match i with
  | .mtab f => if n < 128 then .ok () else illegalOperand 15 (f.lit.getD 0).toNat
  | _ => .ok ()

/-- One check after another. -/
def andThen {α : Type} (a : Res Unit) (b : Res α) : Res α :=
  match a with
  | .ok _ => b
  | .error e => .error e

/-- Checks 3 to 8 of R58 in order, and before them the check of R160, whose place among them R58 does not give (log 95). -/
def issueChecks (g : Group) (c : Option Cohort) (i : Instr) (x : Fields) : Res Unit :=
  let l := g.ln
  andThen (if l.needCkpt ∧ !opensRegion i then trapSub 0x01 1 (instrBits i) else .ok ())
    (andThen (firstFail (checkField l x) x.fields)
      (andThen (checkLiteral x)
        (andThen (andThen (checkRaw i) (firstFail (checkExtra i) (extraNames i)))
          (andThen (firstFail (checkMeld l) x.fields)
            (andThen (firstFail (checkRun l) x.fields)
              (andThen (firstFail (checkCap g.cap) ((x.fields.map (fieldNames l)).flatten ++ extraNames i))
                (andThen (firstFail (checkArrays g c) x.fields)
                  (andThen (checkFmt l i)
                    (andThen (checkWidth g i)
                      (if g.checking then
                        firstFail (checkLanded l) ((x.fields.map (hazardNames l)).flatten ++
                          (hiddenPreds i x).map (fun p => (predName p, predName p)))
                       else .ok ()))))))))))

/-! ## Scoreboards (R52, R53) -/

/-- A scoreboard's own hazards: fixed-latency instructions that name it (R52). -/
def sbName (n : Nat) : Nat := 256 + n

/-- The count of a scoreboard: results on their way and fixed-latency results not landed. -/
def sbCount (l : Lane) (n : Nat) : Nat :=
  l.sb.getD n 0 + (l.hazards.filter (fun h => decide (h.spec = sbName n) && decide (l.clock < h.lands))).length

/-- sb0 to sb5 read zero. -/
def allZero (l : Lane) : Bool := (List.range 6).all (fun n => decide (sbCount l n = 0))

/-- Every fixed-latency write has landed. -/
def allLanded (l : Lane) : Bool := l.hazards.all (fun h => decide (h.lands ≤ l.clock))

/-- The instructions that wait for a fence of the group to complete (R262): those of 10_memory_ops. -/
def memoryInstr (i : Instr) : Bool :=
  match laneInfo i with
  | some x => decide (0x280 ≤ x.op) && decide (x.op ≤ 0x2BA)
  | none => false

/-- The scoreboards that a wait mask names read zero, the counter named by set is not full, a region opener finds
everything landed (R159), and no fence holds back a memory instruction. -/
def waitsMet (l : Lane) (i : Instr) (x : Fields) : Bool :=
  (List.range 6).all (fun n => !x.ctl.wait.getLsbD n || decide (sbCount l n = 0)) &&
    decide (sbCount l x.ctl.set.toNat < 63) &&
    (!opensRegion i || (allZero l && allLanded l)) &&
    (!l.fence || !memoryInstr i)

/-! ## Reading sources -/

/-- What a lane instruction works with while it takes effect: core, slot, the group as it issued, the lanes taking
part, the elements popped for each field that names a queue, and the length of the Casnis translation it lies in. -/
structure Iss where
  core : Nat
  slot : Nat
  g : Group
  lanes : Mask
  pops : List (Nat × List QEntry)
  x : Fields
  cas : Option Nat

/-- A name whose value is not there yet: a fixed-latency write has not landed, or a variable-latency one is on its way
(R57, R207). -/
def unread (l : Lane) (n : Nat) : Bool :=
  decide (l.clock < landsAt l n) || l.outstanding.any (fun p => p.writes.any (fun w => decide (w.spec = n)))

/-- A lane's word of a v name, zero where no register is held (R44). -/
def vWord (l : Lane) (n lane : Nat) : Word := (mget l.regs (n * 8 + lane / 8) []).getD (lane % 8) 0

/-- A lane's word of an o name. -/
def oWord (l : Lane) (n lane : Nat) : Word := (mget l.ofile (n - 128) []).getD lane 0

/-- A lane's word of a v or o name, free where the write is still on its way. -/
def regWord (s : State) (l : Lane) (n lane : Nat) : Word :=
  if unread l n then (freeWord s (1024 + n) lane).setWidth 32
  else if isV n then vWord l n lane
  else oWord l n lane

/-- Half of a 64-bit value. -/
def half64 (x : DWord) (h : Nat) : Word := BitVec.ofNat 32 (x.toNat / 2 ^ (32 * h))

/-- Word `h` of a source in a lane (R42, R43). -/
def srcWord (s : State) (e : Iss) (f : Field) (h lane : Nat) : Word :=
  let l := e.g.ln
  let n := f.spec
  if isV n ∨ isO n ∨ isM n then regWord s l (laneName l n lane + h) lane
  else if isQ n then
    match e.pops.find? (fun p => decide (p.1 = f.idx)) with
    | some p => (p.2.getD h ⟨[], true, none, 0⟩).elems.getD lane 0
    | none => 0
  else if isK n then half64 (l.ks.getD (n - 144) 0) h
  else if n = 152 then (if h = 0 then l.lr.getD lane 0 else 0)
  else if n = 154 then (if h = 0 then BitVec.ofNat 32 lane else 0)
  else if n = 255 then
    match e.x.lit with
    | some v => if h = 0 then v else if v.getLsbD 31 then BitVec.allOnes 32 else 0
    | none => 0
  else 0

/-- The field at an index of R59. -/
def fieldAt (x : Fields) (idx : Nat) : Field := (x.fields.find? (fun f => decide (f.idx = idx))).getD ⟨idx, .unused, 0⟩

/-- A 32-bit source of a lane, as a number. -/
def src32 (s : State) (e : Iss) (f : Field) (lane : Nat) : Nat := (srcWord s e f 0 lane).toNat

/-- A 64-bit source of a lane, as a number. -/
def src64 (s : State) (e : Iss) (f : Field) (lane : Nat) : Nat :=
  (srcWord s e f 0 lane).toNat + 2 ^ 32 * (srcWord s e f 1 lane).toNat

/-- A 32-bit source read as a uniform value: the lowest lane of `em` (R188). -/
def uni32 (s : State) (e : Iss) (f : Field) : Nat := src32 s e f (lowestLane e.g.ln.em)

/-- A 64-bit source read as a uniform value. -/
def uni64 (s : State) (e : Iss) (f : Field) : Nat := src64 s e f (lowestLane e.g.ln.em)

/-- The lanes in which a predicate is true; p7 is true everywhere (R46). -/
def predMask (s : State) (l : Lane) (p : Nat) : Mask :=
  if p = 7 then BitVec.allOnes 64
  else if l.clock < landsAt l (predName p) then freeWord s (1024 + predName p) 0
  else l.preds.getD p 0

/-- The lanes taking part after guard (R55, R56). -/
def takingPart (s : State) (l : Lane) (x : Fields) : Mask :=
  if x.uniform ∨ !x.ctl.gen then l.em
  else
    let p := predMask s l x.ctl.gpred.toNat
    l.em &&& (if x.ctl.gneg then ~~~ p else p)

/-! ## Pops (R187, R236) -/

/-- The condition of a pop that finds no unpopped entry (R236). -/
def popFail {α : Type} (q : Queue) (n : Nat) : Res α :=
  if q.ended ∧ q.saved.isEmpty then trapOf 0x0A (BitVec.ofNat 64 n)
  else if 8 ≤ q.held then trapOf 0x0A (BitVec.ofNat 64 (0x100 + n))
  else .error (.stall .queueEmpty)

/-- `k` entries popped from queue `n`; they stay, held (R164). -/
def popQueue (q : Queue) (n k : Nat) : Res (List QEntry × Queue) :=
  let got := (q.entries.drop q.held).take k
  if got.length < k then popFail q n
  else if got.all (fun x => x.filled) then .ok (got, { q with held := q.held + k })
  else .error (.stall .queueEmpty)

/-- The pops of a list of fields, in order. -/
def popFields (fmt : Word) : List Field → List Queue → Res (List (Nat × List QEntry) × List Queue)
  | [], qs => .ok ([], qs)
  | f :: fs, qs =>
    if clsSource f.cls ∧ isQ f.spec then
      match popQueue (qs.getD (f.spec - 136) Queue.reset) (f.spec - 136) (clsWords fmt f.cls) with
      | .error e => .error e
      | .ok (got, q) =>
        match popFields fmt fs (lset Queue.reset qs (f.spec - 136) q) with
        | .error e => .error e
        | .ok (l, qs) => .ok ((f.idx, got) :: l, qs)
    else popFields fmt fs qs

/-! ## Writing results -/

/-- The quarters of a group with a lane that has not exited. -/
def liveQuarters (g : Group) : List Nat := quartersOf (lanesBelow (widthG g) &&& ~~~ g.ln.exited)

/-- The quarter-registers a group takes out of the core's pool: what it holds or its floor, whichever is more, and what the
reserve has given it (R131, R167 to R169). -/
def charge (g : Group) : Nat := max g.ln.regs.length (g.floor * (liveQuarters g).length) + g.ln.grant

/-- The eight words of a quarter after a write. -/
def mergeQuarter (old : List Word) (q : Nat) (mask : Mask) (vals : List Word) : List Word :=
  (List.range 8).map (fun j => if mask.getLsbD (8 * q + j) then vals.getD (8 * q + j) 0 else old.getD j 0)

/-- A v name written in the lanes of a mask; every live quarter then holds a register (R167). -/
def writeV (g : Group) (n : Nat) (mask : Mask) (vals : List Word) : Map (List Word) :=
  (liveQuarters g).foldl (fun m q => mset m (n * 8 + q) (mergeQuarter (mget m (n * 8 + q) []) q mask vals)) g.ln.regs

/-- An o name written in the lanes of a mask. -/
def writeO (l : Lane) (n : Nat) (mask : Mask) (vals : List Word) : Map (List Word) :=
  mset l.ofile (n - 128)
    ((List.range 64).map (fun j => if mask.getLsbD j then vals.getD j 0 else oWord l n j))

/-- With a write to the name still on its way, either the older or the newer value stays (R57). -/
def settled (s : State) (l : Lane) (n : Nat) (mask : Mask) : Mask :=
  if l.clock < landsAt l n then mask &&& maskOf (fun j => Config.freeBit s.fresh (2048 + n) j) else mask

/-- One register write whose name is v, o or zero. -/
def writeName (s : State) (g : Group) (w : RegWrite) : Group :=
  let mask := settled s g.ln w.spec w.mask
  if isV w.spec then { g with ln := { g.ln with regs := writeV g w.spec mask w.vals } }
  else if isO w.spec then { g with ln := { g.ln with ofile := writeO g.ln w.spec mask w.vals } }
  else g

/-- A write to an m name as the writes of the paths that are taken (R156). -/
def resolveWrite (l : Lane) (w : RegWrite) : List RegWrite :=
  if isM w.spec then (meldNames l w.spec).map (fun e => ⟨e.2, w.mask &&& onPath l e.1, w.vals⟩) else [w]

/-- Words for the lanes of a mask. -/
def laneVals (f : Nat → Nat) : List Word := (List.range 64).map (fun l => BitVec.ofNat 32 (f l))

/-- The write of a 32-bit result. -/
def write32 (spec : Nat) (mask : Mask) (f : Nat → Nat) : List RegWrite := [⟨spec, mask, laneVals f⟩]

/-- The write of a 64-bit result, low half in the even name; zero discards both halves. -/
def write64 (spec : Nat) (mask : Mask) (f : Nat → Nat) : List RegWrite :=
  let vals := (List.range 64).map f
  [⟨spec, mask, vals.map (BitVec.ofNat 32)⟩,
    ⟨if spec = 153 then 153 else spec + 1, mask, vals.map (fun v => BitVec.ofNat 32 (v / 2 ^ 32))⟩]

/-- The group's registers without the names of a list (R54). -/
def freeNames (l : Lane) (ns : List Nat) : Lane :=
  { l with regs := l.regs.filter (fun e => !ns.contains (e.1 / 8)), sets := l.sets.filter (fun e => !ns.contains (e.1 / 8)) }

/-- The lane stream with every register that is new marked as allocated in the chosen bank set (R170). -/
def markSets (set : Bool) (l : Lane) : Lane := { l with sets := l.regs.map (fun e => (e.1, mget l.sets e.1 set)) }

/-- The bank that a name of a group lies in: its bank set, and the bank within the set (R144, R170). -/
def bankOf (l : Lane) (n q : Nat) : Option (Bool × Nat) := (mget? l.sets (n * 8 + q)).map (fun s => (s, n % 8))

/-- The register names whose last read an instruction declares (R54): field k of the last-read bits is source k. -/
def lastNames (l : Lane) (x : Fields) : List Nat :=
  let srcs := x.fields.drop 1
  (((List.range 3).filter (fun k => x.ctl.last.getLsbD k)).map (fun k =>
    match srcs.drop k with
    | f :: _ => if clsSource f.cls then (fieldNames l f).filter isV else []
    | [] => [])).flatten

/-- The core and group with the group replaced and the pool adjusted, or the number of quarter-registers that are
missing (R167 to R169). -/
def settlePool (k : Core) (slot : Nat) (old new : Group) : Res Core :=
  if charge new ≤ k.pool + charge old then
    .ok { k with groups := mset k.groups slot { new with ln := markSets k.bankSet new.ln }, pool := k.pool + charge old - charge new }
  else .error (.alloc (charge new - charge old - k.pool))

end Sys2Proof.Machine
end

