-- ==== Sys2Proof/Machine/Issue.lean ====
section
/-!
DEFINITION. Issuing an instruction of a stream: when it may issue, the checks before it, its effect, and what follows
the effect: results written, scoreboards and lr, the next address, traps, page faults and stalls (R51 to R58, R137 to
R146, R160, R162, R192, R230).
-/
namespace Sys2Proof.Machine

open Sys2Proof

/-! ## The outcome of a lane instruction's effect -/

/-- Where the lane stream goes after an instruction. -/
inductive Flow where
  /-- To the following instruction. -/
  | fall
  /-- To an address. -/
  | goto (pc : Pc)
  /-- Where the effect itself has put it. -/
  | set
  deriving DecidableEq, Repr

/-- What the effect of a lane instruction leaves to its issue step: the state, the results of fixed latency, predicate
results (predicate, lanes, values), the latency, a result of variable latency, the flags raised, where execution goes
and by how many further issue steps the next instruction is delayed. -/
structure Done where
  st : State
  writes : List RegWrite
  preds : List (Nat × Mask × Mask)
  lat : Nat
  pend : Option Pending
  flags : Flags
  flow : Flow
  steps : Nat

/-- An effect that leaves nothing more to do. -/
def Done.plain (s : State) : Done :=
  { st := s, writes := [], preds := [], lat := 1, pend := none, flags := 0, flow := .fall, steps := 0 }

/-- An effect that writes registers at a fixed latency. -/
def Done.regs (s : State) (lat : Nat) (w : List RegWrite) (flags : Flags) : Done :=
  { Done.plain s with writes := w, lat := lat, flags := flags }

/-- An effect that writes one predicate at latency 2. -/
def Done.pred (s : State) (p : Nat) (lanes vals : Mask) (flags : Flags) : Done :=
  { Done.plain s with preds := [(p, lanes, vals)], lat := 2, flags := flags }

/-- An effect whose result comes later. -/
def Done.later (s : State) (p : Pending) : Done := { Done.plain s with pend := some p }

/-- A transfer of control (R173). -/
def Done.jump (s : State) (pc : BitVec 48) : Done := { Done.plain s with flow := .goto ⟨pc, 0⟩, steps := 2 }

/-! ## When a stream may issue -/

/-- A result holds the group's next lane instruction (R193): one whose flags were enabled as it issued, or a stochastic one
that issued while any trap was enabled. -/
def holds (p : Pending) : Bool :=
  match p.kind with
  | .sfu => decide (enabledFlags p.fpc p.flags ≠ 0)
  | .stochastic => anyTrapEnable p.fpc
  | _ => false

/-- No trap of a lane stream waits, or its handler runs meanwhile (R250). -/
def laneFree (l : Lane) : Bool := l.deferred.isEmpty || l.handler.isSome

/-- The lane stream runs: a block is open, no trap or page fault waits, its state permits it, and its context has not faulted. -/
def laneRuns (s : State) (g : Group) : Bool :=
  let l := g.ln
  (match l.state with
   | .ready => true
   | .issuing => true
   | .stalled _ => true
   | .trapped => true
   | _ => false) &&
  l.inBlock && l.fault.isNone && !l.faultRestarts && laneFree l && !g.faulting && decide ((ctxOf s g.ctx).state ≠ .faulted) &&
    !l.outstanding.any holds

/-- The lane stream may try to issue: it runs, and its last instruction allows the next one by now (R51). -/
def canIssue (s : State) (g : Group) : Bool := laneRuns s g && decide (g.ln.next ≤ g.ln.clock)

/-- A wait on a word that has not been woken; one that has asked a peer for the word does not sleep yet. -/
def asleepOn (w : Option WordWait) : Bool := w.any (fun x => !x.woken && x.asked.isNone)

/-- The scalar stream may try to issue; what it reads from a peer it waits for (R380, R387). -/
def canScalar (s : State) (g : Group) : Bool :=
  let z := g.sc
  !z.stopped && z.fault.isNone && z.deferred.isEmpty && !asleepOn z.watch && !g.faulting && !awaitsPeer s g &&
    decide ((ctxOf s g.ctx).state ≠ .faulted) && decide (g.ln.state ≠ .forming) && decide (g.ln.state ≠ .preempted)

/-- The lane stream's waiting trap is due (R250). -/
def dueLane (s : State) (g : Group) : Bool :=
  (match trapDue g with
   | some (.lane, _) => true
   | _ => false) && !g.faulting && decide ((ctxOf s g.ctx).state ≠ .faulted)

/-- The scalar stream's waiting trap is due: it is raised at the stream's next issue, which does not come after its end and
waits for a word or a page (R241, R250). -/
def dueScalar (s : State) (g : Group) : Bool :=
  (match trapDue g with
   | some (.scalar, _) => true
   | _ => false) && canScalar s { g with sc := { g.sc with deferred := [] } }

/-- The lane stream's operands of its previous instruction are granted, and a collector is free (R143). -/
def collectorFree (k : Core) (slot : Nat) : Bool :=
  !k.collectors.any (fun c => decide (c.slot = slot)) && decide (k.collectors.length < 12)

/-- Arithmetic plane entries (R327). -/
def planeArith : PlaneOp → Bool
  | .linear _ _ _ _ => true
  | .quad _ _ _ => true
  | .bin _ _ _ _ => true
  | .fma _ _ _ _ => true
  | _ => false

/-- An arithmetic entry of a slot waits, with the trap mask nonzero when its turn comes. -/
def planeWaits (slot : Nat) : BitVec 5 → List PlaneEntry → Bool
  | _, [] => false
  | m, x :: l =>
    (decide (x.slot = slot) && decide (m ≠ 0) && planeArith x.op) ||
      planeWaits slot (match x.op with
        | .trapMask n => n
        | .clear => 0
        | .restore x => x.trapMask
        | _ => m) l

/-- The group's next lane instruction is held until an arithmetic plane entry has taken effect (R327). -/
def planeHolds (k : Core) (slot : Nat) : Bool := planeWaits slot k.plane.trapMask (k.plane.handlerQueue ++ k.plane.queue)

/-! ## Addresses -/

/-- The key of a translation in the instruction cache. -/
def icacheKey (ctx va : Nat) : Nat := ctx * 2 ^ 48 + va

/-- The translation that a lane stream is in: that of the word it stands within, else what the instruction cache holds of
the word at its address (R433, R446). -/
def currentWord (s : State) (core : Nat) (g : Group) : List Instr :=
  if g.ln.pc.sub = 0 ∨ g.ln.word = [] then mget (coreOf s core).icache (icacheKey g.ctx g.ln.pc.addr.toNat) [] else g.ln.word

/-- The length of the translation that a lane stream is in (R433). -/
def translationLength (s : State) (core : Nat) (g : Group) : Option Nat :=
  if inCasnis s core g then
    some (currentWord s core g).length
  else none

/-- The address after an instruction: the next native word of a translation, or the next word. -/
def followingPc (e : Iss) (i : Instr) : Pc :=
  let pc := e.g.ln.pc
  match e.cas with
  | some n => if pc.sub + 1 < n then ⟨pc.addr, pc.sub + 1⟩ else ⟨pc.addr + 8, 0⟩
  | none => ⟨pc.addr + BitVec.ofNat 48 (instrBytes i), 0⟩

/-- The target of an offset from the instruction's own address, as a 64-bit value. -/
def relTarget (pc : Pc) (lit : Word) : Nat := (pc.addr.toNat + (sext64 32 lit.toNat).toNat) % 2 ^ 64

/-- A computed lane target is a multiple of 4 below 2^48 (R31, R176). -/
def checkTarget (t : Nat) : Res Unit :=
  if t % 4 ≠ 0 then trapOf 0x0C (BitVec.ofNat 64 t)
  else if 2 ^ 48 ≤ t then trapOf 0x0D (BitVec.ofNat 64 t)
  else .ok ()

/-- A target that is a multiple of 4 (R31). -/
def checkAlign (t : Nat) : Res Unit := if t % 4 = 0 then .ok () else trapOf 0x0C (BitVec.ofNat 64 t)

/-- The targets given by an offset are checked at issue, taken or not (R31), before MELD_NEST: R31, R157 and R174 give no order
(log 110). -/
def checkOffset (g : Group) (i : Instr) : Res Unit :=
  match i with
  | .bra f => checkAlign (relTarget g.ln.pc (f.lit.getD 0))
  | .brau f => checkAlign (relTarget g.ln.pc (f.lit.getD 0))
  | .call f => checkAlign (relTarget g.ln.pc (f.lit.getD 0))
  | _ => .ok ()

/-! ## After the effect -/

/-- The names of a list of writes. -/
def writtenNames (w : List RegWrite) : List Nat := w.map (fun x => x.spec)

/-- The value of lr for the next instruction: what this one wrote to its destination, 0 elsewhere (R45). After an
instruction whose destination is a predicate, of which R45 says nothing, it is 0 in every lane (log 96). -/
def lrAfter (w : List RegWrite) : List Word :=
  match w with
  | [] => []
  | x :: _ => (List.range 64).map (fun j => if x.mask.getLsbD j then x.vals.getD j 0 else 0)

/-- Predicates after writes; p7 discards (R46). With an older write still on its way either value stays (R57). -/
def writePreds (s : State) (l : Lane) (ps : List (Nat × Mask × Mask)) : List Mask :=
  ps.foldl (fun acc p =>
    if p.1 = 7 then acc
    else
      let m := settled s l (predName p.1) p.2.1
      lset 0 acc p.1 ((acc.getD p.1 0 &&& ~~~ m) ||| (p.2.2 &&& m))) l.preds

/-- The fixed-latency writes that an instruction starts: registers, predicates, and the scoreboard it names (R52). -/
def newHazards (lands : Nat) (ws : List RegWrite) (ps : List (Nat × Mask × Mask)) (sb : Option Nat) : List Hazard :=
  ((ws.filter (fun w => isV w.spec || isO w.spec)).map (fun w => ⟨w.spec, lands⟩)) ++
    ((ps.filter (fun p => decide (p.1 ≠ 7))).map (fun p => ⟨predName p.1, lands⟩)) ++
    (match sb with
     | some n => [⟨sbName n, lands⟩]
     | none => [])

/-- The scoreboard an instruction names (R36). -/
def setOf (x : Fields) : Option Nat := if x.ctl.set.toNat < 6 then some x.ctl.set.toNat else none

/-- The instruction takes no effect: no lane takes part and it is not uniform (R146). -/
def skips (e : Iss) : Bool := decide (e.lanes = 0) && !e.x.uniform

/-- The fixed-latency writes that an instruction's effect starts (R51). -/
def startedBy (e : Iss) (d : Done) : List Hazard :=
  newHazards (e.g.ln.clock + issueSteps d.lat) (d.writes.map (resolveWrite e.g.ln)).flatten d.preds
    (if d.pend.isNone ∧ !skips e then setOf e.x else none)

/-- The state in which a lane stream stands between two instructions (R137). -/
def restState (l : Lane) : GroupState :=
  match l.state with
  | .issuing => if l.handler.isSome then .trapped else .ready
  | .stalled _ => if l.handler.isSome then .trapped else .ready
  | .ready => if l.handler.isSome then .trapped else .ready
  | st => st

/-- Register names that an instruction reads through a bank port, in operand order (R143, R156). -/
def bankNames (l : Lane) (x : Fields) : List Nat :=
  ((x.fields.drop 1).map (fun f => if clsSource f.cls then (fieldNames l f).filter isV else [])).flatten

/-- The reads of a name: for each pass of 32 lanes one of each bank that holds a quarter of it (R144, R170). -/
def readsOf (l : Lane) (n : Nat) : List BankRead :=
  ((List.range 2).map (fun p =>
    (((List.range 4).filterMap (fun q => bankOf l n (4 * p + q))).eraseDups).map (fun b => ⟨8 * b2n b.1 + b.2, 0, none⟩))).flatten

/-- The bank reads of an instruction, in operand order (R143, R144). -/
def bankReads (l : Lane) (x : Fields) : List BankRead := ((bankNames l x).map (readsOf l)).flatten

/-- Where the lane stream stands after an instruction. -/
def pcAfter (e : Iss) (i : Instr) (d : Done) (l : Lane) : Pc :=
  match d.flow with
  | .fall => followingPc e i
  | .goto pc => pc
  | .set => l.pc

/-- The lane stream after an instruction. A `ckptx` that a handler's return goes back to still follows its `ckpt` (R158). Flags of a
fixed latency are in `fpc` at issue: R225 allows a `setfpc` before they land to see them or not (log 132). -/
def laneAfter (s : State) (e : Iss) (i : Instr) (d : Done) (l : Lane) : Lane :=
  let old := e.g.ln
  let ws := (d.writes.map (resolveWrite old)).flatten
  let set := setOf e.x
  { l with
    preds := writePreds s l d.preds,
    hazards := l.hazards.filter (fun h => decide (old.clock < h.lands)) ++ startedBy e d,
    outstanding := match d.pend with
      | some p => l.outstanding ++ [{ p with sb := set, writes := (p.writes.map (resolveWrite old)).flatten }]
      | none => l.outstanding,
    sb := match d.pend, set with
      | some _, some n => lset 0 l.sb n (l.sb.getD n 0 + 1)
      | _, _ => l.sb,
    watch := none, lr := lrAfter d.writes, lrLegal := set.isNone && d.pend.all (fun p => p.writes.isEmpty),
    fpc := if d.pend.isNone then raiseFlags l.fpc d.flags else l.fpc,
    next := old.clock + issueSteps (1 + e.x.ctl.stall.toNat + d.steps), grant := 0, state := (match d.flow with
      | .set => l.state
      | _ => restState l),
    needCkpt := nonIdempotent i || (l.needCkpt && !opensRegion i),
    justCkpt := match i with
      | .ckpt _ => true
      | _ => old.handler.isSome && l.handler.isNone && l.justCkpt,
    yielded := match i with
      | .yield _ => true
      | _ => false,
    pc := pcAfter e i d l, word := if (pcAfter e i d l).sub = 0 then [] else currentWord s e.core e.g }

/-- The register writes of fixed latency, by the names they resolve to. -/
def writesNow (e : Iss) (d : Done) : List RegWrite := (d.writes.map (resolveWrite e.g.ln)).flatten

/-- The register writes that come later, by the names they resolve to. -/
def writesLater (e : Iss) (d : Done) : List RegWrite :=
  match d.pend with
  | some p => (p.writes.map (resolveWrite e.g.ln)).flatten
  | none => []

/-- The names whose last read the instruction declares, whatever its mask (R54). -/
def lastsOf (e : Iss) : List Nat := lastNames e.g.ln e.x

/-- Those of them that it writes as well. -/
def lastsWritten (e : Iss) (d : Done) : List Nat :=
  (lastsOf e).filter (fun n => (writtenNames (writesNow e d) ++ writtenNames (writesLater e d)).contains n)

/-- The reads that its collector waits for. -/
def portReads (e : Iss) : List BankRead := if skips e then [] else bankReads e.g.ln e.x

/-- The names freed at issue: the others are freed when their reads are granted (R54, R143). -/
def freedNow (e : Iss) (d : Done) : List Nat := if portReads e = [] then lastsOf e else lastsWritten e d

/-- The group after an instruction: names freed, results of fixed latency written, the lane stream moved on. -/
def groupAfter (i : Instr) (e : Iss) (d : Done) (g : Group) : Group :=
  let g1 := (writesNow e d).foldl (writeName d.st) { g with ln := freeNames g.ln (freedNow e d) }
  { g1 with ln := markSets (coreOf d.st e.core).bankSet (laneAfter d.st e i d g1.ln) }

/-- SFU instructions (R210). -/
def isSfu (i : Instr) : Bool :=
  match i with
  | .rcp _ | .rsq _ | .sqt _ | .ex2 _ | .lg2 _ | .sinr _ | .cosr _ | .tnh _ => true
  | _ => false

/-- The quarters that an instruction enters into the SFU, those with a lane that takes part (R214). -/
def sfuQuarters (i : Instr) (e : Iss) : Nat := if isSfu i then (quartersOf e.lanes).length else 0

/-- The SFU has still to accept quarters of an earlier opportunity (R214); the groups of one issue slot enter it together (R140). -/
def sfuFull (s : State) (i : Instr) (e : Iss) : Bool :=
  let k := coreOf s e.core
  decide (sfuQuarters i e ≠ 0) && decide (k.sfuBusy ≠ 0) && decide (k.sfuOpp ≠ s.opp)

/-- The core after an instruction of its group `g`: the group, the pool, the collector, what the SFU has still to accept. -/
def coreAfter (i : Instr) (e : Iss) (d : Done) (opp : Nat) (g : Group) (k : Core) : Core :=
  { k with
    groups := mset k.groups e.slot (groupAfter i e d g), pool := k.pool + charge g - charge (groupAfter i e d g),
    collectors := if portReads e = [] then k.collectors
      else k.collectors ++ [⟨e.slot, portReads e, (lastsOf e).filter (fun n => !(lastsWritten e d).contains n),
        (startedBy e d).length, e.g.ln.clock⟩],
    sfuBusy := k.sfuBusy + sfuQuarters i e, sfuOpp := if sfuQuarters i e = 0 then k.sfuOpp else opp }

/-- The package after an instruction; LANE_FP is raised where the flags ask for it (R192): the record then holds the
instruction's own address. -/
def landed (i : Instr) (e : Iss) (d : Done) : State :=
  match groupOf d.st e.core e.slot with
  | none => d.st
  | some g =>
    let s := setCore d.st e.core (coreAfter i e d d.st.opp g (coreOf d.st e.core))
    match (if d.pend.isNone then laneFp e.g.ln.fpc d.flags else none) with
    | none => s
    | some t => raiseTrap s e.core e.slot .lane { t with mask := some e.lanes, site := some ⟨e.g.ln.pc, e.cas.isSome⟩ }

/-- The quarter-registers missing for the results of an instruction (R167 to R169). -/
def missing (i : Instr) (e : Iss) (d : Done) : Nat :=
  match groupOf d.st e.core e.slot with
  | none => 0
  | some g => charge (groupAfter i e d g) - ((coreOf d.st e.core).pool + charge g)

/-- The end of an instruction: it is complete, or too few registers are free. -/
def finishLane (i : Instr) (e : Iss) (d : Done) : Res State :=
  if missing i e d = 0 then .ok (landed i e d) else .error (.alloc (missing i e d))

/-! ## Stops -/

/-- The group without its physical registers (R162). -/
def dropRegs (s : State) (core slot : Nat) : State :=
  match groupOf s core slot with
  | none => s
  | some g =>
    let g' := { g with ln := { g.ln with regs := [], sets := [] } }
    modCore s core (fun k => { k with groups := mset k.groups slot g', pool := k.pool + charge g - charge g' })

/-- The lane stream waits on a page fault (R162): unless the save of a region opener faulted, or a handler runs, or no
region is open, its registers are discarded and the region restarts once the fault is resolved. The lanes taking part go
into the record, should the fault be declined (R254). -/
def lanePage (s : State) (core slot : Nat) (keep : Bool) (lanes : Mask) (va : DWord) (kind : AccessKind) (sub : Nat) : State :=
  match groupOf s core slot with
  | none => s
  | some g =>
    match pageFault s (dieOf core) g.ctx va.toNat kind sub with
    | none => modLane s core slot (fun l => { l with state := .stalled .allocation, need := 0 })
    | some (w, s) =>
      let restart := !keep && g.ln.handler.isNone && g.ln.region.isSome
      let s := modLane s core slot (fun l =>
        { l with
          fault := some ⟨w.1, w.2, pageTrap va sub (some lanes) (some (siteOf s core g .lane))⟩, faultRestarts := restart, watch := none })
      if restart then dropRegs s core slot else s

/-- The package after the walk of an access that stopped: for the address that its fault or its ACCESS reports (R345). -/
def stopWalk (s : State) (core slot : Nat) : Stop → State
  | .page va _ _ =>
    match groupOf s core slot with
    | some g => walkSeen s core g.ctx va.toNat
    | none => s
  | .trap t =>
    match groupOf s core slot with
    | some g => if t.code = 0x0D then walkSeen s core g.ctx t.word.toNat else s
    | none => s
  | _ => s

/-- What becomes of a lane stream whose instruction did not complete; `lanes` is the mask its record holds unless the
trap names another. -/
def stopLane (s : State) (core slot : Nat) (keep : Bool) (lanes : Mask) : Stop → State
  | .stall r => modLane s core slot (fun l => { l with state := .stalled r, need := 0 })
  | .alloc n => modLane s core slot (fun l =>
      { l with state := .stalled .allocation, need := n + (coreOf s core).pool })
  | .sleepWord w s => modLane s core slot (fun l => { l with
      state := if w.asked.isNone then .sleeping else restState l, sleep := if w.asked.isNone then some .word else none, watch := some w })
  | .trap t =>
    raiseTrap (modLane (stopWalk s core slot (.trap t)) core slot
      (fun l => { l with state := restState l, watch := none })) core slot .lane { t with mask := some (t.mask.getD lanes) }
  | .page va kind sub => lanePage (stopWalk s core slot (.page va kind sub)) core slot keep lanes va kind sub

/-- What becomes of a scalar stream whose instruction did not complete (R233). The step count stays: R230 resets it at an instruction
outside the ALU range and does not say whether at one that traps, or at the entry of a handler (log 133). -/
def stopScalar (s : State) (core slot : Nat) : Stop → State
  | .stall _ => modScalar s core slot (fun z => { z with stalled := true })
  | .alloc _ => s
  | .sleepWord w s => modScalar s core slot (fun z => { z with watch := some w, stalled := false })
  | .trap t => raiseTrap (modScalar (stopWalk s core slot (.trap t)) core slot (fun z => { z with watch := none })) core slot .scalar t
  | .page va kind sub =>
    match groupOf s core slot with
    | none => s
    | some g =>
      match pageFault (stopWalk s core slot (.page va kind sub)) (dieOf core) g.ctx va.toNat kind sub with
      | none => modScalar s core slot (fun z => { z with stalled := true })
      | some (w, s) =>
        modScalar s core slot (fun z =>
          { z with fault := some ⟨w.1, w.2, pageTrap va sub none none⟩, watch := none })

/-! ## Issue -/

/-- A lane instruction under an all-zero mask (R146). -/
def skipped (s : State) : Done := Done.plain s

/-- What a lane instruction issues with: the group as it stands, the lanes taking part, nothing popped yet. -/
def issOf (s : State) (core slot : Nat) (g : Group) (x : Fields) : Iss :=
  ⟨core, slot, g, takingPart s g.ln x, [], x, translationLength s core g⟩

/-- The issue of a lane instruction whose checks have passed: pops, effect, results. Where no lane takes part it does nothing
(R146), so that it raises no MELD_NEST in a meld region either (log 110). -/
def effectLane (i : Instr) (s : State) (e : Iss) (body : Iss → State → Res Done) : Res State :=
  if skips e then finishLane i e (skipped s)
  else
    match popFields e.g.ln.fmt (e.x.fields.drop 1) e.g.qs with
    | .error r => .error r
    | .ok (pops, qs) =>
      match body { e with pops := pops } (modGroup s e.core e.slot (fun g => { g with qs := qs })) with
      | .error r => .error r
      | .ok d => finishLane i { e with pops := pops } d

/-- A fill that is complete, on whose scoreboard its group has waited: its passes read the fill's bytes as defined (R314). -/
def seenFill (g : Group) (waited : Nat → Bool) (y : Fill) : Fill :=
  if y.owner = gidOf g ∧ y.done ∧ y.sb.any waited then { y with known := g.index :: y.known } else y

/-- The package after a group has waited on some of its scoreboards. -/
def seeFills (s : State) (core : Nat) (g : Group) (waited : Nat → Bool) : State :=
  if (coreOf s core).fills.isEmpty then s else modCore s core (fun k => { k with fills := k.fills.map (seenFill g waited) })

/-- The package after the waits of an instruction have been met. -/
def noteWaits (s : State) (core : Nat) (g : Group) (x : Fields) : State := seeFills s core g (fun n => x.ctl.wait.getLsbD n)

/-- One attempt to issue a lane instruction: it waits, or fails a check, or takes effect. The check of an offset comes before the
effect and so before MELD_NEST (log 110). -/
def attemptLane (i : Instr) (s : State) (e : Iss) (body : Iss → State → Res Done) : Res State :=
  if !waitsMet e.g.ln i e.x then .error (.stall .scoreboard)
  else if !collectorFree (coreOf s e.core) e.slot ∨ planeHolds (coreOf s e.core) e.slot ∨ sfuFull s i e then .error (.stall .collector)
  else
    match andThen (issueChecks e.g (cohortOf (coreOf s e.core) e.g) i e.x) (checkOffset e.g i) with
    | .error r => .error r
    | .ok _ => effectLane i (noteWaits s e.core e.g e.x) e body

/-- The instruction due to issue traps ACCESS because a command of the copy engine met it (R267); of several commands the first,
the next one at the issue that follows, be it in a handler (log 122). -/
def engineTrap (s : State) (core slot : Nat) (lanes : Mask) (va : DWord) : State :=
  raiseTrap (modGroup s core slot (fun g => { g with deferredAccess := g.deferredAccess.tail })) core slot .lane
    ⟨0x0D, 0, va, some lanes, none⟩

/-- A lane instruction at the turn of a lane stream; at any other turn nothing happens (log 6). The record of a trap holds the
lanes taking part by the guard, also where R160 raises it before check 3: the spec does not say whether the guard counts
there (log 95). -/
def runLane (i : Instr) (s : State) (body : Iss → State → Res Done) : Host.Outcome State Fault Refusal :=
  match s.turn with
  | .lane core slot =>
    match groupOf s core slot, fieldsOf i with
    | some g, some fs =>
      let x := settleFields g.ln.fmt fs
      if canIssue s g then
        match g.deferredAccess.head? with
        | some a => .next (engineTrap s core slot (takingPart s g.ln x) a.1)
        | none =>
          match attemptLane i s (issOf s core slot g x) body with
          | .ok s' => .next s'
          | .error e => .next (stopLane s core slot (opensRegion i) (takingPart s g.ln x) e)
      else .next s
    | _, _ => .next s
  | _ => .next s

/-! ## Fetching (R30 to R33, R352, R433) -/

/-- Code bytes as a fill reads them: from L2 where it holds them, else from the home, and at the home on a page with pol = 2
(R344); from an aperture, and where nothing is, free bytes (log 14, log 15, log 21). -/
def codeBytes (s : State) (core : Nat) (x : Xlat) (n : Nat) : List Byte :=
  if isAperture x.pa ∨ !isMemory x.pa then freeBytes s 32 n
  else if polOf x.leaf = 2 then loadHome s x.pa n
  else (((getL2 s (dieOf core) (x.pa / 32)).1.data).drop (x.pa % 32)).take n

/-- A number from little-endian 32-bit words fetched from an address upward, `n` words (R31). -/
def fetchWords (s : State) (core ctx va : Nat) : Nat → Res Nat
  | 0 => .ok 0
  | n + 1 =>
    match checkOne s core ctx va 4 .fetch true with
    | .error e => .error e
    | .ok x =>
      match fetchWords s core ctx (va + 4) n with
      | .error e => .error e
      | .ok w => .ok (bytesToNat (codeBytes s core x 4) + 2 ^ 32 * w)

/-- The bits of the native instruction at an address: the length comes from the first word (R30). -/
def fetchBits (s : State) (core ctx va : Nat) : Res Nat :=
  match fetchWords s core ctx va 1 with
  | .error e => .error e
  | .ok w => fetchWords s core ctx va (lengthOf w / 32)

/-- What a lane stream's address holds. -/
inductive LaneWord where
  /-- A native instruction's bits. -/
  | native (w : Nat)
  /-- A native word of a translation. -/
  | translated (i : Instr)
  /-- A Casnis word that has not been filled. -/
  | unfilled
  deriving DecidableEq, Repr

/-- The fetch at a lane stream's address; the c bit of its page selects the decoder (R352). -/
def fetchAt (s : State) (core : Nat) (g : Group) : Res LaneWord :=
  let pc := g.ln.pc
  match checkOne s core g.ctx pc.addr.toNat 4 .fetch true with
  | .error e => .error e
  | .ok x =>
    if x.leaf / 32 % 2 = 1 then
      if pc.addr.toNat % 8 ≠ 0 then trapOf 0x0C (BitVec.ofNat 64 pc.addr.toNat)
      else
        match (currentWord s core g).drop pc.sub with
        | i :: _ => .ok (.translated i)
        | [] => .ok .unfilled
    else
      match fetchBits s core g.ctx pc.addr.toNat with
      | .error e => .error e
      | .ok w => .ok (.native w)

/-- The native word of the translation that a lane stream stands within, which came with the word's first (R433). -/
def withinWord (l : Lane) : Option Instr := if l.pc.sub = 0 then none else (l.word.drop l.pc.sub).head?

/-- The next instruction of a lane stream: within a translated word its next native word, else what its address holds. -/
def fetchLane (s : State) (core : Nat) (g : Group) : Res LaneWord :=
  match withinWord g.ln with
  | some i => .ok (.translated i)
  | none => fetchAt s core g

/-- The package after the walks of a fetch at an address, those of its first word and of its last (R31, R345). -/
def fetchSeen (s : State) (core ctx va : Nat) : State :=
  let s := walkSeen s core ctx va
  match fetchWords s core ctx va 1 with
  | .ok w => walkSeen s core ctx (va + lengthOf w / 8 - 1)
  | .error _ => s

/-! ## Scalar issue -/

/-- What a scalar instruction leaves: the state, and where the stream goes if not to the next instruction. -/
abbrev SDone := State × Option (BitVec 48)

/-- The bytes of a scalar instruction. -/
def scalarBytes (x : ScalarFields) : Nat := if x.lit.isSome then 8 else 4

/-- The scalar ALU instructions, op8 0x00 to 0x3F, which the step count counts (R230). -/
def isScalarAlu (x : ScalarFields) : Bool := decide (x.op < 0x40)

/-- The next ALU instruction would bring the step count to 2^20 (R230). -/
def stepsFull (g : Group) : Bool := decide (2 ^ 20 ≤ g.sc.steps + 1)

/-- The scalar stream after an instruction. -/
def scalarAfter (x : ScalarFields) (g : Group) (pc : Option (BitVec 48)) (z : Scalar) : Scalar :=
  { z with
    pc := pc.getD (g.sc.pc + BitVec.ofNat 48 (scalarBytes x)), watch := none, stalled := false,
    steps := if isScalarAlu x then g.sc.steps + 1 else 0 }

/-- One attempt to issue a scalar instruction: the step limit of R230, then the effect. -/
def attemptScalar (x : ScalarFields) (s : State) (core slot : Nat) (g : Group) (body : Group → State → Res SDone) :
    Res State :=
  if isScalarAlu x ∧ stepsFull g then trapSub 0x01 5 (BitVec.ofNat 64 (scalarWord x))
  else
    match body g s with
    | .error e => .error e
    | .ok (s, pc) => .ok (modScalar s core slot (scalarAfter x g pc))

/-- A scalar instruction with its fields at the turn of a scalar stream; at any other turn nothing happens (log 6). -/
def runScalar (x : ScalarFields) (s : State) (body : Nat → Nat → Group → State → Res SDone) :
    Host.Outcome State Fault Refusal :=
  match s.turn with
  | .scalar core slot =>
    match groupOf s core slot with
    | some g =>
      if canScalar s g then
        match attemptScalar x s core slot g (body core slot) with
        | .ok s' => .next s'
        | .error e => .next (stopScalar s core slot e)
      else .next s
    | none => .next s
  | _ => .next s

end Sys2Proof.Machine
end

