-- ==== Sys2Proof/Machine/Groups.lean ====
section
/-!
DEFINITION. The life of a group: block starts, regions and their restart, reconvergence, exit of lanes, of groups and
of cohorts (07_group R139, R147 to R165, R179, R490, 11_barrier R292, 12_matrix R312).
-/
namespace Sys2Proof.Machine

open Sys2Proof

/-! ## Rows and shadows (R294, R312) -/

/-- The row quarter that a quarter of a group drives (R294). -/
def rowQuarter (g : Group) (q : Nat) : Nat := (g.index * widthG g / 8 + q) % 4

/-- The rows of a group's live quarters. -/
def groupRows (g : Group) : List Nat :=
  ((liveQuarters g).map (fun q => (List.range 8).map (fun j => 8 * rowQuarter g q + j))).flatten.eraseDups

/-- Accumulator rows in every slot of a cohort, as keys of the array. -/
def slotCells (c : Cohort) (rows : List Nat) : List Nat :=
  ((List.range c.acc).map (fun a => rows.map (fun r => (c.accBase + a) * 32 + r))).flatten

/-- The accumulator rows of a group in every slot of its cohort. -/
def groupCells (c : Cohort) (g : Group) : List Nat := slotCells c (groupRows g)

/-- Rows copied from one array to another. -/
def copyRows (src dst : Map (List (BitVec 36))) (keys : List Nat) : Map (List (BitVec 36)) :=
  keys.foldl (fun m k => mset m k (mget src k (List.replicate 64 0))) dst

/-- The group has an entry in the array queue or results of one on their way. -/
def arrayBusy (k : Core) (slot : Nat) : Bool :=
  k.arrayQ.any (fun e => match e.op with
    | .pass _ _ _ qs _ => qs.any (fun q => decide (q.slot = slot))
    | _ => decide (e.slot = slot)) ||
  k.landing.any (fun x => x.done.any (fun d => decide (d.1 = slot)) || x.flags.any (fun f => decide (f.1 = slot)))

/-! ## Barrier marks (R292) -/

/-- The members of a barrier with the record of one group changed. -/
def modMember (b : Barrier) (gid : GroupId) (f : Member → Member) : Barrier :=
  { b with members := b.members.map (fun m => if m.gid = gid then f m else m) }

/-- The package with a group's record changed in every barrier it belongs to. -/
def modMembers (s : State) (core slot : Nat) (f : Member → Member) : State :=
  match groupOf s core slot with
  | none => s
  | some g =>
    let s := { s with barriers := s.barriers.map (fun b => modMember b (gidOf g) f) }
    modCore s core (fun k => modCohort k g (fun c => { c with barrier := modMember c.barrier (gidOf g) f }))

/-! ## Regions -/

/-- A stream with its mark changed. -/
def markStream (f : Option CoverMark → Option CoverMark) : QStream → QStream
  | .affine a => .affine a
  | .cover c => .cover { c with mark := f c.mark }

/-- A queue with the marks of `plcov` changed. -/
def markCovers (f : Option CoverMark → Option CoverMark) (q : Queue) : Queue :=
  { q with entries := q.entries.map (fun e => { e with cover := f e.cover }), stream := q.stream.map (markStream f) }

/-- The queues after a region opens: what was popped since the mark leaves (R164). -/
def dropHeld (q : Queue) : Queue :=
  markCovers (fun _ => none)
    { q with entries := q.entries.drop q.held, held := 0, narrow := q.narrow - q.held }

/-- The queues after a restart: read positions at their marks (R163), and what a `plcov` has pushed is marked (R342). -/
def rewindQueue (q : Queue) : Queue :=
  markCovers (fun m => m.map (fun c => { c with stale := true })) { q with held := 0 }

/-- The direction clears once no group is bound and no slot is occupied (R274). -/
def clearDirection (w : Narrows) : Narrows :=
  if w.bound = none ∧ w.inQ7 = 0 ∧ w.waiting.isEmpty then { w with toUpper := none } else w

/-- Narrows entries that make one entry of a group's q7 (R276). -/
def slotsPerEntry (g : Group) : Nat := if g.wcode = 3 then 2 else 1

/-- Entries of a group's q7 that came through the narrows give their slots back (R274). -/
def releaseSlots (s : State) (core : Nat) (g : Group) (n : Nat) : State :=
  if n = 0 then s
  else modNarrows s core (fun w => clearDirection { w with inQ7 := w.inQ7 - n * slotsPerEntry g })

/-- What opening a region does besides its save: queue marks, barrier marks, accumulator shadows, matrix flags (R164,
R292, R312). -/
def openRegion (s : State) (core slot : Nat) : State :=
  match groupOf s core slot with
  | none => s
  | some g =>
    let q7 := g.qs.getD 7 Queue.reset
    let s := releaseSlots s core g (min q7.held q7.narrow)
    let s := modMembers s core slot (fun m => { m with a0 := m.a, s := 0 })
    let s := modGroup s core slot (fun g =>
      { g with qs := g.qs.map dropHeld, ln := { g.ln with matrixShadow := g.ln.matrixFlags } })
    match cohortOf (coreOf s core) g with
    | none => s
    | some c => modCore s core (fun k => { k with shadows := copyRows k.accs k.shadows (groupCells c g) })

/-- The spilled entries of a group, oldest first (R151). -/
def spilledEntries (m : Memory) (l : Lane) : List StackEntry :=
  (List.range (spillCount l)).map (fun i => entryOfBytes (Memory.readBytes m (l.stklim.toNat + 32 * i) 32))

/-- The save of a group with a region head and live names (R159). -/
def saveOf (m : Memory) (g : Group) (head : Pc) (low : BitVec 32) (pairs : BitVec 48) : Save :=
  let l := g.ln
  let names := (List.range 32).filter (fun i => low.getLsbD i) ++
    (((List.range 48).filter (fun i => pairs.getLsbD i)).map (fun i => [32 + 2 * i, 33 + 2 * i])).flatten
  { fmt := l.fmt, fpc := l.fpc, em := l.em, sp := l.sp, stklim := l.stklim, rsp := l.rsp, head := head, liveLow := low,
    livePairs := pairs, gen := l.gen, preds := l.preds, path := l.path, t0 := l.t0, t1 := l.t1, stack := l.stack,
    spilled := spilledEntries m l, ofile := l.ofile,
    live := names.foldl (fun r n => mset r n ((List.range 64).map (vWord l n))) [], ks := l.ks,
    matrixFlags := l.matrixFlags }

/-- A lane stream stands immediately behind the `ckpt` that opened its region, also where a handler has returned there (R158, R184). -/
def followsCkpt (l : Lane) : Bool := l.justCkpt && l.region.any (fun r => decide (r.save.head = l.pc))

/-- The lanes of a group that have not exited. -/
def liveLanes (g : Group) : Mask := lanesBelow (widthG g) &&& ~~~ g.ln.exited

/-- The lane stream at the start of a block (R139), before its region is opened. -/
def blockLane (g : Group) (b : Block) : Lane :=
  { g.ln with
    state := if g.ln.state = .issuing then .issuing else .ready, pc := ⟨b.entry, 0⟩, em := liveLanes g, inBlock := true, ks := b.ks, lr := [], lrLegal := true,
    stack := [], rsp := g.ln.stklim, path := none, justCkpt := false }

/-- The first enqueued block starts; its start opens a region (R490). -/
def startBlock (s : State) (core slot : Nat) : State :=
  match groupOf s core slot with
  | none => s
  | some g =>
    match g.sc.blocks with
    | [] => modLane s core slot (fun l => { l with state := .stalled .queueEmpty })
    | b :: _ =>
      let l := blockLane g b
      let sv0 := saveOf ([] : Memory) { g with ln := l } ⟨b.entry, 0⟩ 0 0
      let sv := { sv0 with ofile := [] }
      let s := openRegion s core slot
      modLane s core slot (fun l' => { l with region := some ⟨sv, true, false, groupRows g⟩, matrixShadow := l'.matrixShadow })

/-- A stack entry without the lanes that have exited (R147, R153). -/
def reduceEntry (gone : Mask) (e : StackEntry) : StackEntry := { e with mask := e.mask &&& ~~~ gone }

/-- The group a restart of its region leaves, with its saved registers written back (R163, R490). A `ckptx` at the head of
a `ckpt`'s region still follows that `ckpt` (R158). -/
def restored (g : Group) (r : Region) : Group :=
  let l := g.ln
  let sv := r.save
  let l := { l with
    fmt := sv.fmt, fpc := sv.fpc, em := (if r.fromBlock then liveLanes g else sv.em &&& ~~~ l.exited), sp := sv.sp,
    stklim := sv.stklim, rsp := sv.rsp, gen := sv.gen, preds := sv.preds, path := sv.path, t0 := sv.t0, t1 := sv.t1,
    stack := (if r.fromBlock then [] else sv.stack.map (reduceEntry l.exited)), ofile := sv.ofile, ks := sv.ks, pc := sv.head,
    word := if sv.head.sub = 0 then [] else l.word, lr := [], lrLegal := true, sb := [], hazards := [], outstanding := [],
    regs := [], sets := [], matrixFlags := l.matrixShadow,
    needCkpt := false, justCkpt := r.byCkpt, fence := false, sleep := none, watch := none, fault := none,
    faultRestarts := false, grant := 0, next := l.clock, state := if l.state = .issuing then .issuing else .ready }
  let g := { g with ln := l, qs := g.qs.map rewindQueue }
  let put (m : Map (List Word)) (e : Nat × List Word) : Map (List Word) :=
    writeV { g with ln := { g.ln with regs := m } } e.1 (liveLanes g) e.2
  { g with ln := { g.ln with regs := List.foldl put [] sv.live } }

/-- A region's saved state comes back (R163): the group's array entries take effect first, shadows return to the rows they
were taken of, skip counts are set, spilled entries are written back. Where the registers do not suffice the restart
stalls for reason allocation. -/
def rewindRegion (s : State) (core slot : Nat) : State :=
  match groupOf s core slot with
  | none => s
  | some g =>
    match g.ln.region with
    | none => modLane s core slot (fun l => { l with faultRestarts := false })
    | some r =>
      if arrayBusy (coreOf s core) slot then modLane s core slot (fun l => { l with faultRestarts := true, fault := none })
      else
        let g' := restored g r
        match settlePool (coreOf s core) slot g g' with
        | .error (.alloc n) => modLane s core slot (fun l =>
            { l with faultRestarts := true, need := n + (coreOf s core).pool, state := .stalled .allocation, fault := none })
        | .error _ => s
        | .ok k =>
          let k := { k with
            scratch := Memory.writeBytes k.scratch r.save.stklim.toNat
              ((r.save.spilled.map (fun e => entryBytes (reduceEntry g.ln.exited e))).flatten),
            collectors := k.collectors.filter (fun c => decide (c.slot ≠ slot)) }
          let k := match cohortOf k g with
            | none => k
            | some c => { k with accs := copyRows k.shadows k.accs (slotCells c r.rows) }
          modMembers (setCore s core k) core slot (fun m => { m with s := m.a - m.a0, half := none })

/-! ## The end of a block, of lanes, of a group -/

/-- The lane stream after its block has ended: with no block enqueued it stalls (R139). -/
def endLane (more : Bool) (l : Lane) : Lane :=
  let l := { l with inBlock := false, region := none, stack := [], rsp := l.stklim, path := none, handler := none, mark := none }
  { l with state := if more then restState l else .stalled .queueEmpty }

/-- References of a core's units to a slot whose group has gone; slot numbers above 31 name no group. -/
def noGroup : Nat := 64

/-- The core without references to a slot. -/
def orphanSlot (k : Core) (slot : Nat) : Core :=
  let f (n : Nat) : Nat := if n = slot then noGroup else n
  { k with
    arrayQ := k.arrayQ.map (fun e => { e with slot := f e.slot, op := match e.op with
      | .pass fmt b off qs dones => .pass fmt b off (qs.map (fun q => { q with slot := f q.slot })) (dones.map (fun d => (f d.1, d.2)))
      | op => op }),
    landing := k.landing.map (fun x =>
      { x with flags := x.flags.map (fun e => (f e.1, e.2)), done := x.done.map (fun e => (f e.1, e.2)) }),
    plane := { k.plane with
      queue := k.plane.queue.map (fun e => { e with slot := f e.slot }),
      handlerQueue := k.plane.handlerQueue.map (fun e => { e with slot := f e.slot }),
      unreturned := if k.plane.unreturned = some slot then none else k.plane.unreturned },
    engine := k.engine.map (fun c => { c with slot := f c.slot }),
    collectors := k.collectors.filter (fun c => decide (c.slot ≠ slot)) }

/-- The cohort's identity as the plane and the receiver hold it. -/
def holderOf (g : Group) : Nat × Nat × Nat := (g.ctx, g.seq, g.cohort)

/-- The kick receiver is configured for a group's cohort. -/
def ownsReceiver (k : Core) (g : Group) : Bool :=
  k.receiver.any (fun r => decide (r.ctx = g.ctx) && decide (r.cohort = cohortKey g))

/-- Pending notices whose receiver has been released (R271). -/
def dropNotices (l : List Notice) : List Notice := l.map (fun n => { n with dropped := true })

/-- The notices of every core whose source is the scratchpad of a cohort that leaves its core (R271). -/
def loseSender (s : State) (core ctx : Nat) (key : Nat × Nat) : State :=
  { s with cores := mapEntries s.cores (fun _ k =>
      if k.notices.isEmpty then k
      else { k with notices := k.notices.map (fun n =>
        if n.sender = core ∧ n.ctx = ctx ∧ n.cohort = key then { n with gone := true } else n) }) }

/-- A cohort's resources given back when its last group has gone (R154, R268, R322). -/
def freeCohort (k : Core) (g : Group) : Core :=
  { k with
    cohorts := k.cohorts.filter (fun c => !(decide (c.ctx = g.ctx) && decide (c.seq = g.seq) && decide (c.number = g.cohort))),
    fills := k.fills.filter (fun x => !decide ((x.owner.ctx, x.owner.seq, x.owner.cohort) = holderOf g)),
    plane := if k.plane.holder = some (holderOf g) then { k.plane with holder := none } else k.plane,
    receiver := if ownsReceiver k g then none else k.receiver,
    notices := if ownsReceiver k g then dropNotices k.notices else k.notices }

/-- The narrows after a group has gone: the entries that came through it into the group's q7 are discarded, their slots
free, and its binding ends (R278). -/
def unbindGone (s : State) (core slot : Nat) (g : Group) : State :=
  let s := releaseSlots s core g (g.qs.getD 7 Queue.reset).narrow
  modNarrows s core (fun w => clearDirection (if w.bound = some (core, slot) then { w with bound := none } else w))

/-- A lease asked for by a group. -/
def isLeaseOf (gid : GroupId) : SkOp → Bool
  | .lease g _ _ _ => decide (g = gid)
  | _ => false

/-- The skerries that a group leases, or will lease by what it has sent, are sent a reset, behind all that it has sent them: from its
core, for a saved group from Grendex's (R10, R368). -/
def resetLeases (s : State) (core : Nat) (gid : GroupId) : State :=
  { s with skerries := mapEntries s.skerries (fun _ k =>
      { k with requests :=
          if k.lease = some gid ∨ k.fifo.any (isLeaseOf gid) ∨ k.requests.any (fun q => isLeaseOf gid q.op) then
            k.requests ++ [⟨gid, core, noGroup, 0, .reset gid⟩]
          else k.requests }) }

/-- A kernel with one group fewer; with none left and every cohort placed it retires (R130). -/
def kernelLess (s : State) (n : Nat) : State :=
  { s with kernels := mmod s.kernels n (fun x =>
      let x := { x with live := x.live - 1 }
      if x.live = 0 ∧ x.record.cohorts ≤ x.next ∧ x.preempted.isEmpty ∧ x.state = .running then
        { x with state := .retiring } else x) }

/-- The members that have joined a barrier. -/
def joinedOf (b : Barrier) : Nat := b.members.length + b.others.joined

/-- Every member that has joined a barrier has exited. -/
def allExited (b : Barrier) : Bool := b.members.all (fun m => m.exited) && decide (b.others.joined ≤ b.others.exited)

/-- Wide barriers without those whose every member has joined and exited (R283). -/
def freeBarriers (l : List Barrier) : List Barrier := l.filter (fun b => !(decide (b.count ≤ joinedOf b) && allExited b))

/-- The partition of a context, which says which pod the context is of (R282). -/
def podOf (s : State) (ctx : Nat) : Partition := mget s.partitions (ctxOf s ctx).partition Partition.reset

/-- A pod with other KZ7s (R476). -/
def inPod (s : State) (ctx : Nat) : Bool := decide (1 < (podOf s ctx).podSize)

/-- Some more, up to a bound: how many is free (log 63). -/
def someMore (s : State) (tag key n bound : Nat) : Nat := n + (freeWord s tag key).toNat % (bound - n + 1)

/-- What the members of a pod barrier on other packages do meanwhile: some join, some arrive, some exit (R282, R284, log 63). -/
def podStep (s : State) (key : Nat) (b : Barrier) : Barrier :=
  if b.id.scope = .pod ∧ inPod s b.id.ctx then
    let joined := someMore s 780 key b.others.joined (b.count - b.members.length)
    let arrived := someMore s 781 key b.others.arrived joined
    { b with others := ⟨joined, arrived, someMore s 782 key b.others.exited arrived⟩ }
  else b

/-- The pod barriers that groups of other packages are the first to join; which, with which count, is free (R282, R283, log 63). -/
def podFirst (s : State) : List Barrier :=
  s.ctxs.filterMap (fun c =>
    let id : BarrierId := ⟨.pod, (podOf s c.1).podId.toNat, c.1, (freeWord s 783 c.1).toNat % 16⟩
    if inPod s c.1 ∧ c.2.state = .runnable ∧ Config.freeBit s.fresh 784 c.1 ∧ s.barriers.all (fun b => decide (b.id ≠ id)) ∧
        (s.barriers.filter (fun b => decide (b.id.scope = .pod) && decide (b.id.inst = id.inst))).length < 64 then
      some { id := id, count := 1 + (freeWord s 785 c.1).toNat % 65535, phase := 0, members := [], others := ⟨1, 0, 0⟩, arriving := [],
             complete := [] }
    else none)

/-- The barriers after what other packages of the pods have done. -/
def podBarriers (s : State) : List Barrier :=
  freeBarriers ((s.barriers.zipIdx.map (fun b => podStep s b.2 b.1)) ++ podFirst s)

/-- A group of a context is resident. -/
def residentCtx (s : State) (ctx : Nat) : Bool := s.cores.any (fun c => c.2.groups.any (fun g => decide (g.2.ctx = ctx)))

/-- A suspend completes when no cohort of its context is resident (R100, R472). -/
def settleSuspend (s : State) (ctx : Nat) : State :=
  match (ctxOf s ctx).suspending with
  | some tag =>
    if residentCtx s ctx then s else post (modCtx s ctx (fun c => { c with suspending := none })) 0 0x14 0 tag [ctx]
  | none => s

/-! ## Rails (R422 to R424) -/

/-- A core's layer: the upper one. -/
def layerOf (core : Nat) : Bool := decide (core / 4 % 2 = 1)

/-- Index of a layer of a rail. -/
def railKey (rail : Nat) (upper : Bool) : Nat := 2 * rail + b2n upper

/-- The groups of a partition on a layer of a rail (R415, R422). -/
def railGroups (s : State) (rail : Nat) (upper : Bool) (partition : Nat) : List Group :=
  ((s.cores.filter (fun c => decide (c.1 / 64 = rail) && decide (layerOf c.1 = upper))).map (fun c =>
    (c.2.groups.map (fun g => g.2)).filter (fun g => decide ((ctxOf s g.ctx).partition = partition)))).flatten

/-- The partitions that vote on a layer (R422). -/
def railVoters (s : State) (rail : Nat) (upper : Bool) : List Nat :=
  (List.range 16).filter (fun p => !(railGroups s rail upper p).isEmpty)

/-- A voter's level on a layer: its burst vote while one of its groups there holds a hint (R422); 300 mV where the host has
set no vote (log 28). -/
def voteOf (s : State) (rail : Nat) (upper : Bool) (p : Nat) : Nat :=
  let v := mget (mget s.partitions p Partition.reset).votes (railKey rail upper) (300, 300)
  if (railGroups s rail upper p).any (fun g => g.ln.hint.isSome) then v.2 else v.1

/-- A layer's target (R422). -/
def railTarget (s : State) (rail : Nat) (upper : Bool) : Nat :=
  ((railVoters s rail upper).map (voteOf s rail upper)).foldl max 300

/-- A rail layer. -/
def railAt (s : State) (rail : Nat) (upper : Bool) : RailLayer := mget s.rails (railKey rail upper) RailLayer.reset

/-- The package with one rail layer changed. -/
def modRail (s : State) (rail : Nat) (upper : Bool) (f : RailLayer → RailLayer) : State :=
  { s with rails := mset s.rails (railKey rail upper) (f (railAt s rail upper)) }

/-- A layer after a look at its target and its voters (R424): a rise ends its hold and stops its fall; a voter that has gone and
whose going makes the target fall, or that goes during a fall, starts a hold; a fall for another reason goes on from there. A
rise that stays below the level leaves it there until the target falls again (log 112). -/
def railSeen (target : Nat) (voters : List Nat) (r : RailLayer) : RailLayer :=
  let lost := r.voters.any (fun p => !voters.contains p)
  let falling := !r.hold && !r.stopped && decide (r.target < r.level)
  let r' :=
    if r.target < target then { r with hold := false, stopped := decide (target < r.level) }
    else if lost && (decide (target < r.target) || falling) && decide (target < r.level) then { r with hold := true, stopped := false }
    else if target < r.target then { r with stopped := false }
    else r
  { r' with target := target, voters := voters }

/-- The layers that a group resides on or that have been seen: the rail and which layer. -/
def railKeys (s : State) : List (Nat × Bool) :=
  let seen : List (Nat × Bool) := s.rails.map (fun e => (e.1 / 2, decide (e.1 % 2 = 1)))
  let used : List (Nat × Bool) := s.cores.map (fun c => (c.1 / 64, layerOf c.1))
  (seen ++ used).eraseDups

/-- The package after a look at one layer. -/
def noteRail (s : State) (x : Nat × Bool) : State :=
  let r := railSeen (railTarget s x.1 x.2) (railVoters s x.1 x.2) (railAt s x.1 x.2)
  if r = railAt s x.1 x.2 then s else modRail s x.1 x.2 (fun _ => r)

/-- The package after a look at every layer's target and voters (R424). -/
def noteRails (s : State) : State := (railKeys s).foldl noteRail s

/-! ## A group leaves -/

/-- Registers that return fill the reserve first (R131, R169). -/
def refillReserve (k : Core) : Core :=
  { k with reserve := k.reserve + min (512 - k.reserve) k.pool, pool := k.pool - min (512 - k.reserve) k.pool }

/-- Commands of a group that has exited have stopped at an ACCESS, each with its failing address and its own: the host hears of them
and the context faults (R267); a context that is torn down has no further effect (R101). -/
def accessGone (s : State) (core ctx : Nat) (l : List (DWord × BitVec 48)) : State :=
  if (ctxOf s ctx).state = .tornDown then s
  else l.foldl (fun s a => faultNoRecord (post s (dieOf core) 0x11 0 0 [ctx, a.1.toNat, a.2.toNat]) ctx (dieOf core)) s

/-- A group leaves its core (R153, R154): it has arrived at every barrier of its own for good, its registers return, its
remote loads stay on their way (R273), and with the last group of its cohort the cohort's resources. -/
def groupGone (s : State) (core slot : Nat) : State :=
  match groupOf s core slot with
  | none => s
  | some g =>
    let s := modMembers s core slot (fun m => { m with exited := true })
    let s := { s with barriers := freeBarriers s.barriers }
    let s := unbindGone s core slot g
    let s := resetLeases s core (gidOf g)
    let s := modCore s core (fun k =>
      let k := orphanSlot (refillReserve { k with groups := merase k.groups slot, pool := k.pool + charge g }) slot
      let k := { k with orphans := k.orphans ++ g.rlds.map (fun r => (gidOf g, r)) }
      let k := modCohort k g (fun c => { c with slots := c.slots.filter (fun x => decide (x ≠ slot)) })
      match cohortOf k g with
      | some c => if c.slots.isEmpty then freeCohort k g else k
      | none => k)
    let s := if (cohortOf (coreOf s core) g).isNone then loseSender s core g.ctx (cohortKey g) else s
    kernelLess (settleSuspend (accessGone s core g.ctx g.deferredAccess) g.ctx) g.kernel

/-- Lanes leave their group (R153): they are removed from `em` and from every entry, held or spilled; quarters without
lanes give their registers back; with its last lane the group exits. -/
def exitLanes (s : State) (core slot : Nat) (x : Mask) : State :=
  match groupOf s core slot with
  | none => s
  | some g =>
    let l := g.ln
    let l := { l with exited := l.exited ||| x, em := l.em &&& ~~~ x,
                      stack := l.stack.map (reduceEntry x) }
    let g' := { g with ln := l }
    let live := liveQuarters g'
    let g' := { g' with ln := { l with
      regs := l.regs.filter (fun e => live.contains (e.1 % 8)), sets := l.sets.filter (fun e => live.contains (e.1 % 8)) } }
    let s := modCore s core (fun k =>
      { k with
        groups := mset k.groups slot g', pool := k.pool + charge g - charge g',
        scratch := Memory.writeBytes k.scratch l.stklim.toNat
          (((spilledEntries k.scratch l).map (fun e => entryBytes (reduceEntry x e))).flatten) })
    if liveLanes g' = 0 then groupGone s core slot else s

/-- The block of a lane stream ends (R139, R179); with the scalar stream ended and no block left, the remaining lanes
exit (R248). -/
def endBlock (s : State) (core slot : Nat) : State :=
  let s := modGroup s core slot (fun g => { g with
    ln := endLane (!g.sc.blocks.tail.isEmpty) g.ln, sc := { g.sc with blocks := g.sc.blocks.tail } })
  match groupOf s core slot with
  | some g => if g.sc.sexited ∧ g.sc.blocks.isEmpty then exitLanes s core slot (liveLanes g) else s
  | none => s

/-! ## Results that come later -/

/-- The result of a tag in a group. -/
def pendingOf (s : State) (core slot tag : Nat) : Option Pending :=
  match groupOf s core slot with
  | some g => g.ln.outstanding.find? (fun p => decide (p.tag = tag))
  | none => none

/-- The lane stream after a result has come: it is no longer outstanding, its scoreboard falls, its flags are raised. -/
def settleLane (l : Lane) (p : Pending) : Lane :=
  { l with
    outstanding := l.outstanding.filter (fun x => decide (x.tag ≠ p.tag)), grant := if p.ready then 0 else l.grant,
    sb := match p.sb with
      | some n => lset 0 l.sb n (l.sb.getD n 0 - 1)
      | none => l.sb,
    fpc := raiseFlags l.fpc p.flags }

/-- A result of variable latency is written and its scoreboard falls (R52); LANE_FP follows where its flags were enabled as
it issued (R192, R193). A write that finds no register keeps the result, whose words have come, waiting, with its group
stalled for reason allocation (R169). -/
def completeWith (s : State) (core slot : Nat) (p : Pending) (ws : List RegWrite) (fl : Flags) : State :=
  match groupOf s core slot with
  | none => s
  | some g =>
    let p := { p with flags := p.flags ||| fl }
    let g1 := ws.foldl (writeName s) g
    let g2 := { g1 with ln := settleLane g1.ln p }
    match settlePool (coreOf s core) slot g g2 with
    | .error (.alloc n) => modLane s core slot (fun l =>
        { l with state := (match l.state with
                   | .sleeping => l.state
                   | .forming => l.state
                   | .preempted => l.state
                   | _ => .stalled .allocation), need := n + (coreOf s core).pool,
                 outstanding := l.outstanding.map (fun x => if x.tag = p.tag then { p with writes := ws, ready := true } else x) })
    | .error _ => s
    | .ok k =>
      let s := setCore s core k
      match laneFp p.fpc p.flags with
      | none => s
      | some t => raiseTrap s core slot .lane { t with mask := some (p.writes.foldl (fun m w => m ||| w.mask) 0), site := some p.site }

/-- The oldest result of a group whose words wait for registers (R169). -/
def readyResult (l : Lane) : Option Pending := l.outstanding.find? (fun p => p.ready)

/-- The result of a tag completes with what it held when it issued. -/
def completeTag (s : State) (core slot tag : Nat) : State :=
  match pendingOf s core slot tag with
  | some p => completeWith s core slot p p.writes 0
  | none => s

/-- The result of a tag completes with words computed now for its destination; each of them goes to every write of that word, one
for each path of an m name (R156). -/
def completeValues (s : State) (core slot tag : Nat) (vals : List (List Word)) : State :=
  match pendingOf s core slot tag with
  | some p =>
    let paths := max 1 (p.writes.length / vals.length)
    completeWith s core slot p ((p.writes.zipIdx).map (fun e => { e.1 with vals := vals.getD (e.2 / paths) e.1.vals })) 0
  | none => s

/-- A result on its way, named by the step that issued it. -/
def pendingResult (s : State) (e : Iss) (kind : PendingKind) (ws : List RegWrite) (fl : Flags) : Pending :=
  { kind := kind, tag := s.fresh, sb := none, writes := ws, flags := fl, site := ⟨e.g.ln.pc, e.cas.isSome⟩, fpc := e.g.ln.fpc, ready := false }

/-! ## Reconvergence -/

/-- Entries below the handler's mark are out of reach in handler mode (R171). -/
def aboveMark (l : Lane) : Bool := decide (l.mark.getD 0 < stackDepth l)

/-- The top entry applied (R149, and R177 line 006 for a CALL); every mask is reduced to the lanes not exited. -/
def applyEntry (l : Lane) (m : Memory) (e : StackEntry) : Lane :=
  let l := popEntry l m
  let l := { l with em := e.mask &&& ~~~ l.exited, fmt := e.fmt }
  match e.kind with
  | .reconv => { l with pc := ⟨e.rpc, 0⟩ }
  | .pending => { l with pc := ⟨e.pc, 0⟩ }
  | .call => { l with pc := ⟨e.pc, 0⟩ }
  | .meld => { l with pc := ⟨e.rpc, 0⟩, path := none }

/-- The top entry discarded where no lane of it is left, else applied; a CALL is applied in any case (R177 line 006). -/
def unwindOne (m : Memory) (l : Lane) (e : StackEntry) : Lane :=
  if e.mask &&& ~~~ l.exited = 0 ∧ e.kind ≠ .call then
    let p := popEntry l m
    if e.kind = .meld then { p with path := none } else p
  else applyEntry l m e

/-- Lines 005 to 008 of R177: entries are applied until `em` is not empty or the stack (above the handler's mark) runs
out. `fuel` bounds the entries looked at. -/
def unwind (m : Memory) : Nat → Lane → Lane
  | 0, l => l
  | fuel + 1, l =>
    if l.em ≠ 0 ∨ !aboveMark l then l
    else
      match l.stack with
      | [] => l
      | e :: _ => unwind m fuel (unwindOne m l e)

/-- The address to which a return transfers: that of the CALL entry with which `unwind` ends, if it ends with one. -/
def returnTarget (m : Memory) : Nat → Lane → Option (BitVec 48)
  | 0, _ => none
  | fuel + 1, l =>
    if l.em ≠ 0 ∨ !aboveMark l then none
    else
      match l.stack with
      | [] => none
      | e :: _ =>
        let t := unwindOne m l e
        if t.em ≠ 0 then (if e.kind = .call then some e.pc else none) else returnTarget m fuel t

/-- Bound on the entries of a stack: 32 held and what the scratchpad can hold. -/
def stackFuel : Nat := 16416

/-- The core after a group's handler has returned: a PLANE_FP of the group is returned from (R325, R338). -/
def planeReturned (slot : Nat) (k : Core) : Core :=
  if k.plane.unreturned = some slot then { k with plane := { k.plane with unreturned := none } } else k

/-- The return from a lane handler to an address (R171, R184). -/
def handlerReturn (s : State) (core slot : Nat) (h : HandlerSave) (pc : BitVec 48) : State :=
  let m := (coreOf s core).scratch
  modLane (modCore s core (planeReturned slot)) core slot (fun l => leaveLaneHandler l m h pc 0)

/-- The lane stream finds its next lanes after `em` has become empty (R179): on the stack, else the handler returns,
else the block ends; where the handler's kept `em` is empty too, it has returned and the block ends. A record address that is no
multiple of 4 traps at the next fetch: R179 does not say whether an `exit` raises ALIGN as `tret` does (log 131). -/
def findLanes (s : State) (core slot : Nat) : State :=
  match groupOf s core slot with
  | none => s
  | some g =>
    let l := unwind (coreOf s core).scratch stackFuel g.ln
    let s := modLane s core slot (fun _ => l)
    if l.em ≠ 0 then s
    else
      match l.handler with
      | none => endBlock s core slot
      | some h =>
        let s := handlerReturn s core slot h (recordAddress s core slot)
        if h.em &&& ~~~ l.exited = 0 then endBlock s core slot else s

/-- A region restarts (R163). Where every lane of its saved mask has exited since, the stream finds its next lanes (R147,
R179). -/
def restartRegion (s : State) (core slot : Nat) : State :=
  let s := rewindRegion s core slot
  match groupOf s core slot with
  | none => s
  | some g => if !g.ln.faultRestarts ∧ g.ln.inBlock ∧ g.ln.em = 0 then findLanes s core slot else s

/-- The top entry's address is reached (R149). -/
def atReconvergence (l : Lane) : Bool :=
  match l.stack with
  | [] => false
  | e :: _ => aboveMark l && decide (e.kind ≠ .call) && decide (e.rpc = l.pc.addr) && decide (l.pc.sub = 0)

/-- The top entry popped and applied before an instruction issues (R149); a switch to a PENDING entry delays the next
instruction by 2 issue steps (R173). -/
def reconverge (s : State) (core slot : Nat) : State :=
  match groupOf s core slot with
  | none => s
  | some g =>
    match g.ln.stack with
    | [] => s
    | e :: _ =>
      let l := applyEntry g.ln (coreOf s core).scratch e
      let l := if e.kind = .pending then { l with next := max l.clock l.next + issueSteps 2 } else l
      let s := modLane s core slot (fun _ => l)
      if l.em = 0 then findLanes s core slot else s

end Sys2Proof.Machine
end

