-- ==== Sys2Proof/Machine/Control.lean ====
section
/-!
DEFINITION. The control and group instructions (07_group R172 to R184) and the events of pacing.
-/
namespace Sys2Proof.Machine

open Sys2Proof

/-! ## Transfers -/

/-- The c bit of the page of an address, where it translates (R352). -/
def casnisPage (s : State) (core ctx va : Nat) : Option Bool :=
  match leafFor s core ctx va with
  | .leaf _ e _ => some (decide (e / 32 % 2 = 1))
  | _ => none

/-- A transfer stays in native or in translated code (R352). -/
def checkPage (s : State) (e : Iss) (t : Nat) : Res Unit :=
  match casnisPage s e.core e.g.ctx t with
  | none => .ok ()
  | some c => if c = e.cas.isSome then .ok () else trapOf 0x0D (BitVec.ofNat 64 t)

/-- The checks of a transfer's target: R31, then R352. -/
def checkTransfer (s : State) (e : Iss) (t : Nat) : Res Unit := andThen (checkTarget t) (checkPage s e t)

/-- Control instructions that may not stand in a meld region (R157). -/
def checkNest (l : Lane) : Res Unit :=
  if l.path.isSome then trapOf 0x07 (BitVec.ofNat 64 (stackDepth l)) else .ok ()

/-- The lane stream of a group, with a change to its core's scratchpad. -/
def putLane (s : State) (core slot : Nat) (x : Lane × Memory) : State :=
  modLane (modCore s core (fun k => { k with scratch := x.2 })) core slot (fun _ => x.1)

/-- The top entry is RECONV with an rpc (R150 line 001); entries under a handler's mark do not count. -/
def topReconv (l : Lane) (rpc : BitVec 48) : Bool :=
  match l.stack with
  | [] => false
  | e :: _ => aboveMark l && decide (e.kind = .reconv) && decide (e.rpc = rpc)

/-- Lines 001 and 002 of R150. -/
def pushPaths (l : Lane) (m : Memory) (fall rpc : BitVec 48) (rest : Mask) : Res (Lane × Memory) :=
  let first := if topReconv l rpc then .ok (l, m) else pushEntry l m ⟨.reconv, 0, rpc, l.em, l.fmt⟩
  match first with
  | .error e => .error e
  | .ok (l, m) => if fall = rpc then .ok (l, m) else pushEntry l m ⟨.pending, fall, rpc, rest, l.fmt⟩

/-- A conditional transfer of the lanes taking part (R150). -/
def transfer (s : State) (e : Iss) (i : Instr) (target rcv : Nat) : Res Done :=
  let l := e.g.ln
  let rest := l.em &&& ~~~ e.lanes
  if rest = 0 then .ok (Done.jump s (BitVec.ofNat 48 target))
  else
    let rpc := l.pc.addr + BitVec.ofNat 48 (4 * rcv)
    match pushPaths l (coreOf s e.core).scratch (followingPc e i).addr rpc rest with
    | .error r => .error r
    | .ok (l, m) =>
      .ok (Done.jump (putLane s e.core e.slot ({ l with em := e.lanes }, m)) (BitVec.ofNat 48 target))

/-- The literal of a form as a number. -/
def litOf (f : LaneForm) : Nat := (f.lit.getD 0).toNat

/-- `bra` (R174). -/
def execBra (f : LaneForm) (s : State) : Host.Outcome State Fault Refusal :=
  runLane (.bra f) s (fun e s =>
    let t := relTarget e.g.ln.pc (f.lit.getD 0)
    match andThen (checkNest e.g.ln) (checkTransfer s e t) with
    | .error r => .error r
    | .ok _ => if f.ctl.gen then transfer s e (.bra f) t (wide16 f) else .ok (Done.jump s (BitVec.ofNat 48 t)))

/-- `brau` (R175). -/
def execBrau (f : LaneForm) (s : State) : Host.Outcome State Fault Refusal :=
  runLane (.brau f) s (fun e s =>
    let l := e.g.ln
    let t := relTarget l.pc (f.lit.getD 0)
    let p := predMask s l f.src1.toNat
    let c := l.em &&& (if f.src2 = 1 then ~~~ p else p)
    match checkNest l with
    | .error r => .error r
    | .ok _ =>
      if c = l.em then
        match checkTransfer s e t with
        | .error r => .error r
        | .ok _ => .ok (Done.jump s (BitVec.ofNat 48 t))
      else if c = 0 then .ok (Done.plain s)
      else trapOf 0x05 (if c.getLsbD (lowestLane l.em) then l.em &&& ~~~ c else c))

/-- `jmpi` (R176). -/
def execJmpi (f : LaneForm) (s : State) : Host.Outcome State Fault Refusal :=
  runLane (.jmpi f) s (fun e s =>
    let src := fieldAt e.x 1
    let t := src64 s e src (lowestLane e.lanes)
    match checkNest e.g.ln with
    | .error r => .error r
    | .ok _ =>
      let dissent := e.lanes &&& maskOf (fun j => decide (src64 s e src j ≠ t))
      if dissent ≠ 0 then trapOf 0x05 dissent
      else
        match checkTransfer s e t with
        | .error r => .error r
        | .ok _ => if f.ctl.gen then transfer s e (.jmpi f) t (wide16 f) else .ok (Done.jump s (BitVec.ofNat 48 t)))

/-- The target of a `call`: an offset from the instruction, or in translated code from the helper base (R443). -/
def callTarget (s : State) (e : Iss) (f : LaneForm) : Nat :=
  match e.cas with
  | some _ => (ctxOf s e.g.ctx).helper.toNat + litOf f
  | none => relTarget e.g.ln.pc (f.lit.getD 0)

/-- `call` (R177). -/
def execCall (f : LaneForm) (s : State) : Host.Outcome State Fault Refusal :=
  runLane (.call f) s (fun e s =>
    let l := e.g.ln
    let t := callTarget s e f
    let page := if e.cas.isSome then .ok () else checkPage s e t
    match andThen (checkNest l) (andThen (checkTarget t) page) with
    | .error r => .error r
    | .ok _ =>
      let back := if e.cas.isSome then l.pc.addr + 8 else l.pc.addr + 12
      match pushEntry l (coreOf s e.core).scratch ⟨.call, back, 0, l.em, l.fmt⟩ with
      | .error r => .error r
      | .ok (l, m) => .ok (Done.jump (putLane s e.core e.slot ({ l with em := e.lanes }, m)) (BitVec.ofNat 48 t)))

/-- A CALL entry is in reach: above the handler's mark in handler mode (R177 line 002). -/
def hasCall (l : Lane) (m : Memory) : Bool :=
  ((l.stack ++ (spilledEntries m l).reverse).take (stackDepth l - l.mark.getD 0)).any (fun e => decide (e.kind = .call))

/-- The entries above the innermost CALL without some lanes (R177 line 004). -/
def leaveAbove (x : Mask) : List StackEntry → List StackEntry
  | [] => []
  | e :: l => if e.kind = .call then e :: l else { e with mask := e.mask &&& ~~~ x } :: leaveAbove x l

/-- Spilled entries above the innermost CALL lose the lanes as well; they are rewritten in place. -/
def leaveSpilled (l : Lane) (m : Memory) (x : Mask) : Memory :=
  if l.stack.any (fun e => decide (e.kind = .call)) then m
  else Memory.writeBytes m l.stklim.toNat (((leaveAbove x (spilledEntries m l).reverse).reverse.map entryBytes).flatten)

/-- An address is a helper entry's, whose return into a Casnis page R352 lets pass (R441). -/
def inHelperEntry (s : State) (g : Group) : Bool :=
  let base := (ctxOf s g.ctx).helper.toNat
  decide (base ≠ 0) && decide (base + 0x1000 ≤ g.ln.pc.addr.toNat) && decide (g.ln.pc.addr.toNat < base + 0x3000)

/-- The target of a return is checked as that of every transfer (R31, R352). -/
def checkReturn (s : State) (e : Iss) (m : Memory) (l : Lane) : Res Unit :=
  match returnTarget m stackFuel l with
  | none => .ok ()
  | some t => andThen (checkAlign t.toNat) (if inHelperEntry s e.g then .ok () else checkPage s e t.toNat)

/-- `ret` (R177). -/
def execRet (f : LaneForm) (s : State) : Host.Outcome State Fault Refusal :=
  runLane (.ret f) s (fun e s =>
    let l := e.g.ln
    let m := (coreOf s e.core).scratch
    match checkNest l with
    | .error r => .error r
    | .ok _ =>
      if !hasCall l m then trapSub 0x01 2 (instrBits (.ret f))
      else
        let m := leaveSpilled l m e.lanes
        let l := { l with stack := leaveAbove e.lanes l.stack, em := l.em &&& ~~~ e.lanes }
        match checkReturn s e m l with
        | .error r => .error r
        | .ok _ =>
          let s := putLane s e.core e.slot (l, m)
          if l.em ≠ 0 then .ok { Done.plain s with steps := 2 }
          else .ok { Done.plain (findLanes s e.core e.slot) with flow := .set, steps := 2 })

/-- `meld` (R155, R178). -/
def execMeld (f : LaneForm) (s : State) : Host.Outcome State Fault Refusal :=
  runLane (.meld f) s (fun e s =>
    let l := e.g.ln
    match checkNest l with
    | .error r => .error r
    | .ok _ =>
      let fin := l.pc.addr + BitVec.ofNat 48 (4 * wide16 f)
      match pushEntry l (coreOf s e.core).scratch ⟨.meld, 0, fin, l.em, l.fmt⟩ with
      | .error r => .error r
      | .ok (l, m) =>
        .ok (Done.plain (putLane s e.core e.slot ({ l with path := some (l.em &&& predMask s l f.src1.toNat) }, m))))

/-- A meld table with four entries set (R178). -/
def setTable (t : List Nat) (first lit : Nat) : List Nat :=
  (List.range 4).foldl (fun t j => lset 0 t (first + j) (lit / 256 ^ j % 256)) t

/-- `mtab` (R178). -/
def execMtab (f : LaneForm) (s : State) : Host.Outcome State Fault Refusal :=
  runLane (.mtab f) s (fun e s =>
    match checkNest e.g.ln with
    | .error r => .error r
    | .ok _ =>
      let first := 4 * f.src1.toNat
      .ok (Done.plain (modLane s e.core e.slot (fun l =>
        if f.dst = 0 then { l with t0 := setTable l.t0 first (litOf f) }
        else { l with t1 := setTable l.t1 first (litOf f) }))))

/-- `lend` (R179). -/
def execLend (f : LaneForm) (s : State) : Host.Outcome State Fault Refusal :=
  runLane (.lend f) s (fun e s =>
    if 0 < stackDepth e.g.ln ∨ e.g.ln.handler.isSome then trapSub 0x01 3 (instrBits (.lend f))
    else .ok { Done.plain (endBlock s e.core e.slot) with flow := .set, steps := 2 })

/-- `exit` (R153, R179). Where `em` becomes empty the next instruction is 2 issue steps later whatever entry it goes to, and after a
return from the handler as well: R173 names the switch to a PENDING entry and the end of a block only (log 129). -/
def execExit (f : LaneForm) (s : State) : Host.Outcome State Fault Refusal :=
  runLane (.exit f) s (fun e s =>
    let s := exitLanes s e.core e.slot e.lanes
    match groupOf s e.core e.slot with
    | none => .ok (Done.plain s)
    | some g =>
      if g.ln.em ≠ 0 then .ok (Done.plain s)
      else .ok { Done.plain (findLanes s e.core e.slot) with flow := .set, steps := 2 })

/-! ## Regions -/

/-- The live mask of v0 to v31 in bits [43:12] (R180). -/
def liveMask (f : LaneForm) : BitVec 32 :=
  BitVec.ofNat 32 (f.dst.toNat + 256 * f.src1.toNat + 65536 * f.src2.toNat + 16777216 * f.src3.toNat)

/-- The bytes of a save in the checkpoint area (R159); the read marks' form is not given. -/
def saveBytes (sv : Save) (w : Nat) (marks : List Byte) : List Byte :=
  let lanes (v : List Word) : List Byte := ((List.range w).map (fun j => natToBytes 4 (v.getD j 0).toNat)).flatten
  let entries := (sv.stack.reverse.map entryBytes).flatten
  natToBytes 4 sv.fmt.toNat ++ natToBytes 4 sv.fpc.toNat ++ natToBytes 8 sv.em.toNat ++
    natToBytes 8 sv.sp.toNat ++ natToBytes 8 sv.stklim.toNat ++ natToBytes 8 sv.rsp.toNat ++
    natToBytes 8 sv.head.addr.toNat ++ natToBytes 4 sv.liveLow.toNat ++
    natToBytes 4 (sv.stack.length + sv.spilled.length) ++ natToBytes 8 sv.livePairs.toNat ++
    ((List.range 8).map (fun q => natToBytes 4 (if 8 * q < w then (sv.gen.getD q 0).toNat else 0))).flatten ++
    ((List.range 7).map (fun p => natToBytes 8 (sv.preds.getD p 0).toNat)).flatten ++
    natToBytes 8 (sv.path.getD 0).toNat ++ marks ++
    ((List.range 16).map (fun i => natToBytes 1 (sv.t0.getD i 0))).flatten ++
    ((List.range 16).map (fun i => natToBytes 1 (sv.t1.getD i 0))).flatten ++
    entries ++ List.replicate (1024 - entries.length) 0 ++
    ((List.range 8).map (fun n => lanes (mget sv.ofile n []))).flatten ++
    (sv.live.map (fun e => lanes e.2)).flatten ++ (sv.spilled.map entryBytes).flatten

/-- The instruction is `ckpt`. -/
def isCkpt : Instr → Bool
  | .ckpt _ => true
  | _ => false

/-- A region opened with live names (R159, R180): the save is written to the group's checkpoint area, then the region is open. The
instruction has waited on every scoreboard (R159), a fill's too (R314). -/
def openSaved (s : State) (e : Iss) (i : Instr) (low : BitVec 32) (pairs : BitVec 48) : Res Done :=
  if arrayBusy (coreOf s e.core) e.slot then .error (.stall .scoreboard)
  else
    let sv := saveOf (coreOf s e.core).scratch e.g (followingPc e i) low pairs
    let bs := saveBytes sv (widthG e.g) (freeBytes s 64 64)
    let base := e.g.ckptBase.toNat
    if e.g.ckptSize < bs.length then trapOf 0x0B (BitVec.ofNat 64 (base + e.g.ckptSize))
    else
      match storeRange s e.core e.g.ctx base bs with
      | .error r => .error r
      | .ok s =>
        let s := seeFills (openRegion s e.core e.slot) e.core e.g (fun _ => true)
        .ok (Done.plain (modLane s e.core e.slot (fun l =>
          { l with region := some ⟨sv, false, isCkpt i, groupRows e.g⟩ })))

/-- `ckpt` (R180). -/
def execCkpt (f : LaneForm) (s : State) : Host.Outcome State Fault Refusal :=
  runLane (.ckpt f) s (fun e s => openSaved s e (.ckpt f) (liveMask f) 0)

/-- The live set that a `ckptx` joins: that of the `ckpt` immediately before it (R158). -/
def joinedLow (l : Lane) : BitVec 32 :=
  match l.region with
  | some r => if followsCkpt l then r.save.liveLow else 0
  | none => 0

/-- `ckptx` (R180). -/
def execCkptx (f : CkptxForm) (s : State) : Host.Outcome State Fault Refusal :=
  runLane (.ckptx f) s (fun e s => openSaved s e (.ckptx f) (joinedLow e.g.ln) f.pairs)

/-! ## Pacing -/

/-- `wait` (R181). -/
def execWait (f : LaneForm) (s : State) : Host.Outcome State Fault Refusal :=
  runLane (.wait f) s (fun e s =>
    if wide16 f = 0 then .ok (Done.plain s)
    else .ok (Done.plain (modLane s e.core e.slot (fun l =>
      { l with state := .sleeping, sleep := some (.ac (wide16 f) (coreOf s e.core).ac) }))))

/-- `nop` (R181). -/
def execNop (f : LaneForm) (s : State) : Host.Outcome State Fault Refusal :=
  runLane (.nop f) s (fun _ s => .ok (Done.plain s))

/-- Short `nop` (R64). -/
def execNopShort (f : ShortForm) (s : State) : Host.Outcome State Fault Refusal :=
  runLane (.nopShort f) s (fun _ s => .ok (Done.plain s))

/-- `yield` (R181). -/
def execYield (f : LaneForm) (s : State) : Host.Outcome State Fault Refusal :=
  runLane (.yield f) s (fun e s => .ok (Done.plain (modGroup s e.core e.slot (fun g => { g with age := s.now }))))

/-- The state in which a sleeping stream wakes. -/
def wokenState (l : Lane) : GroupState := if l.handler.isSome then .trapped else .ready

/-- The count of ac of a group's `wait` has passed (R181); a held group stays asleep (R102). -/
def waitPassed (s : State) (core : Nat) (g : Group) : Bool :=
  decide (g.ln.state = .sleeping) && decide ((ctxOf s g.ctx).state ≠ .faulted) && (match g.ln.sleep with
    | some (.ac n t) => decide (t + n ≤ (coreOf s core).ac)
    | _ => false)

/-- The package with a group awake whose `wait` is over. -/
def wakeWait (s : State) (core slot : Nat) : State :=
  match groupOf s core slot with
  | none => s
  | some g => if waitPassed s core g then modLane s core slot (fun l => { l with state := wokenState l, sleep := none }) else s

/-- The end of a `wait` (R181). -/
def execWaitExpire (core slot : Nat) (s : State) : Host.Outcome State Fault Refusal := .next (wakeWait s core slot)

/-! ## The mask and the stack -/

/-- `emrd` (R182). -/
def execEmrd (f : LaneForm) (s : State) : Host.Outcome State Fault Refusal :=
  runLane (.emrd f) s (fun e s =>
    .ok (Done.regs s 2 (write64 f.dst.toNat e.lanes (fun _ => e.g.ln.em.toNat)) 0))

/-- `emwr` (R182). -/
def execEmwr (f : LaneForm) (s : State) : Host.Outcome State Fault Refusal :=
  runLane (.emwr f) s (fun e s =>
    let v : Mask := BitVec.ofNat 64 (uni64 s e (fieldAt e.x 1))
    if e.g.ln.em &&& v = 0 then illegalOperand 1 f.src1.toNat
    else .ok (Done.plain (modLane s e.core e.slot (fun l => { l with em := l.em &&& v }))))

/-- The byte count of `salloc` and `sfree` (R183). -/
def frameBytes (f : LaneForm) : Res Nat :=
  if litOf f = 0 ∨ litOf f % 32 ≠ 0 then illegalOperand 15 (litOf f) else .ok (litOf f)

/-- `salloc` (R151, R183). -/
def execSalloc (f : LaneForm) (s : State) : Host.Outcome State Fault Refusal :=
  runLane (.salloc f) s (fun e s =>
    match frameBytes f with
    | .error r => .error r
    | .ok n =>
      let sp := e.g.ln.sp.toNat
      if sp < n + e.g.ln.rsp.toNat then trapOf 0x0B (BitVec.ofNat 64 sp - BitVec.ofNat 64 n)
      else .ok (Done.plain (modLane s e.core e.slot (fun l => { l with sp := BitVec.ofNat 19 (sp - n) }))))

/-- `sfree` (R183). -/
def execSfree (f : LaneForm) (s : State) : Host.Outcome State Fault Refusal :=
  runLane (.sfree f) s (fun e s =>
    match frameBytes f with
    | .error r => .error r
    | .ok n =>
      let sp := e.g.ln.sp.toNat + n
      if e.g.stkTop.toNat < sp then trapOf 0x0B (BitVec.ofNat 64 sp)
      else .ok (Done.plain (modLane s e.core e.slot (fun l => { l with sp := BitVec.ofNat 19 sp }))))

/-! ## Software traps -/

/-- `trap` (R184). -/
def execTrap (f : LaneForm) (s : State) : Host.Outcome State Fault Refusal :=
  runLane (.trap f) s (fun _ _ => trapOf 0x15 (BitVec.ofNat 64 (wide16 f)))

/-- `brk` (R184). -/
def execBrk (f : LaneForm) (s : State) : Host.Outcome State Fault Refusal :=
  runLane (.brk f) s (fun _ _ => trapOf 0x14 (BitVec.ofNat 64 (wide16 f)))

/-- `tret` (R171, R184): the kept state is restored and execution goes on at the record's address; a PLANE_FP of the
group is returned from (R325, R338). -/
def execTret (f : LaneForm) (s : State) : Host.Outcome State Fault Refusal :=
  runLane (.tret f) s (fun e s =>
    match e.g.ln.handler with
    | none => trapSub 0x01 4 (instrBits (.tret f))
    | some h =>
      let pc := recordAddress s e.core e.slot
      let s := handlerReturn s e.core e.slot h pc
      if pc.toNat % 4 ≠ 0 then trapOf 0x0C (BitVec.ofNat 64 pc.toNat)
      else if (groupOf s e.core e.slot).any (fun g => decide (g.ln.em = 0)) then
        .ok { Done.plain (findLanes s e.core e.slot) with flow := .set }
      else .ok { Done.plain s with flow := .set })

/-- A waiting trap is taken once it is due (R241, R250). -/
def execDeferredTrap (core slot : Nat) (s : State) : Host.Outcome State Fault Refusal :=
  match groupOf s core slot with
  | none => .next s
  | some g =>
    match trapDue g with
    | some (.lane, t) =>
      if dueLane s g then
        .next (takeTrap (modLane s core slot (fun l => { l with deferred := l.deferred.tail })) core slot .lane t)
      else .next s
    | some (.scalar, t) =>
      if dueScalar s g then
        .next (takeTrap (modScalar s core slot (fun z => { z with deferred := z.deferred.tail, watch := none })) core slot .scalar t)
      else .next s
    | none => .next s

end Sys2Proof.Machine
end

