-- ==== Sys2Proof/Machine/Casnis.lean ====
section
/-!
DEFINITION. Casnis words and Flinte's translation of them (19_casnis), the words that trap at decode, and the helper
entries of the Grendex region.
-/
namespace Sys2Proof.Machine

open Sys2Proof

/-! ## Native words that Flinte emits (R437) -/

/-- The schedule of an emitted word: it waits on sb5; a word of variable latency sets sb5. -/
def emitCtl (latency : Nat) (var : Bool) (g : Nat) (gn : Bool) : Ctl :=
  { stall := BitVec.ofNat 3 (latency - 1), wait := 32, set := if var then 5 else 7, last := 0,
    gpred := if g = 7 then 0 else BitVec.ofNat 3 g, gneg := decide (g ≠ 7) && gn, gen := decide (g ≠ 7) }

/-- The operands of an emitted word. -/
def emit (ctl : Ctl) (dst a b c : Nat) (lit : Option Word) : LaneForm :=
  { dst := BitVec.ofNat 8 dst, src1 := BitVec.ofNat 8 a, src2 := BitVec.ofNat 8 b, src3 := BitVec.ofNat 8 c, ctl := ctl,
    lit := lit }

/-- Fields of a Casnis word (R434). -/
structure CasnisWord where
  w : Nat
  deriving DecidableEq, Repr

/-- The operation. -/
def CasnisWord.op (x : CasnisWord) : Nat := bits x.w 7 0
/-- The destination. -/
def CasnisWord.xd (x : CasnisWord) : Nat := bits x.w 13 8
/-- The first source. -/
def CasnisWord.xa (x : CasnisWord) : Nat := bits x.w 19 14
/-- The second source. -/
def CasnisWord.xb (x : CasnisWord) : Nat := bits x.w 25 20
/-- The third source. -/
def CasnisWord.xc (x : CasnisWord) : Nat := bits x.w 31 26
/-- The guard. -/
def CasnisWord.g (x : CasnisWord) : Nat := bits x.w 34 32
/-- Guard negate. -/
def CasnisWord.gn (x : CasnisWord) : Bool := bitOf x.w 35
/-- The modifier. -/
def CasnisWord.mod (x : CasnisWord) : Nat := bits x.w 39 36
/-- The immediate. -/
def CasnisWord.imm (x : CasnisWord) : Nat := bits x.w 63 40

/-- imm24 sign-extended to 32 bits. -/
def immSigned (x : CasnisWord) : Word := BitVec.ofNat 32 (sext64 24 x.imm).toNat

/-- The schedule of an emitted word under the word's own guard. -/
def ctlOf (x : CasnisWord) (latency : Nat) (var : Bool) : Ctl := emitCtl latency var x.g x.gn

/-- The word that traps ILLEGAL_OP with subcode 9. -/
def emitIllegal (x : CasnisWord) : List Instr := [.legacyWord .illegalOp (BitVec.ofNat 64 x.w) (ctlOf x 1 false)]

/-- The word that raises LEGACY. -/
def emitLegacy (x : CasnisWord) (sub : Nat) : List Instr :=
  [.legacyWord (.legacy (BitVec.ofNat 8 sub)) (BitVec.ofNat 64 x.w) (ctlOf x 1 false)]

/-- An arithmetic word with an operand b that is a register, or with mod[3] = 1 a literal (R438). -/
def emitArith (x : CasnisWord) (mk : LaneForm → Instr) (latency c : Nat) (lit : Word) : List Instr :=
  let lits := bitOf x.mod 3
  [mk (emit (ctlOf x latency false) x.xd x.xa (if lits then 255 else x.xb) c (if lits then some lit else none))]

/-- The literal of an FP operation. -/
def immFloat (x : CasnisWord) : Word := BitVec.ofNat 32 (x.imm * 256)

/-- A one-source word without a literal. -/
def emitOne (x : CasnisWord) (mk : LaneForm → Instr) (latency : Nat) (var : Bool) : List Instr :=
  [mk (emit (ctlOf x latency var) x.xd x.xa 0 0 none)]

/-- A rounding word: modes 0 to 4 as R50, 5 is LEGACY 1, 6 and 7 ILLEGAL_OP. -/
def emitRounded (x : CasnisWord) (mk : RM → List Instr) : List Instr :=
  match x.mod % 8 with
  | 0 => mk .dflt
  | 1 => mk .rne
  | 2 => mk .rtz
  | 3 => mk .rup
  | 4 => mk .rdn
  | 5 => emitLegacy x 1
  | _ => emitIllegal x

/-- The region words that end ST, ATOMADD and ENTRY (R440): v0 to v31, then v32 to v63. -/
def emitRegion : List Instr :=
  [.ckpt (emit (emitCtl 1 false 7 false) 255 255 255 255 none), .ckptx { pairs := 0xFFFF, stall := 0 }]

/-- A branch of structured control: a literal, an rcv field, and its guard bits. -/
def emitBra (lit : Int) (rcv : Nat) (g : Option (Nat × Bool)) : Instr :=
  let c : Ctl := { emitCtl 1 false 7 false with
    gpred := BitVec.ofNat 3 ((g.map (fun x => x.1)).getD 0), gneg := (g.map (fun x => x.2)).getD false, gen := g.isSome }
  .bra (emit c 0 0 (rcv % 256) (rcv / 256) (some (BitVec.ofInt 32 lit)))

/-- Conditions of ICMP by their number (R199). -/
def icondOf : Nat → ICond
  | 0 => .eq
  | 1 => .ne
  | 2 => .ltI
  | 3 => .leI
  | 4 => .gtI
  | 5 => .geI
  | 6 => .ltN
  | 7 => .leN
  | 8 => .gtN
  | _ => .geN

/-- Conditions of FCMP by their number (R202). -/
def fcondOf : Nat → FCond
  | 0 => .eq
  | 1 => .ne
  | 2 => .lt
  | 3 => .le
  | 4 => .gt
  | 5 => .ge
  | 6 => .ord
  | _ => .uno

/-- Forms of SHFL by their number. -/
def shflOf : Nat → ShflKind
  | 0 => .idx
  | 1 => .up
  | 2 => .dn
  | _ => .xor

/-- Types that CVT accepts (R438). -/
def casnisType (t : Nat) : Bool := [2, 6, 8, 9, 10].contains t

/-- CVT (R438), with its checks in order. -/
def emitCvt (x : CasnisWord) : List Instr :=
  let tgt := x.imm % 16
  let src := x.imm / 16 % 16
  let bad (i v : Nat) : List Instr :=
    [.legacyWord (.illegalOperand (BitVec.ofNat 4 i) (BitVec.ofNat 8 v)) (BitVec.ofNat 64 x.w) (ctlOf x 1 false)]
  if 6 ≤ x.mod % 8 then emitIllegal x
  else if !casnisType tgt then bad 2 tgt
  else if !casnisType src then bad 3 src
  else if x.mod % 8 = 5 then emitLegacy x 1
  else if bitOf x.imm 8 then emitLegacy x 2
  else emitRounded x (fun rm => [.cvt rm (emit (ctlOf x 4 false) x.xd x.xa tgt src none)])

/-- The helper entry's offset for a modifier and a destination (R441). -/
def helperOffset (m n : Nat) : Nat := 0x1000 + 32 * (64 * m + n)

/-- The operations 0x01 to 0x12 (R438). -/
def emitInteger (x : CasnisWord) : List Instr :=
  let i := immSigned x
  let su : SU := if bitOf x.mod 0 then .n32 else .i32
  match x.op with
  | 0x01 => emitArith x .iadd 2 0 i
  | 0x02 => emitArith x .isub 2 0 i
  | 0x03 => emitArith x .imul 4 0 i
  | 0x04 => emitArith x .imad 4 x.xc i
  | 0x05 => emitArith x (.imin su) 2 0 i
  | 0x06 => emitArith x (.imax su) 2 0 i
  | 0x07 => emitArith x .and 2 0 i
  | 0x08 => emitArith x .or 2 0 i
  | 0x09 => emitArith x .xor 2 0 i
  | 0x0A => emitOne x .not 2 false
  | 0x0B => emitArith x .shl 2 0 i
  | 0x0C => emitArith x .shr 2 0 i
  | 0x0D => emitArith x .sar 2 0 i
  | 0x0E =>
    if 10 ≤ x.mod then emitIllegal x
    else [.icmp (icondOf x.mod) (emit (ctlOf x 2 false) (x.xd % 8) x.xa x.xb 0 none)]
  | 0x0F => emitArith x .sel 2 (x.xc % 8) i
  | 0x10 => emitOne x .mov 2 false
  | 0x11 => [.mov (emit (ctlOf x 2 false) x.xd 255 0 0 (some i))]
  | _ =>
    let lits := bitOf x.mod 3
    [.mov (emit (ctlOf x 2 false) 128 x.xa 0 0 none),
      .mov (emit (ctlOf x 2 false) 129 (if lits then 255 else x.xb) 0 0 (if lits then some i else none)),
      .call (emit (ctlOf x 1 false) 0 0 0 0 (some (BitVec.ofNat 32 (helperOffset (x.mod % 4) x.xd))))]

/-- The operations 0x20 to 0x29 (R438). -/
def emitFloat (x : CasnisWord) : List Instr :=
  let i := immFloat x
  match x.op with
  | 0x20 => emitRounded x (fun rm => emitArith x (.fadd rm) 4 0 i)
  | 0x21 => emitRounded x (fun rm => emitArith x (.fsub rm) 4 0 i)
  | 0x22 => emitRounded x (fun rm => emitArith x (.fmul rm) 4 0 i)
  | 0x23 => emitRounded x (fun rm => emitArith x (.ffma rm) 4 x.xc i)
  | 0x24 => if bitOf x.mod 0 then emitLegacy x 4 else emitArith x .fmin 2 0 i
  | 0x25 => if bitOf x.mod 0 then emitLegacy x 4 else emitArith x .fmax 2 0 i
  | 0x26 => emitOne x .fabs 2 false
  | 0x27 => emitOne x .fneg 2 false
  | 0x28 =>
    if 8 ≤ x.mod then emitIllegal x
    else [.fcmp (fcondOf x.mod) (emit (ctlOf x 2 false) (x.xd % 8) x.xa x.xb 0 none)]
  | _ =>
    let lits := bitOf x.mod 3
    [.rcp (emit (ctlOf x 1 true) 135 (if lits then 255 else x.xb) 0 0 (if lits then some i else none)),
      .fmul .dflt (emit (ctlOf x 4 false) x.xd x.xa 135 0 none)]

/-- SIN and COS in radians: 1/2π as FP32 (R438). -/
def emitSine (x : CasnisWord) (mk : LaneForm → Instr) : List Instr :=
  if bitOf x.imm 0 then emitLegacy x 5
  else
    [.fmul .dflt (emit (ctlOf x 4 false) 135 x.xa 255 0 (some 0x3E22F983)), mk (emit (ctlOf x 1 true) x.xd 135 0 0 none)]

/-- VOTE and PLOG (R438). -/
def emitPredicate (x : CasnisWord) : List Instr :=
  let c := ctlOf x 2 false
  let d := x.xd % 8
  let a := x.xa % 8
  let b := x.xb % 8
  match x.op, x.mod with
  | 0x41, 0 => [.voteAny (emit c d a 0 0 none)]
  | 0x41, 1 => [.voteAll (emit c d a 0 0 none)]
  | 0x41, 2 => [.voteBal (emit c x.xd a 0 0 none)]
  | 0x48, 0 => [.pand (emit c d a b 0 none)]
  | 0x48, 1 => [.por (emit c d a b 0 none)]
  | 0x48, 2 => [.pxor (emit c d a b 0 none)]
  | 0x48, 3 => [.pnot (emit c d a 0 0 none)]
  | _, _ => emitIllegal x

/-- Memory words (R438). -/
def emitMemory (x : CasnisWord) : List Instr :=
  let off := some (immSigned x)
  match x.op with
  | 0x50 =>
    if x.mod % 4 = 3 then emitLegacy x 3
    else [.ld (emit (ctlOf x 1 true) x.xd x.xa (x.mod % 8) 0 off)]
  | 0x51 =>
    if x.mod % 4 = 3 then emitLegacy x 3
    else .stRel (emit (ctlOf x 1 false) 0 x.xa (x.mod % 4 + 8) x.xb off) :: emitRegion
  | 0x52 => .atom .add (emit (ctlOf x 1 true) x.xd x.xa x.xb 4 off) :: emitRegion
  | _ => [.tsmp (emit (ctlOf x 1 true) x.xd x.xa (144 + x.imm % 8) (x.mod % 2) none)]

/-- Structured control (R439); `gn` of IF is inverted because the branch is taken where the condition fails. -/
def emitControl (x : CasnisWord) : List Instr :=
  let lo := x.imm % 4096
  let hi := x.imm / 4096
  match x.op with
  | 0x61 =>
    if hi = 0 then emitIllegal x
    else [emitBra (if lo ≠ 0 then 8 * lo + 8 else 8 * hi) (2 * hi) (some (x.g, if x.g = 7 then true else !x.gn))]
  | 0x62 => if lo = 0 then emitIllegal x else [emitBra (8 * lo) 0 none]
  | 0x65 =>
    if lo = 0 then emitIllegal x
    else [emitBra (8 * lo + 8) (2 * lo + 2) (some (x.g, if x.g = 7 then false else x.gn))]
  | 0x66 => if lo = 0 then emitIllegal x else [emitBra (8 - 8 * lo) 0 none]
  | _ => [.nop (emit (emitCtl 1 false 7 false) 0 0 0 0 none)]

/-- The native words of a Casnis word (R438). -/
def flinte (w : Nat) : List Instr :=
  let x : CasnisWord := ⟨w⟩
  let op := x.op
  if 0x01 ≤ op ∧ op ≤ 0x12 then emitInteger x
  else if 0x20 ≤ op ∧ op ≤ 0x29 then emitFloat x
  else
    match op with
    | 0x30 => emitCvt x
    | 0x38 => emitOne x .rcp 1 true
    | 0x39 => emitOne x .rsq 1 true
    | 0x3A => emitOne x .sqt 1 true
    | 0x3B => emitOne x .ex2 1 true
    | 0x3C => emitOne x .lg2 1 true
    | 0x3D => emitSine x .sinr
    | 0x3E => emitSine x .cosr
    | 0x40 => [.shfl (shflOf (x.mod % 4)) (emit (ctlOf x 4 false) x.xd x.xa x.xb (x.imm % 8) none)]
    | 0x41 => emitPredicate x
    | 0x48 => emitPredicate x
    | 0x49 => [.pmov (emit (ctlOf x 2 false) (x.xd % 8) x.xa 0 0 none)]
    | 0x50 => emitMemory x
    | 0x51 => emitMemory x
    | 0x52 => emitMemory x
    | 0x53 => emitMemory x
    | 0x60 => emitRegion
    | 0x61 => emitControl x
    | 0x62 => emitControl x
    | 0x63 => emitControl x
    | 0x64 => emitControl x
    | 0x65 => emitControl x
    | 0x66 => emitControl x
    | 0x67 => [.exit (emit (ctlOf x 1 false) 0 0 0 0 none)]
    | 0x68 => [.lend (emit (emitCtl 1 false 7 false) 0 0 0 0 none)]
    | _ => emitIllegal x

/-! ## Filling the instruction cache (R433, R446) -/

/-- One Casnis word translated into a core's instruction cache, if its page permits the fetch. -/
def fillWord (s : State) (core ctx va : Nat) : State :=
  match checkOne s core ctx va 8 .fetch with
  | .ok x =>
    if x.leaf / 32 % 2 = 1 then
      let s := walkAcquire s core x
      modCore s core (fun k => { k with icache := mset k.icache (icacheKey ctx va) (flinte (bytesToNat (codeBytes s core x 8))) })
    else s
  | .error _ => s

/-- The package with a line of Casnis code in a core's instruction cache, every word of it translated (R433). -/
def fillLine (s : State) (core ctx va : Nat) : State :=
  (List.range 16).foldl (fun s i => fillWord s core ctx (va / 128 * 128 + 8 * i)) s

/-- A line of Casnis code enters a core's instruction cache (R433). -/
def execCasnisFill (core ctx va : Nat) (s : State) : Host.Outcome State Fault Refusal := .next (fillLine s core ctx va)

/-! ## Words that trap -/

/-- An instruction that check 2 of R58 refuses: ILLEGAL_OP in the stream that fetched it (R30, R63, R64, R65). -/
def execUnassignedOpcode (st : Stream) (w : BitVec 64) (s : State) : Host.Outcome State Fault Refusal :=
  match st with
  | .lane => runLane (.unassignedOpcode st w) s (fun _ _ => trapOf 0x01 w)
  | .scalar => runScalar ⟨0xFF, 0, 0, 0, 0, none⟩ s (fun _ _ _ _ => trapOf 0x01 w)

/-- The lanes of `em` under a guard that a uniform word carries for its record only. -/
def guardLanes (s : State) (l : Lane) (c : Ctl) : Mask :=
  if c.gen then l.em &&& (if c.gneg then ~~~ predMask s l c.gpred.toNat else predMask s l c.gpred.toNat) else l.em

/-- The word that Flinte emits where it cannot translate (R438, R444). -/
def execLegacyWord (k : LegacyKind) (w : BitVec 64) (c : Ctl) (s : State) : Host.Outcome State Fault Refusal :=
  runLane (.legacyWord k w c) s (fun e s =>
    match k with
    | .legacy sub => trapSub 0x13 sub.toNat w
    | .illegalOp => .error (.trap ⟨0x01, 9, w, none, none⟩)
    | .illegalOperand i v =>
      .error (.trap ⟨0x02, 0, BitVec.ofNat 64 (i.toNat + v.toNat * 256), some (guardLanes s e.g.ln c), none⟩))

/-! ## The helper entries (R441 to R443) -/

/-- Division as the routine of a modifier does it, under `fpc`.idiv0 (R441, R88). -/
def casnisDivide (m idiv0 a b : Nat) : Nat :=
  let signed := decide (m / 2 % 2 = 0)
  let q : Nat :=
    if b = 0 then (if idiv0 = 0 then 0 else if idiv0 = 1 then 2 ^ 32 - 1 else a)
    else if signed then wrapTo 32 (Int.tdiv (toSigned 32 a) (toSigned 32 b))
    else a / b
  if m % 2 = 1 then (if b = 0 then a else wrapTo 32 ((a : Int) - q * b)) else q

/-- The native words of the helper image that the manual gives an effect (R441, R442; log 17). -/
inductive HelperWord where
  /-- The first word of an entry: the call of its routine. -/
  | call (m n : Nat)
  /-- A division routine, which returns to the entry. -/
  | routine (m : Nat)
  /-- The entry's second word: the result goes to its destination. -/
  | move (n : Nat)
  /-- The entry's third word: its return. -/
  | leave
  deriving DecidableEq, Repr

/-- The helper word at an offset of the image: in an entry a `call` of 12 bytes, a word of 8, a `ret`; the four routines share
offsets 0x3000 to 0x3FFF, equal in size (log 17). -/
def helperWord (off : Nat) : Option HelperWord :=
  let i := (off - 0x1000) / 32
  if 0x1000 ≤ off ∧ off < 0x3000 then
    match off % 32 with
    | 0 => some (.call (i / 64) (i % 64))
    | 12 => some (.move (i % 64))
    | 20 => some .leave
    | _ => none
  else if 0x3000 ≤ off ∧ off < 0x4000 ∧ off % 0x400 = 0 then some (.routine ((off - 0x3000) / 0x400))
  else none

/-- The offset of a lane stream's address from its context's helper base. -/
def helperOff (s : State) (g : Group) : Nat := g.ln.pc.addr.toNat - (ctxOf s g.ctx).helper.toNat

/-- The helper word at which a lane stream stands. -/
def helperHere (s : State) (g : Group) : Option HelperWord :=
  if (ctxOf s g.ctx).helper = 0 ∨ g.ln.pc.addr.toNat < (ctxOf s g.ctx).helper.toNat then none else helperWord (helperOff s g)

/-- The lane stream after a native word of the helper, which allows the next some issue steps later. -/
def helperLane (n : Nat) (l : Lane) : Lane :=
  { l with lr := [], lrLegal := true, next := l.clock + issueSteps n, justCkpt := false, state := restState l }

/-- The return of a helper word: every lane leaves for the CALL entry (R177). -/
def helperReturn (s : State) (core slot : Nat) : State :=
  findLanes (modLane s core slot (fun l => { helperLane 3 l with em := 0 })) core slot

/-- Registers written by a helper word in the lanes of `em`. -/
def helperWrites (s : State) (core slot : Nat) (g : Group) (ws : List RegWrite) (after : State → State) : State :=
  match settlePool (coreOf s core) slot g (ws.foldl (writeName s) g) with
  | .error r => stopLane s core slot false g.ln.em r
  | .ok k => after (setCore s core k)

/-- What a routine leaves in o0 to o5: its result in o2, free values in the others (R441, log 17). -/
def routineWrites (s : State) (l : Lane) (m : Nat) : List RegWrite :=
  let res := (List.range 64).map (fun j =>
    BitVec.ofNat 32 (casnisDivide m (l.fpc.toNat / 512 % 4) (oWord l 128 j).toNat (oWord l 129 j).toNat))
  (List.range 6).map (fun i =>
    ⟨128 + i, l.em, if i = 2 then res else (List.range 64).map (fun j => (freeWord s (3000 + i) j).setWidth 32)⟩)

/-- A word of the helper image executed (R441, R443). -/
def runHelper (s : State) (core slot : Nat) (g : Group) (w : HelperWord) : State :=
  let l := g.ln
  match w with
  | .call m _ =>
    match pushEntry l (coreOf s core).scratch ⟨.call, l.pc.addr + 12, 0, l.em, l.fmt⟩ with
    | .error r => stopLane s core slot false l.em r
    | .ok (l, mem) =>
      putLane s core slot (helperLane 3 { l with pc := ⟨(ctxOf s g.ctx).helper + BitVec.ofNat 48 (0x3000 + 0x400 * m), 0⟩ }, mem)
  | .routine m => helperWrites s core slot g (routineWrites s l m) (fun s => helperReturn s core slot)
  | .move n =>
    helperWrites s core slot g [⟨n, l.em, (List.range 64).map (oWord l 130)⟩]
      (fun s => modLane s core slot (fun l => helperLane 2 { l with pc := ⟨l.pc.addr + 8, 0⟩ }))
  | .leave => helperReturn s core slot

/-- A lane stream at a word of the helper region (R441): its fetch, and, where the Grendex image is mapped there as native code,
what the word does; elsewhere the stream fetches as it does at any address. -/
def helperStep (s : State) (core slot : Nat) (g : Group) : Option State :=
  match helperHere s g with
  | none => none
  | some w =>
    let t := walkSeen s core g.ctx g.ln.pc.addr.toNat
    match checkOne t core g.ctx g.ln.pc.addr.toNat 4 .fetch true with
    | .error r => some (stopLane t core slot false g.ln.em r)
    | .ok x =>
      if x.pa = Config.helperImage.toNat + helperOff s g ∧ x.leaf / 32 % 2 = 0 then some (runHelper t core slot g w) else none

end Sys2Proof.Machine
end

