-- ==== Sys2Proof/Machine/Fetch.lean ====
section
/-!
DEFINITION. Fetching: what a lane stream does before its next instruction issues, and the words of an instruction
(02_encoding R30 to R33, 07_group R139, R143, R149, 14_page R352).
-/
namespace Sys2Proof.Machine

open Sys2Proof

/-- Operations to peers: those whose port carries traffic leave it, in their order (R380), and of those that have left, a peer's
home has performed and acknowledged some by now; when, is free (R387, log 15). -/
def ackSome (s : State) : List ApertureOp :=
  s.outgoing.zipIdx.map (fun o =>
    { o.1 with sent := o.1.sent || linkUp s (portLink o.1.port), acked := o.1.acked || (o.1.sent && Config.freeBit s.fresh 763 o.2) })

/-- The fetch of a scalar stream; a page with c = 1 traps ACCESS (R352). Of an S64 the page of its first word is looked at, which is
the one that selects the decoder: R352 does not say whether a literal word on a c = 1 page traps (log 126). -/
def fetchScalar (s : State) (core : Nat) (g : Group) : Res Nat :=
  let va := g.sc.pc.toNat
  match checkOne s core g.ctx va 4 .fetch true with
  | .error e => .error e
  | .ok x =>
    if x.leaf / 32 % 2 = 1 then trapOf 0x0D (BitVec.ofNat 64 va) else fetchBits s core g.ctx va

/-- How a lane stream stalls, and the quarter-registers that the pool must hold for it. -/
def stallOf (s : State) (core slot : Nat) : Option (StallReason × Nat) :=
  match groupOf s core slot with
  | none => none
  | some g =>
    match g.ln.state with
    | .stalled r => some (r, g.ln.need)
    | _ => none

/-- The lane stream could not issue. -/
def laneStalled (s : State) (core slot : Nat) : Bool := (stallOf s core slot).isSome

/-- The lane stream is in a state in which a block may start. -/
def mayStart (s : State) (g : Group) : Bool :=
  let l := g.ln
  (match l.state with
   | .ready => true
   | .issuing => true
   | .stalled _ => true
   | _ => false) &&
  !l.inBlock && l.fault.isNone && laneFree l && !g.faulting && decide ((ctxOf s g.ctx).state ≠ .faulted)

/-- A result that waits for registers is written again (R169); once it is, the stream no longer stalls on it. -/
def retryResult (s : State) (core slot : Nat) (p : Pending) : State :=
  let s := modLane s core slot (fun l => { l with state := restState l })
  completeWith s core slot p p.writes 0

/-- What comes before the lane stream's next instruction, if anything: a result that waits for registers, a restart, which waits for
the group's array entries (R490), a block that starts once the group's array entries have taken effect (R490), a reconvergence (R149). -/
def beforeLane (s : State) (core slot : Nat) : Option State :=
  match groupOf s core slot with
  | none => none
  | some g =>
    match readyResult g.ln with
    | some p => some (retryResult s core slot p)
    | none =>
      if g.ln.faultRestarts ∧ g.ln.fault.isNone ∧ g.ln.state ≠ .forming ∧ g.ln.state ≠ .preempted ∧
          (ctxOf s g.ctx).state ≠ .faulted ∧ !g.faulting then
        some (if arrayBusy (coreOf s core) slot ∧ g.ln.region.isSome then modLane s core slot (fun l => { l with state := .stalled .scoreboard })
          else restartRegion s core slot)
      else if mayStart s g then
        if arrayBusy (coreOf s core) slot ∧ !g.sc.blocks.isEmpty then some (modLane s core slot (fun l => { l with state := .stalled .scoreboard }))
        else if g.sc.blocks.isEmpty ∧ g.sc.sexited then some (exitLanes s core slot (liveLanes g))
        else some (startBlock s core slot)
      else if laneRuns s g ∧ atReconvergence g.ln then some (reconverge s core slot)
      else none

/-- The package after everything that comes before a lane stream's next instruction, up to a stall; `fuel` bounds it. -/
def beforeAll (core slot : Nat) : Nat → State → State
  | 0, s => s
  | fuel + 1, s =>
    if laneStalled s core slot then s
    else
      match beforeLane s core slot with
      | some t => beforeAll core slot fuel t
      | none => s

/-- The package after the walks of the fetch at a lane stream's address; within a translated word nothing is fetched (R345). -/
def laneSeen (s : State) (core : Nat) (g : Group) : State :=
  if (withinWord g.ln).isSome then s else fetchSeen s core g.ctx g.ln.pc.addr.toNat

/-- The group's operands of its last instruction have not been granted (R143). -/
def ungranted (s : State) (core slot : Nat) : Bool := (coreOf s core).collectors.any (fun c => decide (c.slot = slot))

end Sys2Proof.Machine
end

