-- ==== Sys2Proof/Machine/Float.lean ====
section
/-!
DEFINITION. FP32, packed 16-bit, conversion and predicate instructions, `fpc` and the generators (08_lane_ops R200 to
R209, R224, 03_numbers R82 to R84).
-/
namespace Sys2Proof.Machine

open Sys2Proof

/-! ## Shared operations -/

/-- The arithmetic environment of the group (R88). -/
def envAt (e : Iss) : FEnv := envOf e.g.ln.fpc

/-- The flags of all lanes taking part (R192). -/
def laneFlags (e : Iss) (r : Nat → FRes) : Flags := orFlags ((lanesOf e.lanes).map (fun l => (r l).flags))

/-- A 32-bit floating result of fixed latency. -/
def floatDone (s : State) (e : Iss) (lat : Nat) (r : Nat → FRes) : Done :=
  Done.regs s lat (write32 (fieldAt e.x 0).spec e.lanes (fun l => (r l).code)) (laneFlags e r)

/-- A one-source floating instruction. -/
def float1 (i : Instr) (a lat : Nat) (op : FEnv → Nat → FRes) (s : State) : Host.Outcome State Fault Refusal :=
  runLane i s (fun e s => .ok (floatDone s e lat (fun l => op (envAt e) (src32 s e (fieldAt e.x a) l))))

/-- A two-source floating instruction. -/
def float2 (i : Instr) (a b lat : Nat) (op : FEnv → Nat → Nat → FRes) (s : State) : Host.Outcome State Fault Refusal :=
  runLane i s (fun e s =>
    .ok (floatDone s e lat (fun l => op (envAt e) (src32 s e (fieldAt e.x a) l) (src32 s e (fieldAt e.x b) l))))

/-- A three-source floating instruction. -/
def float3 (i : Instr) (lat : Nat) (op : FEnv → Nat → Nat → Nat → FRes) (s : State) :
    Host.Outcome State Fault Refusal :=
  runLane i s (fun e s =>
    .ok (floatDone s e lat (fun l =>
      op (envAt e) (src32 s e (fieldAt e.x 1) l) (src32 s e (fieldAt e.x 2) l) (src32 s e (fieldAt e.x 3) l))))

/-- Two results of 16 bits side by side (R76). -/
def packTwo (lo hi : FRes) : FRes := ⟨lo.code % 65536 + hi.code % 65536 * 65536, lo.flags ||| hi.flags⟩

/-- An operation on both elements of packed sources (R205). -/
def packed2 (op : Nat → Nat → FRes) (a b : Nat) : FRes := packTwo (op (a % 65536) (b % 65536)) (op (a / 65536) (b / 65536))

/-- A three-source operation on both elements of packed sources. -/
def packed3 (op : Nat → Nat → Nat → FRes) (a b c : Nat) : FRes :=
  packTwo (op (a % 65536) (b % 65536) (c % 65536)) (op (a / 65536) (b / 65536) (c / 65536))

/-- Bit 31 cleared (R201). -/
def absBits (_ : FEnv) (a : Nat) : FRes := ⟨a % 2 ^ 31, 0⟩
/-- Bit 31 inverted (R201). -/
def negBits (_ : FEnv) (a : Nat) : FRes := ⟨a ^^^ 2 ^ 31, 0⟩

/-! ## The generators (R83, R84) -/

/-- Rotation of a word to the left. -/
def rotl32 (x : Word) (n : Nat) : Word := x.rotateLeft n

/-- The word of a lane. -/
def laneRandom (l : Lane) (lane : Nat) : Word := rotl32 (l.gen.getD (lane / 8) 0) (4 * (lane % 8))

/-- One step of a generator. -/
def advanceGen (x : Word) : Word :=
  let x := x ^^^ (x <<< 13)
  let x := x ^^^ (x >>> 17)
  x ^^^ (x <<< 5)

/-- The generators after an instruction of stochastic rounding: those of the quarters with a lane taking part advance. -/
def advanceGens (gen : List Word) (lanes : Mask) : List Word :=
  (List.range 8).map (fun q => if quarterMask lanes q ≠ 0 then advanceGen (gen.getD q 0) else gen.getD q 0)

/-- The state that a seed gives a quarter (R84). -/
def seedGen (seed : Word) (q : Nat) : Word :=
  let x := seed ^^^ BitVec.ofNat 32 (q * 0x9E3779B9)
  if x = 0 then 1 else x

/-- A result of stochastic rounding: the generators advance, the result comes later (R207). The advance stays also where the result
raises LANE_FP: R85 has a trap leave the states as the instruction found them, R192 has the instruction complete first (log 127). -/
def stochasticDone (s : State) (e : Iss) (r : Nat → FRes) : Done :=
  let p := pendingResult s e .stochastic (write32 (fieldAt e.x 0).spec e.lanes (fun l => (r l).code)) (laneFlags e r)
  Done.later (modLane s e.core e.slot (fun l => { l with gen := advanceGens l.gen e.lanes })) p

/-! ## FP32 -/

/-- `fadd` (R200). -/
def execFadd (rm : RM) (f : LaneForm) (s : State) : Host.Outcome State Fault Refusal :=
  float2 (.fadd rm f) 1 2 4 (fun env a b => fAdd fp32 env (modeOf env rm) a b) s

/-- Short `fadd` (R64). -/
def execFaddShort (f : ShortForm) (s : State) : Host.Outcome State Fault Refusal :=
  float2 (.faddShort f) 1 4 4 (fun env a b => fAdd fp32 env env.rnd a b) s

/-- `fsub` (R200). -/
def execFsub (rm : RM) (f : LaneForm) (s : State) : Host.Outcome State Fault Refusal :=
  float2 (.fsub rm f) 1 2 4 (fun env a b => fSub fp32 env (modeOf env rm) a b) s

/-- Short `fsub` (R64). -/
def execFsubShort (f : ShortForm) (s : State) : Host.Outcome State Fault Refusal :=
  float2 (.fsubShort f) 1 4 4 (fun env a b => fSub fp32 env env.rnd a b) s

/-- `fmul` (R200). -/
def execFmul (rm : RM) (f : LaneForm) (s : State) : Host.Outcome State Fault Refusal :=
  float2 (.fmul rm f) 1 2 4 (fun env a b => fMul fp32 env (modeOf env rm) a b) s

/-- Short `fmul` (R64). -/
def execFmulShort (f : ShortForm) (s : State) : Host.Outcome State Fault Refusal :=
  float2 (.fmulShort f) 1 4 4 (fun env a b => fMul fp32 env env.rnd a b) s

/-- `ffma` (R200). -/
def execFfma (rm : RM) (f : LaneForm) (s : State) : Host.Outcome State Fault Refusal :=
  float3 (.ffma rm f) 4 (fun env a b c => fFma fp32 env (modeOf env rm) a b c) s

/-- `fmin` (R201). -/
def execFmin (f : LaneForm) (s : State) : Host.Outcome State Fault Refusal :=
  float2 (.fmin f) 1 2 2 (fun env a b => fMinMax fp32 env true a b) s

/-- Short `fmin` (R64). -/
def execFminShort (f : ShortForm) (s : State) : Host.Outcome State Fault Refusal :=
  float2 (.fminShort f) 1 4 2 (fun env a b => fMinMax fp32 env true a b) s

/-- `fmax` (R201). -/
def execFmax (f : LaneForm) (s : State) : Host.Outcome State Fault Refusal :=
  float2 (.fmax f) 1 2 2 (fun env a b => fMinMax fp32 env false a b) s

/-- Short `fmax` (R64). -/
def execFmaxShort (f : ShortForm) (s : State) : Host.Outcome State Fault Refusal :=
  float2 (.fmaxShort f) 1 4 2 (fun env a b => fMinMax fp32 env false a b) s

/-- `fabs` (R201). -/
def execFabs (f : LaneForm) (s : State) : Host.Outcome State Fault Refusal :=
  float1 (.fabs f) 1 2 absBits s

/-- Short `fabs` (R64). -/
def execFabsShort (f : ShortForm) (s : State) : Host.Outcome State Fault Refusal :=
  float1 (.fabsShort f) 4 2 absBits s

/-- `fneg` (R201). -/
def execFneg (f : LaneForm) (s : State) : Host.Outcome State Fault Refusal :=
  float1 (.fneg f) 1 2 negBits s

/-- Short `fneg` (R64). -/
def execFnegShort (f : ShortForm) (s : State) : Host.Outcome State Fault Refusal :=
  float1 (.fnegShort f) 4 2 negBits s

/-- `frnd` (R201). -/
def execFrnd (rm : RM) (f : LaneForm) (s : State) : Host.Outcome State Fault Refusal :=
  float1 (.frnd rm f) 1 4 (fun env a => fRound fp32 env (modeOf env rm) a) s

/-- `fcmp` (R202). -/
def execFcmp (c : FCond) (f : LaneForm) (s : State) : Host.Outcome State Fault Refusal :=
  runLane (.fcmp c f) s (fun e s =>
    let r (l : Nat) : Bool × Flags := fCompare fp32 (envAt e) c (src32 s e (fieldAt e.x 1) l) (src32 s e (fieldAt e.x 2) l)
    .ok (Done.pred s f.dst.toNat e.lanes (maskOf (fun l => (r l).1)) (orFlags ((lanesOf e.lanes).map (fun l => (r l).2)))))

/-- `fclass` (R203). -/
def execFclass (f : LaneForm) (s : State) : Host.Outcome State Fault Refusal :=
  float1 (.fclass f) 1 2 (fun _ a => ⟨fClass fp32 a, 0⟩) s

/-! ## fpc -/

/-- An `fpc` image without reserved values (R88, R89). -/
def fpcOk (x : Word) : Bool :=
  let v := x.toNat
  decide (v / 4 % 4 ≠ 3) && decide (1 ≤ v / 64 % 8) && decide (v / 64 % 8 ≤ 4) && decide (v / 512 % 4 ≠ 3) &&
    decide (v / 2048 % 4 < 2)

/-- `setfpc` (R204). -/
def execSetfpc (f : LaneForm) (s : State) : Host.Outcome State Fault Refusal :=
  runLane (.setfpc f) s (fun e s =>
    let old := e.g.ln.fpc
    let m : Word := BitVec.ofNat 32 (uni32 s e (fieldAt e.x 2))
    let new := (old &&& ~~~ m) ||| (BitVec.ofNat 32 (uni32 s e (fieldAt e.x 1)) &&& m)
    if !fpcOk new then illegalOperand 1 f.src1.toNat
    else
      let s := modLane s e.core e.slot (fun l => { l with fpc := new &&& 0x00FFFFFF })
      .ok (Done.regs s 2 (write32 f.dst.toNat e.lanes (fun _ => old.toNat)) 0))

/-- `rngseed` (R84, R209). -/
def execRngseed (f : LaneForm) (s : State) : Host.Outcome State Fault Refusal :=
  runLane (.rngseed f) s (fun e s =>
    let seed : Word := BitVec.ofNat 32 (uni32 s e (fieldAt e.x 1))
    .ok { Done.plain (modLane s e.core e.slot (fun l => { l with gen := (List.range 8).map (seedGen seed) })) with lat := 2 })

/-! ## Packed 16-bit -/

/-- `hadd2` (R205). -/
def execHadd2 (h : Half) (f : LaneForm) (s : State) : Host.Outcome State Fault Refusal :=
  float2 (.hadd2 h f) 1 2 4 (fun env => packed2 (fAdd (halfFmt h) env env.rnd)) s

/-- Short `hadd2.f16` (R64). -/
def execHadd2F16Short (f : ShortForm) (s : State) : Host.Outcome State Fault Refusal :=
  float2 (.hadd2F16Short f) 1 4 4 (fun env => packed2 (fAdd (halfFmt .f16) env env.rnd)) s

/-- Short `hadd2.bf16` (R64). -/
def execHadd2Bf16Short (f : ShortForm) (s : State) : Host.Outcome State Fault Refusal :=
  float2 (.hadd2Bf16Short f) 1 4 4 (fun env => packed2 (fAdd (halfFmt .bf16) env env.rnd)) s

/-- `hsub2` (R205). -/
def execHsub2 (h : Half) (f : LaneForm) (s : State) : Host.Outcome State Fault Refusal :=
  float2 (.hsub2 h f) 1 2 4 (fun env => packed2 (fSub (halfFmt h) env env.rnd)) s

/-- `hmul2` (R205). -/
def execHmul2 (h : Half) (f : LaneForm) (s : State) : Host.Outcome State Fault Refusal :=
  float2 (.hmul2 h f) 1 2 4 (fun env => packed2 (fMul (halfFmt h) env env.rnd)) s

/-- Short `hmul2.f16` (R64). -/
def execHmul2F16Short (f : ShortForm) (s : State) : Host.Outcome State Fault Refusal :=
  float2 (.hmul2F16Short f) 1 4 4 (fun env => packed2 (fMul (halfFmt .f16) env env.rnd)) s

/-- Short `hmul2.bf16` (R64). -/
def execHmul2Bf16Short (f : ShortForm) (s : State) : Host.Outcome State Fault Refusal :=
  float2 (.hmul2Bf16Short f) 1 4 4 (fun env => packed2 (fMul (halfFmt .bf16) env env.rnd)) s

/-- `hfma2` (R205). -/
def execHfma2 (h : Half) (f : LaneForm) (s : State) : Host.Outcome State Fault Refusal :=
  float3 (.hfma2 h f) 4 (fun env => packed3 (fFma (halfFmt h) env env.rnd)) s

/-- `hmin2` (R205). -/
def execHmin2 (h : Half) (f : LaneForm) (s : State) : Host.Outcome State Fault Refusal :=
  float2 (.hmin2 h f) 1 2 2 (fun env => packed2 (fMinMax (halfFmt h) env true)) s

/-- `hmax2` (R205). -/
def execHmax2 (h : Half) (f : LaneForm) (s : State) : Host.Outcome State Fault Refusal :=
  float2 (.hmax2 h f) 1 2 2 (fun env => packed2 (fMinMax (halfFmt h) env false)) s

/-! ## Conversion -/

/-- The source of a conversion in a lane: a pair for a wide type, else a word (R206). -/
def cvtSource (s : State) (e : Iss) (t lane : Nat) : Nat :=
  if wideType t then src64 s e (fieldAt e.x 1) lane else src32 s e (fieldAt e.x 1) lane

/-- `cvt` (R206). -/
def execCvt (rm : RM) (f : LaneForm) (s : State) : Host.Outcome State Fault Refusal :=
  runLane (.cvt rm f) s (fun e s =>
    let tgt := f.src2.toNat
    let src := f.src3.toNat
    let env := envAt e
    let r (l : Nat) : FRes := cvtValue env (modeOf env rm) tgt src (cvtSource s e src l)
    let w := if wideType tgt then write64 f.dst.toNat e.lanes (fun l => (r l).code)
      else write32 f.dst.toNat e.lanes (fun l => (r l).code)
    .ok (Done.regs s 4 w (laneFlags e r)))

/-- `cvt.sr` (R207). -/
def execCvtSr (f : LaneForm) (s : State) : Host.Outcome State Fault Refusal :=
  runLane (.cvtSr f) s (fun e s =>
    let src := f.src3.toNat
    .ok (stochasticDone s e (fun l =>
      cvtValue (envAt e) (.sr (laneRandom e.g.ln l)) f.src2.toNat src (cvtSource s e src l))))

/-- An FP32 word rounded to a half format. Each result of `pk2` has one source, from which its NaN is chosen: the second
result's from src2, also where `fpc` asks for the first operand's NaN, of which R92 says nothing (log 97). -/
def toHalf (h : Half) (env : FEnv) (mode : Mode) (a : Nat) : FRes :=
  cvtValue env mode (match h with
    | .f16 => 8
    | .bf16 => 9) 10 a

/-- `pk2` (R208). -/
def execPk2 (h : Half) (f : LaneForm) (s : State) : Host.Outcome State Fault Refusal :=
  float2 (.pk2 h f) 1 2 4 (fun env a b => packTwo (toHalf h env env.rnd a) (toHalf h env env.rnd b)) s

/-- `pk2.sr` (R208). -/
def execPk2Sr (h : Half) (f : LaneForm) (s : State) : Host.Outcome State Fault Refusal :=
  runLane (.pk2Sr h f) s (fun e s =>
    .ok (stochasticDone s e (fun l =>
      let w := laneRandom e.g.ln l
      packTwo (toHalf h (envAt e) (.sr w) (src32 s e (fieldAt e.x 1) l))
        (toHalf h (envAt e) (.sr (rotl32 w 16)) (src32 s e (fieldAt e.x 2) l)))))

/-- One half element as FP32 (R208); outputs are not flushed, since the conversion is exact. -/
def halfTo32 (h : Half) (env : FEnv) (a : Nat) : FRes :=
  cvtValue { env with den := env.den % 2 } .rne 10 (match h with
    | .f16 => 8
    | .bf16 => 9) a

/-- `upk2` (R208). -/
def execUpk2 (h : Half) (f : LaneForm) (s : State) : Host.Outcome State Fault Refusal :=
  runLane (.upk2 h f) s (fun e s =>
    let lo (l : Nat) : FRes := halfTo32 h (envAt e) (src32 s e (fieldAt e.x 1) l % 65536)
    let hi (l : Nat) : FRes := halfTo32 h (envAt e) (src32 s e (fieldAt e.x 1) l / 65536)
    .ok (Done.regs s 2 (write64 f.dst.toNat e.lanes (fun l => (lo l).code + (hi l).code * 2 ^ 32))
      (laneFlags e lo ||| laneFlags e hi)))

/-! ## Predicates (R224) -/

/-- An instruction that writes one predicate from two others. -/
def predOp (i : Instr) (f : LaneForm) (op : Mask → Mask → Mask) (s : State) : Host.Outcome State Fault Refusal :=
  runLane i s (fun e s =>
    .ok (Done.pred s f.dst.toNat e.lanes (op (predMask s e.g.ln f.src1.toNat) (predMask s e.g.ln f.src2.toNat)) 0))

/-- `pand` (R224). -/
def execPand (f : LaneForm) (s : State) : Host.Outcome State Fault Refusal :=
  predOp (.pand f) f (fun a b => a &&& b) s

/-- `por` (R224). -/
def execPor (f : LaneForm) (s : State) : Host.Outcome State Fault Refusal :=
  predOp (.por f) f (fun a b => a ||| b) s

/-- `pxor` (R224). -/
def execPxor (f : LaneForm) (s : State) : Host.Outcome State Fault Refusal :=
  predOp (.pxor f) f (fun a b => a ^^^ b) s

/-- `pnot` (R224). -/
def execPnot (f : LaneForm) (s : State) : Host.Outcome State Fault Refusal :=
  predOp (.pnot f) f (fun a _ => ~~~ a) s

/-- `pcat` (R224). -/
def execPcat (f : LaneForm) (s : State) : Host.Outcome State Fault Refusal :=
  runLane (.pcat f) s (fun e s =>
    .ok (Done.regs s 2 (write32 f.dst.toNat e.lanes (fun l =>
      (List.range 8).foldl (fun a p => a + b2n ((predMask s e.g.ln p).getLsbD l) * 2 ^ p) 0)) 0))

/-- `psplit` (R224). -/
def execPsplit (f : LaneForm) (s : State) : Host.Outcome State Fault Refusal :=
  runLane (.psplit f) s (fun e s =>
    .ok { Done.plain s with
      lat := 2, preds := (List.range 7).map (fun p => (p, e.lanes, maskOf (fun l => (src32 s e (fieldAt e.x 1) l).testBit p))) })

/-- `pmov` (R224). -/
def execPmov (f : LaneForm) (s : State) : Host.Outcome State Fault Refusal :=
  runLane (.pmov f) s (fun e s =>
    .ok (Done.pred s f.dst.toNat e.lanes (maskOf (fun l => decide (src32 s e (fieldAt e.x 1) l ≠ 0))) 0))

end Sys2Proof.Machine
end

