-- ==== Sys2Proof/Machine/ScalarOps.lean ====
section
/-!
DEFINITION. The scalar stream: ALU, branches, calls, loads and stores (09_scalar_stream R226 to R234).
-/
namespace Sys2Proof.Machine

open Sys2Proof

/-! ## Registers (R226) -/

/-- A scalar register; s0 reads zero. -/
def readS (g : Group) (n : SName) : DWord := if n = 0 then 0 else g.sc.s.getD n.toNat 0

/-- The scalar stream with a register written; writes to s0 are discarded. -/
def writeS (z : Scalar) (n : SName) (v : DWord) : Scalar := if n = 0 then z else { z with s := lset 0 z.s n.toNat v }

/-- The package with a scalar register of a group written. -/
def putS (s : State) (core slot : Nat) (n : SName) (v : DWord) : State := modScalar s core slot (fun z => writeS z n v)

/-! ## Fields -/

/-- The fields of an ALU register form (R228). -/
def regForm (op : Nat) (f : SReg) : ScalarFields := ⟨op, f.sd, f.sa, f.sb, 0, none⟩
/-- The fields of an ALU immediate form in 32 bits. -/
def immForm (op : Nat) (f : SImm) : ScalarFields := ⟨op, f.sd, f.sa, low6 f.imm, high4 f.imm, none⟩
/-- The fields of an ALU immediate form in 64 bits. -/
def litForm (op : Nat) (f : SLit) : ScalarFields := ⟨op, f.sd, f.sa, 0, 0, some f.lit⟩

/-- A 10-bit immediate, sign-extended (R41). -/
def immValue (imm : BitVec 10) : DWord := sext64 10 imm.toNat
/-- A literal, sign-extended (R41). -/
def litValue (lit : BitVec 32) : DWord := sext64 32 lit.toNat

/-! ## ALU (R229) -/

/-- An ALU instruction: fields and the second operand. -/
def salu (x : ScalarFields) (b : Group → DWord) (f : DWord → DWord → DWord) (s : State) :
    Host.Outcome State Fault Refusal :=
  runScalar x s (fun core slot g s => .ok (putS s core slot x.sd (f (readS g x.sa) (b g)), none))

/-- A register form. -/
def saluReg (op : Nat) (f : SReg) (h : DWord → DWord → DWord) (s : State) : Host.Outcome State Fault Refusal :=
  salu (regForm op f) (fun g => readS g f.sb) h s

/-- An immediate form in 32 bits. -/
def saluImm (op : Nat) (f : SImm) (h : DWord → DWord → DWord) (s : State) : Host.Outcome State Fault Refusal :=
  salu (immForm op f) (fun _ => immValue f.imm) h s

/-- An immediate form in 64 bits. -/
def saluLit (op : Nat) (f : SLit) (h : DWord → DWord → DWord) (s : State) : Host.Outcome State Fault Refusal :=
  salu (litForm op f) (fun _ => litValue f.lit) h s

/-- (a × b)[127:64] of signed values. -/
def smulhSigned (a b : DWord) : DWord := BitVec.ofInt 64 (a.toInt * b.toInt / 2 ^ 64)
/-- (a × b)[127:64] of unsigned values. -/
def smulhUnsigned (a b : DWord) : DWord := BitVec.ofNat 64 (a.toNat * b.toNat / 2 ^ 64)
/-- A shift left by b mod 64. -/
def shiftL (a b : DWord) : DWord := a <<< (b.toNat % 64)
/-- A logical shift right by b mod 64. -/
def shiftR (a b : DWord) : DWord := a >>> (b.toNat % 64)
/-- An arithmetic shift right by b mod 64. -/
def shiftA (a b : DWord) : DWord := a.sshiftRight (b.toNat % 64)
/-- The smaller, compared signed. -/
def sminSigned (a b : DWord) : DWord := if b.toInt < a.toInt then b else a
/-- The smaller, compared unsigned. -/
def sminUnsigned (a b : DWord) : DWord := if b.toNat < a.toNat then b else a
/-- The larger, compared signed. -/
def smaxSigned (a b : DWord) : DWord := if a.toInt < b.toInt then b else a
/-- The larger, compared unsigned. -/
def smaxUnsigned (a b : DWord) : DWord := if a.toNat < b.toNat then b else a

/-- `sadd` (R229). -/
def execSadd (f : SReg) (s : State) : Host.Outcome State Fault Refusal :=
  saluReg 0x00 f (fun a b => a + b) s

/-- `ssub` (R229). -/
def execSsub (f : SReg) (s : State) : Host.Outcome State Fault Refusal :=
  saluReg 0x01 f (fun a b => a - b) s

/-- `smul` (R229). -/
def execSmul (f : SReg) (s : State) : Host.Outcome State Fault Refusal :=
  saluReg 0x02 f (fun a b => a * b) s

/-- `smulh.i64` (R229). -/
def execSmulhI64 (f : SReg) (s : State) : Host.Outcome State Fault Refusal :=
  saluReg 0x03 f smulhSigned s

/-- `smulh.n64` (R229). -/
def execSmulhN64 (f : SReg) (s : State) : Host.Outcome State Fault Refusal :=
  saluReg 0x04 f smulhUnsigned s

/-- `sand` (R229). -/
def execSand (f : SReg) (s : State) : Host.Outcome State Fault Refusal :=
  saluReg 0x08 f (fun a b => a &&& b) s

/-- `sor` (R229). -/
def execSor (f : SReg) (s : State) : Host.Outcome State Fault Refusal :=
  saluReg 0x09 f (fun a b => a ||| b) s

/-- `sxor` (R229). -/
def execSxor (f : SReg) (s : State) : Host.Outcome State Fault Refusal :=
  saluReg 0x0A f (fun a b => a ^^^ b) s

/-- `sshl` (R229). -/
def execSshl (f : SReg) (s : State) : Host.Outcome State Fault Refusal :=
  saluReg 0x0C f shiftL s

/-- `sshr` (R229). -/
def execSshr (f : SReg) (s : State) : Host.Outcome State Fault Refusal :=
  saluReg 0x0D f shiftR s

/-- `ssar` (R229). -/
def execSsar (f : SReg) (s : State) : Host.Outcome State Fault Refusal :=
  saluReg 0x0E f shiftA s

/-- `smin.i64` (R229). -/
def execSminI64 (f : SReg) (s : State) : Host.Outcome State Fault Refusal :=
  saluReg 0x10 f sminSigned s

/-- `smin.n64` (R229). -/
def execSminN64 (f : SReg) (s : State) : Host.Outcome State Fault Refusal :=
  saluReg 0x11 f sminUnsigned s

/-- `smax.i64` (R229). -/
def execSmaxI64 (f : SReg) (s : State) : Host.Outcome State Fault Refusal :=
  saluReg 0x12 f smaxSigned s

/-- `smax.n64` (R229). -/
def execSmaxN64 (f : SReg) (s : State) : Host.Outcome State Fault Refusal :=
  saluReg 0x13 f smaxUnsigned s

/-- `sadd` with a 10-bit immediate (R229). -/
def execSaddImm (f : SImm) (s : State) : Host.Outcome State Fault Refusal :=
  saluImm 0x20 f (fun a b => a + b) s

/-- `ssub` with a 10-bit immediate (R229). -/
def execSsubImm (f : SImm) (s : State) : Host.Outcome State Fault Refusal :=
  saluImm 0x21 f (fun a b => a - b) s

/-- `smul` with a 10-bit immediate (R229). -/
def execSmulImm (f : SImm) (s : State) : Host.Outcome State Fault Refusal :=
  saluImm 0x22 f (fun a b => a * b) s

/-- `smulh.i64` with a 10-bit immediate (R229). -/
def execSmulhI64Imm (f : SImm) (s : State) : Host.Outcome State Fault Refusal :=
  saluImm 0x23 f smulhSigned s

/-- `smulh.n64` with a 10-bit immediate (R229). -/
def execSmulhN64Imm (f : SImm) (s : State) : Host.Outcome State Fault Refusal :=
  saluImm 0x24 f smulhUnsigned s

/-- `sand` with a 10-bit immediate (R229). -/
def execSandImm (f : SImm) (s : State) : Host.Outcome State Fault Refusal :=
  saluImm 0x28 f (fun a b => a &&& b) s

/-- `sor` with a 10-bit immediate (R229). -/
def execSorImm (f : SImm) (s : State) : Host.Outcome State Fault Refusal :=
  saluImm 0x29 f (fun a b => a ||| b) s

/-- `sxor` with a 10-bit immediate (R229). -/
def execSxorImm (f : SImm) (s : State) : Host.Outcome State Fault Refusal :=
  saluImm 0x2A f (fun a b => a ^^^ b) s

/-- `sshl` with a 10-bit immediate (R229). -/
def execSshlImm (f : SImm) (s : State) : Host.Outcome State Fault Refusal :=
  saluImm 0x2C f shiftL s

/-- `sshr` with a 10-bit immediate (R229). -/
def execSshrImm (f : SImm) (s : State) : Host.Outcome State Fault Refusal :=
  saluImm 0x2D f shiftR s

/-- `ssar` with a 10-bit immediate (R229). -/
def execSsarImm (f : SImm) (s : State) : Host.Outcome State Fault Refusal :=
  saluImm 0x2E f shiftA s

/-- `smin.i64` with a 10-bit immediate (R229). -/
def execSminI64Imm (f : SImm) (s : State) : Host.Outcome State Fault Refusal :=
  saluImm 0x30 f sminSigned s

/-- `smin.n64` with a 10-bit immediate (R229). -/
def execSminN64Imm (f : SImm) (s : State) : Host.Outcome State Fault Refusal :=
  saluImm 0x31 f sminUnsigned s

/-- `smax.i64` with a 10-bit immediate (R229). -/
def execSmaxI64Imm (f : SImm) (s : State) : Host.Outcome State Fault Refusal :=
  saluImm 0x32 f smaxSigned s

/-- `smax.n64` with a 10-bit immediate (R229). -/
def execSmaxN64Imm (f : SImm) (s : State) : Host.Outcome State Fault Refusal :=
  saluImm 0x33 f smaxUnsigned s

/-- `sadd` with a literal (R229). -/
def execSaddImmS64 (f : SLit) (s : State) : Host.Outcome State Fault Refusal :=
  saluLit 0x20 f (fun a b => a + b) s

/-- `ssub` with a literal (R229). -/
def execSsubImmS64 (f : SLit) (s : State) : Host.Outcome State Fault Refusal :=
  saluLit 0x21 f (fun a b => a - b) s

/-- `smul` with a literal (R229). -/
def execSmulImmS64 (f : SLit) (s : State) : Host.Outcome State Fault Refusal :=
  saluLit 0x22 f (fun a b => a * b) s

/-- `smulh.i64` with a literal (R229). -/
def execSmulhI64ImmS64 (f : SLit) (s : State) : Host.Outcome State Fault Refusal :=
  saluLit 0x23 f smulhSigned s

/-- `smulh.n64` with a literal (R229). -/
def execSmulhN64ImmS64 (f : SLit) (s : State) : Host.Outcome State Fault Refusal :=
  saluLit 0x24 f smulhUnsigned s

/-- `sand` with a literal (R229). -/
def execSandImmS64 (f : SLit) (s : State) : Host.Outcome State Fault Refusal :=
  saluLit 0x28 f (fun a b => a &&& b) s

/-- `sor` with a literal (R229). -/
def execSorImmS64 (f : SLit) (s : State) : Host.Outcome State Fault Refusal :=
  saluLit 0x29 f (fun a b => a ||| b) s

/-- `sxor` with a literal (R229). -/
def execSxorImmS64 (f : SLit) (s : State) : Host.Outcome State Fault Refusal :=
  saluLit 0x2A f (fun a b => a ^^^ b) s

/-- `sshl` with a literal (R229). -/
def execSshlImmS64 (f : SLit) (s : State) : Host.Outcome State Fault Refusal :=
  saluLit 0x2C f shiftL s

/-- `sshr` with a literal (R229). -/
def execSshrImmS64 (f : SLit) (s : State) : Host.Outcome State Fault Refusal :=
  saluLit 0x2D f shiftR s

/-- `ssar` with a literal (R229). -/
def execSsarImmS64 (f : SLit) (s : State) : Host.Outcome State Fault Refusal :=
  saluLit 0x2E f shiftA s

/-- `smin.i64` with a literal (R229). -/
def execSminI64ImmS64 (f : SLit) (s : State) : Host.Outcome State Fault Refusal :=
  saluLit 0x30 f sminSigned s

/-- `smin.n64` with a literal (R229). -/
def execSminN64ImmS64 (f : SLit) (s : State) : Host.Outcome State Fault Refusal :=
  saluLit 0x31 f sminUnsigned s

/-- `smax.i64` with a literal (R229). -/
def execSmaxI64ImmS64 (f : SLit) (s : State) : Host.Outcome State Fault Refusal :=
  saluLit 0x32 f smaxSigned s

/-- `smax.n64` with a literal (R229). -/
def execSmaxN64ImmS64 (f : SLit) (s : State) : Host.Outcome State Fault Refusal :=
  saluLit 0x33 f smaxUnsigned s

/-- `smov` (R229). -/
def execSmov (sd sa : SName) (s : State) : Host.Outcome State Fault Refusal :=
  salu ⟨0x18, sd, sa, 0, 0, none⟩ (fun _ => 0) (fun a _ => a) s

/-- `sli` (R229). -/
def execSli (sd : SName) (imm : BitVec 10) (s : State) : Host.Outcome State Fault Refusal :=
  salu ⟨0x38, sd, 0, low6 imm, high4 imm, none⟩ (fun _ => immValue imm) (fun _ b => b) s

/-- `sli` with a literal (R229). -/
def execSliS64 (sd : SName) (lit : BitVec 32) (s : State) : Host.Outcome State Fault Refusal :=
  salu ⟨0x38, sd, 0, 0, 0, some lit⟩ (fun _ => litValue lit) (fun _ b => b) s

/-- The step count is about to reach 2^20: the instruction whose bits are `word` traps ILLEGAL_OP, subcode 5 (R230). -/
def execScalarStepLimit (word : BitVec 64) (s : State) : Host.Outcome State Fault Refusal :=
  match s.turn with
  | .scalar core slot =>
    match groupOf s core slot with
    | some g =>
      if canScalar s g ∧ stepsFull g then .next (stopScalar s core slot (.trap ⟨0x01, 5, word, none, none⟩)) else .next s
    | none => .next s
  | _ => .next s

/-! ## Branches and calls (R228, R231, R232) -/

/-- The target of an offset in bytes from the instruction's own address. -/
def scalarTarget (g : Group) (off : DWord) : DWord := (g.sc.pc.setWidth 64 + off)

/-- A target is a multiple of 4 (R31); one outside 48 bits traps ACCESS. -/
def checkScalarTarget (t : DWord) : Res Unit :=
  if t.toNat % 4 ≠ 0 then trapOf 0x0C t else if 2 ^ 48 ≤ t.toNat then trapOf 0x0D t else .ok ()

/-- A transfer of the scalar stream to a page of Casnis code traps ACCESS at the transfer (R352). -/
def checkScalarPage (s : State) (core : Nat) (g : Group) (t : DWord) : Res Unit :=
  match checkScalarTarget t with
  | .error e => .error e
  | .ok _ => if onCasnisPage s core g.ctx t.toNat then trapOf 0x0D t else .ok ()

/-- A branch of the scalar stream: its target is checked for alignment whether or not the condition holds (R231). -/
def sbranch (x : ScalarFields) (off : DWord) (cond : Group → Bool) (s : State) : Host.Outcome State Fault Refusal :=
  runScalar x s (fun core _ g s =>
    let t := scalarTarget g off
    if t.toNat % 4 ≠ 0 then trapOf 0x0C t
    else if cond g then
      match checkScalarPage s core g t with
      | .error e => .error e
      | .ok _ => .ok (s, some (t.setWidth 48))
    else .ok (s, none))

/-- The offset of a 32-bit form: the signed word count times 4. -/
def wordOffset (off : BitVec 10) : DWord := sext64 10 off.toNat * 4

/-- The fields of a branch in 32 bits. -/
def branchForm (op : Nat) (sa sb : SName) (off : BitVec 10) : ScalarFields := ⟨op, low6 off, sa, sb, high4 off, none⟩

/-- A compare-and-branch in 32 bits. -/
def sbranchShort (op : Nat) (sa sb : SName) (off : BitVec 10) (c : DWord → DWord → Bool) (s : State) :
    Host.Outcome State Fault Refusal :=
  sbranch (branchForm op sa sb off) (wordOffset off) (fun g => c (readS g sa) (readS g sb)) s

/-- A compare-and-branch in 64 bits. -/
def sbranchLong (op : Nat) (sa sb : SName) (lit : BitVec 32) (c : DWord → DWord → Bool) (s : State) :
    Host.Outcome State Fault Refusal :=
  sbranch ⟨op, 0, sa, sb, 0, some lit⟩ (litValue lit) (fun g => c (readS g sa) (readS g sb)) s

/-- `sbeq` (R231). -/
def execSbeq (sa sb : SName) (off : BitVec 10) (s : State) : Host.Outcome State Fault Refusal :=
  sbranchShort 0x40 sa sb off (fun a b => decide (a = b)) s

/-- `sbne` (R231). -/
def execSbne (sa sb : SName) (off : BitVec 10) (s : State) : Host.Outcome State Fault Refusal :=
  sbranchShort 0x41 sa sb off (fun a b => decide (a ≠ b)) s

/-- `sblt` (R231). -/
def execSblt (sa sb : SName) (off : BitVec 10) (s : State) : Host.Outcome State Fault Refusal :=
  sbranchShort 0x42 sa sb off (fun a b => decide (a.toInt < b.toInt)) s

/-- `sbge` (R231). -/
def execSbge (sa sb : SName) (off : BitVec 10) (s : State) : Host.Outcome State Fault Refusal :=
  sbranchShort 0x43 sa sb off (fun a b => decide (b.toInt ≤ a.toInt)) s

/-- `sbltn` (R231). -/
def execSbltn (sa sb : SName) (off : BitVec 10) (s : State) : Host.Outcome State Fault Refusal :=
  sbranchShort 0x44 sa sb off (fun a b => decide (a.toNat < b.toNat)) s

/-- `sbgen` (R231). -/
def execSbgen (sa sb : SName) (off : BitVec 10) (s : State) : Host.Outcome State Fault Refusal :=
  sbranchShort 0x45 sa sb off (fun a b => decide (b.toNat ≤ a.toNat)) s

/-- `sbeq` with a literal (R231). -/
def execSbeqS64 (sa sb : SName) (lit : BitVec 32) (s : State) : Host.Outcome State Fault Refusal :=
  sbranchLong 0x40 sa sb lit (fun a b => decide (a = b)) s

/-- `sbne` with a literal (R231). -/
def execSbneS64 (sa sb : SName) (lit : BitVec 32) (s : State) : Host.Outcome State Fault Refusal :=
  sbranchLong 0x41 sa sb lit (fun a b => decide (a ≠ b)) s

/-- `sblt` with a literal (R231). -/
def execSbltS64 (sa sb : SName) (lit : BitVec 32) (s : State) : Host.Outcome State Fault Refusal :=
  sbranchLong 0x42 sa sb lit (fun a b => decide (a.toInt < b.toInt)) s

/-- `sbge` with a literal (R231). -/
def execSbgeS64 (sa sb : SName) (lit : BitVec 32) (s : State) : Host.Outcome State Fault Refusal :=
  sbranchLong 0x43 sa sb lit (fun a b => decide (b.toInt ≤ a.toInt)) s

/-- `sbltn` with a literal (R231). -/
def execSbltnS64 (sa sb : SName) (lit : BitVec 32) (s : State) : Host.Outcome State Fault Refusal :=
  sbranchLong 0x44 sa sb lit (fun a b => decide (a.toNat < b.toNat)) s

/-- `sbgen` with a literal (R231). -/
def execSbgenS64 (sa sb : SName) (lit : BitVec 32) (s : State) : Host.Outcome State Fault Refusal :=
  sbranchLong 0x45 sa sb lit (fun a b => decide (b.toNat ≤ a.toNat)) s

/-- `sjmp` (R231). -/
def execSjmp (off : BitVec 10) (s : State) : Host.Outcome State Fault Refusal :=
  sbranch ⟨0x48, 0, 0, low6 off, high4 off, none⟩ (wordOffset off) (fun _ => true) s

/-- `sjmp` with a literal (R231). -/
def execSjmpS64 (lit : BitVec 32) (s : State) : Host.Outcome State Fault Refusal :=
  sbranch ⟨0x48, 0, 0, 0, 0, some lit⟩ (litValue lit) (fun _ => true) s

/-- A call: the following address is pushed, top first; a push onto 16 entries traps STACK_LIMIT (R232). The target is checked
before it: the spec gives no order (log 134). -/
def scallTo (x : ScalarFields) (off : DWord) (s : State) : Host.Outcome State Fault Refusal :=
  runScalar x s (fun core slot g s =>
    let t := scalarTarget g off
    match checkScalarPage s core g t with
    | .error e => .error e
    | .ok _ =>
      if 16 ≤ g.sc.rstack.length then trapOf 0x0B 16
      else
        let back := (g.sc.pc + BitVec.ofNat 48 (scalarBytes x)).setWidth 64
        .ok (modScalar s core slot (fun z => { z with rstack := back :: z.rstack }), some (t.setWidth 48)))

/-- `scall` (R232). -/
def execScall (off : BitVec 10) (s : State) : Host.Outcome State Fault Refusal :=
  scallTo ⟨0x49, 0, 0, low6 off, high4 off, none⟩ (wordOffset off) s

/-- `scall` with a literal (R232). -/
def execScallS64 (lit : BitVec 32) (s : State) : Host.Outcome State Fault Refusal :=
  scallTo ⟨0x49, 0, 0, 0, 0, some lit⟩ (litValue lit) s

/-- The fields of `sret`. -/
def sretForm : ScalarFields := ⟨0x4A, 0, 0, 0, 0, none⟩

/-- `sret` (R232, R249): the top entry above the handler's mark, the return from the handler at the mark, else
ILLEGAL_OP with subcode 2. -/
def execSret (s : State) : Host.Outcome State Fault Refusal :=
  runScalar sretForm s (fun core slot g s =>
    let z := g.sc
    if z.rmark.getD 0 < z.rstack.length then
      match checkScalarPage s core g (z.rstack.headD 0) with
      | .error e => .error e
      | .ok _ => .ok (modScalar s core slot (fun z => { z with rstack := z.rstack.tail }), some ((z.rstack.headD 0).setWidth 48))
    else if z.handler then
      let pc := recordAddress s core slot
      match checkScalarPage s core g (pc.setWidth 64) with
      | .error e => .error e
      | .ok _ => .ok (modScalar s core slot (fun z => leaveScalarHandler z pc), some pc)
    else trapSub 0x01 2 (BitVec.ofNat 64 (scalarWord sretForm)))

/-! ## Memory (R233, R234) -/

/-- The mode field: scope, size in bytes, sign extension. -/
def modeScope (m : BitVec 6) : Nat := m.toNat % 8
/-- The access size in bytes. -/
def modeSize (m : BitVec 6) : Nat := 2 ^ (m.toNat / 8 % 4)
/-- Sign extension. -/
def modeSext (m : BitVec 6) : Bool := decide (m.toNat / 32 = 1)

/-- The scope of a mode field is within its limits. -/
def checkMode (m : BitVec 6) : Res Unit := if 6 ≤ modeScope m then illegalOperand 15 m.toNat else .ok ()

/-- A loaded value, extended to 64 bits. -/
def extendLoad (m : BitVec 6) (bs : List Byte) : DWord :=
  if modeSext m then sext64 (8 * modeSize m) (bytesToNat bs) else bytesDword bs

/-- The package with signatures added to what the scalar stream inherits (R402); at core scope too, where an acquire drops nothing,
so that a chain through an agent of the core is kept (R396, log 121). -/
def inheritScalar (s : State) (core slot : Nat) (sigs : List Sig) : State :=
  modGroup s core slot (fun g => { g with sigScalar := joinSigs (liveSigs s.now g.sigScalar) sigs })

/-- A load of the scalar stream at a scope code, 0 for a plain one. -/
def scalarLoad (s : State) (core slot ctx va size scope : Nat) : Res (List Byte × State) :=
  match checkOne s core ctx va size .read (decide (scope = 0)) with
  | .error e => .error e
  | .ok x =>
    if scope = 0 then
      let r := readX s core (accessLevel 0 x.leaf) x size 100
      .ok (r.bytes, noteLoads r.state core slot r.sigs)
    else
      let r := acquireRead s core (scopeOfCode scope) x size 100
      .ok (r.bytes, inheritScalar r.state core slot r.sigs)

/-- `sld` at an offset. -/
def sloadAt (x : ScalarFields) (m : BitVec 6) (off : DWord) (s : State) : Host.Outcome State Fault Refusal :=
  runScalar x s (fun core slot g s =>
    match checkMode m with
    | .error e => .error e
    | .ok _ =>
      match scalarLoad s core slot g.ctx (readS g x.sa + off).toNat (modeSize m) (modeScope m) with
      | .error e => .error e
      | .ok (bs, s) => .ok (putS s core slot x.sd (extendLoad m bs), none))

/-- `sld` (R233). -/
def execSld (sd sa : SName) (mode : BitVec 6) (s : State) : Host.Outcome State Fault Refusal :=
  sloadAt ⟨0x60, sd, sa, mode, 0, none⟩ mode 0 s

/-- `sld` with a literal (R233). -/
def execSldS64 (sd sa : SName) (mode : BitVec 6) (lit : BitVec 32) (s : State) : Host.Outcome State Fault Refusal :=
  sloadAt ⟨0x60, sd, sa, mode, 0, some lit⟩ mode (litValue lit) s

/-- `sst` at an offset: a plain store carries what a fence of the group has published; a release begins anew (R403). -/
def sstoreAt (x : ScalarFields) (m : BitVec 6) (off : DWord) (s : State) : Host.Outcome State Fault Refusal :=
  runScalar x s (fun core slot g s =>
    match checkMode m with
    | .error e => .error e
    | .ok _ =>
      let bs := dwordBytes (modeSize m) (readS g x.sd)
      match checkOne s core g.ctx (readS g x.sa + off).toNat (modeSize m) .write (decide (modeScope m = 0)) with
      | .error e => .error e
      | .ok t =>
        if modeScope m = 0 then .ok (writeX s core (accessLevel 0 t.leaf) t bs g.fenceSig, none)
        else if releaseWaits s core (scopeOfCode (modeScope m)) then .error (.stall .scoreboard)
        else
          let s := releaseWrite s core (scopeOfCode (modeScope m)) t bs g.sigScalar
          .ok (modGroup s core slot (fun g => { g with fenceSig := [] }), none))

/-- `sst` (R233). -/
def execSst (sd sa : SName) (mode : BitVec 6) (s : State) : Host.Outcome State Fault Refusal :=
  sstoreAt ⟨0x61, sd, sa, mode, 0, none⟩ mode 0 s

/-- `sst` with a literal (R233). -/
def execSstS64 (sd sa : SName) (mode : BitVec 6) (lit : BitVec 32) (s : State) : Host.Outcome State Fault Refusal :=
  sstoreAt ⟨0x61, sd, sa, mode, 0, some lit⟩ mode (litValue lit) s

end Sys2Proof.Machine
end

