-- ==== Sys2Proof/Machine/Queues.lean ====
section
/-!
DEFINITION. The queues of a group and the affine engine, lane blocks, system registers, waiting on a word and the end
of the scalar stream (09_scalar_stream R235 to R248).
-/
namespace Sys2Proof.Machine

open Sys2Proof

/-! ## Queues (R235 to R238) -/

/-- A queue of a group. -/
def queueOf (g : Group) (n : Nat) : Queue := g.qs.getD n Queue.reset

/-- The package with one queue of a group changed. -/
def modQueue (s : State) (core slot n : Nat) (f : Queue → Queue) : State :=
  modGroup s core slot (fun g => { g with qs := lset Queue.reset g.qs n (f (queueOf g n)) })

/-- A queue number is at most 7 (R228), and not that of a q7 in narrows mode (R237). -/
def checkQueue (g : Group) (n : Nat) : Res Unit :=
  if 7 < n ∨ (n = 7 ∧ (queueOf g 7).nmode) then illegalOperand 0 n else .ok ()

/-- Free entries; entries that wait from before a pre-emption come first (R277). -/
def freeEntries (q : Queue) : Nat := if q.saved.isEmpty then 8 - q.entries.length else 0

/-- The addresses of the lanes that have not exited, from a base and a stride in bytes (R238). -/
def laneAddresses (g : Group) (base stride : DWord) : List (Nat × Nat) :=
  (lanesOf (liveLanes g)).map (fun l => (l, (base + BitVec.ofNat 64 l * stride).toNat))

/-- Plain reads of lanes through the scalar stream's path: a value for each lane, the attachments of what was read, and the
package after them. -/
def readLanes (s : State) (core size tag : Nat) : List (Nat × Xlat) → List (Nat × Nat) × List Sig × State
  | [] => ([], [], s)
  | (l, x) :: xs =>
    let r := readX s core (accessLevel 0 x.leaf) x size (tag + l)
    let q := readLanes r.state core size tag xs
    ((l, bytesToNat r.bytes) :: q.1, joinSigs r.sigs q.2.1, q.2.2)

/-- The value read for a lane; 0 for one that has exited. -/
def laneValue (v : List (Nat × Nat)) (l : Nat) : Nat :=
  match v.find? (fun e => decide (e.1 = l)) with
  | some e => e.2
  | none => 0

/-- The entries that values make: one, or two for 64-bit elements, low half first (R235). -/
def entriesOf (wide : Bool) (tag : Nat) (v : List (Nat × Nat)) : List QEntry :=
  let half (h : Nat) : QEntry := ⟨(List.range 64).map (fun l => BitVec.ofNat 32 (laneValue v l / 2 ^ (32 * h))), false, none, tag⟩
  if wide then [half 0, half 1] else [half 0]

/-- The entries of one push, fetched (R238 lines 001 to 003). What it asks of peers is awaited by the entries, not by the scalar
stream, which goes on (R238, R240). -/
def fetchEntries (s : State) (core slot : Nat) (g : Group) (base stride : DWord) (wide : Bool) : Res (List QEntry × State) :=
  let size := if wide then 8 else 4
  match checkLanes s core g.ctx size .read (laneAddresses g base stride) true with
  | .error e => .error e
  | .ok xs =>
    let r := readLanes { s with turn := .idle } core size 200 xs
    .ok (entriesOf wide s.fresh r.1,
      noteLoads (claimOps (gidOf g) s.outgoing.length { r.2.2 with turn := s.turn }) core slot r.2.1)

/-- The queue with entries reserved at its end; an ended state, or a pending end, is cleared (R237). -/
def reserveEntries (es : List QEntry) (q : Queue) : Queue :=
  { q with entries := q.entries ++ es, ended := false, pendingEnd := false }

/-- `sqld` (R238). -/
def execSqld (qn : BitVec 6) (sa sb : SName) (wide : Bool) (s : State) : Host.Outcome State Fault Refusal :=
  runScalar ⟨0x70, qn, sa, sb, if wide then 1 else 0, none⟩ s (fun core slot g s =>
    match checkQueue g qn.toNat with
    | .error e => .error e
    | .ok _ =>
      let q := queueOf g qn.toNat
      if q.stream.isSome ∨ freeEntries q < (if wide then 2 else 1) then .error (.stall .queueEmpty)
      else
        match fetchEntries s core slot g (readS g sa) (readS g sb) wide with
        | .error e => .error e
        | .ok (es, s) => .ok (modQueue s core slot qn.toNat (reserveEntries es), none))

/-! ## Affine streams (R239 to R241) -/

/-- The eight words of a 64-byte structure. -/
def wordsOf (bs : List Byte) : List Nat := (List.range 8).map (fun i => bytesToNat ((bs.drop (8 * i)).take 8))

/-- The offset of the first word of an affine descriptor that breaks a limit (R59, R239). -/
def affBad (w : List Nat) : Option Nat :=
  let x (i : Nat) : Nat := w.getD i 0
  if x 0 / 2 ^ 48 ≠ 0 then some 0x00
  else if x 5 % 2 ^ 16 = 0 ∨ x 5 / 2 ^ 16 % 2 ^ 16 = 0 ∨ x 5 / 2 ^ 32 % 2 ^ 16 = 0 ∨ x 5 / 2 ^ 49 ≠ 0 then some 0x28
  else if x 6 ≠ 0 then some 0x30
  else if x 7 ≠ 0 then some 0x38
  else none

/-- The stream that a descriptor describes. -/
def affOf (w : List Nat) (pc : BitVec 48) : AffStream :=
  let x (i : Nat) : DWord := BitVec.ofNat 64 (w.getD i 0)
  let n := w.getD 5 0
  { base := x 0, lstride := x 1, st0 := x 2, st1 := x 3, st2 := x 4, n0 := n % 2 ^ 16, n1 := n / 2 ^ 16 % 2 ^ 16,
    n2 := n / 2 ^ 32 % 2 ^ 16, wide := decide (n / 2 ^ 48 % 2 = 1), i0 := 0, i1 := 0, i2 := 0, at_ := pc, fault := none }

/-- A 64-byte structure read in a context's address space at a multiple of 64 (R239), once both its sectors can be reached. -/
def readStruct (s : State) (core slot ctx va : Nat) : Res (List Nat × State) :=
  match checkOne s core ctx va 64 .read true with
  | .error e => .error e
  | .ok _ =>
    match checkRange s core ctx .read true [(va, 32), (va + 32, 32)] with
    | .error e => .error e
    | .ok l =>
      let r := readParts s core 0 300 l
      .ok (wordsOf r.bytes, noteLoads r.state core slot r.sigs)

/-- `aff` (R239). -/
def execAff (qn : BitVec 6) (sa : SName) (s : State) : Host.Outcome State Fault Refusal :=
  runScalar ⟨0x68, qn, sa, 0, 0, none⟩ s (fun core slot g s =>
    match checkQueue g qn.toNat with
    | .error e => .error e
    | .ok _ =>
      if (queueOf g qn.toNat).stream.isSome then .error (.stall .queueEmpty)
      else
        match readStruct s core slot g.ctx (readS g sa).toNat with
        | .error e => .error e
        | .ok (w, s) =>
          match affBad w with
          | some off => illegalOperand 15 off
          | none =>
            .ok (modQueue s core slot qn.toNat (fun q =>
              { reserveEntries [] q with stream := some (.affine (affOf w g.sc.pc)) }), none))

/-- The address of lane 0 at a stream's position (R240 line 004). -/
def affAddress (a : AffStream) : DWord :=
  a.base + BitVec.ofNat 64 a.i0 * a.st0 + BitVec.ofNat 64 a.i1 * a.st1 + BitVec.ofNat 64 a.i2 * a.st2

/-- The stream at its next position; none after the last. -/
def affNext (a : AffStream) : Option AffStream :=
  if a.i0 + 1 < a.n0 then some { a with i0 := a.i0 + 1 }
  else if a.i1 + 1 < a.n1 then some { a with i0 := 0, i1 := a.i1 + 1 }
  else if a.i2 + 1 < a.n2 then some { a with i0 := 0, i1 := 0, i2 := a.i2 + 1 }
  else none

/-- The running affine stream of a queue that no page fault holds. -/
def affRunning (s : State) (core slot n : Nat) : Option (Group × AffStream) :=
  match groupOf s core slot with
  | none => none
  | some g =>
    match (queueOf g n).stream with
    | some (.affine a) =>
      if a.fault.isNone ∧ (ctxOf s g.ctx).state ≠ .faulted ∧ (if a.wide then 2 else 1) ≤ freeEntries (queueOf g n) then
        some (g, a)
      else none
    | _ => none

/-- An affine stream pushes its next entry (R240). -/
def execAffPush (core slot q : Nat) (s : State) : Host.Outcome State Fault Refusal :=
  match affRunning s core slot q with
  | none => .next s
  | some (g, a) =>
    match fetchEntries s core slot g (affAddress a) a.lstride a.wide with
    | .ok (es, t) =>
      .next (modQueue t core slot q (fun x =>
        { x with entries := x.entries ++ es, stream := (affNext a).map QStream.affine }))
    | .error _ => .next s

/-- An affine stream meets a fault (R241): a page fault pauses it; otherwise it stops, its queue ends once its entries
are filled, and the scalar stream traps at its next issue. -/
def execAffStreamFault (core slot q : Nat) (s : State) : Host.Outcome State Fault Refusal :=
  match affRunning s core slot q with
  | none => .next s
  | some (g, a) =>
    match fetchEntries s core slot g (affAddress a) a.lstride a.wide with
    | .ok _ => .next s
    | .error (.page va kind sub) =>
      match pageFault s (dieOf core) g.ctx va.toNat kind sub with
      | none => .next s
      | some (w, s) =>
        .next (modQueue s core slot q (fun x =>
          { x with stream := some (.affine { a with fault := some ⟨w.1, w.2, pageTrap va sub none none⟩ }) }))
    | .error (.trap t) =>
      let s := modQueue s core slot q (fun x => { x with stream := none, pendingEnd := true })
      .next (modScalar s core slot (fun z =>
        { z with deferred := z.deferred ++ [{ t with site := some ⟨⟨a.at_, 0⟩, false⟩ }] }))
    | .error _ => .next s

/-- The oldest reserved entry filled. -/
def fillFirst : List QEntry → List QEntry
  | [] => []
  | e :: l => if e.filled then e :: fillFirst l else { e with filled := true } :: l

/-- A queue whose oldest reserved entry fills: one that waits from before a pre-emption, as there is room for it, or one whose
data arrives (R235, R240, R277). -/
def fillQueue (x : Queue) : Queue :=
  match x.saved with
  | v :: l => if x.entries.length < 8 then { x with entries := x.entries ++ [⟨v, true, none, 0⟩], saved := l } else x
  | [] => { x with entries := fillFirst x.entries }

/-- The data of a queue's oldest reserved entry is still to come from a peer (R387). -/
def fillWaits (s : State) (x : Queue) : Bool :=
  x.saved.isEmpty && ((x.entries.find? (fun e => !e.filled)).any (fun e => !answered s e.tag))

/-- A reserved entry fills (R235, R240, R277), once what its loads ask of peers has come (R387). -/
def execQueueEntryFill (core slot q : Nat) (s : State) : Host.Outcome State Fault Refusal :=
  match groupOf s core slot with
  | none => .next s
  | some g => .next (if fillWaits s (queueOf g q) then s else modQueue s core slot q fillQueue)

/-- `sqend` (R242). -/
def execSqend (qn : BitVec 6) (s : State) : Host.Outcome State Fault Refusal :=
  runScalar ⟨0x71, qn, 0, 0, 0, none⟩ s (fun core slot g s =>
    match checkQueue g qn.toNat with
    | .error e => .error e
    | .ok _ => .ok (modQueue s core slot qn.toNat (fun q => { q with pendingEnd := true }), none))

/-- A pending end takes effect once every reserved entry is filled and no stream is active (R237). -/
def execQueueEndEffect (core slot q : Nat) (s : State) : Host.Outcome State Fault Refusal :=
  .next (modQueue s core slot q (fun x =>
    if x.pendingEnd ∧ x.stream.isNone ∧ x.saved.isEmpty ∧ x.entries.all (fun e => e.filled) then { x with ended := true, pendingEnd := false }
    else x))

/-! ## Lane blocks (R243, R244) -/

/-- What a `lrun` into translated code needs: only the helper image's stub may run a block on a page with c = 1
(R352, R442). -/
def checkBlockPage (s : State) (core : Nat) (g : Group) (t : Nat) : Res Unit :=
  match leafFor s core g.ctx t, leafFor s core g.ctx g.sc.pc.toNat with
  | .leaf _ e _, .leaf lv st _ =>
    if e / 32 % 2 = 1 ∧ entryAddr st + g.sc.pc.toNat % pageSize lv ≠ Config.helperImage.toNat then trapOf 0x0D (BitVec.ofNat 64 t)
    else .ok ()
  | _, _ => .ok ()

/-- `lrun` with an offset (R243): the scalar stream's inherited signatures go to the lanes, as a release and an acquire
at core scope. -/
def lrunAt (x : ScalarFields) (first : SName) (count : BitVec 6) (off : Nat) (s : State) :
    Host.Outcome State Fault Refusal :=
  runScalar x s (fun core slot g s =>
    let t := (g.lcode.toNat + off) % 2 ^ 64
    if 4 ≤ g.sc.blocks.length then .error (.stall .queueEmpty)
    else if t % 4 ≠ 0 then trapOf 0x0C (BitVec.ofNat 64 t)
    else if 2 ^ 48 ≤ t then trapOf 0x0D (BitVec.ofNat 64 t)
    else
      match checkBlockPage s core g t with
      | .error e => .error e
      | .ok _ =>
        let ks := (List.range 8).map (fun i =>
          if i < count.toNat then readS g (BitVec.ofNat 6 (first.toNat + i)) else 0)
        .ok (modGroup s core slot (fun g =>
          { g with sc := { g.sc with blocks := g.sc.blocks ++ [⟨BitVec.ofNat 48 t, ks⟩] },
                   sigLane := joinSigs (liveSigs s.now g.sigLane) (liveSigs s.now g.sigScalar) }), none))

/-- `lrun` (R243). -/
def execLrun (first : SName) (count : BitVec 6) (s : State) : Host.Outcome State Fault Refusal :=
  lrunAt ⟨0x80, 0, first, count, 0, none⟩ first count 0 s

/-- `lrun` with a block offset (R243). -/
def execLrunS64 (first : SName) (count : BitVec 6) (lit : BitVec 32) (s : State) : Host.Outcome State Fault Refusal :=
  lrunAt ⟨0x80, 0, first, count, 0, some lit⟩ first count lit.toNat s

/-- The lane stream has nothing left to do for `lsync` (R244). -/
def lanesQuiet (g : Group) : Bool := g.sc.blocks.isEmpty && !g.ln.inBlock && allZero g.ln

/-- `lsync` (R244). -/
def execLsync (s : State) : Host.Outcome State Fault Refusal :=
  runScalar ⟨0x81, 0, 0, 0, 0, none⟩ s (fun core slot g s =>
    if lanesQuiet g then
      .ok (modGroup s core slot (fun g =>
        { g with sigScalar := joinSigs (liveSigs s.now g.sigScalar) (liveSigs s.now g.sigLane) }), none)
    else .error (.stall .queueEmpty))

/-! ## System registers (R245, R108, R152, R432) -/

/-- SQ_STAT of a queue. -/
def queueStat (g : Group) (n : Nat) : Nat :=
  let q := queueOf g n
  ((q.entries.drop q.held).filter (fun e => e.filled)).length + q.held * 2 ^ 4 +
    min 8 ((q.entries.filter (fun e => !e.filled)).length + q.saved.length) * 2 ^ 8 +
    b2n (match q.stream with
      | some (.affine _) => true
      | _ => false) * 2 ^ 12 + b2n q.ended * 2 ^ 13 + b2n (decide (n = 7) && q.nmode) * 2 ^ 14

/-- Occupied slots of a narrows (R274). -/
def occupied (w : Narrows) : Nat := w.waiting.length + w.inQ7

/-- The partner's quad does not take part in the narrows (R277, R427). -/
def partnerDown (s : State) (core : Nat) : Bool := decide ((quadOf s (partner core)).state ≠ .active)

/-- NW_FREE (R245). -/
def narrowsFree (s : State) (core : Nat) : Nat := 16 - occupied (narrowsOf s core) + b2n (partnerDown s core) * 32

/-- Issue cycles that have passed since a hint was issued: 6 for every 5 ns, the nominal 1.2 GHz of R5 taken as exact
(log 56). -/
def hintElapsed (s : State) (h : Hint) : Nat := (s.now - h.issued) * 6 / 5

/-- PW_HINT (R432). -/
def hintReg (s : State) (g : Group) : Nat :=
  match g.ln.hint with
  | none => 0
  | some h =>
    let t := hintElapsed s h
    (if h.active then 0 else min (h.onset - t) 65535) + h.intensity * 2 ^ 16 + b2n h.active * 2 ^ 21 +
      (if h.active then h.onset + h.length - t else h.length) % 2 ^ 32 * 2 ^ 32

/-- A layer of a rail: 0 lower, 1 upper (R415). -/
def railOf (s : State) (rail layer : Nat) : RailLayer := mget s.rails (2 * rail + layer) RailLayer.reset

/-- The HBM4 stacks of a die, hottest first (R9). -/
def hottest (s : State) (d : Nat) : HbmStack :=
  (List.range 3).foldl (fun h i =>
    let x := mget s.hbm (3 * d + i) HbmStack.reset
    if h.temp < x.temp then x else h) (mget s.hbm (3 * d) HbmStack.reset)

/-- The share scale of a thermal level (R429). -/
def shareScale (level : Nat) : Nat := if level = 0 then 256 else if level = 1 then 236 else 160

/-- The power registers (R432). -/
def powerReg (s : State) (core : Nat) (g : Group) (n : Nat) : Option Nat :=
  let q := quadOf s core
  let k := coreOf s core
  match n with
  | 0x080 =>
    some (passCount q + b2n (decide (1 < q.floor)) * 2 ^ 3 + b2n q.burst * 2 ^ 4 +
      b2n (decide (1 < q.balance)) * 2 ^ 5 + b2n q.thermal * 2 ^ 6)
  | 0x081 => some (hintReg s g)
  | 0x082 => some (b2n k.bankSet + k.temp0.toNat * 2 ^ 8 + k.temp1.toNat * 2 ^ 16)
  | 0x083 => some ((railOf s (core / 64) 0).level % 512 + (railOf s (core / 64) 1).level % 512 * 2 ^ 9 + core / 64 * 2 ^ 18)
  | 0x084 => some (k.idles.toNat + k.shunts.toNat * 2 ^ 32)
  | 0x085 =>
    let h := hottest s (dieOf core)
    some ((stackOf s (dieOf core)).temp.toNat + h.temp.toNat * 2 ^ 8 + h.level % 4 * 2 ^ 16 + (shareScale h.level - 1) * 2 ^ 18)
  | _ => none

/-- The context registers (R108). -/
def contextReg (s : State) (g : Group) (n : Nat) : Option Nat :=
  let c := ctxOf s g.ctx
  match n with
  | 0x040 => some (g.ctx % 1024 + c.partition % 16 * 2 ^ 10)
  | 0x041 => some (b2n c.checking + b2n c.debug * 2 + c.ceiling % 256 * 4)
  | 0x042 => some c.hlane.toNat
  | 0x043 => some c.hscal.toNat
  | 0x044 => some c.profile.toNat
  | 0x045 => some c.ubc.toNat
  | 0x046 => some c.energy.toNat
  | _ => none

/-- The group registers (R152, R245). -/
def groupReg (slot : Nat) (g : Group) (n : Nat) : Option Nat :=
  match n with
  | 0x050 => some g.ln.sp.toNat
  | 0x051 => some g.ln.stklim.toNat
  | 0x052 => some g.ln.rsp.toNat
  | 0x053 => some (slot + g.wcode * 2 ^ 5 + b2n g.ln.handler.isSome * 2 ^ 7 + g.ln.stack.length * 2 ^ 8)
  | 0x054 => some (b2n g.sc.handler + g.sc.rstack.length * 2)
  | _ => none

/-- The value of a system register; none for a number that is not listed. -/
def sysReg (s : State) (core slot : Nat) (g : Group) (n : Nat) : Option Nat :=
  if n = 0x000 then some core
  else if n = 0x001 then some s.now
  else if 0x010 ≤ n ∧ n ≤ 0x017 then some (queueStat g (n - 0x010))
  else if n = 0x018 then some g.sc.blocks.length
  else if n = 0x020 then some (narrowsFree s core)
  else if n = 0x021 then some (8 - g.rlds.length)
  else if 0x040 ≤ n ∧ n ≤ 0x046 then contextReg s g n
  else if 0x050 ≤ n ∧ n ≤ 0x054 then groupReg slot g n
  else powerReg s core g n

/-- `srd` (R245). -/
def execSrd (sd : SName) (number : BitVec 10) (s : State) : Host.Outcome State Fault Refusal :=
  runScalar ⟨0xA0, sd, 0, low6 number, high4 number, none⟩ s (fun core slot g s =>
    match sysReg s core slot g number.toNat with
    | some v => .ok (putS s core slot sd (BitVec.ofNat 64 v), none)
    | none => trapOf 0x0D (BitVec.ofNat 64 number.toNat))

/-- The fields of `swr`. -/
def swrForm (number : BitVec 10) (sa : SName) : ScalarFields := ⟨0xA1, 0, sa, low6 number, high4 number, none⟩

/-- `swr` to a register without an RW field, or to one that is not listed (R108, R245). -/
def execSwr (number : BitVec 10) (sa : SName) (s : State) : Host.Outcome State Fault Refusal :=
  runScalar (swrForm number sa) s (fun _ _ _ _ => trapOf 0x0D (BitVec.ofNat 64 number.toNat))

/-- A value fits GR_SP (R152). -/
def spOk (g : Group) (v : Nat) : Bool :=
  decide (v % 32 = 0) && decide (g.ln.rsp.toNat ≤ v) && decide (v ≤ g.stkTop.toNat)

/-- `swr` to GR_SP (R152). -/
def execGrSp (sa : SName) (s : State) : Host.Outcome State Fault Refusal :=
  runScalar (swrForm 0x050 sa) s (fun core slot g s =>
    let v := (readS g sa).toNat % 2 ^ 19
    if spOk g v then .ok (modLane s core slot (fun l => { l with sp := BitVec.ofNat 19 v }), none)
    else trapOf 0x0D (readS g sa))

/-- A value fits GR_STKLIM (R152). -/
def stklimOk (k : Core) (g : Group) (v : Nat) : Bool :=
  decide (v % 32 = 0) && decide (v ≤ g.ln.sp.toNat) && decide (g.ln.rsp = g.ln.stklim) &&
    (match cohortOf k g with
     | some c => decide (c.base ≤ v) && decide (v ≤ c.base + c.size)
     | none => false)

/-- `swr` to GR_STKLIM (R152). -/
def execGrStklim (sa : SName) (s : State) : Host.Outcome State Fault Refusal :=
  runScalar (swrForm 0x051 sa) s (fun core slot g s =>
    let v := (readS g sa).toNat % 2 ^ 19
    if stklimOk (coreOf s core) g v then
      .ok (modLane s core slot (fun l => { l with stklim := BitVec.ofNat 19 v, rsp := BitVec.ofNat 19 v }), none)
    else trapOf 0x0D (readS g sa))

/-! ## Waiting on a word (R246) -/

/-- The wait that begins for an address: the line as it is now. -/
def beginWait (s : State) (core : Nat) (x : Xlat) (timeout : Option Nat) : WordWait :=
  ⟨x.pa / 128, writesSeen s core (x.pa / 128), s.now, timeout, false, none⟩

/-- A wait on a word that has been woken. -/
def wokenOn (w : Option WordWait) : Bool := w.any (fun x => x.woken)

/-- `swaitw` with an optional timeout. -/
def swaitwAt (x : ScalarFields) (s : State) : Host.Outcome State Fault Refusal :=
  runScalar x s (fun core slot g s =>
    let va := (readS g x.sa).toNat
    match checkOne s core g.ctx va 8 .read with
    | .error e => .error e
    | .ok t =>
      let w := beginWait s core t (x.lit.map BitVec.toNat)
      match waitRead s t g.sc.watch w (acquireRead s core .package t 8 100) with
      | .error e => .error e
      | .ok r =>
        let s := inheritScalar r.state core slot r.sigs
        if !wokenOn g.sc.watch ∧ bytesDword r.bytes = readS g x.sb ∧ x.lit ≠ some 0 then .error (.sleepWord w s)
        else .ok (putS s core slot x.sd (bytesDword r.bytes), none))

/-- `swaitw` (R246). -/
def execSwaitw (sd sa sb : SName) (s : State) : Host.Outcome State Fault Refusal :=
  swaitwAt ⟨0xA2, sd, sa, sb, 0, none⟩ s

/-- `swaitw` with a timeout (R246). -/
def execSwaitwS64 (sd sa sb : SName) (lit : BitVec 32) (s : State) : Host.Outcome State Fault Refusal :=
  swaitwAt ⟨0xA2, sd, sa, sb, 0, some lit⟩ s

/-- A wait may end: a write to its line has been performed at the core, or its time has passed (R246, R263). -/
def waitOver (s : State) (core : Nat) (w : WordWait) (timeout : Bool) : Bool :=
  if timeout then w.timeout.any (fun n => decide (w.start + n ≤ s.now)) else decide (writesSeen s core w.line ≠ w.count)

/-- A scalar stream wakes from `swaitw`, which then loads the word again (R246). -/
def execSwaitwWake (core slot : Nat) (timeout : Bool) (s : State) : Host.Outcome State Fault Refusal :=
  match groupOf s core slot with
  | none => .next s
  | some g =>
    match g.sc.watch with
    | none => .next s
    | some w =>
      if asleepOn (some w) ∧ waitOver s core w timeout ∧ (ctxOf s g.ctx).state ≠ .faulted then
        .next (modScalar s core slot (fun z => { z with watch := some { w with woken := true } }))
      else .next s

/-! ## The end of the scalar stream (R248) -/

/-- The queues that `sexit` ends: all but q7 in narrows mode. -/
def endQueues (g : Group) : List Queue :=
  (List.range 8).map (fun n => if (queueOf g n).nmode then queueOf g n else { queueOf g n with pendingEnd := true })

/-- `sexit` (R248). -/
def execSexit (s : State) : Host.Outcome State Fault Refusal :=
  runScalar ⟨0xA4, 0, 0, 0, 0, none⟩ s (fun core slot _ s =>
    let s := modGroup s core slot (fun g =>
      { g with qs := endQueues g,
               sc := { g.sc with stopped := true, sexited := true, handler := false, rmark := none } })
    match groupOf s core slot with
    | some g => .ok (if g.sc.blocks.isEmpty then exitLanes s core slot (liveLanes g) else s, none)
    | none => .ok (s, none))

end Sys2Proof.Machine
end

