-- ==== Sys2Proof/Machine/LaneMemory.lean ====
section
/-!
DEFINITION. Memory instructions of the lane stream: loads, stores, atomics, fences, waits on a word, cache control
(10_memory_ops R251 to R263, R281, 17_model R389 to R405).
-/
namespace Sys2Proof.Machine

open Sys2Proof

/-! ## Addresses and lanes -/

/-- The immediate of an L96 form as a signed byte offset (R251). -/
def offsetOf (f : LaneForm) : DWord :=
  match f.lit with
  | some v => sext64 32 v.toNat
  | none => 0

/-- The address of a lane: src1 plus the offset. -/
def laneAddress (s : State) (e : Iss) (f : LaneForm) (lane : Nat) : Nat :=
  (BitVec.ofNat 64 (src64 s e (fieldAt e.x 1) lane) + offsetOf f).toNat

/-- The addresses of the lanes taking part, ascending. -/
def addressesOf (s : State) (e : Iss) (f : LaneForm) : List (Nat × Nat) :=
  (lanesOf e.lanes).map (fun l => (l, laneAddress s e f l))

/-- The size in bytes of a memory control field (R255). -/
def mSize (m : BitVec 8) : Nat := 2 ^ (m.toNat % 4)
/-- The scope of a memory control field. -/
def mScope (m : BitVec 8) : Scope := scopeOfCode (m.toNat / 8 % 8)
/-- The policy of a memory control field. -/
def mPolicy (m : BitVec 8) : Nat := m.toNat / 64
/-- A loaded value extended into its register (R189, R255). -/
def mExtend (m : BitVec 8) (bs : List Byte) : Nat :=
  if m.toNat / 4 % 2 = 1 then (sext64 (8 * mSize m) (bytesToNat bs)).toNat % 2 ^ 32 else bytesToNat bs

/-- The writes of a result of 32 or 64 bits. -/
def writeSized (wide : Bool) (spec : Nat) (mask : Mask) (f : Nat → Nat) : List RegWrite :=
  if wide then write64 spec mask f else write32 spec mask f

/-- Values of lanes that are read one after another, with the attachments of their lines. -/
structure LaneReads where
  vals : List (Nat × List Byte)
  sigs : List Sig
  state : State

/-- The bytes read for a lane. -/
def LaneReads.at (r : LaneReads) (l : Nat) : List Byte :=
  match r.vals.find? (fun e => decide (e.1 = l)) with
  | some e => e.2
  | none => []

/-- Reads of translated lanes, ascending, each at the level that `level` gives for its leaf. -/
def readAll (s : State) (core size tag : Nat) (level : Nat → Nat) : List (Nat × Xlat) → LaneReads
  | [] => ⟨[], [], s⟩
  | (l, x) :: xs =>
    let r := readX s core (level x.leaf) x size (tag + l)
    let q := readAll r.state core size tag level xs
    ⟨(l, r.bytes) :: q.vals, joinSigs r.sigs q.sigs, q.state⟩

/-- What an acquire of the lane stream does with the attachments it read (R401, R402), at core scope too (R396, log 121). -/
def acquireLane (s : State) (core slot : Nat) (scope : Scope) (sigs : List Sig) : State :=
  let s := acquireDrop s core scope sigs
  modGroup s core slot (fun g => { g with sigLane := joinSigs (liveSigs s.now g.sigLane) sigs })

/-- A release of the lane stream (R398, R397): what it publishes, and the package after its write-backs. -/
def releaseLane (s : State) (core slot : Nat) (scope : Scope) (g : Group) : List Sig × State :=
  let r := release s core scope g.sigLane
  (r.1, modGroup r.2 core slot (fun g => { g with fenceSig := [] }))

/-- An effect that has been performed: its scoreboard, if it names one, falls later (R252). -/
def performed (s : State) (e : Iss) (kind : PendingKind) : Done :=
  if e.x.ctl.set.toNat < 6 then Done.later s (pendingResult s e kind [] 0) else Done.plain s

/-! ## Loads and stores (R255 to R257) -/

/-- `ld` (R256). -/
def execLd (f : LaneForm) (s : State) : Host.Outcome State Fault Refusal :=
  runLane (.ld f) s (fun e s =>
    let m := f.src2
    match checkLanes s e.core e.g.ctx (mSize m) .read (addressesOf s e f) (decide (mPolicy m ≠ 2)) with
    | .error r => .error r
    | .ok xs =>
      let r := readAll s e.core (mSize m) 400 (accessLevel (mPolicy m)) xs
      let s := noteLoads r.state e.core e.slot r.sigs
      .ok (Done.later s (pendingResult s e .memory (writeSized (mWide m) f.dst.toNat e.lanes (fun l => mExtend m (r.at l))) 0)))

/-- `ld.acq` (R256, R401). -/
def execLdAcq (f : LaneForm) (s : State) : Host.Outcome State Fault Refusal :=
  runLane (.ldAcq f) s (fun e s =>
    let m := f.src2
    match checkLanes s e.core e.g.ctx (mSize m) .read (addressesOf s e f) with
    | .error r => .error r
    | .ok xs =>
      let r := readAll s e.core (mSize m) 400 (fun leaf => max (scopeLevel (mScope m)) (accessLevel (mPolicy m) leaf)) xs
      let s := acquireLane r.state e.core e.slot (mScope m) r.sigs
      .ok (Done.later s (pendingResult s e .memory (writeSized (mWide m) f.dst.toNat e.lanes (fun l => mExtend m (r.at l))) 0)))

/-- Writes of translated lanes, ascending: the highest lane that writes a byte wins (R257). -/
def writeAll (s : State) (core : Nat) (level : Nat → Nat) (sigs : List Sig) (bytes : Nat → List Byte) :
    List (Nat × Xlat) → State
  | [] => s
  | (l, x) :: xs => writeAll (writeX s core (level x.leaf) x (bytes l) sigs) core level sigs bytes xs

/-- The data of a store in a lane: the low bytes of src3 (R257). -/
def storeData (s : State) (e : Iss) (size lane : Nat) : List Byte := natToBytes size (src64 s e (fieldAt e.x 3) lane)

/-- `st` (R257). -/
def execSt (f : LaneForm) (s : State) : Host.Outcome State Fault Refusal :=
  runLane (.st f) s (fun e s =>
    let m := f.src2
    match checkLanes s e.core e.g.ctx (mSize m) .write (addressesOf s e f) true with
    | .error r => .error r
    | .ok xs =>
      .ok (performed (writeAll s e.core (accessLevel (mPolicy m)) e.g.fenceSig (storeData s e (mSize m)) xs) e .memory))

/-- `st.rel` (R257, R398). -/
def execStRel (f : LaneForm) (s : State) : Host.Outcome State Fault Refusal :=
  runLane (.stRel f) s (fun e s =>
    let m := f.src2
    match checkLanes s e.core e.g.ctx (mSize m) .write (addressesOf s e f) with
    | .error r => .error r
    | .ok xs =>
      if releaseWaits s e.core (mScope m) then .error (.stall .scoreboard)
      else
        let r := releaseLane s e.core e.slot (mScope m) e.g
        let level (leaf : Nat) : Nat := max (scopeLevel (mScope m)) (accessLevel (mPolicy m) leaf)
        .ok (performed (writeAll r.2 e.core level r.1 (storeData s e (mSize m)) xs) e .memory))

/-! ## Scratchpad (R253) -/

/-- `n` bytes from a scratchpad offset lie each in the cohort's allocation or in the group's own trap record slot, which may
begin where the allocation ends. -/
def scratchOk (k : Core) (slot : Nat) (g : Group) (off n : Nat) : Bool :=
  let t := trapSlot slot
  let own := decide (t ≤ off) && decide (off + n ≤ t + 64)
  match cohortOf k g with
  | some c =>
    own || (decide (c.base ≤ off) && decide (off + n ≤ c.base + c.size)) ||
      (decide (c.base + c.size = t) && decide (c.base ≤ off) && decide (off + n ≤ t + 64))
  | none => own

/-- A scratchpad range of an instruction is allowed (R253). -/
def checkScratch (k : Core) (slot : Nat) (g : Group) (off n : Nat) : Res Unit :=
  if scratchOk k slot g off n then .ok () else trapOf 0x0D (BitVec.ofNat 64 off)

/-- The scratchpad offset of a lane. -/
def laneOffset (s : State) (e : Iss) (f : LaneForm) (lane : Nat) : Nat :=
  (BitVec.ofNat 64 (src32 s e (fieldAt e.x 1) lane) + offsetOf f).toNat % 2 ^ 32

/-- The scratchpad offsets of the lanes taking part, checked in the order of R254. -/
def checkOffsets (s : State) (e : Iss) (f : LaneForm) (size : Nat) : Res (List (Nat × Nat)) :=
  let l := (lanesOf e.lanes).map (fun j => (j, laneOffset s e f j))
  match l.find? (fun x => decide (x.2 % size ≠ 0)) with
  | some x => trapOf 0x0C (BitVec.ofNat 64 x.2)
  | none =>
    match l.find? (fun x => !scratchOk (coreOf s e.core) e.slot e.g x.2 size) with
    | some x => trapOf 0x0D (BitVec.ofNat 64 x.2)
    | none => .ok l

/-- `lds` (R256). -/
def execLds (f : LaneForm) (s : State) : Host.Outcome State Fault Refusal :=
  runLane (.lds f) s (fun e s =>
    let m := f.src2
    match checkOffsets s e f (mSize m) with
    | .error r => .error r
    | .ok _ =>
      let v (l : Nat) : Nat := mExtend m (Memory.readBytes (coreOf s e.core).scratch (laneOffset s e f l) (mSize m))
      .ok (Done.later s (pendingResult s e .memory (writeSized (mWide m) f.dst.toNat e.lanes v) 0)))

/-- A core's scratchpad with bytes of lanes written, ascending. -/
def writeScratch (m : Memory) (bytes : Nat → List Byte) : List (Nat × Nat) → Memory
  | [] => m
  | (l, off) :: xs => writeScratch (Memory.writeBytes m off (bytes l)) bytes xs

/-- `sts` (R257). -/
def execSts (f : LaneForm) (s : State) : Host.Outcome State Fault Refusal :=
  runLane (.sts f) s (fun e s =>
    match checkOffsets s e f (mSize f.src2) with
    | .error r => .error r
    | .ok xs =>
      .ok (performed (modCore s e.core (fun k =>
        { k with scratch := writeScratch k.scratch (storeData s e (mSize f.src2)) xs })) e .memory))

/-! ## Atomics (R259 to R261) -/

/-- The scope of an atomic control field. -/
def nScope (n : BitVec 8) : Scope := scopeOfCode (n.toNat % 8)
/-- The size in bytes of an atomic control field. -/
def nSize (n : BitVec 8) : Nat := if nWide n then 8 else 4
/-- The order includes an acquire. -/
def nAcquire (n : BitVec 8) : Bool := decide (n.toNat / 16 % 2 = 1)
/-- The order includes a release. -/
def nRelease (n : BitVec 8) : Bool := decide (n.toNat / 32 % 2 = 1)
/-- Minimum and maximum compare as two's complement. -/
def nSigned (n : BitVec 8) : Bool := decide (n.toNat / 64 % 2 = 1)
/-- Addition in FP32. -/
def nFloat (n : BitVec 8) : Bool := decide (n.toNat / 128 = 1)

/-- `ared`'s operations as `atom`'s. -/
def aredAs : AredOp → AtomOp
  | .add => .add
  | .min => .min
  | .max => .max
  | .and => .and
  | .or => .or
  | .xor => .xor

/-- The first value is below the second, as the control field compares. -/
def atomLess (n : BitVec 8) (a b : Nat) : Bool :=
  if nSigned n then decide (toSigned (8 * nSize n) a < toSigned (8 * nSize n) b) else decide (a < b)

/-- The new value of an atomic operation; `c` is the value that cas compares with (R261). -/
def atomNew (op : AtomOp) (n : BitVec 8) (old b c : Nat) : Nat :=
  match op with
  | .add => if nFloat n then (fAdd fp32 envPlain .rne old b).code else (old + b) % 2 ^ (8 * nSize n)
  | .min => if atomLess n b old then b else old
  | .max => if atomLess n old b then b else old
  | .and => old &&& b
  | .or => old ||| b
  | .xor => old ^^^ b
  | .xch => b
  | .cas => if old = c then b else old

/-- One indivisible read-modify-write of a lane: what it returns, the attachments read, and the package after it. An
atomic on an aperture goes to the peer (R387); where nothing is, it returns free bytes (log 14). -/
def atomOne (s : State) (core level : Nat) (x : Xlat) (n : BitVec 8) (op : AtomOp) (b c tag : Nat) (sigs : List Sig) :
    Read :=
  let size := nSize n
  let s := walkAcquire s core x
  if isAperture x.pa then
    ⟨freeBytes s tag size, [],
      sendOp s core x.pa (if op = .cas then .cas (BitVec.ofNat 64 b) (BitVec.ofNat 64 c) else .add (BitVec.ofNat 64 b))⟩
  else if !isMemory x.pa then ⟨freeBytes s tag size, [], s⟩
  else
    let r := readLevel s core level x.pa size
    let old := bytesToNat r.bytes
    if op = .cas ∧ old ≠ c then r
    else { r with state := writeLevel r.state core level x.pa (natToBytes size (atomNew op n old b c)) sigs }

/-- The read-modify-writes of the lanes taking part, ascending (R261 lines 001 to 011). -/
def atomLanes (s : State) (core : Nat) (n : BitVec 8) (op : AtomOp) (b c : Nat → Nat) (sigs : List Sig) :
    List (Nat × Xlat) → LaneReads
  | [] => ⟨[], [], s⟩
  | (l, x) :: xs =>
    let r := atomOne s core (max (scopeLevel (nScope n)) (accessLevel 0 x.leaf)) x n op (b l) (c l) (500 + l) sigs
    let q := atomLanes r.state core n op b c sigs xs
    ⟨(l, r.bytes) :: q.vals, joinSigs r.sigs q.sigs, q.state⟩

/-- An atomic that an aperture does not carry traps ACCESS (R387). -/
def checkApertureOp (n : BitVec 8) (op : AtomOp) (s : State) (e : Iss) (f : LaneForm) (xs : List (Nat × Xlat)) : Res Unit :=
  if nWide n ∧ (op = .add ∨ op = .cas) then .ok ()
  else
    match xs.find? (fun x => isAperture x.2.pa) with
    | some x => trapOf 0x0D (BitVec.ofNat 64 (laneAddress s e f x.1))
    | none => .ok ()

/-- The read-modify-writes of `atom` and `ared` with their release and acquire. -/
def atomics (s : State) (e : Iss) (f : LaneForm) (op : AtomOp) (n : BitVec 8) : Res LaneReads :=
  match checkLanes s e.core e.g.ctx (nSize n) .atomic (addressesOf s e f) with
  | .error r => .error r
  | .ok xs =>
    match checkApertureOp n op s e f xs with
    | .error r => .error r
    | .ok _ =>
      if nRelease n ∧ releaseWaits s e.core (nScope n) then .error (.stall .scoreboard)
      else
        let rel := if nRelease n then releaseLane s e.core e.slot (nScope n) e.g else (e.g.fenceSig, s)
        let mask := 2 ^ (8 * nSize n)
        let q := atomLanes rel.2 e.core n op (fun l => src64 s e (fieldAt e.x 2) l % mask)
          (fun l => src64 s e (fieldAt e.x 0) l % mask) rel.1 xs
        .ok (if nAcquire n then { q with state := acquireLane q.state e.core e.slot (nScope n) q.sigs } else q)

/-- `atom` (R261). -/
def execAtom (op : AtomOp) (f : LaneForm) (s : State) : Host.Outcome State Fault Refusal :=
  runLane (.atom op f) s (fun e s =>
    match atomics s e f op f.src3 with
    | .error r => .error r
    | .ok r =>
      .ok (Done.later r.state (pendingResult r.state e .memory
        (writeSized (nWide f.src3) f.dst.toNat e.lanes (fun l => bytesToNat (r.at l))) 0)))

/-- `ared` (R261). -/
def execAred (op : AredOp) (f : LaneForm) (s : State) : Host.Outcome State Fault Refusal :=
  runLane (.ared op f) s (fun e s =>
    match atomics s e f (aredAs op) f.src3 with
    | .error r => .error r
    | .ok r => .ok (performed r.state e .memory))

/-! ## Fences (R262, R403) -/

/-- The acquire half of a fence: copies are dropped for the attachments of every value that plain loads have returned. -/
def fenceAcquire (s : State) (core slot : Nat) (scope : Scope) : State :=
  match groupOf s core slot with
  | none => s
  | some g =>
    if scopeLevel scope = 0 then s
    else
      let s := acquireLane s core slot scope (liveSigs s.now g.loadSig)
      modGroup s core slot (fun g => { g with loadSig := [] })

/-- The release half of a fence: what it publishes is carried by every later write of the group. -/
def fenceRelease (s : State) (core slot : Nat) (scope : Scope) (g : Group) : State :=
  let r := release s core scope g.sigLane
  modGroup r.2 core slot (fun g => { g with fenceSig := r.1 })

/-- `fence` (R262): memory instructions of the group wait until it is complete. -/
def execFence (f : LaneForm) (s : State) : Host.Outcome State Fault Refusal :=
  runLane (.fence f) s (fun e s =>
    let scope := scopeOfCode (f.src1.toNat % 8)
    let kind := f.src1.toNat / 8
    if kind ≠ 2 ∧ releaseWaits s e.core scope then .error (.stall .scoreboard)
    else
      let s := if kind = 2 then s else fenceRelease s e.core e.slot scope e.g
      let s := if kind = 1 then s else fenceAcquire s e.core e.slot scope
      let s := modLane s e.core e.slot (fun l => { l with fence := true })
      .ok (Done.later s (pendingResult s e .fence [] 0)))

/-! ## Waiting on a word (R263) -/

/-- The lanes taking part whose address or expected value differs from the lowest lane's. -/
def waitDissent (s : State) (e : Iss) (f : LaneForm) : Mask :=
  let l0 := lowestLane e.lanes
  e.lanes &&& maskOf (fun l =>
    decide (laneAddress s e { f with lit := none } l ≠ laneAddress s e { f with lit := none } l0) ||
      decide (src64 s e (fieldAt e.x 2) l ≠ src64 s e (fieldAt e.x 2) l0))

/-- `waitw` (R263); once woken it loads the word again. -/
def execWaitw (f : LaneForm) (s : State) : Host.Outcome State Fault Refusal :=
  runLane (.waitw f) s (fun e s =>
    let l0 := lowestLane e.lanes
    let va := src64 s e (fieldAt e.x 1) l0
    if waitDissent s e f ≠ 0 then trapOf 0x05 (waitDissent s e f)
    else
      match checkOne s e.core e.g.ctx va 8 .read with
      | .error r => .error r
      | .ok x =>
        let w := beginWait s e.core x (f.lit.map BitVec.toNat)
        match waitRead s x e.g.ln.watch w (readX s e.core 2 x 8 600) with
        | .error r => .error r
        | .ok r =>
          let v := bytesToNat r.bytes
          let s := acquireLane r.state e.core e.slot .package r.sigs
          if !wokenOn e.g.ln.watch ∧ v = src64 s e (fieldAt e.x 2) l0 ∧ f.lit ≠ some 0 then .error (.sleepWord w s)
          else .ok (Done.regs s 1 (write64 f.dst.toNat e.lanes (fun _ => v)) 0))

/-- A lane stream wakes from `waitw`, whose word is loaded again when it issues (R263); a held group stays asleep
(R102). -/
def execWaitwWake (core slot : Nat) (timeout : Bool) (s : State) : Host.Outcome State Fault Refusal :=
  match groupOf s core slot with
  | none => .next s
  | some g =>
    match g.ln.sleep, g.ln.watch with
    | some .word, some w =>
      if waitOver s core w timeout ∧ (ctxOf s g.ctx).state ≠ .faulted then
        .next (modLane s core slot (fun l => { l with state := wokenState l, sleep := none, watch := some { w with woken := true } }))
      else .next s
    | _, _ => .next s

/-! ## Prefetch and cache control (R281) -/

/-- The translation of an address that `pref` acts on; one that does not translate or is not permitted is ignored. -/
def prefXlat (s : State) (core ctx va : Nat) : Option Xlat :=
  match checkAddr s core ctx va 1 .read true with
  | .ok x => if isMemory x.pa then some x else none
  | _ => none

/-- The translation of an address whose line `cwb` and `cinv` write back, whatever its page permits; one that does not
translate, or is no memory, has no sectors. -/
def lineXlat (s : State) (core ctx va : Nat) : Option Xlat :=
  match translate s core ctx va with
  | .ok x => if isMemory x.pa then some x else none
  | .error _ => none

/-- The address translates only once the way to its table is open and no skerry command holds the table (R371, R379). -/
def walkWaits (s : State) (core ctx va : Nat) : Bool :=
  match translate s core ctx va with
  | .error .wait => true
  | _ => false

/-- The four sectors of a line. -/
def lineSectors (pa : Nat) : List Nat := (List.range 4).map (fun i => pa / 128 * 4 + i)

/-- The lines that the lanes taking part address. -/
def addressedLines (s : State) (e : Iss) (f : LaneForm) (x : State → Nat → Nat → Nat → Option Xlat) : List Xlat :=
  (addressesOf s e f).filterMap (fun a => x s e.core e.g.ctx a.2)

/-- A prefetch of one line into a level, as the page's policy permits, where the way to its home is open. -/
def prefetchLine (core level : Nat) (s : State) (x : Xlat) : State :=
  if routeWaits s core x.pa then s
  else
    (lineSectors x.pa).foldl (fun s sec =>
      if max level (accessLevel 0 x.leaf) = 0 then (getL1 s core sec).2
      else if max level (accessLevel 0 x.leaf) = 1 then (getL2 s (dieOf core) sec).2
      else s) s

/-- `pref` (R281); a replica in L3 is the home itself in this model. -/
def execPref (f : LaneForm) (s : State) : Host.Outcome State Fault Refusal :=
  runLane (.pref f) s (fun e s =>
    .ok (Done.plain ((addressedLines s e f prefXlat).foldl (prefetchLine e.core f.src2.toNat) s)))

/-- A write-back of a line must wait: to L2 for room there (R19), to the home while a skerry command holds the line (R371), or the
way there is closed (R379). -/
def lineWaits (s : State) (core : Nat) (scope : Scope) (x : Xlat) : Bool :=
  match scopeLevel scope with
  | 0 => false
  | 1 => dirtyLine (coreOf s core).l1 (x.pa / 128) && roomWaits s (dieOf core)
  | _ => skerryHolds s (x.pa / 128 * 128) 128 || routeWaits s core x.pa

/-- The dirty sectors of a line written back to a scope's coherence point. -/
def writeBackLine (core : Nat) (scope : Scope) (s : State) (x : Xlat) : State :=
  (lineSectors x.pa).foldl (fun s sec =>
    match scopeLevel scope with
    | 0 => s
    | 1 => writeBackL1 s core sec
    | _ => writeBackL2 (writeBackL1 s core sec) (dieOf core) sec) s

/-- An instruction that does something to each addressed line once none of their translations and write-backs must wait. -/
def lineOp (i : Instr) (f : LaneForm) (op : Nat → Scope → State → Xlat → State) (s : State) :
    Host.Outcome State Fault Refusal :=
  runLane i s (fun e s =>
    let scope := scopeOfCode f.src2.toNat
    let lines := addressedLines s e f lineXlat
    if (addressesOf s e f).any (fun a => walkWaits s e.core e.g.ctx a.2) ∨ lines.any (lineWaits s e.core scope) then .error (.stall .scoreboard)
    else .ok (performed (lines.foldl (op e.core scope) s) e .release))

/-- `cwb` (R281). -/
def execCwb (f : LaneForm) (s : State) : Host.Outcome State Fault Refusal := lineOp (.cwb f) f writeBackLine s

/-- The sectors of a cache without the clean bytes of one line. -/
def dropLine (m : Map Sector) (line : Nat) : Map Sector :=
  (m.map (fun e => if sectorLine e.1 = line then (e.1, { e.2 with valid := e.2.dirty }) else e)).filter
    (fun e => decide (e.2.valid ≠ 0))

/-- A line written back and its copies dropped: in L1, and in L2 as well at package and pod scope. -/
def invalidateLine (core : Nat) (scope : Scope) (s : State) (x : Xlat) : State :=
  let s := writeBackLine core scope s x
  let s := modCore s core (fun k =>
    let m := dropLine k.l1 (x.pa / 128)
    { k with l1 := m, l1sigs := keptSigs m k.l1sigs })
  if scopeLevel scope = 2 then
    modStack s (dieOf core) (fun k =>
      let m := dropLine k.l2 (x.pa / 128)
      { k with l2 := m, l2sigs := keptSigs m k.l2sigs })
  else s

/-- `cinv` (R281). -/
def execCinv (f : LaneForm) (s : State) : Host.Outcome State Fault Refusal := lineOp (.cinv f) f invalidateLine s

/-! ## Completion -/

/-- The result of a group of some kinds that comes in place `idx`; one that a peer has not answered does not come yet (R387). -/
def pendingAt (s : State) (g : Group) (kinds : PendingKind → Bool) (idx : Nat) : Option Pending :=
  ((g.ln.outstanding.filter (fun p => kinds p.kind && answered s p.tag)).drop idx).head?

/-- A result of a group completes. -/
def completeKind (s : State) (core slot idx : Nat) (kinds : PendingKind → Bool) : State :=
  match groupOf s core slot with
  | none => s
  | some g =>
    match pendingAt s g kinds idx with
    | some p => completeTag s core slot p.tag
    | none => s

/-- A load, atomic or store completes (R252). -/
def execMemoryAccessComplete (core slot idx : Nat) (s : State) : Host.Outcome State Fault Refusal :=
  .next (completeKind s core slot idx (fun k => decide (k = .memory)))

/-- The write-backs of a release are acknowledged (R398): a fence, `cwb` or `cinv` is complete. -/
def execReleaseComplete (core slot idx : Nat) (s : State) : Host.Outcome State Fault Refusal :=
  let s := completeKind s core slot idx (fun k => decide (k = .release ∨ k = .fence))
  .next (modLane s core slot (fun l => { l with fence := l.outstanding.any (fun p => decide (p.kind = .fence)) }))

end Sys2Proof.Machine
end

