-- ==== Sys2Proof/Machine/Launch.lean ====
section
/-!
DEFINITION. Queues, launch records, kernels and their dependences (05_queue, 06_kernel R122 to R130, R134 to R136,
17_model R413).
-/
namespace Sys2Proof.Machine

open Sys2Proof

/-! ## Memory as a die's scheduler sees it (R111, R113) -/

/-- An address checked for a scheduler: through the stack's translations and the tables. What it asks a peer for, it waits for
before it goes on (R380); a write waits at its port. A context that is not bound has no tables, so nothing translates (log 31). -/
def unitCheck (s : State) (die ctx va size : Nat) (kind : AccessKind) : AddrCheck :=
  if (ctxOf s ctx).state = .created then .access
  else match checkAddr { s with cores := [] } (256 * die) ctx va size kind with
  | .ok x => if kind ≠ .write ∧ portShut s x.pa then .held else .ok x
  | r => r

/-- What a scheduler's walk with acquire semantics drops from its stack's L2 (R345). -/
def unitAcquire (s : State) (die : Nat) (x : Xlat) : State := modStack s die (dropL2 x.sigs)

/-- Bytes read at their home by a scheduler, with the line's attachments; a peer's answer, and what stands where nothing is,
are free (log 14, log 15). -/
def unitRead (s : State) (die : Nat) (x : Xlat) (n tag : Nat) : Read :=
  let s := unitAcquire s die x
  if isAperture x.pa then ⟨freeBytes s tag n, [], sendOp s (1024 + die) x.pa (.read n)⟩
  else if isMemory x.pa then ⟨loadHome s x.pa n, attachedAt s (x.pa / 128), s⟩
  else ⟨freeBytes s tag n, [], s⟩

/-- A release of a scheduler written at the home. -/
def unitStore (s : State) (die : Nat) (x : Xlat) (bs : List Byte) (sigs : List Sig) : State :=
  let s := unitAcquire s die x
  if isAperture x.pa then sendOp s (1024 + die) x.pa (.write bs)
  else if isMemory x.pa then storeHome s x.pa bs sigs
  else s

/-- A scheduler waits for lines that are held and ways that are closed (R371, R379); any other failure takes the second way. -/
def unlessHeld (s : State) (a : AddrCheck) (ok : Xlat → Host.Outcome State Fault Refusal) (bad : Host.Outcome State Fault Refusal) :
    Host.Outcome State Fault Refusal :=
  match a with
  | .ok x => ok x
  | .held => .next s
  | _ => bad

/-! ## Launch records (R122 to R124) -/

/-- The 32 words of a record. -/
def recordWords (bs : List Byte) : List Nat := (List.range 32).map (fun i => bytesToNat ((bs.drop (8 * i)).take 8))

/-- Bytes of a range's unit (R123). -/
def rangeUnit (w : Nat) : Nat := 128 * 65536 ^ (w / 2 ^ 62 / 2) * 64 ^ (w / 2 ^ 62 % 2)

/-- The unused range, or the range of a word. -/
def rangeOf (w : Nat) : List Range :=
  if w = 0 then [] else [⟨w % 2 ^ 41 * 128, w % 2 ^ 41 * 128 + w / 2 ^ 41 % 2 ^ 21 * rangeUnit w⟩]

/-- A range word keeps the limits of R123. -/
def rangeOk (w : Nat) : Bool :=
  decide (w = 0) ||
    (decide (w / 2 ^ 41 % 2 ^ 21 ≠ 0) && decide (w / 2 ^ 62 ≠ 3) && decide (w % 2 ^ 41 * 128 % rangeUnit w = 0) &&
      decide (w % 2 ^ 41 * 128 + w / 2 ^ 41 % 2 ^ 21 * rangeUnit w ≤ 2 ^ 48))

/-- The record that 256 bytes hold, valid or not. -/
def recordOf (bs : List Byte) : Record :=
  let w (i : Nat) : Nat := (recordWords bs).getD i 0
  { sentry := BitVec.ofNat 48 (w 0), casnis := bitOf (w 0) 48, lcode := BitVec.ofNat 48 (w 1), wcode := bits (w 2) 1 0,
    groups := bits (w 2) 7 2, cap := bits (w 2) 15 8, floor := bits (w 2) 23 16, acc := bits (w 2) 28 24,
    bsl := bits (w 2) 32 29, cohorts := bits (w 2) 63 40, scratch := bits (w 3) 31 0, stack := bits (w 3) 63 32,
    ckpt := bits (w 4) 31 0, prio := bits (w 4) 39 32, fstop := bitOf (w 4) 40, flag := BitVec.ofNat 48 (w 5),
    value := BitVec.ofNat 64 (w 6), args := (List.range 4).map (fun i => BitVec.ofNat 64 (w (7 + i))),
    ckbase := BitVec.ofNat 48 (w 11), rd := ((List.range 8).map (fun i => rangeOf (w (16 + i)))).flatten,
    wr := ((List.range 8).map (fun i => rangeOf (w (24 + i)))).flatten }

/-- Every field is within its limit of R122 and R123; translated code has room and its stub (R435, R442). -/
def recordLimits (helper : BitVec 48) (bs : List Byte) : Bool :=
  let r := recordOf bs
  decide (1 ≤ r.groups) && decide (r.groups ≤ 32) && decide (8 ≤ r.cap) && decide (r.cap ≤ 128) && decide (r.cap % 8 = 0) &&
    decide (8 ≤ r.floor) && decide (r.floor ≤ r.cap) && decide (r.floor % 8 = 0) && decide (r.acc ≤ 16) &&
    decide (r.bsl ≤ 8) && decide (1 ≤ r.cohorts) && decide (r.scratch % 256 = 0) && decide (r.stack % 256 = 0) &&
    decide (r.ckpt % 256 = 0) && decide (r.flag.toNat % 8 = 0) && decide (r.ckbase.toNat % 256 = 0) &&
    ((recordWords bs).drop 16).all rangeOk &&
    (!r.casnis || (decide (64 ≤ r.cap) && decide (1280 + 288 * widthOf r.wcode ≤ r.ckpt) && decide (helper ≠ 0) &&
      decide (r.sentry = helper)))

/-- Every field marked zero is zero (R122). -/
def recordZeros (bs : List Byte) : Bool :=
  let w (i : Nat) : Nat := (recordWords bs).getD i 0
  decide (w 0 / 2 ^ 49 = 0) && decide (w 1 / 2 ^ 48 = 0) && decide (bits (w 2) 39 33 = 0) && decide (w 4 / 2 ^ 41 = 0) &&
    decide (w 5 / 2 ^ 48 = 0) && decide (w 11 / 2 ^ 48 = 0) && (List.range 4).all (fun i => decide (w (12 + i) = 0))

/-- The scratchpad bytes of a cohort (R131). -/
def cohortBytes (r : Record) : Nat := r.scratch + r.groups * r.stack

/-- The two further conditions of R124. -/
def recordFits (r : Record) : Bool := decide (r.groups * widthOf r.wcode ≤ 1024) && decide (cohortBytes r ≤ 522240)

/-- Why a record is not valid, in the subcodes of R135. -/
def recordReason (helper : BitVec 48) (bs : List Byte) : Option Nat :=
  if !recordLimits helper bs then some 2
  else if !recordZeros bs then some 3
  else if !recordFits (recordOf bs) then some 4
  else none

/-- A kernel as its record has been read (R99, R114, R128). Its priority is lowered to the ceiling as the record is read: R108
does not say which record counts as placed after a change of the ceiling (log 100). -/
def newKernel (s : State) (ctx seq die : Nat) (r : Record) (sigs : List Sig) : Kernel :=
  { record := r, ctx := ctx, seq := seq, die := die, state := .declared, queue := none, parent := none, ancestors := [],
    deps := [], next := 0, preempted := [], live := 0, prio := min r.prio (ctxOf s ctx).ceiling, boost := 0, readyAt := 0,
    agedAt := 0, firstAt := none, reserved := false, launch := 0, flagged := false, sigs := sigs }

/-- A kernel added under the next key, its sequence number taken from its context. -/
def addKernel (s : State) (k : Kernel) : State :=
  let s := modCtx s k.ctx (fun c => { c with seq := c.seq + 1 })
  { s with kernels := mset s.kernels s.nextKernel k, nextKernel := s.nextKernel + 1 }

/-! ## Queues -/

/-- The package with one queue changed. -/
def modHostQueue (s : State) (q : Nat) (f : HostQueue → HostQueue) : State := { s with queues := mmod s.queues q f }

/-- Records that have not been read. -/
def hasUnread (q : HostQueue) : Bool := decide (q.last ≠ q.head)

/-- Records a window holds (R115). -/
def windowRoom : Nat := 16

/-- The state of a queue that may read: blocked when its window is full, else armed or empty (R117). -/
def readState (q : HostQueue) : QueueState :=
  if windowRoom ≤ q.window.length then .blocked else if hasUnread q then .armed else .empty

/-- A queue halted with a status and its QUEUE event (R111, R112), which carries the tag of the command that caused it (R472). -/
def haltQueue (s : State) (n status word : Nat) (tag : Nat := 0) : State :=
  match mget? s.queues n with
  | none => s
  | some q =>
    post (modHostQueue s n (fun q => { q with state := .halted, status := status, after := none })) q.die 0x06 status tag [n, word, q.head.toNat]

/-- A queue after one of its kernels has left its window or ended (R117 to R119). -/
def settleQueue (s : State) (n : Nat) : State :=
  match mget? s.queues n with
  | none => s
  | some q =>
    match q.state with
    | .blocked => modHostQueue s n (fun q => { q with state := readState q })
    | .draining =>
      if q.reading.isEmpty then post (modHostQueue s n (fun q => { q with state := .halted })) q.die 0x07 0 q.tag [n] else s
    | .tornDown =>
      if q.reading.isEmpty then post { s with queues := merase s.queues n } q.die 0x08 0 q.tag [n] else s
    | _ => s

/-- A new tail is invalid (R111). -/
def badTail (q : HostQueue) (t : BitVec 64) : Bool :=
  decide (q.size < (t - q.head).toNat) || decide ((t - q.head).toNat < (q.last - q.head).toNat)

/-- The records that a tail shows behind an old one: none where it exceeds the ring. -/
def shown (last : DWord) (size : Nat) (t : DWord) : Nat := if (t - last).toNat ≤ size then (t - last).toNat else 0

/-- Which writes of a tail word exposed the records behind an old tail: the writes are given newest first, and a record was
exposed by the oldest from which on every tail shows it (R113). The tails they exposed, with the times, oldest first; `least`
records are shown by all newer writes. -/
def exposing (last : DWord) (size : Nat) : Nat → List (Nat × DWord) → List (DWord × Nat)
  | _, [] => []
  | least, (time, v) :: older =>
    let n := min least (shown last size v)
    if n = 0 then [] else exposing last size n older ++ [(last + BitVec.ofNat 64 n, time)]

/-- The tails that a new tail's word exposed, and when (R113): those of its writes; the present time where no write is known, as for
a word outside memory, whose writes the model does not see. -/
def exposures (s : State) (pa : Nat) (q : HostQueue) (t : DWord) : List (DWord × Nat) :=
  match exposing q.last q.size (t - q.last).toNat (if isMemory pa then mget s.stamps (pa / 8) [] else []) with
  | [] => [(t, s.now)]
  | l => l

/-- A valid tail taken, with what its writes exposed, when, and its attachments (R111, R113, R117). -/
def takeTail (t : BitVec 64) (times : List (DWord × Nat)) (sigs : List Sig) (q : HostQueue) : HostQueue :=
  let q := { q with last := t, exposed := q.exposed ++ times.map (fun (e : DWord × Nat) => (e.1, e.2, sigs)) }
  match q.state with
  | .empty => { q with state := readState q }
  | _ => q

/-- The scheduler watches a queue's tail (R111). -/
def watched (q : HostQueue) : Bool :=
  match q.state with
  | .halted => false
  | .tornDown => false
  | _ => true

/-- A completed write to a watched tail line: the scheduler reads the tail and checks it (R111, R116, R117). -/
def execQueueTailWrite (n : Nat) (s : State) : Host.Outcome State Fault Refusal :=
  match mget? s.queues n with
  | none => .next s
  | some q =>
    if watched q then
      unlessHeld s (unitCheck s q.die q.ctx q.tailAddr.toNat 8 .read)
        (fun x =>
          let r := unitRead s q.die x 8 64
          let t := bytesDword r.bytes
          if t = q.last then .next r.state
          else if badTail q t then .next (haltQueue r.state n 6 t.toNat)
          else .next (modHostQueue r.state n (takeTail t (exposures s x.pa q t) r.sigs)))
        (.next (haltQueue s n 7 q.tailAddr.toNat))
    else .next s

/-! ## Reading a record (R110 to R115) -/

/-- A queue's effective priority (R113). -/
def queuePrio (s : State) (q : HostQueue) : Nat := min q.prio (ctxOf s q.ctx).ceiling

/-- The tail write that exposed the queue's oldest unread record: its time and attachments (R113). -/
def exposure (q : HostQueue) : Nat × List Sig :=
  match q.exposed.find? (fun e => decide (e.1 ≠ q.head) && decide ((e.1 - q.head).toNat ≤ q.size)) with
  | some e => e.2
  | none => (0, [])

/-- A die's queues that may be chosen, best first (R113, R116). -/
def queueOrder (s : State) (die : Nat) : List (Nat × HostQueue) :=
  sortBy (fun a b => lexLt [255 - queuePrio s a.2, (exposure a.2).1, a.1] [255 - queuePrio s b.2, (exposure b.2).1, b.1])
    (s.queues.filter (fun e => decide (e.2.die = die) && decide (e.2.state = .armed) && decide ((ctxOf s e.2.ctx).state = .runnable)))

/-- The state of a queue after a read: a halt or a drain that came meanwhile takes effect (R117). -/
def afterRead (q : HostQueue) : QueueState :=
  match q.after with
  | some st => st
  | none => readState q

/-- The queue after a record has been read as the kernel of a key; a kernel that has faulted does not enter its window
(R115, R117). -/
def readOne (key : Nat) (faulted : Bool) (q : HostQueue) : HostQueue :=
  let q := { q with
    head := q.head + 1, window := if faulted then q.window else q.window ++ [key],
    reading := if faulted then q.reading else q.reading ++ [key],
    exposed := q.exposed.filter (fun e => decide (e.1 ≠ q.head + 1)) }
  { q with state := afterRead q, after := none }

/-- A record read from a queue becomes a kernel; one that is not valid faults at once (R124). -/
def acceptRecord (s : State) (n : Nat) (q : HostQueue) (bs : List Byte) : State :=
  let k := newKernel s q.ctx (ctxOf s q.ctx).seq.toNat q.die (recordOf bs) (liveSigs s.now (exposure q).2)
  let bad := (recordReason (ctxOf s q.ctx).helper bs).isSome
  let k := { k with queue := some (n, q.head.toNat), state := if bad then .faulted else .declared }
  let key := s.nextKernel
  let s := settleQueue (modHostQueue (addKernel s k) n (readOne key bad)) n
  if bad then post s q.die 0x09 8 0 [q.ctx, n, q.head.toNat] else s

/-- A die's scheduler has written to a peer and not been acknowledged: its release at pod scope waits (R110, R387, R398). -/
def unitOwes (s : State) (die : Nat) : Bool := owesAgent s none (1024 + die)

/-- One record of a queue is read and its head word written, by a release at pod scope (R110, R112, R398). -/
def readRecord (s : State) (n : Nat) (q : HostQueue) : Host.Outcome State Fault Refusal :=
  let slot := q.ring.toNat + 256 * (q.head.toNat % q.size)
  if unitOwes s q.die then .next s
  else unlessHeld s (unitCheck s q.die q.ctx slot 256 .read)
    (fun x =>
      unlessHeld s (unitCheck s q.die q.ctx q.headAddr.toNat 8 .write)
        (fun h =>
          let r := unitRead s q.die x 256 65
          .next (acceptRecord (unitStore r.state q.die h (dwordBytes 8 (q.head + 1)) (exposure q).2) n q r.bytes))
        (.next (haltQueue s n 7 q.headAddr.toNat)))
    (.next (haltQueue s n 7 slot))

/-- The queue from which a die's scheduler is reading (R117). -/
def dispatchingOn (s : State) (die : Nat) : Option (Nat × HostQueue) :=
  s.queues.find? (fun e => decide (e.2.die = die) && decide (e.2.state = .dispatching))

/-- A die's scheduler reads the record it has chosen, or, free, chooses a queue (R113, R117). -/
def execRecordRead (die : Nat) (s : State) : Host.Outcome State Fault Refusal :=
  match dispatchingOn s die with
  | some (n, q) => readRecord s n q
  | none =>
    match queueOrder s die with
    | [] => .next s
    | (n, _) :: _ => .next (modHostQueue s n (fun q => { q with state := .dispatching }))

/-! ## Dependences (R126, R127) -/

/-- Two lists of ranges share a byte. -/
def meet (a b : List Range) : Bool := a.any (fun x => b.any (fun y => decide (x.lo < y.hi) && decide (y.lo < x.hi)))

/-- A kernel depends on an earlier one (R126). -/
def dependsOn (k e : Kernel) : Bool :=
  meet k.record.wr (e.record.rd ++ e.record.wr) || meet k.record.rd e.record.wr

/-- A kernel has ended. -/
def ended (k : Kernel) : Bool := decide (k.state = .done) || decide (k.state = .faulted)

/-- The kernels that a kernel depends on when it is declared. -/
def dependences (s : State) (k : Kernel) : List Nat :=
  (s.kernels.filter (fun e => decide (e.2.ctx = k.ctx) && decide (e.2.seq < k.seq) && !ended e.2 &&
    !k.ancestors.contains e.1 && dependsOn k e.2)).map (fun e => e.1)

/-- The package with one kernel changed. -/
def modKernel (s : State) (n : Nat) (f : Kernel → Kernel) : State := { s with kernels := mmod s.kernels n f }

/-- A kernel's record leaves its queue's window (R115). -/
def leaveWindow (s : State) (n : Nat) (k : Kernel) : State :=
  match k.queue with
  | none => s
  | some (q, _) => settleQueue (modHostQueue s q (fun x => { x with window := x.window.filter (fun i => decide (i ≠ n)) })) q

/-- A kernel enters ready (R128). -/
def makeReady (s : State) (n : Nat) : State :=
  match mget? s.kernels n with
  | none => s
  | some k =>
    leaveWindow (modKernel s n (fun k => { k with state := .ready, deps := [], readyAt := s.now, agedAt := s.now })) n k

/-- A dependence of a kernel released, with the completion signature of the kernel it was on (R127, R413). -/
def dropDep (n : Nat) (sigs : List Sig) (k : Kernel) : Kernel :=
  if k.deps.contains n then { k with deps := k.deps.filter (fun d => decide (d ≠ n)), sigs := joinSigs k.sigs sigs } else k

/-- Kernels end, done or faulted; their dependences are released, and a fault spreads by fstop (R127). `fuel` bounds the
kernels that end. -/
def endKernels : Nat → List Nat → KernelState → List Sig → State → State
  | 0, _, _, _, s => s
  | _, [], _, _, s => s
  | fuel + 1, n :: l, how, sigs, s =>
    match mget? s.kernels n with
    | none => endKernels fuel l how sigs s
    | some k =>
      if ended k then endKernels fuel l how sigs s
      else
        let s := modKernel s n (fun k => { k with state := how, deps := [] })
        let s := match k.queue with
          | none => s
          | some (q, _) => modHostQueue s q (fun x => { x with reading := x.reading.filter (fun i => decide (i ≠ n)) })
        let s := leaveWindow s n k
        let waits := (s.kernels.filter (fun e => !ended e.2 && e.2.deps.contains n)).map (fun e => e.1)
        let stops := if how = .faulted then (s.kernels.filter (fun e => waits.contains e.1 && e.2.record.fstop)).map (fun e => e.1) else []
        let s := { s with kernels := mapEntries s.kernels (fun _ k => dropDep n sigs k) }
        let free := waits.filter (fun i => !stops.contains i &&
          (mget? s.kernels i).any (fun k => k.deps.isEmpty && decide (k.state = .waiting)))
        endKernels fuel (stops.filter (fun i => !l.contains i) ++ l) how sigs (free.foldl makeReady s)

/-- One kernel ends. No kernel stands twice in the list, and each ends once. -/
def endKernel (s : State) (n : Nat) (how : KernelState) (sigs : List Sig) : State :=
  endKernels (2 * s.kernels.length + 2) [n] how sigs s

/-- The core and slot of a resident group. -/
def findGroup (s : State) (gid : GroupId) : Option (Nat × Nat) :=
  s.cores.findSome? (fun c => (c.2.groups.find? (fun g => decide (gidOf g.2 = gid))).map (fun g => (c.1, g.1)))

/-- Every child of a `klaunch` has been declared: its scoreboard falls (R134 line 012). -/
def settleLaunch (s : State) (k : Kernel) : State :=
  match k.parent with
  | none => s
  | some p =>
    if s.kernels.any (fun e => decide (e.2.parent = k.parent) && decide (e.2.launch = k.launch) && decide (e.2.state = .declared)) then s
    else
      match findGroup s p with
      | some (core, slot) => completeTag s core slot k.launch
      | none => s

/-- A kernel is declared and matched (R126, R128). -/
def execKernelDeclare (n : Nat) (s : State) : Host.Outcome State Fault Refusal :=
  match mget? s.kernels n with
  | none => .next s
  | some k =>
    if k.state = .declared then
      let deps := dependences s k
      let s := if deps.isEmpty then makeReady s n else modKernel s n (fun k => { k with state := .waiting, deps := deps })
      .next (settleLaunch s k)
    else .next s

/-! ## Retiring (R130) -/

/-- A command that a group of a kernel issued is at work in an engine, at a skerry or on its way to one, or a remote load is on
its way back (R130). A notice that no engine has taken is not one: R130 names no notices (log 123). -/
def commandsOut (s : State) (k : Kernel) : Bool :=
  let mine (g : GroupId) : Bool := decide (g.ctx = k.ctx) && decide (g.seq = k.seq)
  s.cores.any (fun c => c.2.engine.any (fun e => mine e.gid) || c.2.orphans.any (fun r => mine r.1)) ||
    s.skerries.any (fun c => c.2.requests.any (fun r => mine r.gid) || (runsOf c.2).any (fun r => mine r.cmd.gid) ||
      c.2.fifo.any (fun o => match o with
        | .run x => mine x.gid
        | .load g _ _ _ _ _ => mine g
        | _ => false))

/-- A write to a peer of a kernel's groups, of a command of theirs, or of its flag has not been acknowledged (R130, R387). -/
def peersOwe (s : State) (k : Kernel) : Bool :=
  s.outgoing.any (fun o => o.owner.any (fun g => decide (g.ctx = k.ctx) && decide (g.seq = k.seq)) && !asksOnly o && !o.acked)

/-- The name under which what a kernel's scheduler writes for it is the kernel's. -/
def kernelGid (k : Kernel) : GroupId := ⟨k.ctx, k.seq, 0, 0⟩

/-- A kernel's flag written: the kernel is done, but one whose flag has gone to a peer, which then has it to perform (R21, R130,
R390). -/
def writeFlag (s : State) (n : Nat) (k : Kernel) (x : Xlat) (sigs : List Sig) : State :=
  let s := actFor (kernelGid k) (fun s => unitStore s k.die x (dwordBytes 8 k.record.value) (joinSigs k.sigs sigs)) s
  if isAperture x.pa then modKernel s n (fun k => { k with flagged := true }) else endKernel s n .done sigs

/-- The lines that skerry commands have written of late (R412, R413). -/
def skerrySigs (s : State) : List Sig := s.skerries.foldl (fun a k => joinSigs a (liveSigs s.now k.2.sigs)) []

/-- Every write is performed at package scope; the lines written back of late, and those that skerry commands have written,
make the completion's signature (R130, R413). -/
def flushAll (s : State) : List Sig × State :=
  s.cores.foldl (fun a c =>
    let r := release a.2 c.1 .package []
    (joinSigs a.1 r.1, r.2)) (skerrySigs s, s)

/-- A retiring kernel's writes are performed; its flag is written, by a release at pod scope, and it is done (R130, R398). -/
def execKernelComplete (n : Nat) (s : State) : Host.Outcome State Fault Refusal :=
  match mget? s.kernels n with
  | none => .next s
  | some k =>
    if k.state ≠ .retiring ∨ commandsOut s k ∨ peersOwe s k ∨ s.cores.any (fun c => releaseWaits s c.1 .package) then .next s
    else
      let (sigs, s) := flushAll s
      if k.record.flag = 0 ∨ k.flagged then .next (endKernel s n .done sigs)
      else if unitOwes s k.die then .next s
      else
        unlessHeld s (unitCheck s k.die k.ctx k.record.flag.toNat 8 .write)
          (fun x => .next (writeFlag s n k x sigs))
          (.next (endKernel (post s k.die 0x09 9 0
            [k.ctx, (match k.queue with
              | some (q, _) => q
              | none => 0xFFFF), k.seq, k.record.flag.toNat]) n .faulted []))

/-! ## Device-side launch (R134 to R136) -/

/-- Children of a die that are declared or waiting. -/
def childWindow (s : State) (die : Nat) : Nat :=
  (s.kernels.filter (fun e => e.2.parent.isSome && decide (e.2.die = die) &&
    (decide (e.2.state = .declared) || decide (e.2.state = .waiting)))).length

/-- The record at an address, or the subcode of R135, and the package after the reads. -/
def fetchRecord (s : State) (core ctx va tag : Nat) : Res ((List Byte ⊕ Nat) × State) :=
  match checkAddr s core ctx va 256 .read with
  | .ok x =>
    let r := readParts s core 2 tag ((List.range 8).map (fun i => ({ x with pa := x.pa + 32 * i }, 32)))
    match recordReason (ctxOf s ctx).helper r.bytes with
    | none => .ok (.inl r.bytes, r.state)
    | some n => .ok (.inr n, r.state)
  | .held => .error (.stall .scoreboard)
  | _ => .ok (.inr 1, s)

/-- The records of the lanes, in order. -/
def fetchRecords (s : State) (core ctx : Nat) : List (Nat × Nat) → Res (List (Nat × (List Byte ⊕ Nat)) × State)
  | [] => .ok ([], s)
  | (l, va) :: rest =>
    match fetchRecord s core ctx va (66 + 8 * l) with
    | .error f => .error f
    | .ok (r, s) =>
      match fetchRecords s core ctx rest with
      | .error f => .error f
      | .ok (rs, s) => .ok ((l, r) :: rs, s)

/-- The lanes whose records are rejected, with their reasons. -/
def rejected (l : List (Nat × (List Byte ⊕ Nat))) : List (Nat × Nat) :=
  l.filterMap (fun e => match e.2 with
    | .inr n => some (e.1, n)
    | .inl _ => none)

/-- The children of a `klaunch`, one per record (R134 lines 009 to 012). -/
def declareChildren (s : State) (core tag : Nat) (g : Group) (sigs : List Sig) (rs : List (Nat × (List Byte ⊕ Nat))) : State :=
  rs.foldl (fun s r => match r.2 with
    | .inr _ => s
    | .inl bs =>
      let k := newKernel s g.ctx (ctxOf s g.ctx).seq.toNat (dieOf core) (recordOf bs) sigs
      addKernel s { k with
        parent := some (gidOf g), launch := tag,
        ancestors := g.kernel :: ((mget? s.kernels g.kernel).map (fun k => k.ancestors)).getD [] }) s

/-- `klaunch` (R134). -/
def execKlaunch (f : LaneForm) (s : State) : Host.Outcome State Fault Refusal :=
  runLane (.klaunch f) s (fun e s =>
    let lanes := lanesOf e.lanes
    if 256 < childWindow s (dieOf e.core) + lanes.length then .error (.stall .allocation)
    else if releaseWaits s e.core .package then .error (.stall .scoreboard)
    else
      let r := releaseLane s e.core e.slot .package e.g
      match fetchRecords r.2 e.core e.g.ctx (lanes.map (fun l => (l, src64 s e (fieldAt e.x 1) l))) with
      | .error x => .error x
      | .ok (rs, s') =>
        match rejected rs with
        | (l, n) :: bad => trapSub 0x17 n (maskOf (fun j => decide (j = l) || bad.any (fun b => decide (b.1 = j))))
        | [] =>
          let base := (ctxOf s' e.g.ctx).seq.toNat
          let num (l : Nat) : Nat := base + (lanes.filter (fun j => decide (j < l))).length
          .ok (Done.later (declareChildren s' e.core s.fresh e.g r.1 rs)
            (pendingResult s e .launch (write32 f.dst.toNat e.lanes num) 0)))

/-- The children of a group. -/
def childrenOf (s : State) (gid : GroupId) : List Kernel :=
  (s.kernels.filter (fun e => decide (e.2.parent = some gid))).map (fun e => e.2)

/-- `kwait` (R136). -/
def execKwait (f : LaneForm) (s : State) : Host.Outcome State Fault Refusal :=
  runLane (.kwait f) s (fun e s =>
    let l := childrenOf s (gidOf e.g)
    if l.all ended then
      let v : Mask := if l.all (fun k => decide (k.state = .done)) then BitVec.allOnes 64 else 0
      .ok { Done.pred s f.dst.toNat (lanesBelow (widthG e.g)) v 0 with lat := 1 }
    else
      .ok { Done.plain (modLane s e.core e.slot (fun l => { l with state := .sleeping, sleep := some .children })) with flow := .set })

/-- A `kwait` whose children have all ended wakes; it issues again and completes (R136). A held group stays asleep
(R102). -/
def execKwaitWake (core slot : Nat) (s : State) : Host.Outcome State Fault Refusal :=
  match groupOf s core slot with
  | none => .next s
  | some g =>
    if g.ln.sleep = some .children ∧ g.ln.state = .sleeping ∧ (childrenOf s (gidOf g)).all ended ∧
        (ctxOf s g.ctx).state ≠ .faulted then
      .next (modLane s core slot (fun l => { l with state := wokenState l, sleep := none }))
    else .next s

end Sys2Proof.Machine
end

