-- ==== Sys2Proof/Machine/Barriers.lean ====
section
/-!
DEFINITION. Barriers (11_barrier R282 to R292, 17_model R404).
-/
namespace Sys2Proof.Machine

open Sys2Proof

/-! ## Naming a barrier (R282, R286) -/

/-- The scope code of a barrier field. -/
def barScope (f : LaneForm) : Nat := f.src1.toNat % 8

/-- The scope instance that holds a core; a pod's is that of the context's partition, by the identifier that POD_SET gave it (R282,
R476). -/
def barInstance (s : State) (core ctx scope : Nat) : Nat :=
  if scope = 2 then core / 4 else if scope = 3 then dieOf core else if scope = 5 then (podOf s ctx).podId.toNat else 0

/-- The wide barrier that an instruction names. -/
def wideId (s : State) (core : Nat) (g : Group) (f : LaneForm) : BarrierId :=
  ⟨scopeOfCode (barScope f), barInstance s core g.ctx (barScope f), g.ctx, f.src1.toNat / 8⟩

/-- A wide barrier that has an entry. -/
def wideBarrier (s : State) (b : BarrierId) : Option Barrier := s.barriers.find? (fun x => decide (x.id = b))

/-- The barrier that an instruction names, if it exists. -/
def namedBarrier (s : State) (core : Nat) (g : Group) (f : LaneForm) : Option Barrier :=
  if barScope f = 1 then (cohortOf (coreOf s core) g).map (fun c => c.barrier) else wideBarrier s (wideId s core g f)

/-- The package with the named barrier changed. -/
def modBarrier (s : State) (core : Nat) (g : Group) (f : LaneForm) (h : Barrier → Barrier) : State :=
  if barScope f = 1 then modCore s core (fun k => modCohort k g (fun c => { c with barrier := h c.barrier }))
  else { s with barriers := s.barriers.map (fun b => if b.id = wideId s core g f then h b else b) }

/-- The group's record in a barrier. -/
def memberOf (b : Barrier) (g : Group) : Option Member := b.members.find? (fun m => decide (m.gid = gidOf g))

/-- The checks of R286 and R290: no handler runs, and the scope is permitted. In a handler a scope that is not permitted raises
ILLEGAL_OP as well: R290 says so of any barrier instruction there (log 114). -/
def checkBarrier (i : Instr) (least : Nat) (e : Iss) (f : LaneForm) : Res Unit :=
  if e.g.ln.handler.isSome then trapSub 0x01 6 (instrBits i)
  else if barScope f < least then trapOf 0x16 (BitVec.ofNat 64 (barScope f))
  else .ok ()

/-- The named barrier and the group's record in it, or BARRIER_SCOPE (R288 line 001). -/
def checkMember (s : State) (e : Iss) (f : LaneForm) : Res (Barrier × Member) :=
  match namedBarrier s e.core e.g f with
  | none => trapOf 0x16 (BitVec.ofNat 64 (barScope f))
  | some b =>
    match memberOf b e.g with
    | none => trapOf 0x16 (BitVec.ofNat 64 (barScope f))
    | some m => .ok (b, m)

/-! ## Joining (R283, R287) -/

/-- Entries that a network instance has in use. -/
def networkUse (s : State) (b : BarrierId) : Nat :=
  (s.barriers.filter (fun x => decide (x.id.scope = b.scope) && decide (x.id.inst = b.inst))).length

/-- A group's record as it joins a barrier. -/
def joining (g : Group) (b : Barrier) : Barrier :=
  { b with members := b.members ++ [⟨gidOf g, b.phase, b.phase, b.phase, 0, false, none⟩] }

/-- `bari` (R287). -/
def execBari (f : LaneForm) (s : State) : Host.Outcome State Fault Refusal :=
  runLane (.bari f) s (fun e s =>
    match checkBarrier (.bari f) 2 e f with
    | .error r => .error r
    | .ok _ =>
      let count := uni32 s e (fieldAt e.x 2)
      let id := wideId s e.core e.g f
      if count = 0 ∨ 65535 < count then illegalOperand 2 f.src2.toNat
      else
        match wideBarrier s id with
        | some b =>
          if (memberOf b e.g).isSome then .ok (Done.plain s)
          else if b.count ≤ joinedOf b then trapOf 0x16 (BitVec.ofNat 64 (barScope f))
          else .ok (Done.plain (modBarrier s e.core e.g f (joining e.g)))
        | none =>
          if 64 ≤ networkUse s id then .error (.stall .barrier)
          else .ok (Done.plain { s with barriers := s.barriers ++ [joining e.g ⟨id, count, 0, [], .none, [], []⟩] }))

/-! ## Arriving and waiting (R288, R289, R292) -/

/-- The package with the group's record in the named barrier changed. -/
def setMember (s : State) (e : Iss) (f : LaneForm) (h : Member → Member) : State :=
  modBarrier s e.core e.g f (fun b => modMember b (gidOf e.g) h)

/-- An arrival at the core barrier carries the fills that an `msync` of the group covers (R310, R314). -/
def publishFills (s : State) (e : Iss) (f : LaneForm) (m : Member) : State :=
  if barScope f = 1 then
    modCore s e.core (fun k => { k with fills := k.fills.map (fun x =>
      if x.owner = gidOf e.g ∧ x.synced ∧ x.phase = none then { x with phase := some m.a } else x) })
  else s

/-- The end of a wait at the core barrier orders the group's passes after the fills that its phases carried. -/
def learnFills (s : State) (e : Iss) (f : LaneForm) (m : Member) : State :=
  if barScope f = 1 then
    modCore s e.core (fun k => { k with fills := k.fills.map (fun x =>
      if (x.owner.ctx, x.owner.seq, x.owner.cohort) = holderOf e.g ∧ x.phase.any (fun p => decide (p < m.a - m.s)) then
        { x with known := e.g.index :: x.known }
      else x) })
  else s

/-- The arrival of a group: a replayed one only counts down its skip count (R292); else lines 002 to 004 of R288. -/
def arrive (s : State) (e : Iss) (f : LaneForm) (m : Member) : Res State :=
  if m.s ≠ 0 then .ok (setMember s e f (fun m => { m with s := m.s - 1 }))
  else if m.c < m.a ∨ releaseWaits s e.core (scopeOfCode (barScope f)) then .error (.stall .barrier)
  else
    let r := releaseLane (publishFills s e f m) e.core e.slot (scopeOfCode (barScope f)) e.g
    .ok (modBarrier r.2 e.core e.g f (fun b =>
      { modMember b (gidOf e.g) (fun m => { m with a := m.a + 1 }) with arriving := joinSigs (liveSigs s.now b.arriving) r.1 }))

/-- Nothing is left to wait for: the phase of the last arrival that was not skipped has completed. -/
def waitDone (m : Member) : Bool := decide (m.a - m.s ≤ m.c)

/-- The signatures of the releases that a completed phase orders before its acquires; at pod scope also those of what members on
other packages have written here, by RMA (R289, R404, R413). -/
def phaseSigs (s : State) (e : Iss) (f : LaneForm) (b : Barrier) : List Sig :=
  joinSigs (liveSigs s.now b.complete) (if barScope f = 5 then liveSigs s.now (ctxOf s e.g.ctx).rmaSigs else [])

/-- The acquire with which a wait ends (R404). -/
def acquireBarrier (s : State) (e : Iss) (f : LaneForm) (b : Barrier) (m : Member) : State :=
  acquireLane (learnFills s e f m) e.core e.slot (scopeOfCode (barScope f)) (phaseSigs s e f b)

/-- `barv` (R288). -/
def execBarv (f : LaneForm) (s : State) : Host.Outcome State Fault Refusal :=
  runLane (.barv f) s (fun e s =>
    match checkBarrier (.barv f) 1 e f with
    | .error r => .error r
    | .ok _ =>
      match checkMember s e f with
      | .error r => .error r
      | .ok (_, m) =>
        match arrive s e f m with
        | .error r => .error r
        | .ok s => .ok { Done.plain s with steps := 1 })

/-- `barw` (R288). -/
def execBarw (f : LaneForm) (s : State) : Host.Outcome State Fault Refusal :=
  runLane (.barw f) s (fun e s =>
    match checkBarrier (.barw f) 1 e f with
    | .error r => .error r
    | .ok _ =>
      match checkMember s e f with
      | .error r => .error r
      | .ok (b, m) =>
        if waitDone m then .ok (Done.plain (acquireBarrier s e f b m)) else .error (.stall .barrier))

/-- The wait half of a `bars` that has arrived: it completes, or remains to be done, with the arrival kept. -/
def barsWait (s : State) (e : Iss) (f : LaneForm) : Done :=
  match namedBarrier s e.core e.g f with
  | none => Done.plain s
  | some b =>
    match memberOf b e.g with
    | none => Done.plain s
    | some m =>
      if waitDone m then
        { Done.plain (acquireBarrier (setMember s e f (fun m => { m with half := none })) e f b m) with steps := 1 }
      else
        let s := setMember s e f (fun m => { m with half := some e.g.ln.pc.addr })
        { Done.plain (modLane s e.core e.slot (fun l => { l with state := restState l })) with flow := .set }

/-- `bars` (R288). -/
def execBars (f : LaneForm) (s : State) : Host.Outcome State Fault Refusal :=
  runLane (.bars f) s (fun e s =>
    match checkBarrier (.bars f) 1 e f with
    | .error r => .error r
    | .ok _ =>
      match checkMember s e f with
      | .error r => .error r
      | .ok (_, m) =>
        if m.half = some e.g.ln.pc.addr then (if waitDone m then .ok (barsWait s e f) else .error (.stall .barrier))
        else
          match arrive s e f m with
          | .error r => .error r
          | .ok s => .ok (barsWait s e f))

/-! ## Phases (R284, R291) -/

/-- Members that count as arrived in the current phase (R284). -/
def arrived (b : Barrier) : Nat := (b.members.filter (fun m => m.exited || decide (b.phase < m.a))).length + b.others.arrived

/-- The current phase is complete: every member has arrived or exited, and one is left. -/
def phaseOver (b : Barrier) : Bool := decide (b.count ≤ arrived b) && !allExited b

/-- The barrier after its phase has completed (R404); of its members on other packages those that have exited have arrived in
the next phase already. -/
def nextPhase (now : Nat) (b : Barrier) : Barrier :=
  if phaseOver b then
    { b with phase := b.phase + 1, complete := joinSigs (liveSigs now b.complete) b.arriving, arriving := [],
             others := { b.others with arrived := b.others.exited } }
  else b

/-- A barrier changed if it is the one named. -/
def atBarrier (id : BarrierId) (f : Barrier → Barrier) (b : Barrier) : Barrier := if b.id = id then f b else b

/-- A phase of a barrier completes (R284). -/
def execBarrierPhaseComplete (b : BarrierId) (s : State) : Host.Outcome State Fault Refusal :=
  .next { s with
    barriers := s.barriers.map (atBarrier b (nextPhase s.now)),
    cores := mapEntries s.cores (fun _ k =>
      { k with cohorts := k.cohorts.map (fun c => { c with barrier := atBarrier b (nextPhase s.now) c.barrier }) }) }

/-- The completed phases as a member knows them. -/
def hearPhase (b : Barrier) (m : Member) : Member := { m with c := min m.a b.phase }

/-- Completion of its barriers' phases reaches a group (R291). -/
def execBarrierRelease (core slot : Nat) (s : State) : Host.Outcome State Fault Refusal :=
  match groupOf s core slot with
  | none => .next s
  | some g =>
    let hear (b : Barrier) : Barrier := modMember b (gidOf g) (hearPhase b)
    let s := { s with barriers := s.barriers.map hear }
    .next (modCore s core (fun k => modCohort k g (fun c => { c with barrier := hear c.barrier })))

end Sys2Proof.Machine
end

