-- ==== Sys2Proof/Machine/Engine.lean ====
section
/-!
DEFINITION. The copy engine, kick notices and pulls, remote loads and the narrows (10_memory_ops R264 to R278,
17_model R409 to R411).
-/
namespace Sys2Proof.Machine

open Sys2Proof

/-! ## Copy commands (R265, R266) -/

/-- The eight words of a 64-byte structure in scratchpad. -/
def scratchWords (k : Core) (off : Nat) : List Nat := wordsOf (Memory.readBytes k.scratch off 64)

/-- A structure in scratchpad lies at a multiple of its alignment, else ALIGN, and in bounds (R253). -/
def checkStruct (k : Core) (slot : Nat) (g : Group) (off n : Nat) : Res Unit :=
  if off % n ≠ 0 then trapOf 0x0C (BitVec.ofNat 64 off) else checkScratch k slot g off n

/-- The first word of a copy descriptor that breaks a limit (R59, R265). -/
def copyBad (completes : Bool) (w : List Nat) : Option Nat :=
  let x (i : Nat) : Nat := w.getD i 0
  let place (v : Nat) : Bool := decide (v / 2 ^ 62 ≤ 1) && decide (v / 2 ^ 48 % 2 ^ 14 = 0) && decide (v % 4 = 0)
  let scope := x 2 / 2 ^ 32 % 8
  if !place (x 0) then some 0x00
  else if !place (x 1) then some 0x08
  else if x 2 % 2 ^ 32 = 0 ∨ x 2 % 4 ≠ 0 ∨ x 2 / 2 ^ 35 ≠ 0 ∨ (if completes then scope < 1 ∨ 5 < scope else scope ≠ 0) then some 0x10
  else if x 3 / 2 ^ 48 ≠ 0 ∨ x 3 % 8 ≠ 0 ∨ (!completes ∧ x 3 ≠ 0) then some 0x18
  else if !completes ∧ x 4 ≠ 0 then some 0x20
  else if x 5 ≠ 0 then some 0x28
  else if x 6 ≠ 0 then some 0x30
  else if x 7 ≠ 0 then some 0x38
  else none

/-- The command that a copy descriptor describes; `cpy` completes at package scope without a word. -/
def copyOf (completes : Bool) (w : List Nat) : EngineOp :=
  let x (i : Nat) : Nat := w.getD i 0
  .copy (x 0 % 2 ^ 48) (x 1 % 2 ^ 48) (x 2 % 2 ^ 32) (decide (x 0 / 2 ^ 62 = 1)) (decide (x 1 / 2 ^ 62 = 1))
    (if completes then scopeOfCode (x 2 / 2 ^ 32 % 8) else .package) (if completes then some (x 3) else none)
    (BitVec.ofNat 64 (x 4))

/-- The scratchpad ranges of a command lie in bounds (R253). -/
def checkCopyRanges (k : Core) (slot : Nat) (g : Group) : EngineOp → Res Unit
  | .copy dest source length dspace sspace _ _ _ =>
    andThen (if dspace then checkScratch k slot g dest length else .ok ())
      (if sspace then checkScratch k slot g source length else .ok ())
  | _ => .ok ()

/-- The commands that an engine's queue holds (R409). -/
def engineRoom : Nat := 16

/-- A command at the end of a core's engine queue; with the queue full the group stalls. -/
def enqueueEngine (s : State) (e : Iss) (op : EngineOp) : Res State :=
  if engineRoom ≤ (coreOf s e.core).engine.length then .error (.stall .allocation)
  else
    .ok (modCore s e.core (fun k => { k with engine := k.engine ++ [⟨e.slot, gidOf e.g, e.g.ln.pc, s.fresh, op, none, .start⟩] }))

/-- `cpy` and `cpyw`. -/
def copyInstr (i : Instr) (completes : Bool) (s : State) : Host.Outcome State Fault Refusal :=
  runLane i s (fun e s =>
    let off := uni32 s e (fieldAt e.x 1)
    let k := coreOf s e.core
    match checkStruct k e.slot e.g off 64 with
    | .error r => .error r
    | .ok _ =>
      let w := scratchWords k off
      match copyBad completes w with
      | some at8 => illegalOperand 15 at8
      | none =>
        match checkCopyRanges k e.slot e.g (copyOf completes w) with
        | .error r => .error r
        | .ok _ =>
          match enqueueEngine s e (copyOf completes w) with
          | .error r => .error r
          | .ok s => .ok (performed s e .engine))

/-- `cpy` (R265, R266). -/
def execCpy (f : LaneForm) (s : State) : Host.Outcome State Fault Refusal := copyInstr (.cpy f) false s

/-- `cpyw` (R265, R266). -/
def execCpyw (f : LaneForm) (s : State) : Host.Outcome State Fault Refusal := copyInstr (.cpyw f) true s

/-! ## The engine at work (R266, R267, R409) -/

/-- One of several choices; which one is open (log 4). -/
def pickFree {α : Type} (s : State) (tag : Nat) : List α → Option α
  | [] => none
  | [a] => some a
  | a :: l => some ((a :: l).getD ((freeWord s tag 0).toNat % (l.length + 1)) a)

/-- A command that a group has issued, and not a pull. -/
def ofGroup (c : EngineCmd) : Bool :=
  match c.op with
  | .pull _ _ _ _ _ => false
  | _ => true

/-- A `bfill`'s engine command begins when its entry of the array queue has taken effect (R309). -/
def startsNow (k : Core) (c : EngineCmd) : Bool :=
  match c.op with
  | .fill _ _ _ _ => !k.arrayQ.any (fun x => match x.op with
      | .fill y => decide (y.tag = c.tag)
      | _ => false)
  | _ => true

/-- The commands of groups that may be under way: not paused, begun, with no earlier command of the same group, since those
of one group complete in issue order (R266, R409). -/
def commandsAtWork (k : Core) : List EngineCmd :=
  (k.engine.zipIdx.filter (fun c => ofGroup c.1 && c.1.paused.isNone && startsNow k c.1 &&
    !(k.engine.take c.2).any (fun x => ofGroup x && decide (x.gid = c.1.gid)))).map (fun c => c.1)

/-- The command is a `bfill`'s. -/
def isFill (c : EngineCmd) : Bool :=
  match c.op with
  | .fill _ _ _ _ => true
  | _ => false

/-- The copies and image fetches that may be under way. -/
def copiesAtWork (k : Core) : List EngineCmd := (commandsAtWork k).filter (fun c => !isFill c)

/-- The fills that may be under way. -/
def fillsAtWork (k : Core) : List EngineCmd := (commandsAtWork k).filter isFill

/-- The core without one command of its engine. -/
def dropCommand (k : Core) (c : EngineCmd) : Core := { k with engine := k.engine.filter (fun x => !decide (x.tag = c.tag)) }

/-- The package with one command of a core's engine changed. -/
def modCommand (s : State) (core : Nat) (c : EngineCmd) (f : EngineCmd → EngineCmd) : State :=
  modCore s core (fun k => { k with engine := k.engine.map (fun x => if x.tag = c.tag then f x else x) })

/-- A place of a command: an address of its context, or a scratchpad offset. -/
inductive Place where
  | scratch (off : Nat)
  | memory (x : Xlat)
  deriving DecidableEq, Repr

/-- The parts of a byte range of a command, translated; `near` says that copies nearer than the home may serve. -/
def placesOf (s : State) (core ctx : Nat) (space : Bool) (kind : AccessKind) (near : Bool) (va n : Nat) : Res (List (Place × Nat)) :=
  if space then .ok [(.scratch va, n)]
  else
    match checkRange s core ctx kind near (chunksOf va n) with
    | .error e => .error e
    | .ok l => .ok (l.map (fun x => (.memory x.1, x.2)))

/-- The bytes of translated parts, read through the core's L1 or scratchpad (R409), and the lines they lie in. -/
def readPlaces (s : State) (core tag : Nat) : List (Place × Nat) → List Byte × List Nat × State
  | [] => ([], [], s)
  | (.scratch off, n) :: l =>
    let q := readPlaces s core tag l
    (Memory.readBytes (coreOf s core).scratch off n ++ q.1, q.2)
  | (.memory x, n) :: l =>
    let r := readX s core (accessLevel 0 x.leaf) x n (tag + l.length)
    let q := readPlaces r.state core tag l
    (r.bytes ++ q.1, x.pa / 128 :: q.2.1, q.2.2)

/-- Bytes written over translated parts at a level, and clean copies of their lines dropped in L1 (R409). -/
def writePlaces (s : State) (core level : Nat) : List (Place × Nat) → List Byte → State
  | [], _ => s
  | (.scratch off, n) :: l, bs =>
    writePlaces (modCore s core (fun k => { k with scratch := Memory.writeBytes k.scratch off (bs.take n) })) core level l (bs.drop n)
  | (.memory x, n) :: l, bs =>
    let s := writeX s core (max level (accessLevel 0 x.leaf)) x (bs.take n) []
    let s := modCore s core (fun k =>
      let m := dropLine k.l1 (x.pa / 128)
      { k with l1 := m, l1sigs := keptSigs m k.l1sigs })
    writePlaces s core level l (bs.drop n)

/-- The lines of memory that translated parts lie in; no signature names an aperture's (R408). -/
def placeLines (l : List (Place × Nat)) : List Nat :=
  l.filterMap (fun p => match p.1 with
    | .memory x => if isMemory x.pa then some (x.pa / 128) else none
    | .scratch _ => none)

/-- A byte of a part lies in one of other parts. -/
def inPlaces (p : Place) (i : Nat) (l : List (Place × Nat)) : Bool :=
  l.any (fun q => match p, q.1 with
    | .scratch a, .scratch b => decide (b ≤ a + i) && decide (a + i < b + q.2)
    | .memory x, .memory y => decide (y.pa ≤ x.pa + i) && decide (x.pa + i < y.pa + q.2)
    | _, _ => false)

/-- Which destination bytes lie in the source as well (R266). -/
def overlaps (dest src : List (Place × Nat)) : List Bool :=
  (dest.map (fun p => (List.range p.2).map (fun i => inPlaces p.1 i src))).flatten

/-- A part of a copy's payload from byte `at_` on, overlapping bytes free (R266, R7). -/
def payload (s : State) (at_ : Nat) (bs : List Byte) (shared : List Bool) : List Byte :=
  bs.zipIdx.map (fun b => if shared.getD b.2 false then BitVec.ofNat 8 (freeWord s 700 (at_ + b.2)).toNat else b.1)

/-- The context of a command's address space. -/
def cmdCtx (c : EngineCmd) : Nat := c.gid.ctx

/-- The words of a microprogram image. -/
def imageWords (bs : List Byte) (n : Nat) : List DWord := (List.range n).map (fun i => bytesDword ((bs.drop (8 * i)).take 8))

/-- A load that waits for its image, with the image. -/
def giveImage (tag : Nat) (image : List DWord) : SkOp → SkOp
  | .load g c sl t n none => if t = tag then .load g c sl t n (some image) else .load g c sl t n none
  | op => op

/-- A channel's entries changed, those on their way to it among them. -/
def mapSkOps (s : State) (chan : Nat) (f : SkOp → SkOp) : State :=
  { s with skerries := mmod s.skerries chan (fun k =>
      { k with fifo := k.fifo.map f, requests := k.requests.map (fun q => { q with op := f q.op }) }) }

/-- A load has its tag. -/
def isLoadOf (tag : Nat) : SkOp → Bool
  | .load _ _ _ t _ _ => decide (t = tag)
  | _ => false

/-- An image fetch that stops at an ACCESS leaves its channel unchanged: the load is no longer sent (R374). -/
def dropLoad (s : State) (c : EngineCmd) : State :=
  match c.op with
  | .load _ chan _ =>
    { s with skerries := mmod s.skerries chan (fun k =>
        { k with fifo := k.fifo.filter (fun o => !isLoadOf c.tag o), requests := k.requests.filter (fun q => !isLoadOf c.tag q.op) }) }
  | _ => s

/-- A part of a command lies at a peer. -/
def atPeer (l : List (Place × Nat)) : Bool :=
  l.any (fun p => match p.1 with
    | .memory x => isAperture x.pa
    | .scratch _ => false)

/-- What the reads of a command come to. -/
inductive Fetch where
  /-- A peer has not answered. -/
  | wait
  /-- A peer has been asked, in this step. -/
  | ask (s : State)
  /-- The data is there. -/
  | have (s : State)

/-- The reads of a command, `read` the package after them: made at once where no part lies at a peer, else asked for first, and taken
once the peer has answered (R380, R387). -/
def fetchOf (s : State) (c : EngineCmd) (peer : Bool) (read : State) : Fetch :=
  match c.stage with
  | .asked tag => if answered s tag then .have { read with outgoing := s.outgoing } else .wait
  | _ => if peer then .ask { s with outgoing := read.outgoing } else .have read

/-- The payload of a copy performed, and how far the copy has then come; a source at a peer is asked for first, and written once the
peer has answered (R266, R387). -/
def copyPayload (s : State) (core : Nat) (c : EngineCmd) : Res (State × CopyStage) :=
  match c.op with
  | .copy dest source length dspace sspace scope _ _ =>
    match placesOf s core (cmdCtx c) sspace .read true source length,
        placesOf s core (cmdCtx c) dspace .write (decide (scopeLevel scope < 2)) dest length with
    | .ok src, .ok dst =>
      let r := readPlaces s core 10000 src
      match fetchOf s c (atPeer src) r.2.2 with
      | .wait => .error (.stall .scoreboard)
      | .ask t => .ok (t, .asked s.fresh)
      | .have t =>
        .ok (writePlaces t core (scopeLevel scope) dst (payload s 0 r.1 (overlaps dst src)), .written s.fresh (placeLines dst))
    | .error e, _ => .error e
    | _, .error e => .error e
  | _ => .ok (s, c.stage)

/-- The end of a copy whose payload is performed, by peers too: its completion word, as a release whose signature holds the
payload's lines (R266, R387). -/
def copyEnd (s : State) (core : Nat) (c : EngineCmd) (tag : Nat) (lines : List Nat) : Res State :=
  if !answered s tag then .error (.stall .scoreboard)
  else
    match c.op with
    | .copy _ _ _ _ _ scope (some f) value => engineStore8 s core (cmdCtx c) f scope value (sigOf s.now lines)
    | _ => .ok s

/-- The package after a command of a group is complete: its scoreboard falls, but that of an `nmload`, which falls when its
status returns (R373). -/
def finishCommand (s : State) (core : Nat) (c : EngineCmd) : State :=
  let s := modCore s core (fun k => dropCommand k c)
  match c.op with
  | .load _ _ _ => s
  | _ => completeTag s core c.slot c.tag

/-- A copy with its payload written: it ends, or waits for its completion word. -/
def endCopy (s : State) (core : Nat) (c : EngineCmd) (tag : Nat) (lines : List Nat) : State :=
  match copyEnd s core c tag lines with
  | .ok t => finishCommand t core c
  | .error _ => modCommand s core c (fun x => { x with stage := .written tag lines })

/-- A copy goes on as far as it can, once every part of it translates and none of its ways is closed (R266). -/
def copyStep (s : State) (core : Nat) (c : EngineCmd) : State :=
  match c.stage with
  | .written tag lines => endCopy s core c tag lines
  | _ =>
    match copyPayload s core c with
    | .error _ => s
    | .ok (t, .written tag lines) => endCopy t core c tag lines
    | .ok (t, st) => modCommand t core c (fun x => { x with stage := st })

/-- The bytes that a command reads from memory, with the package after what they come to: `take` them where they are there, else
the command goes on waiting, at a peer that it has asked (R387). -/
def fetchStep (s : State) (core : Nat) (c : EngineCmd) (va n : Nat) (take : List Byte → State → State) : State :=
  match placesOf s core (cmdCtx c) false .read true va n with
  | .error _ => s
  | .ok l =>
    let r := readPlaces s core 10000 l
    match fetchOf s c (atPeer l) r.2.2 with
    | .wait => s
    | .ask t => modCommand t core c (fun x => { x with stage := .asked s.fresh })
    | .have t => finishCommand (take r.1 t) core c

/-- A command of the engine goes on: a copy, or the fetch of a microprogram image (R266, R374). -/
def commandStep (s : State) (core : Nat) (c : EngineCmd) : State :=
  match c.op with
  | .load va chan count =>
    fetchStep s core c va (8 * count) (fun bs t => mapSkOps t chan (giveImage c.tag (imageWords bs count)))
  | _ => copyStep s core c

/-- A copy or an image fetch goes on (R266, R374). -/
def execCopyComplete (core : Nat) (s : State) : Host.Outcome State Fault Refusal :=
  match pickFree s 710 (copiesAtWork (coreOf s core)) with
  | none => .next s
  | some c => .next (actFor c.gid (fun s => commandStep s core c) s)

/-- The payload of a copy has been written. -/
def payloadDone (c : EngineCmd) : Bool :=
  match c.stage with
  | .written _ _ => true
  | _ => false

/-- The accesses that a command has still to make in its context's address space: kind, address, bytes. -/
def cmdAccesses (c : EngineCmd) : List (AccessKind × Nat × Nat) :=
  match c.op with
  | .copy dest source length dspace sspace _ flag _ =>
    (if sspace || payloadDone c then [] else (chunksOf source length).map (fun p => (.read, p))) ++
      (if dspace || payloadDone c then [] else (chunksOf dest length).map (fun p => (.write, p))) ++
        (match flag with
         | some f => [(.write, f, 8)]
         | none => [])
  | .fill va _ _ n => (chunksOf va n).map (fun p => (.read, p))
  | .load va _ n => (chunksOf va (8 * n)).map (fun p => (.read, p))
  | .pull _ _ _ _ _ => []

/-- The first access of a command that fails in a way. -/
def firstBad (s : State) (core : Nat) (p : AddrCheck → Bool) (c : EngineCmd) : Option (AccessKind × Nat × AddrCheck) :=
  ((cmdAccesses c).map (fun a => (a.1, a.2.1, checkAddr s core (cmdCtx c) a.2.1 1 a.1))).find? (fun a => p a.2.2)

/-- The place of a 4-byte unit, if it translates. -/
def unitPlace (s : State) (core : Nat) (c : EngineCmd) (space : Bool) (va : Nat) : List (Place × Nat) :=
  match placesOf s core (cmdCtx c) space .read true va 4 with
  | .ok l => l
  | .error _ => []

/-- One 4-byte unit of a copy, if both its places can be accessed and the engine came to it (log 4); its bytes that lie in the whole
source as well are free (R266). -/
def copyUnit (core : Nat) (c : EngineCmd) (dest source : Nat) (dspace sspace : Bool) (level : Nat) (whole : List (Place × Nat))
    (s : State) (i : Nat) : State :=
  if Config.freeBit s.fresh 730 i then
    match placesOf s core (cmdCtx c) sspace .read true (source + 4 * i) 4,
        placesOf s core (cmdCtx c) dspace .write (decide (level < 2)) (dest + 4 * i) 4 with
    | .ok src, .ok dst =>
      let r := readPlaces s core (10000 + i) src
      writePlaces r.2.2 core level dst (payload s (4 * i) r.1 (overlaps dst whole))
    | _, _ => s
  else s

/-- What a command that stops at an ACCESS has done before: any of the units that it could. -/
def copyPart (s : State) (core : Nat) (c : EngineCmd) : State :=
  match c.op with
  | .copy dest source length dspace sspace scope _ _ =>
    if payloadDone c then s
    else
      let whole := ((List.range (length / 4)).map (fun i => unitPlace s core c sspace (source + 4 * i))).flatten
      (List.range (length / 4)).foldl (copyUnit core c dest source dspace sspace (scopeLevel scope) whole) s
  | _ => s

/-- A stopped command's group raises ACCESS at its next lane issue; if it has exited, the host hears of it and the
context faults (R267). -/
def reportAccess (s : State) (core : Nat) (c : EngineCmd) (va : Nat) : State :=
  if (groupOf s core c.slot).any (fun g => decide (gidOf g = c.gid)) then
    modGroup s core c.slot (fun g => { g with deferredAccess := g.deferredAccess ++ [(BitVec.ofNat 64 va, c.pc.addr)] })
  else accessGone s core (cmdCtx c) [(BitVec.ofNat 64 va, c.pc.addr)]

/-- The bytes of a fill that has stopped are undefined from then on (R309). -/
def failFill (k : Core) (c : EngineCmd) : Core :=
  { k with fills := k.fills.map (fun x => if x.tag = c.tag then { x with done := true, failed := true } else x) }

/-- A command of the engine meets an ACCESS: it stops, its scoreboard falls, its group will trap (R267). -/
def execEngineAccessFault (core : Nat) (s : State) : Host.Outcome State Fault Refusal :=
  let bad (c : EngineCmd) : Option (AccessKind × Nat × AddrCheck) := firstBad s core (fun a => decide (a = .access)) c
  match pickFree s 711 ((commandsAtWork (coreOf s core)).filter (fun c => (bad c).isSome)) with
  | none => .next s
  | some c =>
    match bad c with
    | none => .next s
    | some (_, va, _) =>
      let s := dropLoad (actFor c.gid (fun s => copyPart s core c) s) c
      let s := modCore s core (fun k => failFill (dropCommand k c) c)
      .next (reportAccess (completeTag s core c.slot c.tag) core c va)

/-! ## Kick notices (R268 to R270) -/

/-- The first word of a notice that breaks a limit (R269). -/
def noticeBad (w : List Nat) : Option Nat :=
  let x (i : Nat) : Nat := w.getD i 0
  if 1 < x 0 / 2 ^ 48 % 4 ∨ x 0 / 2 ^ 50 ≠ 0 then some 0x00
  else if x 1 % 2 ^ 32 = 0 ∨ x 1 % 2 ^ 32 % 128 ≠ 0 ∨ x 1 / 2 ^ 32 % 2 ^ 19 % 128 ≠ 0 ∨ x 1 / 2 ^ 51 ≠ 0 then some 0x08
  else if x 2 / 2 ^ 48 ≠ 0 ∨ x 2 % 8 ≠ 0 then some 0x10
  else none

/-- A core belongs to a context's partition (R98). -/
def inPartition (s : State) (ctx core : Nat) : Bool :=
  (mget s.partitions (ctxOf s ctx).partition Partition.reset).cores.getLsbD core

/-- The notice that a group sends from a scratchpad offset to a core: lines 001 to 003 of R270, then line 005, and the ways
that the release and the notice take (R10, R379). `word` is what the ACCESS of a core outside the partition reports. -/
def noticeFor (s : State) (core slot : Nat) (g : Group) (off target : Nat) (word : DWord) : Res Notice :=
  let k := coreOf s core
  match checkStruct k slot g off 32 with
  | .error e => .error e
  | .ok _ =>
    let bs := Memory.readBytes k.scratch off 32
    match noticeBad (wordsOf bs) with
    | some at8 => illegalOperand 15 at8
    | none =>
      if !inPartition s g.ctx target then trapOf 0x0D word
      else if !(coreOf s target).receiver.any (fun r => decide (r.ctx = g.ctx)) then trapOf 0x0D (BitVec.ofNat 64 target)
      else if 4 ≤ (coreOf s target).notices.length then .error (.stall .allocation)
      else if releaseWaits s core .package ∨ !pathsOpen s (dieOf core) (dieOf target) then .error (.stall .scoreboard)
      else .ok ⟨bs, core, cohortKey g, g.ctx, false, false⟩

/-- A notice accepted by a core (R270 line 006). -/
def acceptNotice (s : State) (target : Nat) (n : Notice) : State :=
  modCore s target (fun k => { k with notices := k.notices ++ [n] })

/-- `kick` (R270). -/
def execKick (f : LaneForm) (s : State) : Host.Outcome State Fault Refusal :=
  runLane (.kick f) s (fun e s =>
    let target := uni32 s e (fieldAt e.x 2) % 1024
    match noticeFor s e.core e.slot e.g (uni32 s e (fieldAt e.x 1)) target (BitVec.ofNat 64 target) with
    | .error r => .error r
    | .ok n => .ok (performed (acceptNotice (releaseLane s e.core e.slot .package e.g).2 target n) e .notice))

/-- `skick` (R247, R270). -/
def execSkick (sa sb : SName) (s : State) : Host.Outcome State Fault Refusal :=
  runScalar ⟨0xA3, 0, sa, sb, 0, none⟩ s (fun core slot g s =>
    let target := (readS g sb).toNat % 1024
    match noticeFor s core slot g ((readS g sa).toNat % 2 ^ 19) target (readS g sb) with
    | .error r => .error r
    | .ok n =>
      let s := (release s core .package g.sigScalar).2
      .ok (acceptNotice (modGroup s core slot (fun g => { g with fenceSig := [] })) target n, none))

/-- A notice has been accepted: the scoreboard of its `kick` falls (R270 line 006). -/
def execNoticeAccepted (core slot : Nat) (s : State) : Host.Outcome State Fault Refusal :=
  .next (completeKind s core slot 0 (fun k => decide (k = .notice)))

/-- The first word of a receiver descriptor that breaks a limit (R268). -/
def receiverBad (w : List Nat) : Option Nat :=
  let x (i : Nat) : Nat := w.getD i 0
  if x 0 % 128 ≠ 0 ∨ x 0 / 2 ^ 19 ≠ 0 then some 0x00
  else if x 1 % 128 ≠ 0 ∨ x 1 / 2 ^ 20 ≠ 0 then some 0x08
  else if x 2 % 32 ≠ 0 ∨ x 2 / 2 ^ 19 ≠ 0 then some 0x10
  else if x 3 % 8 ≠ 0 ∨ x 3 / 2 ^ 48 ≠ 0 then some 0x18
  else none

/-- A scratchpad range lies in the allocation of a cohort that is resident on a core. -/
def inCohort (k : Core) (ctx : Nat) (cohort : Nat × Nat) (off n : Nat) : Bool :=
  k.cohorts.any (fun c => decide (c.ctx = ctx) && decide ((c.seq, c.number) = cohort) && decide (c.base ≤ off) &&
    decide (off + n ≤ c.base + c.size))

/-- A range of a receiver lies in its cohort's allocation, and not in a group's record slot (R268). -/
def checkAllocation (k : Core) (g : Group) (off n : Nat) : Res Unit :=
  if inCohort k g.ctx (cohortKey g) off n then .ok () else trapOf 0x0D (BitVec.ofNat 64 off)

/-- The engine is executing a pull. -/
def pulling (k : Core) : Bool := k.engine.any (fun c => !ofGroup c)

/-- `kcfg` on a valid descriptor (R268); a notice pends until its pull has finished (log 115). -/
def configureReceiver (s : State) (core : Nat) (g : Group) (w : List Nat) : Res State :=
  let k := coreOf s core
  let x (i : Nat) : Nat := w.getD i 0
  if k.receiver.isSome ∧ !ownsReceiver k g then trapOf 0x0D (BitVec.ofNat 64 core)
  else if x 1 = 0 then
    if k.notices.isEmpty ∧ !pulling k then .ok (modCore s core (fun k => { k with receiver := none })) else .error (.stall .allocation)
  else
    match andThen (checkAllocation k g (x 0) (x 1)) (checkAllocation k g (x 2) 256) with
    | .error e => .error e
    | .ok _ => .ok (modCore s core (fun k => { k with receiver := some ⟨cohortKey g, g.ctx, x 0, x 1, x 2, x 3⟩ }))

/-- `kcfg` (R268). -/
def execKcfg (f : LaneForm) (s : State) : Host.Outcome State Fault Refusal :=
  runLane (.kcfg f) s (fun e s =>
    let off := uni32 s e (fieldAt e.x 1)
    let k := coreOf s e.core
    match checkStruct k e.slot e.g off 32 with
    | .error r => .error r
    | .ok _ =>
      let w := wordsOf (Memory.readBytes k.scratch off 32)
      match receiverBad w with
      | some at8 => illegalOperand 15 at8
      | none =>
        match configureReceiver s e.core e.g w with
        | .error r => .error r
        | .ok s => .ok (Done.plain s))

/-! ## Pulls (R271) -/

/-- A word of a notice. -/
def noticeWord (bs : List Byte) (i : Nat) : Nat := (wordsOf bs).getD i 0

/-- What the first lines of R271 come to. -/
inductive PullBegin where
  /-- Line 003 must wait: a skerry command holds the source (R371), or a way is closed (R379). -/
  | wait
  /-- Line 002 drops the notice. -/
  | drop
  /-- The source has been read: its bytes, the lines they lie in, whether it lies at a peer in part, the package after the reads. -/
  | read (bytes : List Byte) (lines : List Nat) (peer : Bool) (s : State)

/-- The source of a pull (R271 lines 001 to 003): remote reads at the home, or of the scratchpad of a sender whose cohort has
stood on its core ever since. -/
def pullSource (s : State) (core : Nat) (n : Notice) : PullBegin :=
  let src := noticeWord n.bytes 0 % 2 ^ 48
  let len := noticeWord n.bytes 1 % 2 ^ 32
  let land := noticeWord n.bytes 1 / 2 ^ 32 % 2 ^ 19
  match (coreOf s core).receiver with
  | none => .drop
  | some r =>
    if n.dropped ∨ r.lsize < land + len then .drop
    else if noticeWord n.bytes 0 / 2 ^ 48 % 4 = 1 then
      if n.gone ∨ !inCohort (coreOf s n.sender) n.ctx n.cohort src len then .drop
      else if !pathsOpen s (dieOf core) (dieOf n.sender) then .wait
      else .read (Memory.readBytes (coreOf s n.sender).scratch src len) [] false s
    else
      match checkRange s core n.ctx .read false (chunksOf src len) with
      | .ok l =>
        let r := readParts s core 2 10000 l
        let ps := l.map (fun x => (Place.memory x.1, x.2))
        .read r.bytes (placeLines ps) (atPeer ps) r.state
      | .error (.stall _) => .wait
      | .error _ => .drop

/-- A pull counts as its sender's cohort's, of no group (R130). -/
def pullGid (n : Notice) : GroupId := ⟨n.ctx, n.cohort.1, n.cohort.2, 0⟩

/-- The engine's command for a notice. -/
def pullCommand (s : State) (n : Notice) (rcv : Option Receiver) (lines : List Nat) (stage : CopyStage) : EngineCmd :=
  ⟨noGroup, pullGid n, ⟨0, 0⟩, s.fresh, .pull n.bytes n.sender rcv lines false, none, stage⟩

/-- Line 004 of R271: the bytes of a pull's source written to its landing place. -/
def landPull (s : State) (core : Nat) (v : Receiver) (bs : List Byte) (data : List Byte) : State :=
  modCore s core (fun k =>
    { k with scratch := Memory.writeBytes k.scratch (v.lbase + noticeWord bs 1 / 2 ^ 32 % 2 ^ 19) data })

/-- A notice taken by the engine. -/
def takeNotice (s : State) (core : Nat) (rest : List Notice) (c : EngineCmd) : State :=
  modCore s core (fun k => { k with notices := rest, engine := k.engine ++ [c] })

/-- The engine takes its oldest notice (R271 lines 001 to 004); a source at a peer lands once the peer has answered (R387). -/
def execPullStart (core : Nat) (s : State) : Host.Outcome State Fault Refusal :=
  let k := coreOf s core
  match k.notices with
  | [] => .next s
  | n :: rest =>
    if pulling k ∨ engineRoom ≤ k.engine.length then .next s
    else
      .next (actFor (pullGid n) (fun s =>
        match pullSource s core n, k.receiver with
        | .wait, _ => s
        | .read _ lines true t, some v =>
          takeNotice { s with outgoing := t.outgoing } core rest (pullCommand s n (some v) lines (.asked s.fresh))
        | .read data lines false t, some v => takeNotice (landPull t core v n.bytes data) core rest (pullCommand s n (some v) lines .start)
        | _, _ => takeNotice s core rest (pullCommand s n none [] .start)) s)

/-- The pull at work. -/
def pullAtWork (k : Core) : Option EngineCmd := k.engine.find? (fun c => c.paused.isNone && !ofGroup c)

/-- An 8-byte release store of a pull at package scope: the write-backs of R398, and its own write, whose S holds the lines of the
pull's source and nothing else (R410). -/
def pullStore (s : State) (core ctx va : Nat) (v : DWord) (lines : List Nat) : Res State :=
  match checkOne s core ctx va 8 .write with
  | .error e => .error e
  | .ok x =>
    if releaseWaits s core .package then .error (.stall .scoreboard)
    else .ok (writeX (release s core .package []).2 core 2 x (dwordBytes 8 v) (sigOf s.now lines))

/-- One of the two words that a pull writes; an ACCESS skips it and is reported (R271). -/
def pullWord (s : State) (core ctx va : Nat) (v : DWord) (lines : List Nat) : Res State :=
  match pullStore s core ctx va v lines with
  | .error (.trap _) => .ok (post s (dieOf core) 0x11 0 0 [ctx, va, 0])
  | r => r

/-- The arrival count of a receiver, and the package after its read, or that a peer has first been asked for it, or has not answered
(R271 line 005, R387); free where it cannot be read. -/
def arrivalCount (s : State) (core : Nat) (c : EngineCmd) (va : Nat) : DWord × Fetch :=
  match checkOne s core (cmdCtx c) va 8 .read with
  | .ok x =>
    let r := readX s core 2 x 8 770
    (bytesDword r.bytes, fetchOf s { c with stage := match c.stage with
      | .counting tag => .asked tag
      | st => st } (isAperture x.pa) r.state)
  | .error _ => (freeWord s 771 0, .have s)

/-- The arrival slot: the notice with the sender's core in bits [59:50] of its first word (R269). -/
def arrivalSlot (bs : List Byte) (sender : Nat) : List Byte := natToBytes 8 (noticeWord bs 0 + sender * 2 ^ 50) ++ bs.drop 8

/-- Where a pull stands after what it does next. -/
inductive PullStep where
  /-- It is at its end. -/
  | over (s : State)
  /-- Lines 005 and 006 are done. -/
  | recorded (s : State)
  /-- It goes on from a stage. -/
  | to (stage : CopyStage) (s : State)
  /-- Its source cannot be read any more: line 002 is next. -/
  | dropped (s : State)

/-- Lines 005 and 006 of R271. -/
def recordArrival (s : State) (core : Nat) (c : EngineCmd) (v : Receiver) (bs : List Byte) (sender : Nat) (lines : List Nat) : Res PullStep :=
  let r := arrivalCount s core c v.count
  match r.2 with
  | .wait => .error (.stall .scoreboard)
  | .ask t => .ok (.to (.counting s.fresh) t)
  | .have t =>
    let t := modCore t core (fun k =>
      { k with scratch := Memory.writeBytes k.scratch (v.ring + 32 * (r.1.toNat % 8)) (arrivalSlot bs sender) })
    (pullWord t core (cmdCtx c) v.count (r.1 + 1) lines).map PullStep.recorded

/-- Lines 003 and 004 of R271 for a pull that has asked a peer: what it has been answered lands. -/
def landAsked (s : State) (core tag : Nat) (c : EngineCmd) (v : Receiver) (bs : List Byte) (sender : Nat) : Res PullStep :=
  if !answered s tag then .error (.stall .scoreboard)
  else
    match pullSource s core ⟨bs, sender, (c.gid.seq, c.gid.cohort), cmdCtx c, false, false⟩ with
    | .wait => .error (.stall .scoreboard)
    | .drop => .ok (.dropped s)
    | .read data _ _ t => .ok (.to .start (landPull { t with outgoing := s.outgoing } core v bs data))

/-- The receiver that a pull has landed for has not been released: its cohort holds it, be it with another descriptor by now;
what the pull records, it records where the receiver that it landed for said (R271, log 115). -/
def stillReceives (k : Core) (v : Receiver) : Bool := k.receiver.any (fun r => decide (r.ctx = v.ctx) && decide (r.cohort = v.cohort))

/-- What a pull does next: lines 003 and 004 where it has asked a peer, lines 005 and 006, or line 007, or, dropped or with its receiver
released meanwhile, line 002. -/
def pullNext (s : State) (core : Nat) (c : EngineCmd) : Res PullStep :=
  match c.op with
  | .pull bs sender rcv lines recorded =>
    let ack := noticeWord bs 2
    let value := BitVec.ofNat 64 (noticeWord bs 3)
    let last (v : DWord) (lines : List Nat) : Res PullStep :=
      if ack = 0 then .ok (.over s) else (pullWord s core (cmdCtx c) ack v lines).map PullStep.over
    match rcv with
    | some v =>
      if recorded then last value lines
      else if stillReceives (coreOf s core) v then
        match c.stage with
        | .asked tag => landAsked s core tag c v bs sender
        | _ => recordArrival s core c v bs sender lines
      else last (value ^^^ BitVec.ofNat 64 (2 ^ 63)) []
    | none => last (value ^^^ BitVec.ofNat 64 (2 ^ 63)) []
  | _ => .ok (.over s)

/-- A pull whose lines 005 and 006 have been done. -/
def markRecorded (c : EngineCmd) : EngineCmd :=
  match c.op with
  | .pull bs sender rcv lines _ => { c with op := .pull bs sender rcv lines true, stage := .start }
  | _ => c

/-- A pull that line 002 ends. -/
def markDropped (c : EngineCmd) : EngineCmd :=
  match c.op with
  | .pull bs sender _ _ r => { c with op := .pull bs sender none [] r, stage := .start }
  | _ => c

/-- A pull after what it has done next; without an acknowledgement to write it ends with line 006. -/
def pullAfter (core : Nat) (c : EngineCmd) : PullStep → State
  | .over s => modCore s core (fun k => dropCommand k c)
  | .recorded s =>
    match c.op with
    | .pull bs _ _ _ _ => if noticeWord bs 2 = 0 then modCore s core (fun k => dropCommand k c) else modCommand s core c markRecorded
    | _ => s
  | .to st s => modCommand s core c (fun x => { x with stage := st })
  | .dropped s => modCommand s core c markDropped

/-- A pull goes on, and finishes with its last write (R271). -/
def execPullLanded (core : Nat) (s : State) : Host.Outcome State Fault Refusal :=
  match pullAtWork (coreOf s core) with
  | none => .next s
  | some c =>
    .next (actFor c.gid (fun s =>
      match pullNext s core c with
      | .ok r => pullAfter core c r
      | .error _ => s) s)

/-! ## Page faults of the engine (R267, R271) -/

/-- The page fault that a command meets. -/
def cmdPage (s : State) (core : Nat) (c : EngineCmd) : Option (Nat × AccessKind × Nat) :=
  match c.op with
  | .pull _ _ _ _ _ =>
    match pullNext s core c with
    | .error (.page va kind sub) => some (va.toNat, kind, sub)
    | _ => none
  | _ =>
    match firstBad s core (fun a => match a with
      | .page _ => true
      | _ => false) c with
    | some (kind, va, .page sub) => some (va, kind, sub)
    | _ => none

/-- A command of the engine meets a translation fault and pauses (R267). -/
def execEnginePageFault (core : Nat) (s : State) : Host.Outcome State Fault Refusal :=
  let k := coreOf s core
  let cmds := (commandsAtWork k ++ (pullAtWork k).toList).filter (fun c => (cmdPage s core c).isSome)
  match pickFree s 712 cmds with
  | none => .next s
  | some c =>
    match cmdPage s core c with
    | none => .next s
    | some (va, kind, sub) =>
      match pageFault s (dieOf core) (cmdCtx c) va kind sub with
      | none => .next s
      | some (w, s) =>
        .next (modCommand s core c (fun x =>
          { x with paused := some ⟨w.1, w.2, pageTrap (BitVec.ofNat 64 va) sub none (some ⟨c.pc, false⟩)⟩ }))

/-! ## Remote loads (R272, R273) -/

/-- Bytes at their home, what a peer answers, or some bytes where nothing is (R387, log 14). -/
def remoteRead (s : State) (core : Nat) (x : Xlat) (n tag : Nat) : List Byte × State :=
  let s := walkAcquire s core x
  if isAperture x.pa then (freeBytes s tag n, sendOp s core x.pa (.read n))
  else if isMemory x.pa then (loadHome s x.pa n, s)
  else (freeBytes s tag n, s)

/-- The checks of `rld`: alignments, then the line, then the destination. -/
def checkRld (s : State) (e : Iss) (va off : Nat) : Res Xlat :=
  if va % 128 ≠ 0 then trapOf 0x0C (BitVec.ofNat 64 va)
  else if off % 128 ≠ 0 then trapOf 0x0C (BitVec.ofNat 64 off)
  else
    match checkOne s e.core e.g.ctx va 128 .read with
    | .error r => .error r
    | .ok x =>
      match checkScratch (coreOf s e.core) e.slot e.g off 128 with
      | .error r => .error r
      | .ok _ => .ok x

/-- `rld` (R272): the line is read at its home, or by the peer, as the request arrives, in issue order (R382, R387, log 106); the
response lands later. -/
def execRld (f : LaneForm) (s : State) : Host.Outcome State Fault Refusal :=
  runLane (.rld f) s (fun e s =>
    let off := uni32 s e (fieldAt e.x 2)
    match checkRld s e (uni64 s e (fieldAt e.x 1)) off with
    | .error r => .error r
    | .ok x =>
      if 8 ≤ e.g.rlds.length then .error (.stall .allocation)
      else
        let b := remoteRead s e.core x 128 780
        let s := modGroup b.2 e.core e.slot (fun g => { g with rlds := g.rlds ++ [⟨s.fresh, b.1, off⟩] })
        .ok (performed s e .remote))

/-- The core with the 128 bytes of a remote load in their landing place. -/
def landLoad (r : RemoteLoad) (k : Core) : Core := { k with scratch := Memory.writeBytes k.scratch r.off r.bytes }

/-- The response of a remote load of a group that has exited lands, while the group's cohort still holds its landing place (R154,
R273). -/
def landOrphan (r : GroupId × RemoteLoad) (k : Core) : Core :=
  let k' := { k with orphans := k.orphans.filter (fun x => !decide (x.2.tag = r.2.tag)) }
  if inCohort k r.1.ctx (r.1.seq, r.1.cohort) r.2.off 128 then landLoad r.2 k' else k'

/-- The response of a remote load lands, once a peer that was asked has answered (R273, R387, R411); behind those of its slot's
group the places count those of a core's groups that have exited. -/
def execRldResponse (core slot idx : Nat) (s : State) : Host.Outcome State Fault Refusal :=
  let own := ((groupOf s core slot).map (fun g => g.rlds)).getD []
  match (own.drop idx).head? with
  | some r =>
    if answered s r.tag then
      let s := modCore s core (landLoad r)
      let s := modGroup s core slot (fun g => { g with rlds := g.rlds.filter (fun x => !decide (x.tag = r.tag)) })
      .next (completeTag s core slot r.tag)
    else .next s
  | none =>
    match ((coreOf s core).orphans.drop (idx - own.length)).head? with
    | some r => if answered s r.2.tag then .next (modCore s core (landOrphan r)) else .next s
    | none => .next s

/-! ## The narrows (R274 to R278) -/

/-- A core is in the upper layer (R14). -/
def isUpper (core : Nat) : Bool := decide (core / 4 % 2 = 1)

/-- The entries that a put makes (R276). -/
def putEntries (s : State) (e : Iss) : List NarrowsEntry :=
  let v (l : Nat) : Word := if e.lanes.getLsbD l then BitVec.ofNat 32 (src32 s e (fieldAt e.x 1) l) else 0
  let part (h : Nat) : NarrowsEntry := ⟨(List.range 32).map (fun l => v (32 * h + l)), e.g.ctx⟩
  if e.g.wcode = 3 then [part 0, part 1] else [part 0]

/-- A put is turned away with ACCESS (R275, R276): another context's consumer, the consumer's own core, or against the
direction. -/
def putDenied (s : State) (core : Nat) (g : Group) (w : Narrows) : Bool :=
  (match w.bound with
   | some (c, slot) => decide (c = core) || (groupOf s c slot).any (fun x => decide (x.ctx ≠ g.ctx))
   | none => false) ||
  w.toUpper.any (fun d => decide (d ≠ isUpper (partner core)))

/-- `vfput` (R276, R277). -/
def execVfput (f : LaneForm) (s : State) : Host.Outcome State Fault Refusal :=
  runLane (.vfput f) s (fun e s =>
    let w := narrowsOf s e.core
    let there : DWord := BitVec.ofNat 64 (partner e.core)
    match (quadOf s (partner e.core)).state with
    | .gated => trapOf 0x12 there
    | .waking => trapOf 0x12 there
    | st =>
      if putDenied s e.core e.g w then trapOf 0x0D there
      else if st = .draining ∨ 16 < occupied w + slotsPerEntry e.g then .error (.stall .narrowsFull)
      else
        .ok (Done.plain (modNarrows s e.core (fun w =>
          { w with waiting := w.waiting ++ putEntries s e, toUpper := some (isUpper (partner e.core)) }))))

/-- A bind is turned away with ACCESS (R275). -/
def bindDenied (core slot : Nat) (g : Group) (w : Narrows) : Bool :=
  let q := queueOf g 7
  !q.entries.isEmpty || !q.saved.isEmpty || q.stream.isSome || (w.bound.isSome && decide (w.bound ≠ some (core, slot))) ||
    (!w.waiting.isEmpty && w.toUpper.any (fun d => decide (d ≠ isUpper core))) ||
    w.waiting.any (fun x => decide (x.ctx ≠ g.ctx))

/-- A group unbound from the narrows (R275 mode 0). -/
def unbindGroup (s : State) (core slot : Nat) : State :=
  let s := modNarrows s core (fun w => clearDirection (if w.bound = some (core, slot) then { w with bound := none } else w))
  modQueue s core slot 7 (fun q => { q with nmode := false })

/-- `vfcfg` (R275). -/
def execVfcfg (f : LaneForm) (s : State) : Host.Outcome State Fault Refusal :=
  runLane (.vfcfg f) s (fun e s =>
    if f.src1 = 0 then .ok (Done.plain (unbindGroup s e.core e.slot))
    else if bindDenied e.core e.slot e.g (narrowsOf s e.core) then trapOf 0x0D (BitVec.ofNat 64 (partner e.core))
    else
      let s := modNarrows s e.core (fun w => { w with bound := some (e.core, e.slot), toUpper := some (isUpper e.core) })
      .ok (Done.plain (modQueue s e.core e.slot 7 (fun q => { q with nmode := true }))))

/-- The q7 entry that waiting entries make (R276). -/
def deliveredEntry (l : List NarrowsEntry) : QEntry := ⟨(l.map (fun x => x.elems)).flatten, true, none, 0⟩

/-- Waiting entries move into the consumer's q7 (R274). -/
def execNarrowsDeliver (core : Nat) (s : State) : Host.Outcome State Fault Refusal :=
  let w := narrowsOf s core
  match w.bound with
  | none => .next s
  | some (c, slot) =>
    match groupOf s c slot with
    | none => .next s
    | some g =>
      let n := slotsPerEntry g
      if w.waiting.length < n ∨ freeEntries (queueOf g 7) = 0 then .next s
      else
        let s := modQueue s c slot 7 (fun q =>
          { q with entries := q.entries ++ [deliveredEntry (w.waiting.take n)], narrow := q.narrow + 1 })
        .next (modNarrows s core (fun w => { w with waiting := w.waiting.drop n, inQ7 := w.inQ7 + n }))

end Sys2Proof.Machine
end

