-- ==== Sys2Proof/Machine/Matrix.lean ====
section
/-!
DEFINITION. The matrix array (12_matrix, 03_numbers R66 to R86).
-/
namespace Sys2Proof.Machine

open Sys2Proof

/-! ## Elements and cells (R76, R86, R303) -/

/-- The elements of a pass: their number and width for a format code (R299). -/
def elemCount (fmt : Nat) : Nat := if fmt = 8 ∨ fmt = 9 then 4 else if fmt = 12 then 16 else 8
/-- The bits of an element. -/
def elemBits (fmt : Nat) : Nat := if fmt = 8 ∨ fmt = 9 then 16 else if fmt = 12 then 6 else 8
/-- The bytes that a pass reads from a column. -/
def passBytes (fmt : Nat) : Nat := if fmt = 12 then 12 else 8

/-- Element `k` of a container. -/
def elemOf (fmt x k : Nat) : Nat := x / 2 ^ (elemBits fmt * k) % 2 ^ elemBits fmt

/-- The exact value of a float element (R74). -/
def elemVal (fmt c : Nat) : FVal :=
  let tapered (n : Nat) : FVal := match taperedVal n c with
    | none => .nan
    | some (neg, m, e) => .fin neg m e
  match fmt with
  | 8 => valueOf fp16 c
  | 9 => valueOf bf16 c
  | 11 => tapered 7
  | _ => tapered 5

/-- An element is a signalling NaN (R68). -/
def elemSNaN (fmt c : Nat) : Bool := if fmt = 8 then isSNaN fp16 c else if fmt = 9 then isSNaN bf16 c else false

/-- A value with its sign inverted. -/
def negVal : FVal → FVal
  | .nan => .nan
  | .inf n => .inf (!n)
  | .fin n m e => .fin (!n) m e

/-- A product of two elements, scaled, and whether it is 0 × ∞. -/
def mulVal (scale : Int) : FVal → FVal → FVal × Bool
  | .nan, _ => (.nan, false)
  | _, .nan => (.nan, false)
  | .inf a, .inf b => (.inf (a != b), false)
  | .inf a, .fin b m _ => if m = 0 then (.nan, true) else (.inf (a != b), false)
  | .fin a m _, .inf b => if m = 0 then (.nan, true) else (.inf (a != b), false)
  | .fin a m e, .fin b n f => (.fin (a != b) (m * n) (e + f + scale), false)

/-- A term is NaN. -/
def isNanVal : FVal → Bool
  | .nan => true
  | _ => false

/-- A term is the infinity of a sign. -/
def isInfVal (neg : Bool) : FVal → Bool
  | .inf n => decide (n = neg)
  | _ => false

/-- The least exponent of the finite terms. -/
def leastExp (l : List FVal) : Int :=
  (l.filterMap (fun v => match v with
    | .fin _ m e => if m = 0 then none else some e
    | _ => none)).foldl (fun a e => if e < a then e else a) 0

/-- The exact sum of the finite terms over 2^e. -/
def exactTotal (e : Int) (l : List FVal) : Int :=
  l.foldl (fun t v => match v with
    | .fin neg m x => if neg then t - (m * 2 ^ (x - e).toNat : Nat) else t + (m * 2 ^ (x - e).toNat : Nat)
    | _ => t) 0

/-- Every term is −0. -/
def allNegZero (l : List FVal) : Bool :=
  l.all (fun v => match v with
    | .fin neg m _ => neg && decide (m = 0)
    | _ => false)

/-- The total of a pass's terms, rounded once to AF36 (R86): infinities of both signs raise invalid beside a NaN term too. -/
def totalOf (l : List FVal) : FRes :=
  if l.any (isInfVal false) && l.any (isInfVal true) then ⟨canonNaN af36, flInvalid⟩
  else if l.any isNanVal then ⟨canonNaN af36, 0⟩
  else if l.any (isInfVal false) then ⟨infCode af36, 0⟩
  else if l.any (isInfVal true) then ⟨withSign af36 true (infCode af36), 0⟩
  else
    let e := leastExp l
    let t := exactTotal e l
    if t = 0 then ⟨withSign af36 (allNegZero l) 0, 0⟩ else roundTo af36 .rne (decide (t < 0)) t.natAbs e

/-- A float cell after a pass (R303 lines 001 to 005): elements of A and B, scale codes where the pass has blocks. -/
def floatCell (fmt : Word) (acc : Nat) (a b sa sb : Nat) : FRes :=
  let x := fmt.toNat
  let af := x % 16
  let bf := x / 16 % 16
  let blk := decide (x / 256 % 4 ≠ 0)
  let acm := x / 4096 % 4
  let scale : Int := if blk then (sa : Int) + sb - 254 else 0
  let prods := (List.range (elemCount af)).map (fun k => mulVal scale (elemVal af (elemOf af a k)) (elemVal bf (elemOf bf b k)))
  let nans := blk && (decide (sa = 255) || decide (sb = 255))
  let terms := prods.map (fun p => if nans then .nan else if acm = 2 then negVal p.1 else p.1)
  let all := if acm = 1 then terms else valueOf af36 acc :: terms
  let snan := (List.range (elemCount af)).any (fun k => elemSNaN af (elemOf af a k) || elemSNaN bf (elemOf bf b k)) ||
    (decide (acm ≠ 1) && isSNaN af36 acc)
  (totalOf all).or (if snan || (!nans && prods.any (fun p => p.2)) then flInvalid else 0)

/-- An integer cell after a pass (R303 line 006, R71), and whether it was clamped. -/
def intCell (fmt : Word) (acc : Nat) (a b : Nat) : Nat × Bool :=
  let x := fmt.toNat
  let af := x % 16
  let bf := x / 16 % 16
  let elem (f v k : Nat) : Int := intValue 8 (decide (f = 0)) (elemOf f v k)
  let t := (List.range 8).foldl (fun t k => t + elem af a k * elem bf b k) 0
  let acm := x / 4096 % 4
  let old := toSigned 36 acc
  let v := if acm = 0 then old + t else if acm = 1 then t else old - t
  if x / 2 ^ 14 % 2 = 1 then
    let c := clampInt (-(2 ^ 35 : Nat)) ((2 ^ 35 : Nat) - 1) v
    (wrapTo 36 c, decide (c ≠ v))
  else (wrapTo 36 v, false)

/-- The matrix flags of float flags. -/
def mflags (f : Flags) : BitVec 6 := f.setWidth 6

/-- A cell after a pass, and the flags it raises (R303, R304). -/
def cellAfter (fmt : Word) (acc : BitVec 36) (a b sa sb : Nat) : BitVec 36 × BitVec 6 :=
  if matFamily (fmt.toNat % 16) = 0 then
    let r := intCell fmt acc.toNat a b
    (BitVec.ofNat 36 r.1, if r.2 then 32 else 0)
  else
    let r := floatCell fmt acc.toNat a b sa sb
    (BitVec.ofNat 36 r.code, mflags r.flags)

/-! ## B slots (R298, R299, R314) -/

/-- The place of a byte of a B slot in the core's B memory. -/
def bAddress (bslot col off : Nat) : Nat := (bslot * 64 + col) * 2048 + off

/-- The last fill that covers a byte offset of a slot. -/
def coveringFill (k : Core) (bslot off : Nat) : Option Fill :=
  (k.fills.filter (fun x => decide (x.bslot = bslot) && decide (x.off ≤ off) && decide (off < x.off + x.n))).getLast?

/-- The fills that a group has observed, by their tags (R314). -/
def fillsSeen (k : Core) (index : Nat) : List Nat := (k.fills.filter (fun x => x.known.contains index)).map (fun x => x.tag)

/-- A byte that the fill of a slot leaves undefined for a quarter whose group had observed certain fills as its `mma` issued
(R314). -/
def bUnknown (k : Core) (bslot off : Nat) (seen : List Nat) : Bool :=
  match coveringFill k bslot off with
  | none => false
  | some x => !x.done || x.failed || !seen.contains x.tag

/-- A byte of a B slot as a pass reads it for a quarter. -/
def bByte (s : State) (k : Core) (seen : List Nat) (bslot col off : Nat) : Byte :=
  if bUnknown k bslot off seen then BitVec.ofNat 8 (freeWord s (900 + col) off).toNat
  else Memory.read k.bmem (bAddress bslot col off)

/-- The B operand of a column. -/
def bOperand (s : State) (k : Core) (seen : List Nat) (fmt : Word) (bslot col off : Nat) : Nat :=
  bytesToNat ((List.range (passBytes (fmt.toNat % 16))).map (fun i => bByte s k seen bslot col (off + i)))

/-- The bytes of a block (R299). -/
def blockBytes (fmt : Word) : Nat := if fmt.toNat % 16 = 12 then 24 else if fmt.toNat / 256 % 4 = 1 then 16 else 32

/-- The B scale of a column. -/
def bScale (s : State) (k : Core) (seen : List Nat) (fmt : Word) (bslot col off : Nat) : Nat :=
  (bByte s k seen bslot col (1920 + off / blockBytes fmt)).toNat

/-- The column offset suits the format (R299). -/
def offsetFits (fmt : Word) (o : Nat) : Bool :=
  let t6 := decide (fmt.toNat % 16 = 12)
  let blk := decide (fmt.toNat / 256 % 4 ≠ 0)
  decide (o % (if t6 then (if blk then 12 else 4) else 8) = 0) &&
    decide (o + passBytes (fmt.toNat % 16) ≤ if blk then 1920 else 2048)

/-! ## The array queue (R300, R301) -/

/-- Entries of the array queue. -/
def arrayRoom : Nat := 16

/-- The core with entries at the end of its array queue, where there is room. -/
def enqueueArray (s : State) (core : Nat) (l : List ArrayEntry) : Res State :=
  if arrayRoom < (coreOf s core).arrayQ.length + l.length then .error (.stall .collector)
  else .ok (modCore s core (fun k => { k with arrayQ := k.arrayQ ++ l }))

/-- The physical accumulator slot of a name in a lane's quarter (R294). -/
def accSlot (c : Cohort) (g : Group) (name q : Nat) : Nat := c.accBase + name + (if g.wcode = 3 ∧ 4 ≤ q then 1 else 0)

/-- The row of a lane, as 32 × slot + row (R294). -/
def laneRow (c : Cohort) (g : Group) (name lane : Nat) : Nat :=
  32 * accSlot c g name (lane / 8) + 8 * rowQuarter g (lane / 8) + lane % 8

/-- Quarters of which some lanes but not all take part (R295). -/
def partialQuarters (lanes : Mask) : Nat :=
  (List.range 8).foldl (fun a q =>
    if quarterMask lanes q ≠ 0 ∧ quarterMask lanes q ≠ quarterMask (BitVec.allOnes 64) q then a + 2 ^ q else a) 0

/-- The A operand of a lane. -/
def aOperand (s : State) (e : Iss) (lane : Nat) : Nat :=
  let f := fieldAt e.x 1
  src64 s e f lane + (if e.g.ln.fmt.toNat % 16 = 12 then 2 ^ 64 * (srcWord s e f 2 lane).toNat else 0)

/-- What a quarter of an `mma` brings to its pass. -/
def passQuarter (s : State) (e : Iss) (c : Cohort) (name q : Nat) : PassQuarter :=
  { owner := gidOf e.g, slot := e.slot, rho := rowQuarter e.g q, acc := accSlot c e.g name q,
    avals := (List.range 8).map (fun j => aOperand s e (8 * q + j)),
    scales := (List.range 8).map (fun j => src32 s e (fieldAt e.x 3) (8 * q + j) % 256),
    seen := fillsSeen (coreOf s e.core) e.g.index }

/-- A quarter may join a pass that the same issue opportunity has formed (R301 lines 005 and 006). -/
def mayJoin (s : State) (fmt : Word) (bslot off : Nat) (q : PassQuarter) (x : ArrayEntry) : Bool :=
  match x.op with
  | .pass f b o qs _ => decide (s.opp ≤ x.tag) && decide (f = fmt) && decide (b = bslot) && decide (o = off) &&
      !qs.any (fun y => decide (y.rho = q.rho))
  | _ => false

/-- A quarter added to a pass. -/
def addQuarter (q : PassQuarter) (x : ArrayEntry) : ArrayEntry :=
  match x.op with
  | .pass f b o qs d => { x with op := .pass f b o (qs ++ [q]) d }
  | _ => x

/-- A quarter enters the array queue: in the first pass it may join, else in a new one. -/
def enterQuarter (s : State) (e : Iss) (bslot off : Nat) (l : List ArrayEntry) (q : PassQuarter) : List ArrayEntry :=
  match modFirst (mayJoin s e.g.ln.fmt bslot off q) (addQuarter q) l with
  | some r => r
  | none => l ++ [⟨gidOf e.g, e.slot, s.fresh, .pass e.g.ln.fmt bslot off [q] []⟩]

/-- A pass formed at this opportunity with a quarter of the issuing group. -/
def passOfIssue (s : State) (slot : Nat) (x : ArrayEntry) : Bool :=
  match x.op with
  | .pass _ _ _ qs _ => decide (s.opp ≤ x.tag) && qs.any (fun q => decide (q.slot = slot))
  | _ => false

/-- A pass that completes one result more. -/
def addDone (d : Nat × Nat) (x : ArrayEntry) : ArrayEntry :=
  match x.op with
  | .pass f b o qs ds => { x with op := .pass f b o qs (ds ++ [d]) }
  | _ => x

/-- The quarters of an `mma` entered in order; its result waits on the last pass in the queue that holds one of them
(R301, R302). -/
def enterQuarters (s : State) (e : Iss) (bslot off : Nat) (qs : List PassQuarter) (l : List ArrayEntry) : List ArrayEntry :=
  let r := qs.foldl (enterQuarter s e bslot off) l
  match modFirst (passOfIssue s e.slot) (addDone (e.slot, s.fresh)) r.reverse with
  | some x => x.reverse
  | none => r

/-- The value of bsel is within its limits (R298, R299, R306). -/
def bselOk (fmt : Word) (bsl v : Nat) : Bool :=
  decide (v / 2 ^ 14 = 0) && decide (v / 2 ^ 11 < bsl) && offsetFits fmt (v % 2 ^ 11)

/-- `mma` (R306). -/
def execMma (f : LaneForm) (s : State) : Host.Outcome State Fault Refusal :=
  runLane (.mma f) s (fun e s =>
    let v := uni32 s e (fieldAt e.x 2)
    match cohortOf (coreOf s e.core) e.g with
    | none => .ok (Done.plain s)
    | some c =>
      if partialQuarters e.lanes ≠ 0 then trapOf 0x06 (BitVec.ofNat 64 (partialQuarters e.lanes))
      else if !bselOk e.g.ln.fmt c.bsl v then illegalOperand 2 f.src2.toNat
      else
        let qs := (quartersOf e.lanes).map (passQuarter s e c f.dst.toNat)
        let q := enterQuarters s e (c.bBase + v / 2 ^ 11) (v % 2 ^ 11) qs (coreOf s e.core).arrayQ
        if arrayRoom < q.length then .error (.stall .collector)
        else
          let s := modCore s e.core (fun k => { k with arrayQ := q })
          .ok (Done.later s (pendingResult s e .array [] 0)))

/-- An instruction that enters one entry in the array queue and completes with it. -/
def arrayInstr (s : State) (e : Iss) (op : ArrayOp) : Res Done :=
  match enqueueArray s e.core [⟨gidOf e.g, e.slot, s.fresh, op⟩] with
  | .error r => .error r
  | .ok s => .ok (performed s e .array)

/-- The rows that `mmz` zeroes (R307). -/
def zeroRows (c : Cohort) (g : Group) (name : Nat) : List Nat :=
  ((List.range (if g.wcode = 3 then 2 else 1)).map (fun a =>
    (groupRows g).map (fun r => 32 * (c.accBase + name + a) + r))).flatten

/-- `mmz` (R307). -/
def execMmz (f : LaneForm) (s : State) : Host.Outcome State Fault Refusal :=
  runLane (.mmz f) s (fun e s =>
    match cohortOf (coreOf s e.core) e.g with
    | none => .ok (Done.plain s)
    | some c => arrayInstr s e (.zero (zeroRows c e.g f.dst.toNat)))

/-- `mmrd` (R308). -/
def execMmrd (f : LaneForm) (s : State) : Host.Outcome State Fault Refusal :=
  runLane (.mmrd f) s (fun e s =>
    match cohortOf (coreOf s e.core) e.g with
    | none => .ok (Done.plain s)
    | some c =>
      let cells := (lanesOf e.lanes).map (fun l => (l, laneRow c e.g f.src1.toNat l, f.src3.toNat))
      match enqueueArray s e.core [⟨gidOf e.g, e.slot, s.fresh, .read f.src2.toNat cells⟩] with
      | .error r => .error r
      | .ok s =>
        .ok (Done.later s (pendingResult s e .array (writeSized (wideType f.src2.toNat) f.dst.toNat e.lanes (fun _ => 0)) 0)))

/-- The cell that `mmwr` writes from a source (R308); a signalling NaN is quieted (R81). -/
def writtenCell (ty v : Nat) : BitVec 36 :=
  match ty with
  | 10 => BitVec.ofNat 36 ((if isSNaN fp32 (v % 2 ^ 32) then v % 2 ^ 32 + 2 ^ 22 else v % 2 ^ 32) * 16)
  | 2 => BitVec.ofNat 36 (sext64 32 v).toNat
  | _ => BitVec.ofNat 36 v

/-- `mmwr` (R308). -/
def execMmwr (f : LaneForm) (s : State) : Host.Outcome State Fault Refusal :=
  runLane (.mmwr f) s (fun e s =>
    match cohortOf (coreOf s e.core) e.g with
    | none => .ok (Done.plain s)
    | some c =>
      arrayInstr s e (.write ((lanesOf e.lanes).map (fun l =>
        (laneRow c e.g f.dst.toNat l, f.src3.toNat, writtenCell f.src2.toNat (src64 s e (fieldAt e.x 1) l))))))

/-- A fill word is within its limits (R309). -/
def fillOk (w : Nat) : Bool :=
  let n := w % 2 ^ 12
  let o := w / 2 ^ 12 % 2 ^ 11
  decide (n % 8 = 0) && decide (8 ≤ n) && decide (n ≤ 2048) && decide (o % 8 = 0) && decide (o + n ≤ 2048) && decide (w / 2 ^ 23 = 0)

/-- `bfill` (R309). -/
def execBfill (f : LaneForm) (s : State) : Host.Outcome State Fault Refusal :=
  runLane (.bfill f) s (fun e s =>
    let va := uni64 s e (fieldAt e.x 1)
    let w := uni32 s e (fieldAt e.x 2)
    match cohortOf (coreOf s e.core) e.g with
    | none => .ok (Done.plain s)
    | some c =>
      if !fillOk w then illegalOperand 2 f.src2.toNat
      else if va % 8 ≠ 0 then trapOf 0x0C (BitVec.ofNat 64 va)
      else if 2 ^ 48 ≤ va then trapOf 0x0D (BitVec.ofNat 64 va)
      else
        let b := c.bBase + f.dst.toNat
        let n := w % 2 ^ 12
        let o := w / 2 ^ 12 % 2 ^ 11
        let x : Fill := ⟨gidOf e.g, s.fresh, b, o, n, setOf e.x, false, false, false, none, []⟩
        match enqueueArray s e.core [⟨gidOf e.g, e.slot, s.fresh, .fill x⟩] with
        | .error r => .error r
        | .ok s =>
          match enqueueEngine s e (.fill va b o (64 * n)) with
          | .error r => .error r
          | .ok s => .ok (performed s e .engine))

/-- A fill of a group that is not complete. -/
def fillsOpen (k : Core) (gid : GroupId) : Bool :=
  k.fills.any (fun x => decide (x.owner = gid) && !x.done) ||
    k.arrayQ.any (fun x => match x.op with
      | .fill y => decide (y.owner = gid)
      | _ => false)

/-- The fills that an `msync` of a group covers are observed by it (R314). -/
def syncFills (k : Core) (g : Group) : Core :=
  { k with fills := k.fills.map (fun x =>
      if x.owner = gidOf g then { x with synced := true, known := g.index :: x.known } else x) }

/-- `msync` (R310). -/
def execMsync (f : LaneForm) (s : State) : Host.Outcome State Fault Refusal :=
  runLane (.msync f) s (fun e s =>
    let k := coreOf s e.core
    if arrayBusy k e.slot ∨ fillsOpen k (gidOf e.g) then .error (.stall .scoreboard)
    else
      match enqueueArray s e.core [⟨gidOf e.g, e.slot, s.fresh, .sync⟩] with
      | .error r => .error r
      | .ok s =>
        let s := modCore s e.core (fun k => syncFills k e.g)
        let s := modLane s e.core e.slot (fun l => { l with matrixFlags := 0 })
        .ok (Done.regs s 1 (write32 f.dst.toNat e.lanes (fun _ => e.g.ln.matrixFlags.toNat)) 0))

/-- `setfmt` (R311). -/
def execSetfmt (f : LaneForm) (s : State) : Host.Outcome State Fault Refusal :=
  runLane (.setfmt f) s (fun e s =>
    let mask : Word := BitVec.ofNat 32 (uni32 s e (fieldAt e.x 2))
    let new := (e.g.ln.fmt &&& ~~~ mask) ||| (BitVec.ofNat 32 (uni32 s e (fieldAt e.x 1)) &&& mask)
    if new.toNat / 2 ^ 15 ≠ 0 then illegalOperand 1 f.src1.toNat
    else
      let s := modLane s e.core e.slot (fun l => { l with fmt := new })
      .ok (Done.regs s 2 (write32 f.dst.toNat e.lanes (fun _ => e.g.ln.fmt.toNat)) 0))

/-- `phint` (R315). -/
def execPhint (f : LaneForm) (s : State) : Host.Outcome State Fault Refusal :=
  runLane (.phint f) s (fun e s =>
    let length := (f.lit.getD 0).toNat
    if length = 0 then illegalOperand 15 0
    else
      let h : Hint := ⟨wide16 f, f.src1.toNat, length, decide (wide16 f = 0), s.now, false⟩
      .ok (Done.plain (modLane s e.core e.slot (fun l => { l with hint := some h }))))

/-! ## The array at work (R302, R303) -/

/-- A row as it stands once every write on its way has landed. -/
def rowView (k : Core) (key : Nat) : List (BitVec 36) :=
  match (k.landing.reverse.map (fun x => x.rows)).flatten.find? (fun r => decide (r.1 = key)) with
  | some r => r.2
  | none => mget k.accs key (List.replicate 64 0)

/-- A row after a pass, with the flags of its cells. -/
def rowAfter (fmt : Word) (row : List (BitVec 36)) (a sa : Nat) (bs : List (Nat × Nat)) : List (BitVec 36) × BitVec 6 :=
  let r := bs.zipIdx.map (fun b => cellAfter fmt (row.getD b.2 0) a b.1.1 sa b.1.2)
  (r.map (fun x => x.1), (r.map (fun x => x.2)).foldl (fun a f => a ||| f) 0)

/-- The rows that a quarter of a pass writes, and its flags. -/
def quarterAfter (k : Core) (fmt : Word) (bs : List (Nat × Nat)) (q : PassQuarter) : List (Nat × List (BitVec 36)) × BitVec 6 :=
  let r := (List.range 8).map (fun i =>
    (32 * q.acc + 8 * q.rho + i,
      rowAfter fmt (rowView k (32 * q.acc + 8 * q.rho + i)) (q.avals.getD i 0) (q.scales.getD i 0) bs))
  (r.map (fun x => (x.1, x.2.1)), (r.map (fun x => x.2.2)).foldl (fun a f => a ||| f) 0)

/-- The columns' B operands and scales of a pass, as it reads them for a quarter whose group had observed certain fills. -/
def columnsOf (s : State) (k : Core) (fmt : Word) (bslot off : Nat) (seen : List Nat) : List (Nat × Nat) :=
  (List.range 64).map (fun j => (bOperand s k seen fmt bslot j off,
    if fmt.toNat / 256 % 4 = 0 then 127 else bScale s k seen fmt bslot j off))

/-- The writes of a pass of a core, on their way (R302, R303). -/
def passLanding (s : State) (core : Nat) (k : Core) (fmt : Word) (bslot off : Nat) (qs : List PassQuarter) (dones : List (Nat × Nat)) :
    Landing :=
  let r := qs.map (fun q => (q.slot, quarterAfter k fmt (columnsOf s k fmt bslot off q.seen) q))
  ⟨qs.map (fun q => q.owner), decide (k.latch ≠ some (bslot, off)), passCount (quadOf s core),
    (r.map (fun x => x.2.1)).flatten, r.map (fun x => (x.1, x.2.2)), dones⟩

/-- The groups with a quarter in a pass of a core. -/
def passGroups (k : Core) (qs : List PassQuarter) : List Group := (qs.map (fun q => q.slot)).eraseDups.filterMap (mget? k.groups)

/-- The groups of the pass at the head of a core's array queue whose declared burst it would begin (R423). -/
def burstsBegun (k : Core) : List Group :=
  match k.arrayQ with
  | ⟨_, _, _, .pass _ _ _ qs _⟩ :: _ => (passGroups k qs).filter (fun g => g.ln.hint.any (fun h => h.active && !h.begun))
  | _ => []

/-- The layers of a core's rail have reached the targets that the hints of some groups set (R423). -/
def railReached (s : State) (core : Nat) (gs : List Group) : Bool :=
  gs.all (fun g => decide ((voteOf s (core / 64) (layerOf core) (ctxOf s g.ctx).partition) ≤ (railAt s (core / 64) (layerOf core)).level))

/-- When the earliest hint of some groups was issued. -/
def earliestHint (gs : List Group) : Option Nat :=
  (sortBy (fun a b => decide (a < b)) (gs.filterMap (fun g => g.ln.hint.map (fun h => h.issued)))).head?

/-- Another core of the rail has a start that may begin and whose hint was issued earlier, or as early on a core of a lower
number (R425). -/
def laterStart (s : State) (core : Nat) (gs : List Group) : Bool :=
  s.cores.any (fun c => decide (c.1 / 64 = core / 64) && decide (c.1 ≠ core) && railReached s c.1 (burstsBegun c.2) &&
    (match earliestHint (burstsBegun c.2), earliestHint gs with
     | some a, some b => lexLt [a, c.1] [b, core]
     | _, _ => false))

/-- The first pass of a declared burst waits in the array queue for its rail, for earlier starts, and until the last start of its holm
or rail is far enough behind (R423, R425). -/
def burstWaits (s : State) (core : Nat) : Bool :=
  let gs := burstsBegun (coreOf s core)
  !gs.isEmpty && (decide ((coreOf s core).burstGap ≠ 0) || !railReached s core gs || laterStart s core gs)

/-- The ac between a start on a core and the next on another: 32 in its holm, 8 on its rail (R425). -/
def startGap (core c : Nat) : Nat := if c / 8 = core / 8 then 32 else 8

/-- The package with the start of a declared burst on a core noted on the cores of its rail (R425). -/
def spaceStarts (s : State) (core : Nat) : State :=
  { s with cores := mapEntries s.cores (fun c k =>
      if c / 64 = core / 64 then { k with burstGap := max k.burstGap (startGap core c) } else k) }

/-- The core with the declared bursts of a pass begun. -/
def beginBursts (k : Core) (qs : List PassQuarter) : Core :=
  { k with groups := mapEntries k.groups (fun slot g =>
      if qs.any (fun q => decide (q.slot = slot)) then
        { g with ln := { g.ln with hint := g.ln.hint.map (fun h => { h with begun := h.begun || h.active }) } }
      else g) }

/-- The pass at the head of the array queue runs (R302, R303, R425). -/
def execMmaPass (core : Nat) (s : State) : Host.Outcome State Fault Refusal :=
  let k := coreOf s core
  match k.arrayQ with
  | ⟨_, _, _, .pass fmt b off qs dones⟩ :: rest =>
    if burstWaits s core then .next s
    else
      let t := setCore s core { beginBursts k qs with
        arrayQ := rest, landing := k.landing ++ [passLanding s core k fmt b off qs dones], latch := some (b, off) }
      .next (if (burstsBegun k).isEmpty then t else spaceStarts t core)
  | _ => .next s

/-- Rows written into the array. -/
def writeRows (m : Map (List (BitVec 36))) (rows : List (Nat × List (BitVec 36))) : Map (List (BitVec 36)) :=
  rows.foldl (fun m r => mset m r.1 r.2) m

/-- The package with matrix flags raised in a group (R304). -/
def raiseMatrix (s : State) (core slot : Nat) (f : BitVec 6) : State :=
  modLane s core slot (fun l => { l with matrixFlags := l.matrixFlags ||| f })

/-- The accumulator writes of the oldest pass land, and the results it completes (R302, R304). -/
def execAccumulatorWrite (core : Nat) (s : State) : Host.Outcome State Fault Refusal :=
  match (coreOf s core).landing with
  | [] => .next s
  | x :: rest =>
    let s := modCore s core (fun k => { k with landing := rest, accs := writeRows k.accs x.rows })
    let s := x.flags.foldl (fun s f => raiseMatrix s core f.1 f.2) s
    .next (x.done.foldl (fun s d => completeTag s core d.1 d.2) s)

/-- A cell rounded to an IEEE format (R308). -/
def cellTo (f : Fmt) (c : Nat) : FRes :=
  match valueOf af36 c with
  | .nan => ⟨canonNaN f, snanFlag af36 [c]⟩
  | .inf neg => ⟨withSign f neg (infCode f), 0⟩
  | .fin neg m e => roundTo f .rne neg m e

/-- What `mmrd` delivers for a cell and the cell in the next column, and the flags it raises. -/
def readCell (ty : Nat) (c next : Nat) : Nat × BitVec 6 :=
  match ty with
  | 9 =>
    let lo := cellTo bf16 c
    let hi := cellTo bf16 next
    (lo.code + 65536 * hi.code, mflags (lo.flags ||| hi.flags))
  | 10 => ((cellTo fp32 c).code, mflags (cellTo fp32 c).flags)
  | 13 => (c, 0)
  | 2 =>
    let v := clampInt (-(2 ^ 31 : Nat)) ((2 ^ 31 : Nat) - 1) (toSigned 36 c)
    (wrapTo 32 v, if v = toSigned 36 c then 0 else 32)
  | _ => ((sext64 36 c).toNat, 0)

/-- A cell of the array. -/
def cellAt (k : Core) (row col : Nat) : Nat := ((mget k.accs row (List.replicate 64 0)).getD col 0).toNat

/-- What `mmrd` delivers in a lane. -/
def readLane (k : Core) (ty : Nat) (cells : List (Nat × Nat × Nat)) (lane : Nat) : Nat × BitVec 6 :=
  match cells.find? (fun c => decide (c.1 = lane)) with
  | some (_, row, col) => readCell ty (cellAt k row col) (cellAt k row (col + 1))
  | none => (0, 0)

/-- What `mmrd` delivers in the lanes as the words of its destination: one register, or two for a 64-bit type (R308). -/
def readWords (wide : Bool) (v : List Nat) : List (List Word) :=
  if wide then [v.map (BitVec.ofNat 32), v.map (fun x => BitVec.ofNat 32 (x / 2 ^ 32))] else [v.map (BitVec.ofNat 32)]

/-- Cells written into the array. -/
def writeCells (m : Map (List (BitVec 36))) (cells : List (Nat × Nat × BitVec 36)) : Map (List (BitVec 36)) :=
  cells.foldl (fun m c => mset m c.1 (lset 0 (mget m c.1 (List.replicate 64 0)) c.2.1 c.2.2)) m

/-- The cohort of the group that issued a fill is still on its core. -/
def ownerHere (k : Core) (y : Fill) : Bool :=
  k.cohorts.any (fun c => decide ((c.ctx, c.seq, c.number) = (y.owner.ctx, y.owner.seq, y.owner.cohort)))

/-- The package after an entry other than a pass (R300, R307 to R310). -/
def applyArray (s : State) (core : Nat) (x : ArrayEntry) : State :=
  match x.op with
  | .zero rows =>
    let s := modCore s core (fun k => { k with accs := writeRows k.accs (rows.map (fun r => (r, List.replicate 64 0))) })
    completeTag s core x.slot x.tag
  | .read ty cells =>
    let k := coreOf s core
    let v := (List.range 64).map (readLane k ty cells)
    let s := raiseMatrix s core x.slot ((v.map (fun x => x.2)).foldl (fun a f => a ||| f) 0)
    completeValues s core x.slot x.tag (readWords (wideType ty) (v.map (fun x => x.1)))
  | .write cells =>
    completeTag (modCore s core (fun k => { k with accs := writeCells k.accs cells, latch := none })) core x.slot x.tag
  | .fill y => modCore s core (fun k => { k with fills := if ownerHere k y then k.fills ++ [y] else k.fills, latch := none })
  | .sync => s
  | .pass _ _ _ _ _ => s

/-- An entry waits for the writes of every pass ahead of it (R300). -/
def waitsLanding : ArrayOp → Bool
  | .zero _ => true
  | .read _ _ => true
  | .write _ => true
  | _ => false

/-- The entry at the head of the array queue takes effect, if it is not a pass (R300). -/
def execArrayEntry (core : Nat) (s : State) : Host.Outcome State Fault Refusal :=
  let k := coreOf s core
  match k.arrayQ with
  | [] => .next s
  | x :: rest =>
    match x.op with
    | .pass _ _ _ _ _ => .next s
    | op =>
      if waitsLanding op ∧ !k.landing.isEmpty then .next s
      else .next (applyArray (setCore s core { k with arrayQ := rest }) core x)

/-- The bytes of a fill written into its slot: column j receives n bytes at offset o (R309). -/
def writeFill (m : Memory) (bslot off n : Nat) (bs : List Byte) : Memory :=
  (List.range 64).foldl (fun m j => Memory.writeBytes m (bAddress bslot j off) ((bs.drop (j * n)).take n)) m

/-- The core with a fill's bytes in its slot. A fill whose cohort has gone, with its slot, writes none (log 101). -/
def landFill (k : Core) (c : EngineCmd) (bslot off n : Nat) (bs : List Byte) : Core :=
  if k.fills.any (fun x => decide (x.tag = c.tag)) then
    { k with bmem := writeFill k.bmem bslot off n bs,
             fills := k.fills.map (fun x => if x.tag = c.tag then { x with done := true } else x) }
  else k

/-- A fill of the engine whose source translates reads it and lands, and its scoreboard falls (R309, R314). -/
def fillStep (s : State) (core : Nat) (c : EngineCmd) : State :=
  match c.op with
  | .fill va b o n => fetchStep s core c va n (fun bs t => modCore t core (fun k => landFill k c b o (n / 64) bs))
  | _ => s

/-- A `bfill` completes (R309, R314). -/
def execBfillComplete (core : Nat) (s : State) : Host.Outcome State Fault Refusal :=
  match pickFree s 713 (fillsAtWork (coreOf s core)) with
  | none => .next s
  | some c => .next (actFor c.gid (fun s => fillStep s core c) s)

end Sys2Proof.Machine
end

