-- ==== Sys2Proof/Machine/Placement.lean ====
section
/-!
DEFINITION. Placing cohorts on cores, pre-empting them into save memory and restoring them (06_kernel R125, R131 to R133,
07_group R161 to R165, R169, 12_matrix R313, 13_plane R324, 10_memory_ops R277, 23_program_narrows R480, R481).
-/
namespace Sys2Proof.Machine

open Sys2Proof

/-! ## Room on a core (R131) -/

/-- Lanes of the groups resident on a core. -/
def lanesUsed (k : Core) : Nat := (k.groups.map (fun g => widthG g.2)).foldl (· + ·) 0

/-- Free lanes of a core. -/
def lanesFree (k : Core) : Nat := 1024 - lanesUsed k

/-- Free resident slots, ascending. -/
def slotsFree (k : Core) : List Nat := (List.range 32).filter (fun g => (mget? k.groups g).isNone)

/-- Accumulator slots in use. -/
def accUsed (k : Core) : Nat := (k.cohorts.map (fun c => c.acc)).foldl (· + ·) 0

/-- B slots in use. -/
def bUsed (k : Core) : Nat := (k.cohorts.map (fun c => c.bsl)).foldl (· + ·) 0

/-- A range of scratchpad bytes that no cohort holds. -/
def holeAt (k : Core) (base size : Nat) : Bool :=
  decide (base + size ≤ 522240) && k.cohorts.all (fun c => decide (base + size ≤ c.base) || decide (c.base + c.size ≤ base))

/-- The lowest offset at which an allocation fits. -/
def holeFor (k : Core) (size : Nat) : Option Nat :=
  (sortBy (fun a b => decide (a < b)) (0 :: k.cohorts.map (fun c => c.base + c.size))).find? (fun b => holeAt k b size)

/-- The first of a run of slot numbers that no cohort holds; numbers are the model's own names for cells (log 22). -/
def runFrom (used : List (Nat × Nat)) (n : Nat) : Nat :=
  ((sortBy (fun a b => decide (a < b)) (0 :: used.map (fun u => u.1 + u.2))).find? (fun b =>
    used.all (fun u => decide (b + n ≤ u.1) || decide (u.1 + u.2 ≤ b)))).getD 0

/-- A new cohort fits a core (R131). -/
def fitsNew (k : Core) (r : Record) : Bool :=
  decide (r.groups ≤ (slotsFree k).length) && decide (r.groups * widthOf r.wcode ≤ lanesFree k) &&
    decide (r.groups * r.floor * 2 ^ r.wcode ≤ k.pool) && (holeFor k (cohortBytes r)).isSome &&
    decide (accUsed k + r.acc ≤ 16) && decide (bUsed k + r.bsl ≤ 8)

/-- A saved cohort fits a core: with its slot numbers, its offsets and a free plane where it needs one (R131, R324,
R481). -/
def fitsSaved (k : Core) (v : SavedCohort) : Bool :=
  v.cohort.slots.all (fun g => (slotsFree k).contains g) &&
    decide ((v.groups.map widthG).foldl (· + ·) 0 ≤ lanesFree k) &&
    decide ((v.groups.map charge).foldl (· + ·) 0 ≤ k.pool) && holeAt k v.cohort.base v.cohort.size &&
    decide (accUsed k + v.cohort.acc ≤ 16) && decide (bUsed k + v.cohort.bsl ≤ 8) &&
    (v.plane.isNone || k.plane.holder.isNone)

/-! ## Pre-emption (R161, R165) -/

/-- The next instruction of a lane stream is a `ckptx`. -/
def ckptxNext (s : State) (core : Nat) (g : Group) : Bool :=
  match fetchLane s core g with
  | .ok (.translated (.ckptx _)) => true
  | .ok (.native w) => (match decodeLane w with
    | some (.ckptx _) => true
    | _ => false)
  | _ => false

/-- A group may be stopped (R161): not in a handler, with no trap of its lane stream waiting for one (R250), not from a
non-idempotent instruction to the end of the next save, which a `ckpt` and the `ckptx` that joins it make together (R158), and
not while it is held (R102) or its PLANE_FP has not been returned from (R325). -/
def mayStop (s : State) (core slot : Nat) (g : Group) : Bool :=
  g.ln.handler.isNone && !g.sc.handler && g.ln.deferred.isEmpty && !g.ln.needCkpt &&
    decide (g.ln.state ≠ .issuing) && !(followsCkpt g.ln && ckptxNext s core g) && !g.faulting &&
    decide ((ctxOf s g.ctx).state ≠ .faulted) && decide ((coreOf s core).plane.unreturned ≠ some slot)

/-- The groups of a cohort with their slots. -/
def cohortGroups (k : Core) (c : Cohort) : List (Nat × Group) := k.groups.filter (fun g => c.slots.contains g.1)

/-- A group identity belongs to a cohort. -/
def gidIn (c : Cohort) (g : GroupId) : Bool :=
  decide (g.ctx = c.ctx) && decide (g.seq = c.seq) && decide (g.cohort = c.number)

/-- The receiver is a cohort's. -/
def receiverOf (c : Cohort) (r : Receiver) : Bool := decide (r.ctx = c.ctx) && decide (r.cohort = (c.seq, c.number))

/-- A core's array queue or the writes on their way hold something of a cohort, also of a group that has exited (R313). -/
def arrayHolds (k : Core) (c : Cohort) : Bool :=
  k.arrayQ.any (fun e => gidIn c e.owner || (match e.op with
    | .pass _ _ _ qs _ => qs.any (fun q => gidIn c q.owner)
    | _ => false)) ||
  k.landing.any (fun x => x.owners.any (gidIn c))

/-- Nothing that a pre-emption waits for is under way: array and plane entries, engine commands, remote loads, the pull that
has landed bytes for its receiver (R165, R313, R324), and no write-back of it must wait for its way (R379). A pull reads its
source in one step. -/
def quiet (s : State) (core : Nat) (c : Cohort) : Bool :=
  let k := coreOf s core
  (cohortGroups k c).all (fun g => mayStop s core g.1 g.2 && g.2.rlds.isEmpty) && !arrayHolds k c &&
    !(k.plane.queue ++ k.plane.handlerQueue).any (fun e => gidIn c e.owner) &&
    !k.engine.any (fun e => ofGroup e && gidIn c e.gid) && !k.orphans.any (fun r => gidIn c r.1) &&
    !k.engine.any (fun e => match e.op with
      | .pull _ _ (some v) _ _ => receiverOf c v
      | _ => false) &&
    !releaseWaits s core .package

/-- A stopped group's q7 with what came through the narrows: detached where the group was bound (R277, R480). -/
def detachQ7 (bound : Bool) (q : Queue) : Queue :=
  let q := { q with narrow := 0 }
  if bound then { q with held := 0, nmode := true, ended := true, pendingEnd := false } else q

/-- A group as it is saved: stopped between two instructions, without registers, with its pending results and their
scoreboards (R165, R244) and its hint dropped; an ACCESS of its engine commands stays to be raised (R267); `sigs` covers what
it has written so far. -/
def stoppedGroup (bound : Bool) (sigs : List Sig) (g : Group) : Group :=
  { g with
    ln := { g.ln with
      state := .preempted, regs := [], sets := [], outstanding := [], hazards := [], sb := [], sleep := none, watch := none,
      hint := none, fault := none },
    sc := { g.sc with watch := none, fault := none, stalled := false },
    qs := lset Queue.reset g.qs 7 (detachQ7 bound (g.qs.getD 7 Queue.reset)),
    sigLane := joinSigs g.sigLane sigs, sigScalar := joinSigs g.sigScalar sigs }

/-- The rows of a cohort's accumulator slots, as the array and the saved form number them. -/
def cohortRows (c : Cohort) : List (Nat × Nat) := (List.range (32 * c.acc)).map (fun i => (32 * c.accBase + i, i))

/-- The saved shadows: a row that no snapshot covers is saved as its live value (R313). -/
def savedRows (k : Core) (c : Cohort) : Map (List (BitVec 36)) :=
  (cohortRows c).foldl (fun m r =>
    match mget? k.shadows r.1, mget? k.accs r.1 with
    | some x, _ => mset m r.2 x
    | none, some x => mset m r.2 x
    | none, none => m) []

/-- Bytes of a B slot. -/
def bSlotBytes : Nat := 131072

/-- A memory's cells of a range, moved to a new base. -/
def cutMemory (m : Memory) (lo n : Nat) : Memory :=
  (m.filter (fun c => decide (lo ≤ c.1) && decide (c.1 < lo + n))).map (fun c => (c.1 - lo, c.2))

/-- A memory with a range replaced by the cells of another, moved to a base. -/
def pasteMemory (m : Memory) (lo n : Nat) (x : Memory) : Memory :=
  (x.filter (fun c => decide (c.1 < n))).foldl (fun m c => Memory.write m (c.1 + lo) c.2)
    (m.filter (fun c => decide (c.1 < lo) || decide (lo + n ≤ c.1)))

/-- What save memory holds of a cohort (R165, R313, R324, R277). -/
def saveCohort (k : Core) (core : Nat) (w : Narrows) (c : Cohort) (sigs : List Sig) : SavedCohort :=
  let bound (slot : Nat) : Bool := decide (w.bound = some (core, slot))
  { cohort := c, groups := (cohortGroups k c).map (fun g => stoppedGroup (bound g.1) sigs g.2),
    scratch := cutMemory k.scratch c.base c.size, shadows := savedRows k c,
    bmem := cutMemory k.bmem (c.bBase * bSlotBytes) (c.bsl * bSlotBytes),
    fills := (k.fills.filter (fun x => gidIn c x.owner)).map (fun x => { x with bslot := x.bslot - c.bBase }),
    plane := if k.plane.holder = some (c.ctx, c.seq, c.number) then some k.plane.image else none,
    narrows := ((cohortGroups k c).filter (fun g => bound g.1)).map (fun g => (g.2.index, w.waiting)) }

/-- The core without a cohort and its groups. -/
def removeCohort (k : Core) (c : Cohort) : Core :=
  let gs := cohortGroups k c
  let k := gs.foldl (fun k g => orphanSlot { k with groups := merase k.groups g.1, pool := k.pool + charge g.2 } g.1) k
  let mine (n : Nat) : Bool := (cohortRows c).any (fun r => decide (r.1 = n))
  let rc := k.receiver.any (receiverOf c)
  refillReserve { k with
    cohorts := k.cohorts.filter (fun x => !(decide (x.ctx = c.ctx) && decide (x.seq = c.seq) && decide (x.number = c.number))),
    fills := k.fills.filter (fun x => !gidIn c x.owner),
    shadows := k.shadows.filter (fun e => !mine e.1),
    plane := if k.plane.holder = some (c.ctx, c.seq, c.number) then { k.plane with holder := none } else k.plane,
    latch := none,
    receiver := if rc then none else k.receiver, notices := if rc then dropNotices k.notices else k.notices }

/-- The narrows after a cohort has been stopped: the slots of its entries are free, its binding is released and the
waiting entries have gone with it (R277). -/
def leaveNarrows (s : State) (core : Nat) (gs : List (Nat × Group)) : State :=
  gs.foldl (fun s g =>
    let s := releaseSlots s core g.2 (g.2.qs.getD 7 Queue.reset).narrow
    modNarrows s core (fun w =>
      clearDirection (if w.bound = some (core, g.1) then { w with bound := none, waiting := [] } else w))) s

/-- A kernel with a cohort stopped; it is placeable for that cohort (R128, R132). -/
def stopIn (now number : Nat) (k : Kernel) : Kernel :=
  let idle := k.preempted.isEmpty && decide (k.record.cohorts ≤ k.next)
  { k with preempted := sortBy (fun a b => decide (a < b)) (number :: k.preempted),
           agedAt := if idle then now else k.agedAt, readyAt := k.readyAt }

/-- A cohort pre-empted: saved and taken off its core (R165). -/
def preemptCohort (s : State) (core : Nat) (c : Cohort) : State :=
  let gs := cohortGroups (coreOf s core) c
  let r := release s core .package []
  let s := r.2
  let v := saveCohort (coreOf s core) core (narrowsOf s core) c r.1
  let s := leaveNarrows s core gs
  let s := loseSender (modCore s core (fun k => removeCohort k c)) core c.ctx (c.seq, c.number)
  let s := modKernel { s with saved := mset s.saved s.nextSaved v, nextSaved := s.nextSaved + 1 } c.kernel (stopIn s.now c.number)
  settleSuspend s c.ctx

/-- A pre-emption of a cohort has been asked for by a suspend or by the gating of its quad (R100, R427). -/
def preemptAsked (s : State) (core : Nat) (c : Cohort) : Bool :=
  decide ((ctxOf s c.ctx).state = .suspended) || decide ((quadOf s core).state = .draining)

/-- A cohort, named by its first slot, whose groups have all reached points that R161 allows, is pre-empted (R165). -/
def execCohortPreempt (core first : Nat) (s : State) : Host.Outcome State Fault Refusal :=
  match (coreOf s core).cohorts.find? (fun c => decide (c.slots.head? = some first)) with
  | none => .next s
  | some c => if preemptAsked s core c ∧ quiet s core c then .next (preemptCohort s core c) else .next s

/-! ## New groups (R125, R139) -/

/-- The name of a cohort's core barrier (R282). -/
def coreBarrierId (core first ctx : Nat) : BarrierId := ⟨.core, core * 32 + first, ctx, 0⟩

/-- `fpc` of a new group: the profile's fields with no flag set (R6, R88). -/
def profileFpc (profile : Word) : Word := BitVec.ofNat 32 (profile.toNat % 2 ^ 19)

/-- The lane stream of a new group. -/
def newLane (w : Nat) (profile : Word) (top bottom : Nat) : Lane :=
  { state := .forming, pc := ⟨0, 0⟩, word := [], em := lanesBelow w, exited := 0, inBlock := false, ks := [], regs := [],
    sets := [], ofile := [], preds := [], lr := [], lrLegal := true, sb := [], fpc := profileFpc profile, fmt := 0xBB,
    gen := (List.range 8).map (seedGen 0),
    stack := [], mark := none, sp := BitVec.ofNat 19 top, stklim := BitVec.ofNat 19 bottom, rsp := BitVec.ofNat 19 bottom,
    t0 := List.range 16, t1 := List.range 16, path := none, region := none, needCkpt := false, justCkpt := false,
    matrixFlags := 0, matrixShadow := 0, clock := 0, next := 0, hazards := [], outstanding := [], sleep := none, watch := none,
    handler := none, yielded := false, hint := none, fence := false, need := 0, grant := 0, fault := none, faultRestarts := false,
    deferred := [] }

/-- The scalar stream of a new group (R125). -/
def newScalar (r : Record) (number index seq : Nat) : Scalar :=
  { s := (0 : DWord) :: (List.range 4).map (fun i => r.args.getD i 0) ++
      [BitVec.ofNat 64 number, BitVec.ofNat 64 index, BitVec.ofNat 64 seq] ++ List.replicate 56 0,
    pc := r.sentry, rstack := [], rmark := none, steps := 0, handler := false, stopped := false, sexited := false,
    blocks := [], stalled := false, watch := none, deferred := [], fault := none }

/-- A group of a cohort as it is placed (R125, R158, R296); what it takes from its context's registers it takes again when
it is formed (R108). -/
def newGroup (s : State) (key : Nat) (k : Kernel) (number index base : Nat) : Group :=
  let r := k.record
  let bottom := base + r.scratch + index * r.stack
  { ctx := k.ctx, kernel := key, seq := k.seq, cohort := number, index := index, wcode := r.wcode, cap := r.cap,
    floor := r.floor, prio := k.prio, checking := (ctxOf s k.ctx).checking, formed := false, age := s.now, pass := 0, spass := 0,
    stkTop := BitVec.ofNat 19 (bottom + r.stack),
    ckptBase := BitVec.ofNat 48 (r.ckbase.toNat + (number * r.groups + index) * r.ckpt), ckptSize := r.ckpt,
    lcode := r.lcode, faulting := false, ln := newLane (widthOf r.wcode) (ctxOf s k.ctx).profile (bottom + r.stack) bottom,
    sc := newScalar r number index k.seq, qs := List.replicate 8 Queue.reset, rlds := [], deferredAccess := [],
    sigLane := k.sigs, sigScalar := k.sigs, fenceSig := [], loadSig := [] }

/-- The members of a new core barrier: every group of the cohort (R282, R284). -/
def newMembers (k : Kernel) (number : Nat) : List Member :=
  (List.range k.record.groups).map (fun i => ⟨⟨k.ctx, k.seq, number, i⟩, 0, 0, 0, 0, false, none⟩)

/-- A new cohort on a core. -/
def newCohort (s : State) (core : Core) (c key : Nat) (k : Kernel) (number base : Nat) : Cohort :=
  let r := k.record
  let slots := (slotsFree core).take r.groups
  { kernel := key, ctx := k.ctx, seq := k.seq, number := number, slots := slots, base := base, size := cohortBytes r,
    accBase := runFrom (core.cohorts.map (fun x => (x.accBase, x.acc))) r.acc, acc := r.acc,
    bBase := runFrom (core.cohorts.map (fun x => (x.bBase, x.bsl))) r.bsl, bsl := r.bsl, placed := s.now,
    barrier := ⟨coreBarrierId c (slots.headD 0) k.ctx, r.groups, 0, newMembers k number, .none, [], []⟩ }

/-- The drops with which a core takes a cohort of a kernel (R127, R413). -/
def startAcquire (s : State) (core : Nat) (sigs : List Sig) : State :=
  let l := liveSigs s.now sigs
  let s := acquireDrop s core .package l
  if l.isEmpty then s else modCore s core (fun k => { k with icache := [] })

/-- The kernel after a cohort has been placed (R128, R132). The rise of its placement priority ends with that: R132 counts a time in
which the kernel has placed nothing, and does not say so of the rise (log 111). -/
def placedIn (now : Nat) (fresh : Bool) (number groups : Nat) (k : Kernel) : Kernel :=
  let k := { k with
    next := if fresh then number + 1 else k.next, preempted := k.preempted.filter (fun n => decide (n ≠ number)),
    live := if fresh then k.live + groups else k.live, boost := 0, agedAt := now, firstAt := none, reserved := false }
  { k with state :=
      if k.record.cohorts ≤ k.next then
        (if k.live = 0 ∧ k.preempted.isEmpty then .retiring else .running)
      else .placing }

/-- A kernel's next cohort placed on a core (R125, R131, R132). -/
def placeCohort (s : State) (core key : Nat) (k : Kernel) : State :=
  let number := k.next
  let s := startAcquire s core k.sigs
  let c := coreOf s core
  let base := (holeFor c (cohortBytes k.record)).getD 0
  let co := newCohort s c core key k number base
  let put (x : Core) (e : Nat × Nat) : Core :=
    let g := newGroup s key k number e.2 base
    { x with groups := mset x.groups e.1 g, pool := x.pool - charge g }
  let c := (co.slots.zipIdx).foldl put { c with
    cohorts := c.cohorts ++ [co], shadows := c.shadows.filter (fun e => !(cohortRows co).any (fun r => decide (r.1 = e.1))) }
  modKernel (setCore s core c) key (placedIn s.now true number k.record.groups)

/-! ## Restoration (R165) -/

/-- The clean bytes of a cache dropped, as evictions may at any time. -/
def dropClean (m : Map Sector) : Map Sector :=
  (m.map (fun e => (e.1, { e.2 with valid := e.2.dirty }))).filter (fun e => decide (e.2.valid ≠ 0))

/-- The entries that waiting narrows entries make in a consumer's q7 (R276, R277). -/
def carriedEntries (g : Group) (w : List NarrowsEntry) : List (List Word) :=
  let n := slotsPerEntry g
  (List.range (w.length / n)).map (fun i => (((w.drop (n * i)).take n).map (fun x => x.elems)).flatten)

/-- A group as it is read back: it forms, and then its region restarts (R137, R163, R277). It keeps the checking that it was
formed with, of which R108 says nothing (log 100). -/
def restoredGroup (narrows : List (Nat × List NarrowsEntry)) (g : Group) : Group :=
  let w := ((narrows.find? (fun e => decide (e.1 = g.index))).map (fun e => e.2)).getD []
  let q7 := g.qs.getD 7 Queue.reset
  { g with
    ln := { g.ln with state := .forming, faultRestarts := true },
    qs := lset Queue.reset g.qs 7 { q7 with saved := q7.saved ++ carriedEntries g w } }

/-- The plane that a cohort takes back: its saved state follows what former holders have queued (R324, R325). -/
def restorePlane (p : Plane) (c : Cohort) : Option PlaneImage → Plane
  | none => p
  | some x =>
    let p := { p with holder := some (c.ctx, c.seq, c.number) }
    if p.queue.isEmpty && p.handlerQueue.isEmpty then p.withImage x
    else { p with queue := p.queue ++ [⟨⟨c.ctx, c.seq, c.number, 0⟩, noGroup, ⟨0, 0⟩, 0, 0, .restore x, none⟩] }

/-- A saved cohort on the core that takes it back (R313, R324, R481). -/
def restoreCohort (s : State) (core id : Nat) (v : SavedCohort) : State :=
  let sigs := ((mget? s.kernels v.cohort.kernel).map (fun k => k.sigs)).getD []
  let s := startAcquire s core sigs
  let s := modStack
    (modCore s core (fun k => { k with l1 := dropClean k.l1, l1sigs := keptSigs (dropClean k.l1) k.l1sigs })) (dieOf core)
    (fun k => { k with l2 := dropClean k.l2, l2sigs := keptSigs (dropClean k.l2) k.l2sigs })
  let k := coreOf s core
  let c := { v.cohort with
    accBase := runFrom (k.cohorts.map (fun x => (x.accBase, x.acc))) v.cohort.acc,
    bBase := runFrom (k.cohorts.map (fun x => (x.bBase, x.bsl))) v.cohort.bsl, placed := s.now,
    barrier := { v.cohort.barrier with id := coreBarrierId core (v.cohort.slots.headD 0) v.cohort.ctx } }
  let put (x : Core) (e : Nat × Group) : Core :=
    { x with groups := mset x.groups e.1 (restoredGroup v.narrows e.2), pool := x.pool - charge e.2 }
  let k := ((c.slots.zip v.groups)).foldl put k
  let rows (m : Map (List (BitVec 36))) : Map (List (BitVec 36)) :=
    (cohortRows c).foldl (fun m r => mset m r.1 (mget v.shadows r.2 (List.replicate 64 0))) m
  let k := { k with
    cohorts := k.cohorts ++ [c], scratch := pasteMemory k.scratch c.base c.size v.scratch, accs := rows k.accs,
    shadows := rows k.shadows, bmem := pasteMemory k.bmem (c.bBase * bSlotBytes) (c.bsl * bSlotBytes) v.bmem,
    fills := k.fills ++ v.fills.map (fun x => { x with bslot := x.bslot + c.bBase }),
    plane := restorePlane k.plane c v.plane, latch := none }
  let s := { setCore s core k with saved := merase s.saved id }
  modKernel s c.kernel (placedIn s.now false c.number 0)

/-! ## The schedulers (R132, R133) -/

/-- A kernel has a cohort to place and may place it. -/
def placeable (s : State) (k : Kernel) : Bool :=
  (decide (k.state = .ready) || decide (k.state = .placing) || decide (k.state = .running)) &&
    (!k.preempted.isEmpty || decide (k.next < k.record.cohorts)) && decide ((ctxOf s k.ctx).state = .runnable)

/-- A kernel's placement priority (R132). -/
def placePrio (k : Kernel) : Nat := if 255 ≤ k.prio then 255 else max k.prio (min 254 (k.prio + k.boost))

/-- A kernel goes before another (R132 lines 001, 002). -/
def goesBefore (a b : Kernel) : Bool :=
  lexLt [255 - placePrio a, a.readyAt, a.ctx, a.seq] [255 - placePrio b, b.readyAt, b.ctx, b.seq]

/-- A die's placeable kernels in order (R132 lines 001, 002). -/
def placeOrder (s : State) (die : Nat) : List (Nat × Kernel) :=
  sortBy (fun a b => goesBefore a.2 b.2)
    (s.kernels.filter (fun e => decide (e.2.die = die) && placeable s e.2))

/-- A core belongs to a kernel's partition. -/
def inSet (s : State) (k : Kernel) (core : Nat) : Bool :=
  (mget s.partitions (ctxOf s k.ctx).partition Partition.reset).cores.getLsbD core

/-- The reservation of a kernel that goes before keeps a kernel off a core (R132). -/
def reservedFrom (s : State) (n : Nat) (k : Kernel) (core : Nat) : Bool :=
  s.kernels.any (fun e => e.2.reserved && decide (e.1 ≠ n) && goesBefore e.2 k && placeable s e.2 && decide (e.2.die = dieOf core) &&
    inSet s e.2 core)

/-- The cores of a die that may take a cohort of a kernel at all. -/
def coresFor (s : State) (n : Nat) (k : Kernel) (die : Nat) : List Nat :=
  ((List.range 256).map (fun i => 256 * die + i)).filter (fun c =>
    inSet s k c && decide ((quadOf s c).state = .active) && !reservedFrom s n k c)

/-- A kernel's cohort to place next: its lowest pre-empted one, as saved, else a new one (R132 line 003). -/
def savedOf (s : State) (n : Nat) (k : Kernel) : Option (Nat × SavedCohort) :=
  match k.preempted with
  | [] => none
  | i :: _ => mfind? s.saved (fun _ v => decide (v.cohort.kernel = n) && decide (v.cohort.number = i))

/-- The cohort fits a core. -/
def fits (k : Kernel) (v : Option (Nat × SavedCohort)) (c : Core) : Bool :=
  match v with
  | some (_, v) => fitsSaved c v
  | none => fitsNew c k.record

/-- The fitting core with most free lanes, the lowest of equals. -/
def bestCore (s : State) (l : List Nat) : Option Nat :=
  (sortBy (fun a b => lexLt [1024 - lanesFree (coreOf s a), a] [1024 - lanesFree (coreOf s b), b]) l).head?

/-- Where a kernel's cohort goes (R132 lines 004 to 007). -/
def placeWhere (s : State) (n : Nat) (k : Kernel) (v : Option (Nat × SavedCohort)) : Option Nat :=
  [k.die, k.die ^^^ 1, k.die ^^^ 2, k.die ^^^ 3].findSome? (fun d =>
    bestCore s ((coresFor s n k d).filter (fun c => fits k v (coreOf s c))))

/-- The kernel's next cohort put on a core. -/
def putCohort (s : State) (n core : Nat) (k : Kernel) (v : Option (Nat × SavedCohort)) : State :=
  match v with
  | some (id, v) => restoreCohort s core id v
  | none => placeCohort s core n k

/-- The cohorts of a core that an express kernel may displace, latest placed first (R133); those of a faulted context are held
(R102). -/
def victims (s : State) (c : Core) : List Cohort :=
  sortBy (fun a b => decide (b.placed < a.placed))
    (c.cohorts.filter (fun x => (mget? s.kernels x.kernel).any (fun k => decide (k.prio < 255)) &&
      decide ((ctxOf s x.ctx).state ≠ .faulted)))

/-- The first cohorts of a list whose removal makes room, with their lanes. -/
def roomBy (fit : Core → Bool) : Core → Nat → List Cohort → List Cohort → Option (Nat × List Cohort)
  | c, lanes, acc, l =>
    if fit c then some (lanes, acc.reverse)
    else
      match l with
      | [] => none
      | x :: l =>
        roomBy fit (removeCohort c x) (lanes + ((cohortGroups c x).map (fun g => widthG g.2)).foldl (· + ·) 0) (x :: acc) l

/-- The core that an express kernel clears and the cohorts it displaces there (R133). -/
def expressChoice (s : State) (n : Nat) (k : Kernel) (v : Option (Nat × SavedCohort)) : Option (Nat × List Cohort) :=
  let l := (coresFor s n k k.die).filterMap (fun c =>
    (roomBy (fits k v) (coreOf s c) 0 [] (victims s (coreOf s c))).map (fun r => (r.1, c, r.2)))
  ((sortBy (fun a b => lexLt [a.1, a.2.1] [b.1, b.2.1]) l).head?).map (fun e => e.2)

/-- An express kernel pre-empts the chosen cohorts whose groups may be stopped now; the others go at a later step
(R133). -/
def expressPreempt (s : State) (n : Nat) (k : Kernel) (v : Option (Nat × SavedCohort)) : State :=
  match expressChoice s n k v with
  | none => s
  | some (core, l) => l.foldl (fun s c => if quiet s core c then preemptCohort s core c else s) s

/-- Kernels tried in order; the first that fits places one cohort (R132). -/
def placeFirst (s : State) : List (Nat × Kernel) → State
  | [] => s
  | (n, k) :: l =>
    let v := savedOf s n k
    match placeWhere s n k v with
    | some core => putCohort s n core k v
    | none => if k.prio = 255 then expressPreempt s n k v else placeFirst s l

/-- Which kernel is the first of its die's order is kept, with the time since when (R132). -/
def noteFirst (s : State) : State :=
  let firsts := (List.range 4).filterMap (fun d => ((placeOrder s d).head?).map (fun e => e.1))
  { s with kernels := mapEntries s.kernels (fun n k =>
      if firsts.contains n then { k with firstAt := some (k.firstAt.getD s.now) }
      else { k with firstAt := none }) }

/-- A scheduler places one cohort (R132). -/
def execPlacementStep (die : Nat) (s : State) : Host.Outcome State Fault Refusal := .next (placeFirst s (placeOrder s die))

/-- The kernel that a scheduler places a cohort of, and the core (R132); an express kernel that fits nowhere keeps those behind it
back (R133). -/
def nextPlacement (s : State) : List (Nat × Kernel) → Option (Nat × Nat)
  | [] => none
  | (n, k) :: l =>
    match placeWhere s n k (savedOf s n k) with
    | some core => some (n, core)
    | none => if k.prio = 255 then none else nextPlacement s l

/-- 1 ms in ns. -/
def agingTime : Nat := 1000000

/-- A full 1 ms in which a placeable kernel has placed nothing, or in which it has been the first in order, has passed
(R132). -/
def execPlacementAging (n : Nat) (s : State) : Host.Outcome State Fault Refusal :=
  match mget? s.kernels n with
  | none => .next s
  | some k =>
    if placeable s k then
      let s := if k.agedAt + agingTime ≤ s.now ∧ k.prio < 255 then
          modKernel s n (fun k => { k with boost := min (k.boost + 1) (254 - k.prio), agedAt := k.agedAt + agingTime })
        else s
      .next (modKernel s n (fun k =>
        { k with reserved := k.reserved || k.firstAt.any (fun t => decide (t + agingTime ≤ s.now)) }))
    else .next s

/-- A saved cohort is read back (R165), as its scheduler places it (R132). -/
def execCohortRestore (saved core : Nat) (s : State) : Host.Outcome State Fault Refusal :=
  match mget? s.saved saved with
  | none => .next s
  | some v =>
    match mget? s.kernels v.cohort.kernel with
    | none => .next s
    | some k =>
      if nextPlacement s (placeOrder s k.die) = some (v.cohort.kernel, core) ∧
          (savedOf s v.cohort.kernel k).map (fun x => x.1) = some saved then
        .next (restoreCohort s core saved v)
      else .next s

/-- A group that forms for the first time, its initial state loaded: checking and profile are its context's of then (R108), its age
begins, its pass counters are 0 (R141). -/
def formedGroup (s : State) (g : Group) : Group :=
  { g with formed := true, age := s.now, pass := 0, spass := 0, checking := (ctxOf s g.ctx).checking,
           ln := { g.ln with state := .ready, faultRestarts := false, fpc := profileFpc (ctxOf s g.ctx).profile } }

/-- A group's plane has still to be restored (R324). -/
def planeAwaited (k : Core) (g : Group) : Bool :=
  decide (k.plane.holder = some (holderOf g)) && k.plane.queue.any (fun e => match e.op with
    | .restore _ => true
    | _ => false)

/-- A group's initial state has been loaded (R137, R138); a restored group keeps its age, and its pass counters are 0 (R141). -/
def execGroupFormed (core slot : Nat) (s : State) : Host.Outcome State Fault Refusal :=
  match groupOf s core slot with
  | none => .next s
  | some g =>
    if g.ln.state ≠ .forming ∨ planeAwaited (coreOf s core) g then .next s
    else if g.formed then .next (setGroup s core slot { g with pass := 0, spass := 0, ln := { g.ln with state := .ready } })
    else .next (setGroup s core slot (formedGroup s g))

end Sys2Proof.Machine
end

