-- ==== Sys2Proof/Machine/Fixture.lean ====
section
/-!
DEFINITION. One instruction placed where a stream fetches next: a package that runs, with one context, one address
space, one group (log 10).
-/
namespace Sys2Proof.Machine

open Sys2Proof

/-- The launch record of the fixture's kernel: one cohort of one 32-lane group with an accumulator slot, a B slot, scratchpad
and stack. -/
def fixtureRecord : Record :=
  { sentry := 0x1000, casnis := false, lcode := 0x1000, wcode := 2, groups := 1, cap := 128, floor := 16, acc := 1, bsl := 1,
    cohorts := 1, scratch := 4096, stack := 4096, ckpt := 65536, prio := 100, fstop := false, flag := 0, value := 0, args := [],
    ckbase := 0x100000, rd := [], wr := [] }

/-- The fixture's kernel. -/
def fixtureKernel : Kernel :=
  { record := fixtureRecord, ctx := 0, seq := 0, die := 0, state := .placing, queue := none, parent := none, ancestors := [],
    deps := [], next := 0, preempted := [], live := 0, prio := 100, boost := 0, readyAt := 0, agedAt := 0, firstAt := none,
    reserved := false, launch := 0, sigs := [], flagged := false }

/-- The fixture's context: runnable, its page tables at 0x1_0000. -/
def fixtureContext : Context :=
  { Context.created with state := .runnable, root := 0x10000, profile := 0x40, ceiling := 255, logBase := 0x8000000, logSize := 64,
                         helper := 0, checking := false }

/-- Page tables that map the first 256 MiB of the address space, readable, writable and executable (R343, R344). -/
def fixtureTables (m : Memory) : Memory :=
  Memory.writeBytes (Memory.writeBytes m 0x10000 (natToBytes 8 0x20001)) 0x20000 (natToBytes 8 0x1000001F)

/-- The lane stream in an open block at the instruction's address, its pipeline empty. -/
def fixtureLane (l : Lane) : Lane := { l with state := .ready, pc := ⟨0x1000, 0⟩, inBlock := true }

/-- The group in slot 0 of core 0 ready to issue, its first block running. -/
def readyFixture (g : Group) : Group :=
  { g with ln := fixtureLane g.ln, sc := { g.sc with blocks := [⟨0x1000, List.replicate 8 0⟩] } }

/-- The stream that runs an instruction's bits: the scalar stream where it has the word. -/
noncomputable def tableStream (nbits w : Nat) : Stream :=
  if (decodeScalar (w % 2 ^ nbits % 2 ^ lengthOf (w % 2 ^ nbits))).isSome then .scalar else .lane

/-- The package in which the next step fetches and runs an instruction whose bits are `w`, as the opcode table numbers
them: core 0 holds nothing but one group of a running context, and it is its stream's turn. -/
noncomputable def placeWord (s : State) (nbits w : Nat) : State :=
  let bs := bytesOfWord 12 (w % 2 ^ nbits)
  let s := { s with
    agenda := [], packed := [], passed := [], rma := [], logging := [], dies := mset s.dies 0 { dieRec s 0 with poison := [] },
    mem := Memory.writeBytes (fixtureTables s.mem) 0x10001000 bs,
    cores := mset s.cores 0 Core.reset, dieStacks := mset s.dieStacks 0 Stack.reset, ctxs := mset s.ctxs 0 fixtureContext,
    kernels := mset s.kernels 0 fixtureKernel, quads := mset s.quads 0 Quad.reset, skerries := [],
    turn := match tableStream nbits w with
      | .scalar => .scalar 0 0
      | .lane => .lane 0 0,
    fw := { s.fw with mhead := epWord s 0x2000 } }
  modGroup (placeCohort s 0 0 fixtureKernel) 0 0 readyFixture

end Sys2Proof.Machine
end

