-- ==== Sys2Proof/Machine/Integer.lean ====
section
/-!
DEFINITION. The integer, logic, shift, field and compare instructions of the lane stream and their short forms
(08_lane_ops R196 to R199, 02_encoding R64).
-/
namespace Sys2Proof.Machine

open Sys2Proof

/-! ## Shared operations -/

/-- A one-source instruction of fixed latency: the 32-bit result of each lane taking part; `op` is given the lane
stream and the source at field `a`. -/
def alu1 (i : Instr) (a lat : Nat) (op : Lane → Nat → Nat) (s : State) : Host.Outcome State Fault Refusal :=
  runLane i s (fun e s =>
    .ok (Done.regs s lat (write32 (fieldAt e.x 0).spec e.lanes (fun l => op e.g.ln (src32 s e (fieldAt e.x a) l))) 0))

/-- A two-source instruction of fixed latency. -/
def alu2 (i : Instr) (a b lat : Nat) (op : Lane → Nat → Nat → Nat) (s : State) : Host.Outcome State Fault Refusal :=
  runLane i s (fun e s =>
    .ok (Done.regs s lat (write32 (fieldAt e.x 0).spec e.lanes
      (fun l => op e.g.ln (src32 s e (fieldAt e.x a) l) (src32 s e (fieldAt e.x b) l))) 0))

/-- A three-source instruction of fixed latency. -/
def alu3 (i : Instr) (lat : Nat) (op : Nat → Nat → Nat → Nat) (s : State) : Host.Outcome State Fault Refusal :=
  runLane i s (fun e s =>
    .ok (Done.regs s lat (write32 (fieldAt e.x 0).spec e.lanes
      (fun l => op (src32 s e (fieldAt e.x 1) l) (src32 s e (fieldAt e.x 2) l) (src32 s e (fieldAt e.x 3) l))) 0))

/-- A two-source instruction on register pairs. -/
def aluPair (i : Instr) (op : Nat → Nat → Nat) (s : State) : Host.Outcome State Fault Refusal :=
  runLane i s (fun e s =>
    .ok (Done.regs s 2 (write64 (fieldAt e.x 0).spec e.lanes
      (fun l => op (src64 s e (fieldAt e.x 1) l) (src64 s e (fieldAt e.x 2) l))) 0))

/-! ## Results (R196 to R198) -/

/-- (a + b)[31:0]. -/
def iaddOp (a b : Nat) : Nat := (a + b) % 2 ^ 32
/-- (a − b)[31:0]. -/
def isubOp (a b : Nat) : Nat := (a + 2 ^ 32 - b) % 2 ^ 32
/-- (a × b)[31:0]. -/
def imulOp (a b : Nat) : Nat := a * b % 2 ^ 32
/-- The high word of the product. -/
def imulhOp (v : SU) (a b : Nat) : Nat :=
  match v with
  | .i32 => wrapTo 32 (toSigned 32 a * toSigned 32 b / 2 ^ 32)
  | .n32 => a * b / 2 ^ 32
/-- (a × b + c)[31:0]. -/
def imadOp (a b c : Nat) : Nat := (a * b + c) % 2 ^ 32
/-- |a| of the signed word. -/
def iabsOp (a : Nat) : Nat := (toSigned 32 a).natAbs % 2 ^ 32
/-- The value that a word has under a variant. -/
def suValue (v : SU) (a : Nat) : Int :=
  match v with
  | .i32 => toSigned 32 a
  | .n32 => (a : Int)
/-- The smaller. -/
def iminOp (v : SU) (a b : Nat) : Nat := if suValue v b < suValue v a then b else a
/-- The larger. -/
def imaxOp (v : SU) (a b : Nat) : Nat := if suValue v a < suValue v b then b else a
/-- An exact value clamped to a variant's range. -/
def clampSu (v : SU) (x : Int) : Nat :=
  match v with
  | .i32 => wrapTo 32 (clampInt (-(2 ^ 31)) (2 ^ 31 - 1) x)
  | .n32 => wrapTo 32 (clampInt 0 (2 ^ 32 - 1) x)
/-- A saturating sum. -/
def iaddSatOp (v : SU) (a b : Nat) : Nat := clampSu v (suValue v a + suValue v b)
/-- A saturating difference. -/
def isubSatOp (v : SU) (a b : Nat) : Nat := clampSu v (suValue v a - suValue v b)
/-- The 64-bit sum. -/
def add64Op (a b : Nat) : Nat := (a + b) % 2 ^ 64
/-- The 64-bit difference. -/
def sub64Op (a b : Nat) : Nat := (a + 2 ^ 64 - b) % 2 ^ 64
/-- NOT a. -/
def notOp (a : Nat) : Nat := 2 ^ 32 - 1 - a % 2 ^ 32
/-- a AND NOT b. -/
def andnOp (a b : Nat) : Nat := a &&& notOp b
/-- The number of ones. -/
def popcOp (a : Nat) : Nat := ((List.range 32).filter (fun i => a.testBit i)).length
/-- Leading zeros; 32 for 0. -/
def clzOp (a : Nat) : Nat := ((List.range 32).takeWhile (fun i => !a.testBit (31 - i))).length
/-- Trailing zeros; 32 for 0. -/
def ctzOp (a : Nat) : Nat := ((List.range 32).takeWhile (fun i => !a.testBit i)).length
/-- Bit i moved to bit 31 − i. -/
def brevOp (a : Nat) : Nat := (List.range 32).foldl (fun r i => r + b2n (a.testBit i) * 2 ^ (31 - i)) 0

/-- Shift amounts saturate (R88, R95). -/
def shiftSat (l : Lane) : Bool := decide (l.fpc.toNat / 2 ^ 11 % 4 = 1)
/-- `shl` (R95, R197). -/
def shlOp (l : Lane) (a n : Nat) : Nat :=
  if shiftSat l ∧ 32 ≤ n then 0 else a * 2 ^ (n % 32) % 2 ^ 32
/-- `shr` (R95, R197). -/
def shrOp (l : Lane) (a n : Nat) : Nat := if shiftSat l ∧ 32 ≤ n then 0 else a / 2 ^ (n % 32)
/-- `sar` (R95, R197). -/
def sarOp (l : Lane) (a n : Nat) : Nat :=
  if shiftSat l ∧ 32 ≤ n then (if a.testBit 31 then 2 ^ 32 - 1 else 0) else wrapTo 32 (toSigned 32 a / 2 ^ (n % 32))
/-- `rot` (R197). -/
def rotOp (a n : Nat) : Nat := (a * 2 ^ (n % 32) + a / 2 ^ (32 - n % 32)) % 2 ^ 32

/-- The field position (R198). -/
def fieldPos (b : Nat) : Nat := min (b % 256) 32
/-- The field length (R198). -/
def fieldLen (b : Nat) : Nat := min (b / 256 % 256) (32 - fieldPos b)
/-- `bfx` (R198). -/
def bfxOp (v : SU) (a b : Nat) : Nat :=
  let x := a / 2 ^ fieldPos b % 2 ^ fieldLen b
  match v with
  | .i32 => if fieldLen b = 0 then 0 else wrapTo 32 (toSigned (fieldLen b) x)
  | .n32 => x
/-- `bfi`: a with a field replaced by the low bits of b; c gives the field (R198). -/
def bfiOp (a b c : Nat) : Nat :=
  let p := 2 ^ fieldPos c
  let n := 2 ^ fieldLen c
  a % p + b % n * p + a / (p * n) * (p * n)

/-- The truth of a condition (R199). -/
def icmpOp (c : ICond) (a b : Nat) : Bool :=
  let x := toSigned 32 a
  let y := toSigned 32 b
  match c with
  | .eq => decide (a = b)
  | .ne => decide (a ≠ b)
  | .ltI => decide (x < y)
  | .leI => decide (x ≤ y)
  | .gtI => decide (y < x)
  | .geI => decide (y ≤ x)
  | .ltN => decide (a < b)
  | .leN => decide (a ≤ b)
  | .gtN => decide (b < a)
  | .geN => decide (b ≤ a)

/-! ## The instructions -/

/-- `iadd` (R196). -/
def execIadd (f : LaneForm) (s : State) : Host.Outcome State Fault Refusal :=
  alu2 (.iadd f) 1 2 2 (fun _ => iaddOp) s

/-- Short `iadd` (R64). -/
def execIaddShort (f : ShortForm) (s : State) : Host.Outcome State Fault Refusal :=
  alu2 (.iaddShort f) 1 4 2 (fun _ => iaddOp) s

/-- `isub` (R196). -/
def execIsub (f : LaneForm) (s : State) : Host.Outcome State Fault Refusal :=
  alu2 (.isub f) 1 2 2 (fun _ => isubOp) s

/-- Short `isub` (R64). -/
def execIsubShort (f : ShortForm) (s : State) : Host.Outcome State Fault Refusal :=
  alu2 (.isubShort f) 1 4 2 (fun _ => isubOp) s

/-- `imul` (R196). -/
def execImul (f : LaneForm) (s : State) : Host.Outcome State Fault Refusal :=
  alu2 (.imul f) 1 2 4 (fun _ => imulOp) s

/-- Short `imul` (R64). -/
def execImulShort (f : ShortForm) (s : State) : Host.Outcome State Fault Refusal :=
  alu2 (.imulShort f) 1 4 4 (fun _ => imulOp) s

/-- `imulh` (R196). -/
def execImulh (v : SU) (f : LaneForm) (s : State) : Host.Outcome State Fault Refusal :=
  alu2 (.imulh v f) 1 2 4 (fun _ => imulhOp v) s

/-- `imad` (R196). -/
def execImad (f : LaneForm) (s : State) : Host.Outcome State Fault Refusal :=
  alu3 (.imad f) 4 imadOp s

/-- `iabs` (R196). -/
def execIabs (f : LaneForm) (s : State) : Host.Outcome State Fault Refusal :=
  alu1 (.iabs f) 1 2 (fun _ => iabsOp) s

/-- Short `iabs` (R64). -/
def execIabsShort (f : ShortForm) (s : State) : Host.Outcome State Fault Refusal :=
  alu1 (.iabsShort f) 4 2 (fun _ => iabsOp) s

/-- `imin` (R196). -/
def execImin (v : SU) (f : LaneForm) (s : State) : Host.Outcome State Fault Refusal :=
  alu2 (.imin v f) 1 2 2 (fun _ => iminOp v) s

/-- `imax` (R196). -/
def execImax (v : SU) (f : LaneForm) (s : State) : Host.Outcome State Fault Refusal :=
  alu2 (.imax v f) 1 2 2 (fun _ => imaxOp v) s

/-- Short `imin.i32` (R64). -/
def execIminI32Short (f : ShortForm) (s : State) : Host.Outcome State Fault Refusal :=
  alu2 (.iminI32Short f) 1 4 2 (fun _ => iminOp .i32) s

/-- Short `imax.i32` (R64). -/
def execImaxI32Short (f : ShortForm) (s : State) : Host.Outcome State Fault Refusal :=
  alu2 (.imaxI32Short f) 1 4 2 (fun _ => imaxOp .i32) s

/-- Short `imin.n32` (R64). -/
def execIminN32Short (f : ShortForm) (s : State) : Host.Outcome State Fault Refusal :=
  alu2 (.iminN32Short f) 1 4 2 (fun _ => iminOp .n32) s

/-- Short `imax.n32` (R64). -/
def execImaxN32Short (f : ShortForm) (s : State) : Host.Outcome State Fault Refusal :=
  alu2 (.imaxN32Short f) 1 4 2 (fun _ => imaxOp .n32) s

/-- `add64` (R196). -/
def execAdd64 (f : LaneForm) (s : State) : Host.Outcome State Fault Refusal :=
  aluPair (.add64 f) add64Op s

/-- `sub64` (R196). -/
def execSub64 (f : LaneForm) (s : State) : Host.Outcome State Fault Refusal :=
  aluPair (.sub64 f) sub64Op s

/-- `iadd.sat` (R196). -/
def execIaddSat (v : SU) (f : LaneForm) (s : State) : Host.Outcome State Fault Refusal :=
  alu2 (.iaddSat v f) 1 2 2 (fun _ => iaddSatOp v) s

/-- `isub.sat` (R196). -/
def execIsubSat (v : SU) (f : LaneForm) (s : State) : Host.Outcome State Fault Refusal :=
  alu2 (.isubSat v f) 1 2 2 (fun _ => isubSatOp v) s

/-- `and` (R196). -/
def execAnd (f : LaneForm) (s : State) : Host.Outcome State Fault Refusal :=
  alu2 (.and f) 1 2 2 (fun _ => (fun a b => a &&& b)) s

/-- Short `and` (R64). -/
def execAndShort (f : ShortForm) (s : State) : Host.Outcome State Fault Refusal :=
  alu2 (.andShort f) 1 4 2 (fun _ => (fun a b => a &&& b)) s

/-- `or` (R196). -/
def execOr (f : LaneForm) (s : State) : Host.Outcome State Fault Refusal :=
  alu2 (.or f) 1 2 2 (fun _ => (fun a b => a ||| b)) s

/-- Short `or` (R64). -/
def execOrShort (f : ShortForm) (s : State) : Host.Outcome State Fault Refusal :=
  alu2 (.orShort f) 1 4 2 (fun _ => (fun a b => a ||| b)) s

/-- `xor` (R196). -/
def execXor (f : LaneForm) (s : State) : Host.Outcome State Fault Refusal :=
  alu2 (.xor f) 1 2 2 (fun _ => (fun a b => a ^^^ b)) s

/-- Short `xor` (R64). -/
def execXorShort (f : ShortForm) (s : State) : Host.Outcome State Fault Refusal :=
  alu2 (.xorShort f) 1 4 2 (fun _ => (fun a b => a ^^^ b)) s

/-- `andn` (R196). -/
def execAndn (f : LaneForm) (s : State) : Host.Outcome State Fault Refusal :=
  alu2 (.andn f) 1 2 2 (fun _ => andnOp) s

/-- Short `andn` (R64). -/
def execAndnShort (f : ShortForm) (s : State) : Host.Outcome State Fault Refusal :=
  alu2 (.andnShort f) 1 4 2 (fun _ => andnOp) s

/-- `not` (R196). -/
def execNot (f : LaneForm) (s : State) : Host.Outcome State Fault Refusal :=
  alu1 (.not f) 1 2 (fun _ => notOp) s

/-- Short `not` (R64). -/
def execNotShort (f : ShortForm) (s : State) : Host.Outcome State Fault Refusal :=
  alu1 (.notShort f) 4 2 (fun _ => notOp) s

/-- `mov` (R196). -/
def execMov (f : LaneForm) (s : State) : Host.Outcome State Fault Refusal :=
  alu1 (.mov f) 1 2 (fun _ => (fun a => a)) s

/-- Short `mov` (R64). -/
def execMovShort (f : ShortForm) (s : State) : Host.Outcome State Fault Refusal :=
  alu1 (.movShort f) 4 2 (fun _ => (fun a => a)) s

/-- `sel` (R196). -/
def execSel (f : LaneForm) (s : State) : Host.Outcome State Fault Refusal :=
  runLane (.sel f) s (fun e s =>
    let p := predMask s e.g.ln f.src3.toNat
    .ok (Done.regs s 2 (write32 f.dst.toNat e.lanes
      (fun l => if p.getLsbD l then src32 s e (fieldAt e.x 1) l else src32 s e (fieldAt e.x 2) l)) 0))

/-- `shl` (R197). -/
def execShl (f : LaneForm) (s : State) : Host.Outcome State Fault Refusal :=
  alu2 (.shl f) 1 2 2 shlOp s

/-- Short `shl` (R64). -/
def execShlShort (f : ShortForm) (s : State) : Host.Outcome State Fault Refusal :=
  alu2 (.shlShort f) 1 4 2 shlOp s

/-- `shr` (R197). -/
def execShr (f : LaneForm) (s : State) : Host.Outcome State Fault Refusal :=
  alu2 (.shr f) 1 2 2 shrOp s

/-- Short `shr` (R64). -/
def execShrShort (f : ShortForm) (s : State) : Host.Outcome State Fault Refusal :=
  alu2 (.shrShort f) 1 4 2 shrOp s

/-- `sar` (R197). -/
def execSar (f : LaneForm) (s : State) : Host.Outcome State Fault Refusal :=
  alu2 (.sar f) 1 2 2 sarOp s

/-- Short `sar` (R64). -/
def execSarShort (f : ShortForm) (s : State) : Host.Outcome State Fault Refusal :=
  alu2 (.sarShort f) 1 4 2 sarOp s

/-- `rot` (R197). -/
def execRot (f : LaneForm) (s : State) : Host.Outcome State Fault Refusal :=
  alu2 (.rot f) 1 2 2 (fun _ => rotOp) s

/-- Short `rot` (R64). -/
def execRotShort (f : ShortForm) (s : State) : Host.Outcome State Fault Refusal :=
  alu2 (.rotShort f) 1 4 2 (fun _ => rotOp) s

/-- `popc` (R196). -/
def execPopc (f : LaneForm) (s : State) : Host.Outcome State Fault Refusal :=
  alu1 (.popc f) 1 2 (fun _ => popcOp) s

/-- Short `popc` (R64). -/
def execPopcShort (f : ShortForm) (s : State) : Host.Outcome State Fault Refusal :=
  alu1 (.popcShort f) 4 2 (fun _ => popcOp) s

/-- `clz` (R196). -/
def execClz (f : LaneForm) (s : State) : Host.Outcome State Fault Refusal :=
  alu1 (.clz f) 1 2 (fun _ => clzOp) s

/-- Short `clz` (R64). -/
def execClzShort (f : ShortForm) (s : State) : Host.Outcome State Fault Refusal :=
  alu1 (.clzShort f) 4 2 (fun _ => clzOp) s

/-- `ctz` (R196). -/
def execCtz (f : LaneForm) (s : State) : Host.Outcome State Fault Refusal :=
  alu1 (.ctz f) 1 2 (fun _ => ctzOp) s

/-- Short `ctz` (R64). -/
def execCtzShort (f : ShortForm) (s : State) : Host.Outcome State Fault Refusal :=
  alu1 (.ctzShort f) 4 2 (fun _ => ctzOp) s

/-- `brev` (R196). -/
def execBrev (f : LaneForm) (s : State) : Host.Outcome State Fault Refusal :=
  alu1 (.brev f) 1 2 (fun _ => brevOp) s

/-- Short `brev` (R64). -/
def execBrevShort (f : ShortForm) (s : State) : Host.Outcome State Fault Refusal :=
  alu1 (.brevShort f) 4 2 (fun _ => brevOp) s

/-- `bfx` (R198). -/
def execBfx (v : SU) (f : LaneForm) (s : State) : Host.Outcome State Fault Refusal :=
  alu2 (.bfx v f) 1 2 2 (fun _ => bfxOp v) s

/-- `bfi` (R198). -/
def execBfi (f : LaneForm) (s : State) : Host.Outcome State Fault Refusal :=
  alu3 (.bfi f) 2 bfiOp s

/-- `icmp` (R199). -/
def execIcmp (c : ICond) (f : LaneForm) (s : State) : Host.Outcome State Fault Refusal :=
  runLane (.icmp c f) s (fun e s =>
    .ok (Done.pred s f.dst.toNat e.lanes
      (maskOf (fun l => icmpOp c (src32 s e (fieldAt e.x 1) l) (src32 s e (fieldAt e.x 2) l))) 0))

end Sys2Proof.Machine
end

