-- ==== Sys2Proof/Machine/CrossLane.lean ====
section
/-!
DEFINITION. Cross-lane operations: shuffles, swaps, votes, reductions and scans (08_lane_ops R217 to R223, 03_numbers
R87).
-/
namespace Sys2Proof.Machine

open Sys2Proof

/-! ## Shuffles -/

/-- The source lane of a shuffle for a lane, its index operand and the sub-group width (R217, R219). -/
def shflSource (k : ShflKind) (w lane b : Nat) : Nat :=
  let base := lane / w * w
  let n := b % w
  match k with
  | .idx => base + n
  | .xor => base + ((lane - base) ^^^ n)
  | .up => if base + n ≤ lane then lane - n else lane
  | .dn => if lane + n < base + w then lane + n else lane

/-- `shfl` (R218, R219). -/
def execShfl (k : ShflKind) (f : LaneForm) (s : State) : Host.Outcome State Fault Refusal :=
  runLane (.shfl k f) s (fun e s =>
    let w := 2 ^ f.src3.toNat
    .ok (Done.regs s 4 (write32 f.dst.toNat e.lanes
      (fun l => src32 s e (fieldAt e.x 1) (shflSource k w l (src32 s e (fieldAt e.x 2) l)))) 0))

/-- `swp` (R220). -/
def execSwp (f : LaneForm) (s : State) : Host.Outcome State Fault Refusal :=
  runLane (.swp f) s (fun e s =>
    .ok (Done.regs s 2 (write32 f.dst.toNat e.lanes (fun l => src32 s e (fieldAt e.x 1) (l ^^^ 2 ^ f.src2.toNat))) 0))

/-! ## Votes (R221) -/

/-- The lanes taking part in which a predicate is true. -/
def voters (s : State) (e : Iss) (p : Nat) : Mask := e.lanes &&& predMask s e.g.ln p

/-- A truth value for every lane. -/
def everyLane (b : Bool) : Mask := if b then BitVec.allOnes 64 else 0

/-- `vote.any`. -/
def execVoteAny (f : LaneForm) (s : State) : Host.Outcome State Fault Refusal :=
  runLane (.voteAny f) s (fun e s =>
    .ok (Done.pred s f.dst.toNat e.lanes (everyLane (decide (voters s e f.src1.toNat ≠ 0))) 0))

/-- `vote.all`. -/
def execVoteAll (f : LaneForm) (s : State) : Host.Outcome State Fault Refusal :=
  runLane (.voteAll f) s (fun e s =>
    .ok (Done.pred s f.dst.toNat e.lanes (everyLane (decide (voters s e f.src1.toNat = e.lanes))) 0))

/-- `vote.bal`. -/
def execVoteBal (f : LaneForm) (s : State) : Host.Outcome State Fault Refusal :=
  runLane (.voteBal f) s (fun e s =>
    .ok (Done.regs s 2 (write64 f.dst.toNat e.lanes (fun _ => (voters s e f.src1.toNat).toNat)) 0))

/-! ## Reductions and scans (R87, R222) -/

/-- The operation of `red` and `scan` on two values, the lower positions' first. -/
def redCombine (env : FEnv) (op : RedOp) (a b : Nat) : FRes :=
  match op with
  | .addI => ⟨iaddOp a b, 0⟩
  | .addF => fAdd fp32 env env.rnd a b
  | .minI => ⟨iminOp .i32 a b, 0⟩
  | .minN => ⟨iminOp .n32 a b, 0⟩
  | .maxI => ⟨imaxOp .i32 a b, 0⟩
  | .maxN => ⟨imaxOp .n32 a b, 0⟩
  | .minF => fMinMax fp32 env true a b
  | .maxF => fMinMax fp32 env false a b
  | .and => ⟨a &&& b, 0⟩
  | .or => ⟨a ||| b, 0⟩
  | .xor => ⟨a ^^^ b, 0⟩

/-- Two partial results, with the flags of both. -/
def redJoin (env : FEnv) (op : RedOp) (a b : FRes) : FRes := (redCombine env op a.code b.code).or (a.flags ||| b.flags)

/-- A node of the tree: with two values their result, with one value that value, with none nothing. -/
def redNode (env : FEnv) (op : RedOp) : Option FRes → Option FRes → Option FRes
  | some a, some b => some (redJoin env op a b)
  | some a, none => some a
  | none, b => b

/-- One level of the tree. -/
def redLevel (env : FEnv) (op : RedOp) : List (Option FRes) → List (Option FRes)
  | a :: b :: l => redNode env op a b :: redLevel env op l
  | l => l

/-- The root of a tree over 2^k positions. -/
def redTree (env : FEnv) (op : RedOp) : Nat → List (Option FRes) → Option FRes
  | 0, l => l.headD none
  | k + 1, l => redTree env op k (redLevel env op l)

/-- A source value of a lane taking part, as a leaf. -/
def redLeaf (s : State) (e : Iss) (lane : Nat) : Option FRes :=
  if e.lanes.getLsbD lane then some ⟨src32 s e (fieldAt e.x 1) lane, 0⟩ else none

/-- The positions of the sub-group of a lane, for a width code. -/
def subGroup (k lane : Nat) : List Nat := (List.range (2 ^ k)).map (fun j => lane / 2 ^ k * 2 ^ k + j)

/-- `red` (R222). -/
def execRed (op : RedOp) (f : LaneForm) (s : State) : Host.Outcome State Fault Refusal :=
  runLane (.red op f) s (fun e s =>
    let k := f.src3.toNat
    let r (l : Nat) : FRes := (redTree (envAt e) op k ((subGroup k l).map (redLeaf s e))).getD ⟨0, 0⟩
    .ok (floatDone s e (4 + 2 * k) r))

/-- The running value of a scan after a lane. -/
def scanStep (env : FEnv) (op : RedOp) (prev : Option FRes) (x : Option FRes) : Option FRes :=
  match prev, x with
  | some a, some b => some (redJoin env op a b)
  | none, x => x
  | a, none => a

/-- The latency of a scan (R223). -/
def scanLatency (op : RedOp) (k : Nat) : Nat :=
  match op with
  | .addF => 4 + 2 ^ k / 2
  | _ => 4 + 2 * k

/-- `scan` (R222): each lane gets the running value over its sub-group up to itself. -/
def execScan (op : RedOp) (f : LaneForm) (s : State) : Host.Outcome State Fault Refusal :=
  runLane (.scan op f) s (fun e s =>
    let k := f.src3.toNat
    let r (l : Nat) : FRes :=
      ((((subGroup k l).takeWhile (fun j => decide (j ≤ l))).map (redLeaf s e)).foldl (scanStep (envAt e) op) none).getD
        ⟨0, 0⟩
    .ok (floatDone s e (scanLatency op k) r))

end Sys2Proof.Machine
end

