-- ==== Sys2Proof/Machine/Pages.lean ====
section
/-!
DEFINITION. Page instructions, table walks, invalidation, uncorrectable errors, and the events of caches (14_page R345 to
R355, 17_model R392, R393, R400).
-/
namespace Sys2Proof.Machine

open Sys2Proof

/-! ## Translation caches (R349) -/

/-- Translations a core's cache holds, and a stack's. -/
def coreTlbSize : Nat := 64
/-- Entries of a stack's translation cache. -/
def stackTlbSize : Nat := 4096

/-- A translation put first into a cache of a size. -/
def cacheLeaf (size : Nat) (t : Translation) (l : List Translation) : List Translation :=
  (t :: l.filter (fun x => !(decide (x.ctx = t.ctx) && decide (x.base = t.base)))).take size

/-- The pointers that a walk follows, as level and address of the table they point to. -/
def pointersFrom (s : State) (va : Nat) : Nat → Nat → Nat → List (Nat × Nat)
  | 0, _, _ => []
  | fuel + 1, level, base =>
    let e := tableEntry s (base + 8 * (va / 2 ^ levelShift level % levelEntries level))
    if e / 2 % 2 = 1 then [] else (level + 1, entryAddr e) :: pointersFrom s va fuel (level + 1) (entryAddr e)

/-- A walk that ends in a valid leaf fills the caches of a core and of its stack; its reads acquire at package scope (R345,
R349). -/
def execTableWalk (core ctx va : Nat) (s : State) : Host.Outcome State Fault Refusal :=
  if (mget? s.ctxs ctx).isNone ∨ 2 ^ 48 ≤ va then .next s
  else
    let d := dieOf core
    match walkOn s d ctx va with
    | .bad _ sigs => .next (acquireDrop s core .package sigs)
    | .wait => .next s
    | .leaf level e sigs =>
      let t : Translation := ⟨ctx, va / pageSize level * pageSize level, level, BitVec.ofNat 64 e⟩
      let x := walkStart s d ctx va
      let ps := (pointersFrom s va (5 - x.1) x.1 x.2).map (fun p => (ctx, walkKey p.1 va, p.2))
      let s := modCore (acquireDrop s core .package sigs) core (fun k => { k with tlb := cacheLeaf coreTlbSize t k.tlb })
      .next (modStack s d (fun k =>
        { k with tlb := cacheLeaf stackTlbSize t k.tlb, walk := ps ++ k.walk.filter (fun w => !ps.any (fun p => decide (p.1 = w.1 ∧ p.2.1 = w.2.1))) }))

/-! ## Invalidation (R350, R354) -/

/-- A range of addresses of a context: first byte and the byte after the last. -/
structure VRange where
  ctx : Nat
  lo : Nat
  hi : Nat
  deriving DecidableEq, Repr

/-- A cached translation lies in a range. -/
def coversT (r : VRange) (t : Translation) : Bool :=
  decide (t.ctx = r.ctx) && decide (t.base < r.hi) && decide (r.lo < t.base + pageSize t.level)

/-- A pointer entry of a walk cache leads into a range. -/
def coversW (r : VRange) (w : Nat × Nat × Nat) : Bool :=
  let sh := 2 ^ levelShift (w.2.1 / 2 ^ 48 - 1)
  decide (w.1 = r.ctx) && decide (w.2.1 % 2 ^ 48 * sh < r.hi) && decide (r.lo < (w.2.1 % 2 ^ 48 + 1) * sh)

/-- A translated word of an instruction cache lies in a range. -/
def coversI (r : VRange) (key : Nat) : Bool :=
  decide (key / 2 ^ 48 = r.ctx) && decide (r.lo / 128 * 128 ≤ key % 2 ^ 48) && decide (key % 2 ^ 48 < r.hi)

/-- A core's caches without a range (R350, R352). -/
def invalidateCore (r : VRange) (k : Core) : Core :=
  { k with tlb := k.tlb.filter (fun t => !coversT r t), icache := k.icache.filter (fun e => !coversI r e.1) }

/-- A stack's caches without a range. -/
def invalidateStack (r : VRange) (k : Stack) : Stack :=
  { k with tlb := k.tlb.filter (fun t => !coversT r t), walk := k.walk.filter (fun w => !coversW r w) }

/-- The cores whose caches an invalidation reaches (R350). -/
def inScope (core : Nat) (scope : Nat) (c : Nat) : Bool :=
  if scope = 1 then decide (c = core)
  else if scope = 2 then decide (c / 4 = core / 4)
  else if scope = 3 then decide (dieOf c = dieOf core)
  else true

/-- Every cached translation of a range is dropped, in the caches of a scope (R350). -/
def invalidateRange (s : State) (core scope : Nat) (r : VRange) : State :=
  { s with
    cores := mapEntries s.cores (fun c k => if inScope core scope c then invalidateCore r k else k),
    dieStacks := mapEntries s.dieStacks (fun d k =>
      if scope = 4 ∨ (2 ≤ scope ∧ d = dieOf core) then invalidateStack r k else k) }

/-- Every cached translation of a page of a context is dropped, and every cached pointer that leads to it, so that a retry walks
afresh (R347). -/
def freshWalks (s : State) (ctx page : Nat) : State :=
  let r : VRange := ⟨ctx, 8192 * page, 8192 * page + 8192⟩
  { s with
    cores := mapEntries s.cores (fun _ k => { k with tlb := k.tlb.filter (fun t => !coversT r t) }),
    dieStacks := mapEntries s.dieStacks (fun _ k => invalidateStack r k) }

/-- The range of an invalidation, or its trap (R354 lines 001 to 004). -/
def invalidRange (ctx base length : Nat) : Res VRange :=
  if length = 0 then .ok ⟨ctx, 0, 2 ^ 48⟩
  else if base % 8192 ≠ 0 ∨ length % 8192 ≠ 0 then trapOf 0x0C (BitVec.ofNat 64 base)
  else if 2 ^ 48 < base + length then trapOf 0x0D (BitVec.ofNat 64 base)
  else .ok ⟨ctx, base, base + length⟩

/-- The cores of an invalidation's scope. -/
def scopeCores (s : State) (core scope : Nat) : List Nat := (s.cores.map (fun c => c.1)).filter (inScope core scope)

/-- The cores whose stores by an old translation an invalidation must see performed: at quad scope all of the stack, whose cache
of translations it drops (R350). -/
def flushCores (s : State) (core scope : Nat) : List Nat := scopeCores s core (if scope = 2 then 3 else scope)

/-- The stores by old translations that an invalidation must see performed at its scope's coherence point cannot be written back
yet: a way to a home is closed, or a stack's L2 has no room (R350, R379). -/
def flushWaits (s : State) (core scope : Nat) : Bool :=
  if scope = 1 then false
  else if scope = 4 then
    (scopeCores s core 4 ++ (List.range 4).map (fun d => 256 * d)).any (fun c => releaseWaits s c .package) ||
      (List.range 4).any (fun d => crowded s d ((scopeCores s core 4).filter (fun c => decide (dieOf c = d))))
  else crowded s (dieOf core) (flushCores s core scope)

/-- The dirty sectors of a scope's caches written back to its coherence point, among them every store by an old translation of
the range (R350). Which others leave with them no rule says; a line may be evicted at any time (log 102). -/
def flushScope (s : State) (core scope : Nat) : State :=
  if scope = 1 then s
  else
    let s := (flushCores s core scope).foldl (fun s c => (dirtySectors (coreOf s c).l1).foldl (fun s x => writeBackL1 s c x) s) s
    if scope = 4 then
      (List.range 4).foldl (fun s d => (dirtySectors (stackOf s d).l2).foldl (fun s x => writeBackL2 s d x) s) s
    else s

/-- `xinv` (R354): the stores by old translations are written back, and the cached ones dropped. -/
def execXinv (f : LaneForm) (s : State) : Host.Outcome State Fault Refusal :=
  runLane (.xinv f) s (fun e s =>
    match invalidRange e.g.ctx (uni64 s e (fieldAt e.x 1)) (uni32 s e (fieldAt e.x 2)) with
    | .error r => .error r
    | .ok r =>
      if flushWaits s e.core f.src3.toNat then .error (.stall .scoreboard)
      else .ok (performed (invalidateRange (flushScope s e.core f.src3.toNat) e.core f.src3.toNat r) e .invalidate))

/-- A skerry command of a context that was issued before a step has not finished: it holds addresses translated then. -/
def skerryOlder (s : State) (ctx step : Nat) : Bool :=
  let old (c : SkCmd) : Bool := decide (c.ctx = ctx) && decide (c.issued < step)
  let oldOp (o : SkOp) : Bool := match o with
    | .run c => old c
    | _ => false
  s.skerries.any (fun k => k.2.requests.any (fun q => oldOp q.op) || k.2.fifo.any oldOp || (runsOf k.2).any (fun r => old r.cmd))

/-- An operation at a peer that was made for a context before a step has not been performed there: by a stream or a command of the
context, or by a unit, which may have made it for the context. -/
def peerOlder (s : State) (ctx step : Nat) : Bool :=
  s.outgoing.any (fun o => decide (o.tag < step) && !o.acked && o.owner.all (fun g => decide (g.ctx = ctx)))

/-- An access of a context by a translation from before a step is still out. -/
def accessOlder (s : State) (ctx step : Nat) : Bool := skerryOlder s ctx step || peerOlder s ctx step

/-- The host invalidations whose accesses have all been performed: INVAL is posted (R350, R472). -/
def settleInvals (s : State) : State :=
  let due (v : Inval) : Bool := !accessOlder s v.ctx v.issued
  let t := { s with fw := { s.fw with invals := s.fw.invals.filter (fun v => !due v) } }
  (s.fw.invals.filter due).foldl (fun t v => post t 0 0x0B 0 v.tag [v.ctx, v.base, v.length]) t

/-- Invalidations complete (R350): a group's, whose scoreboard falls, and the host's. Every access that used an old
translation has been performed: those of skerry commands and at peers outlast the step that translated for them, and stores that
stood dirty in caches were written back as the invalidation began (log 102). -/
def execInvalidationComplete (core slot idx : Nat) (s : State) : Host.Outcome State Fault Refusal :=
  let s := settleInvals s
  match groupOf s core slot with
  | none => .next s
  | some g =>
    match ((g.ln.outstanding.filter (fun p => decide (p.kind = .invalidate) && !accessOlder s g.ctx p.tag)).drop idx).head? with
    | some p => .next (completeTag s core slot p.tag)
    | none => .next s

/-! ## Queries (R355) -/

/-- The result of a query of a leaf. -/
def leafReport (s : State) (va level e : Nat) : Nat :=
  let pa := entryAddr e + va % pageSize level
  let sub := leafSub s e pa
  b2n (decide (sub = 0)) + e / 4 % 8 * 2 + e / 32 % 2 * 16 + sub * 32 + (4 - level) * 256

/-- The result of a query, and the signatures that its walk read. -/
def queryOf (s : State) (core ctx va : Nat) : Res (Nat × List Sig) :=
  if 2 ^ 48 ≤ va then .ok (0, [])
  else
    match leafFor s core ctx va with
    | .bad sub sigs => .ok (sub * 32, sigs)
    | .wait => .error (.stall .scoreboard)
    | .leaf level e sigs => .ok (leafReport s va level e, sigs)

/-- The queries of lanes, in order. -/
def queriesOf (s : State) (core ctx : Nat) : List (Nat × Nat) → Res (List (Nat × Nat) × List Sig)
  | [] => .ok ([], [])
  | (l, va) :: rest =>
    match queryOf s core ctx va, queriesOf s core ctx rest with
    | .ok v, .ok r => .ok ((l, v.1) :: r.1, joinSigs v.2 r.2)
    | .error x, _ => .error x
    | _, .error x => .error x

/-- `pgq` (R355): nothing in it faults. -/
def execPgq (f : LaneForm) (s : State) : Host.Outcome State Fault Refusal :=
  runLane (.pgq f) s (fun e s =>
    match queriesOf s e.core e.g.ctx (addressesOf s e f) with
    | .error x => .error x
    | .ok r =>
      let v (l : Nat) : Nat := ((r.1.find? (fun x => decide (x.1 = l))).map (fun x => x.2)).getD 0
      .ok (Done.later (acquireDrop s e.core .package r.2) (pendingResult s e .memory (write64 f.dst.toNat e.lanes v) 0)))

/-! ## Uncorrectable errors (R351) -/

/-- Frames that a die's poison list holds. -/
def poisonRoom : Nat := 1024

/-- The caches without the 8 KiB translations of a frame (R351). -/
def dropFrame (s : State) (frame : Nat) : State :=
  let keep (t : Translation) : Bool := !(decide (t.level = 4) && decide (entryAddr t.leaf.toNat / 8192 = frame))
  { s with
    cores := mapEntries s.cores (fun _ k => { k with tlb := k.tlb.filter keep }),
    dieStacks := mapEntries s.dieStacks (fun _ k => { k with tlb := k.tlb.filter keep }) }

/-- The context of a reader. -/
def readerCtx (s : State) : Reader → Option Nat
  | .nobody => none
  | .agent ctx => some ctx
  | .group core slot _ => (groupOf s core slot).map (fun g => g.ctx)

/-- A skerry command of a context that reads an uncorrectable error stops with NM_UNCORR (R372). -/
def stopSkerries (s : State) (ctx pa : Nat) : State :=
  { s with skerries := mapEntries s.skerries (fun _ k => mapRuns (fun r =>
      if r.cmd.ctx = ctx ∧ r.stop.getD 0 = 0 ∧ holdsByte r pa then { r with stop := some 8 } else r) k) }

/-- UNCORRECTABLE for a reader's context (R105). Where the reader is an engine, a port or a walker, the TRAP event of its context
is posted by the die of the frame: no rule names the die (R489, log 117). -/
def raiseUncorrectable (s : State) (d pa : Nat) : Reader → State
  | .nobody => s
  | .agent ctx => stopSkerries (if (mget? s.ctxs ctx).isSome then faultNoRecord s ctx d else s) ctx pa
  | .group core slot st => raiseTrap s core slot st ⟨0x18, 0, BitVec.ofNat 64 pa, none, none⟩

/-- A read meets an error that ECC cannot correct (R351). -/
def execUncorrectableError (pa : Nat) (reader : Reader) (s : State) : Host.Outcome State Fault Refusal :=
  if hbmTop ≤ pa then .next s
  else
    let d := frameDie pa
    let l := (dieRec s d).poison
    let adds := !l.contains (pa / 8192) && decide (l.length < poisonRoom)
    let s := if adds then dropFrame (modDie s d (fun x => { x with poison := x.poison ++ [pa / 8192] })) (pa / 8192) else s
    let ctx := readerCtx s reader
    .next (post (raiseUncorrectable s d pa reader) d 0x05 0 0 [ctx.getD 0xFFFF, pa, b2n adds])

/-! ## Caches by themselves (R392, R393, R400) -/

/-- The clean bytes of a line's sectors dropped where their copy is older than 100 µs (R393). -/
def expireLine (now line : Nat) (m : Map Sector) : Map Sector :=
  (m.map (fun e =>
    if sectorLine e.1 = line ∧ e.2.filled + copyLife < now then (e.1, { e.2 with valid := e.2.dirty }) else e)).filter
    (fun e => decide (e.2.valid ≠ 0))

/-- Clean copies of a line expire in a core's L1 and its stack's L2 (R393). -/
def execCopyExpiry (core line : Nat) (s : State) : Host.Outcome State Fault Refusal :=
  .next (modStack
    (modCore s core (fun k =>
      let m := expireLine s.now line k.l1
      { k with l1 := m, l1sigs := keptSigs m k.l1sigs })) (dieOf core)
    (fun k =>
      let m := expireLine s.now line k.l2
      { k with l2 := m, l2sigs := keptSigs m k.l2sigs }))

/-- Signatures attached to a line expire at its home (R400). -/
def execSignatureExpiry (line : Nat) (s : State) : Host.Outcome State Fault Refusal :=
  .next { s with attached :=
    if (attachedAt s line).isEmpty then merase s.attached line else mset s.attached line (attachedAt s line) }

/-- A line may leave a core's L1, or its stack's L2: its dirty bytes find their way and room below (R381). -/
def mayEvict (s : State) (core line : Nat) (l2 : Bool) : Bool :=
  if l2 then mayLeaveL2 s (dieOf core) line else mayLeaveL1 s core line

/-- A line is evicted from a core's L1, or from its stack's L2, with its dirty bytes written below (R392). -/
def execCacheEviction (core line : Nat) (l2 : Bool) (s : State) : Host.Outcome State Fault Refusal :=
  if mayEvict s core line l2 then
    .next ((List.range 4).foldl (fun s i =>
      if l2 then evictL2 s (dieOf core) (4 * line + i) else evictL1 s core (4 * line + i)) s)
  else .next s

end Sys2Proof.Machine
end

