-- ==== Sys2Proof/Machine/Links.lean ====
section
/-!
DEFINITION. Links and their states, and RMA operations that arrive from the fabric (16_link).
-/
namespace Sys2Proof.Machine

open Sys2Proof

/-! ## Link ids and states (R377, R378, R476) -/

/-- A link id names a link: a strait, a port, or the narrows of a lower core (R476). -/
def isLink (id : Nat) : Bool :=
  let i := id % 1024
  if id / 1024 = 0 then decide (i < 4)
  else if id / 1024 = 1 then decide (i < 8)
  else decide (id / 1024 = 2) && decide (i / 4 % 2 = 0)

/-- A narrows' link id. -/
def narrowsLink (lower : Nat) : Nat := 2048 + lower

/-- The package with one link changed. -/
def modLink (s : State) (id : Nat) (f : Link → Link) : State := { s with links := mset s.links id (f (linkOf s id)) }

/-- The die whose management unit posts a link's events: a port's or a narrows' own, a strait's lower one (R26, log 26). -/
def linkDie (id : Nat) : Nat :=
  let i := id % 1024
  if id / 1024 = 0 then (if i = 1 then 2 else if i = 3 then 1 else 0)
  else if id / 1024 = 1 then i / 2
  else dieOf i

/-- Codes of link states in LINK events (R472). -/
def linkCode : LinkState → Nat
  | .down => 0
  | .training => 1
  | .up => 2
  | .degraded => 3
  | .draining => 4

/-- The trained lanes of a strait, or the rate of a port in Gb/s, 1.6 Tb/s where it is up (R19); 0 while nothing is trained (R378,
R472, log 26). -/
def linkWidth (id : Nat) (l : Link) : Nat :=
  let full : Bool := l.full
  match l.state with
  | .down => 0
  | .training => 0
  | _ =>
    if id / 1024 = 0 then (if full then Config.straitLanes else Config.straitLanes / 2)
    else if id / 1024 = 1 then (if full then 1600 else 800)
    else 0

/-- A link enters a state, with its LINK event (R377). -/
def setLink (s : State) (id : Nat) (st : LinkState) : State :=
  if (linkOf s id).state = st then s
  else
    let s := modLink s id (fun l => { l with state := st })
    let l := linkOf s id
    let s := post s (linkDie id) 0x0C 0 l.tag [id, linkCode st, linkWidth id l]
    match st with
    | .training => s
    | .draining => s
    | _ => modLink s id (fun l => { l with tag := 0 })

/-- A link begins to train. -/
def startTraining (s : State) (id : Nat) : State := setLink (modLink s id (fun l => { l with attempts := 1 })) id .training

/-- A link trained by the start under way, for the command that the start was commanded by (R472). -/
def trainAtStart (s : State) (id : Nat) : State := startTraining (modLink s id (fun l => { l with tag := s.fw.tag })) id

/-- The straits and the ports. -/
def straits : List Nat := List.range 4

/-- The Ultra Ethernet ports. -/
def ports : List Nat := (List.range 8).map portLink

/-- The ports that listen in recovery-listen: those that are up, unless step 1 has failed, after which none trains (R463). -/
def listeningPorts (s : State) : List Nat :=
  match s.fw.boot with
  | .recovery n => if n = 1 then [] else (List.range 8).filter (fun p => linkUp s (portLink p))
  | _ => []

/-- BOOT_FAIL records leave by the listening ports, once there is one (R463). -/
def sendBootFails (s : State) : State :=
  let ports := listeningPorts s
  if ports.isEmpty then s
  else
    { s with replies := s.replies ++ (s.fw.unsent.map (fun bs => ports.map (fun p => Reply.event p bs))).flatten,
             fw := { s.fw with unsent := [] } }

/-- A narrows of a quad that is draining: a GATE drains it as soon as it is up (R378). -/
def gateDrains (s : State) (id : Nat) : Bool :=
  decide (id / 1024 = 2) &&
    (decide ((quadOf s (id % 1024)).state = .draining) || decide ((quadOf s (partner (id % 1024))).state = .draining))

/-- The tag of the GATE that drains a narrows (R472). -/
def gateTag (s : State) (id : Nat) : Nat :=
  if (quadOf s (id % 1024)).state = .draining then (quadOf s (id % 1024)).tag else (quadOf s (partner (id % 1024))).tag

/-- A link that has trained comes up: at full width, else degraded (R377). -/
def linkTrained (s : State) (id : Nat) (full : Bool) : State :=
  let s := sendBootFails (setLink (modLink s id (fun l => { l with full := full })) id (if full then .up else .degraded))
  if gateDrains s id then setLink (modLink s id (fun l => { l with tag := gateTag s id })) id .draining else s

/-- A training link comes up (R377). -/
def execLinkTrained (id : Nat) (full : Bool) (s : State) : Host.Outcome State Fault Refusal :=
  if isLink id ∧ (linkOf s id).state = .training then .next (linkTrained s id (full || decide (id / 1024 = 2)))
  else .next s

/-- A strait that the package has lost for good: every context faults, whatever its state (R100 has no entry for one that has not
started), by die 0's unit since no single one faults it, and
the mailbox accepts only a start request (R379, R489). In a start, which no context has outlived, the event waits until the mailbox
has opened, whose ring is empty then (R470, log 124). -/
def linkFatal (s : State) (id : Nat) : State :=
  let live := (s.ctxs.filter (fun c => decide (c.2.state ≠ .tornDown ∧ c.2.state ≠ .faulted))).map (fun c => c.1)
  let s := live.foldl (fun s c => becomeFaulted s c 0 (ctxOf s c).written false) s
  let s := { s with fw := { s.fw with fatal := true } }
  if s.fw.boot = .running then post s (linkDie id) 0x0D 0 0 [id] else s

/-- A training attempt fails: again, at most 3 attempts; then down (R377, R379). A narrows' never fails. -/
def execLinkTrainingFailed (id : Nat) (s : State) : Host.Outcome State Fault Refusal :=
  if isLink id ∧ id / 1024 ≠ 2 ∧ (linkOf s id).state = .training then
    if (linkOf s id).attempts < 3 then .next (modLink s id (fun l => { l with attempts := l.attempts + 1 }))
    else
      let s := setLink s id .down
      .next (if id / 1024 = 0 then linkFatal s id else s)
  else .next s

/-- 1 ms in ns. -/
def replayWindow : Nat := 1000000

/-- The replays or retries of a link in the last 1 ms (R378, R476). -/
def liveReplays (s : State) (id : Nat) : List Nat := (linkOf s id).replays.filter (fun t => decide (s.now ≤ t + replayWindow))

/-- A flit or a packet is sent again (R383, R384). -/
def execFlitReplay (id : Nat) (s : State) : Host.Outcome State Fault Refusal :=
  if isLink id ∧ id / 1024 ≠ 2 ∧ (linkUp s id ∨ (linkOf s id).state = .draining) then
    .next (modLink s id (fun l => { l with replays := liveReplays s id ++ [s.now] }))
  else .next s

/-- More than 1,000 replays or retries in 1 ms: the link retrains, and its traffic is held (R377, R378). -/
def execLinkErrorsOverLimit (id : Nat) (s : State) : Host.Outcome State Fault Refusal :=
  if isLink id ∧ linkUp s id ∧ 1000 < (liveReplays s id).length then
    .next (startTraining (modLink s id (fun l => { l with tag := 0 })) id)
  else .next s

/-- A draining link is empty: no entry waits in a narrows; every packet that a port has sent is acknowledged; a strait's
replay buffers are the fabric's own, and empty when it says so (R378). -/
def linkEmpty (s : State) (id : Nat) : Bool :=
  if id / 1024 = 2 then (narrowsOf s (id % 1024)).waiting.isEmpty
  else if id / 1024 = 1 then s.outgoing.all (fun o => decide (portLink o.port ≠ id) || !o.sent || o.acked)
  else true

/-- A draining link is empty (R377, R378). -/
def execLinkDrained (id : Nat) (s : State) : Host.Outcome State Fault Refusal :=
  if isLink id ∧ (linkOf s id).state = .draining ∧ linkEmpty s id then
    .next (setLink s id .down)
  else .next s

/-- A packet in a delivery mode that is not supported is refused and counted, at a port that is up (R380, R384). -/
def execUnsupportedDelivery (port : Nat) (s : State) : Host.Outcome State Fault Refusal :=
  if port < 8 ∧ linkUp s (portLink port) then
    .next { modLink s (portLink port) (fun l => { l with refused := l.refused + 1 }) with replies := s.replies ++ [.error] }
  else .next s

/-! ## RMA operations of a context's endpoint (R385, R413) -/

/-- The package with an answer to the fabric. -/
def reply (s : State) (r : Reply) : State := { s with replies := s.replies ++ [r] }

/-- The largest RMA message (R384). -/
def maxMessage : Nat := 4 * 2 ^ 20

/-- A port accepts operations on a context's endpoint (R385, R476). -/
def endpointAt (s : State) (ctx port : Nat) : Bool :=
  (mget? s.ctxs ctx).any (fun c => decide (c.state ≠ .tornDown) && c.endpoint.any (fun e => e.1.getLsbD port)) && decide (port < 8)

/-- An operation refused by translation or permission: the error response and the RMA_ERR event (R385). -/
def rmaError (s : State) (ctx va port : Nat) : State := reply (post s (port / 2) 0x10 0 0 [ctx, va, port]) .error

/-- The parts of a range with their checks. -/
def rmaChecks (s : State) (ctx port va n : Nat) (kind : AccessKind) : List (Nat × Nat × AddrCheck) :=
  (chunksOf va n).map (fun c => (c.1, c.2, unitCheck s (port / 2) ctx c.1 1 kind))

/-- What keeps an operation from being performed whole: held lines, or the first address that fails. -/
inductive RmaBar where
  | none
  | held
  | fails (va : Nat)
  deriving DecidableEq, Repr

/-- What keeps the parts of a range from being performed. -/
def rmaBar (l : List (Nat × Nat × AddrCheck)) : RmaBar :=
  match l.find? (fun c => match c.2.2 with
    | .ok _ => false
    | .held => false
    | _ => true) with
  | some c => .fails c.1
  | none => if l.any (fun c => decide (c.2.2 = .held)) then .held else .none

/-- The parts of a range that are translated. -/
def rmaParts (l : List (Nat × Nat × AddrCheck)) : List (Xlat × Nat) :=
  l.filterMap (fun c => match c.2.2 with
    | .ok x => some (x, c.2.1)
    | _ => none)

/-- Bytes written at their homes, part by part; each part that translates is written where `pick` says so. -/
def rmaStore (die : Nat) (sigs : List Sig) (pick : Nat → Bool) : Nat → List (Nat × Nat × AddrCheck) → List Byte → State → State
  | _, [], _, s => s
  | i, c :: l, bs, s =>
    rmaStore die sigs pick (i + 1) l (bs.drop c.2.1) (match c.2.2 with
      | .ok x => if pick i then unitStore s die x (bs.take c.2.1) sigs else s
      | _ => s)

/-- The lines of memory that an operation's parts lie in; an aperture's addresses have none (R408). -/
def rmaLines (parts : List (Xlat × Nat)) : List Nat := ((parts.filter (fun p => isMemory p.1.pa)).map (fun p => p.1.pa / 128)).eraseDups

/-- The signatures that an endpoint's write attaches: of all its writes of the last 100 µs (R413). -/
def rmaSigs (s : State) (ctx : Nat) (lines : List Nat) : List Sig :=
  joinSigs (liveSigs s.now (ctxOf s ctx).rmaSigs) (sigOf s.now lines)

/-- The package with an endpoint's signatures noted. -/
def noteRma (s : State) (ctx : Nat) (sigs : List Sig) : State := modCtx s ctx (fun c => { c with rmaSigs := sigs })

/-- The bytes of translated parts at their homes. -/
def rmaLoad (die : Nat) : List (Xlat × Nat) → State → List Byte × State
  | [], s => ([], s)
  | (x, n) :: l, s =>
    let r := unitRead s die x n 761
    let t := rmaLoad die l r.state
    (r.bytes ++ t.1, t.2)

/-- An RMA write into a context (R385). Where one part fails, whether the others are written is free (log 27). -/
def rmaWrite (s : State) (o : RmaOp) (bs : List Byte) : State :=
  let l := rmaChecks s o.ctx o.port o.addr bs.length .write
  let sigs := rmaSigs s o.ctx (rmaLines (rmaParts l))
  match rmaBar l with
  | .fails bad =>
    rmaError (rmaStore (o.port / 2) sigs (Config.freeBit s.fresh 760) 0 l bs (noteRma s o.ctx sigs)) o.ctx bad o.port
  | _ => reply (rmaStore (o.port / 2) sigs (fun _ => true) 0 l bs (noteRma s o.ctx sigs)) .done

/-- An RMA read from a context (R385). -/
def rmaRead (s : State) (o : RmaOp) (n : Nat) : State :=
  let l := rmaChecks s o.ctx o.port o.addr n .read
  match rmaBar l with
  | .fails bad => rmaError s o.ctx bad o.port
  | _ =>
    let r := rmaLoad (o.port / 2) (rmaParts l) s
    reply r.2 (.data r.1)

/-- An RMA atomic, fetch-add or compare-and-swap, of 8 bytes at the home (R261, R385). -/
def rmaAtomic (s : State) (o : RmaOp) (cas : Bool) (operand compare : DWord) : State :=
  match unitCheck s (o.port / 2) o.ctx o.addr 8 .atomic with
  | .ok x =>
    let r := unitRead s (o.port / 2) x 8 762
    let old := bytesDword r.bytes
    let sigs := rmaSigs s o.ctx (rmaLines [(x, 8)])
    let s := noteRma r.state o.ctx sigs
    reply (if cas ∧ old ≠ compare then s
      else unitStore s (o.port / 2) x (dwordBytes 8 (if cas then operand else old + operand)) sigs) (.data r.bytes)
  | .align => reply s .error
  | _ => rmaError s o.ctx o.addr o.port

/-- An operation is performed; one whose endpoint its port does not accept is refused. -/
def performRma (s : State) (o : RmaOp) : State :=
  if !endpointAt s o.ctx o.port then reply s .error
  else
    match o.ask with
    | .write bs => rmaWrite s o bs
    | .read n => rmaRead s o n
    | .atomic cas operand compare => rmaAtomic s o cas operand compare

/-- An operation must wait for held lines or closed ways (R371, R379, R380). -/
def rmaHeld (s : State) (o : RmaOp) : Bool :=
  endpointAt s o.ctx o.port &&
    (match o.ask with
     | .write bs => decide (rmaBar (rmaChecks s o.ctx o.port o.addr bs.length .write) = .held)
     | .read n => decide (rmaBar (rmaChecks s o.ctx o.port o.addr n .read) = .held)
     | .atomic _ _ _ => decide (unitCheck s (o.port / 2) o.ctx o.addr 8 .atomic = .held))

/-- Two operations arrived on one delivery: at one endpoint, by one port (R121, log 27). -/
def sameDelivery (a b : RmaOp) : Bool := decide (a.ctx = b.ctx) && decide (a.port = b.port)

/-- An operation that has arrived is performed, or waits behind the earlier ones of its delivery (R121). -/
def arriveRma (s : State) (o : RmaOp) : State :=
  if rmaHeld s o ∨ s.rma.any (sameDelivery o) then { s with rma := s.rma ++ [o] } else performRma s o

/-- The first waiting operation that may be performed now, and the others: each goes after the earlier ones of its delivery
(R121). -/
def takeRma (s : State) (before : List RmaOp) : List RmaOp → Option (RmaOp × List RmaOp)
  | [] => none
  | o :: l =>
    if rmaHeld s o ∨ before.any (sameDelivery o) then takeRma s (before ++ [o]) l else some (o, before ++ l)

/-- A waiting operation performed, if one may be. -/
def nextRma (s : State) : Option State := (takeRma s [] s.rma).map (fun r => performRma { s with rma := r.2 } r.1)

/-- Offsets at which the host's writes to the mailbox endpoint are taken: the RW fields of the slots, the tail word, the
consumed count (R467, R470). -/
def hostWrites (off : Nat) : Bool :=
  (decide (off < 0x2000) && (decide (off % 128 < 4) || (decide (8 ≤ off % 128) && decide (off % 128 < 64)))) ||
    (decide (0x2000 ≤ off) && decide (off < 0x2008)) || (decide (0x2100 ≤ off) && decide (off < 0x2108))

/-- Offsets that the mailbox endpoint presents (R470). -/
def hostReads (off : Nat) : Bool :=
  decide (off < 0x2008) || (decide (0x2080 ≤ off) && decide (off < 0x2088)) || (decide (0x2100 ≤ off) && decide (off < 0x2108)) ||
    (decide (0x2180 ≤ off) && decide (off < 0x2188)) || (decide (0x4000 ≤ off) && decide (off < 0x6000)) ||
    (decide (0x10000 ≤ off) && decide (off < 0x50000))

/-- Host bytes written into the mailbox endpoint. -/
def epTake (m : Memory) (off : Nat) : List Byte → Memory
  | [] => m
  | b :: bs => epTake (if hostWrites off then Memory.write m off b else m) (off + 1) bs

/-- An RMA write to the mailbox endpoint, once Grendex has opened it (R467, R470). -/
def rmaWriteMailbox (s : State) (off : Nat) (bs : List Byte) : State :=
  if s.fw.boot = .running then reply (settleRing { s with fw := { s.fw with ep := epTake s.fw.ep off bs } }) .done
  else s

/-- An operation at a port: nothing arrives while the port is down; a message that is too long is refused (R380, R384). -/
def atPort (s : State) (port n : Nat) (body : State → State) : Host.Outcome State Fault Refusal :=
  if !linkUp s (portLink port) then .next s
  else if maxMessage < n then .next (reply s .error)
  else .next (body s)

/-- RMA_WRITE (R385, R467, R470). -/
def execRmaWrite (ep : RmaTarget) (port addr : Nat) (bytes : List Byte) (s : State) : Host.Outcome State Fault Refusal :=
  atPort s port bytes.length (fun s =>
    match ep with
    | .mailbox => rmaWriteMailbox s addr bytes
    | .context ctx => arriveRma s ⟨ctx, port, addr, .write bytes⟩)

/-- The bytes that a read of the mailbox endpoint returns (R470). -/
def mailboxBytes (s : State) (off n : Nat) : List Byte :=
  (List.range n).map (fun i => if hostReads (off + i) then Memory.read s.fw.ep (off + i) else 0)

/-- RMA_READ (R385, R470). -/
def execRmaRead (ep : RmaTarget) (port addr len : Nat) (s : State) : Host.Outcome State Fault Refusal :=
  atPort s port len (fun s =>
    match ep with
    | .mailbox => if s.fw.boot = .running then reply s (.data (mailboxBytes s addr len)) else s
    | .context ctx => arriveRma s ⟨ctx, port, addr, .read len⟩)

/-- RMA_ATOMIC: fetch-add, or compare-and-swap, of 8 bytes at the home (R261, R385). -/
def execRmaAtomic (ctx port addr : Nat) (cas : Bool) (operand compare : DWord) (s : State) : Host.Outcome State Fault Refusal :=
  atPort s port 8 (fun s => arriveRma s ⟨ctx, port, addr, .atomic cas operand compare⟩)

end Sys2Proof.Machine
end

