-- ==== Sys2Proof/Machine/Elementary.lean ====
section
/-!
DEFINITION. Elementary functions in fixed point, exact to far below an FP32 ULP: the references that the bounds of
08_lane_ops R211 and the correctly rounded results of R211 and 13_plane R331 are stated against (log 7, log 20).
-/
namespace Sys2Proof.Machine

open Sys2Proof

/-- One, in the working precision of 256 fraction bits. -/
def fxOne : Nat := 2 ^ 256

/-- ln 2. -/
def fxLn2 : Nat := 0xB17217F7D1CF79ABC9E3B39803F2F6AF40F343267298B62D8A0D175B8BAAFA2B

/-- π. -/
def fxPi : Nat := 0x3243F6A8885A308D313198A2E03707344A4093822299F31D0082EFA98EC4E6C89

/-- A product in the working precision. -/
def fxMul (a b : Nat) : Nat := a * b / fxOne

/-- Terms of the exponential series from the k-th on. -/
def expTerms (y : Nat) : Nat → Nat → Nat → Nat
  | 0, _, _ => 0
  | n + 1, k, t => t + expTerms y n (k + 1) (fxMul t y / k)

/-- e^y for 0 ≤ y < 1. -/
def fxExp (y : Nat) : Nat := expTerms y 80 1 fxOne

/-- 2^f for 0 ≤ f < 1. -/
def fxExp2 (f : Nat) : Nat := fxExp (fxMul f fxLn2)

/-- Terms of an alternating series in y² whose denominators are k (k + 1), (k + 2) (k + 3) … -/
def trigTerms (y2 : Nat) : Nat → Nat → Int → Int
  | 0, _, _ => 0
  | n + 1, k, t => t + trigTerms y2 n (k + 2) (-(t * (y2 : Int) / (fxOne : Int) / ((k * (k + 1) : Nat) : Int)))

/-- sin y and cos y for 0 ≤ y < 2. -/
def fxSinCos (y : Nat) : Int × Int :=
  (trigTerms (fxMul y y) 50 2 (y : Int), trigTerms (fxMul y y) 50 1 (fxOne : Int))

/-- sin of 2π times a fraction of a turn. -/
def fxSinTurn (t : Nat) : Int :=
  let t := t % fxOne
  let y := fxMul (t % 2 ^ 254) (2 * fxPi)
  match t / 2 ^ 254 with
  | 0 => (fxSinCos y).1
  | 1 => (fxSinCos y).2
  | 2 => -(fxSinCos y).1
  | _ => -(fxSinCos y).2

/-- Binary digits of log2 m for 1 ≤ m < 2, the first of weight 2^w. -/
def logDigits : Nat → Nat → Nat → Nat
  | 0, _, _ => 0
  | n + 1, w, y =>
    let y2 := fxMul y y
    if 2 * fxOne ≤ y2 then 2 ^ w + logDigits n (w - 1) (y2 / 2) else logDigits n (w - 1) y2

/-- log2 m for 1 ≤ m < 2, to 224 fraction bits. -/
def fxLog2 (m : Nat) : Nat := logDigits 224 255 m

/-- The integer square root, bit by bit from bit b − 1 down. -/
def sqrtBits (n : Nat) : Nat → Nat → Nat
  | 0, r => r
  | b + 1, r => if (r + 2 ^ b) * (r + 2 ^ b) ≤ n then sqrtBits n b (r + 2 ^ b) else sqrtBits n b r

/-- The integer square root. -/
def isqrt (n : Nat) : Nat := sqrtBits n (log2 n / 2 + 1) 0

/-- x × 2^k, rounded down. -/
def shiftBy (x : Nat) (k : Int) : Nat := if 0 ≤ k then x * 2 ^ k.toNat else x / 2 ^ (-k).toNat

/-- Results are held as multiples of 2^-400. -/
def refScale : Nat := 400

/-- 2^x for x = ±m × 2^e, as a multiple of 2^-400. -/
def refExp2 (neg : Bool) (m : Nat) (e : Int) : Nat :=
  let a : Int := (shiftBy m (e + 256) : Nat)
  let x : Int := if neg then -a else a
  let n : Int := x / (fxOne : Int)
  shiftBy (fxExp2 (x - n * fxOne).toNat) (n + 144)

/-- log2 of m × 2^e as a multiple of 2^-400, m positive. -/
def refLog2 (m : Nat) (e : Int) : Int :=
  ((log2 m : Int) + e) * 2 ^ refScale + (fxLog2 (shiftBy m (256 - (log2 m : Int))) * 2 ^ 144 : Nat)

/-- tanh of m × 2^e as a multiple of 2^-400. -/
def refTanh (m : Nat) (e : Int) : Nat :=
  let y := shiftBy m (e + 257)
  let n := y / fxLn2
  let t := fxExp (y - n * fxLn2) * 2 ^ n
  (t - fxOne) * 2 ^ refScale / (t + fxOne)

/-- The fraction of a turn that x = ±m × 2^e leaves. -/
def turnOf (neg : Bool) (m : Nat) (e : Int) : Nat :=
  let t := shiftBy m (e + 256) % fxOne
  if neg then (fxOne - t) % fxOne else t

/-- A multiple of 2^-400 rounded to FP32 by RNE; overflow is left at the largest finite value. -/
def refRound (x : Int) : Nat :=
  let c := (roundTo fp32 .rne (decide (x < 0)) x.natAbs (-400)).code
  if magCode fp32 c = infCode fp32 then c - 1 else c

/-- The FP32 spacing at a magnitude, as a multiple of 2^-400. -/
def refUlp (x : Nat) : Nat := 2 ^ ((max ((log2 x : Int) - 400) (-126)) - 23 + 400).toNat

end Sys2Proof.Machine
end

