-- ==== Sys2Proof/Machine/Plane.lean ====
section
/-!
DEFINITION. The cell plane (13_plane).
-/
namespace Sys2Proof.Machine

open Sys2Proof

/-! ## Cells (R317, R318) -/

/-- The cells of a plane. -/
def cellCount : Nat := 4096

/-- The cells that are enabled. -/
def enabledCells (p : Plane) : BitVec 4096 := p.enables.headD (BitVec.allOnes 4096)

/-- A cell is enabled. -/
def cellOn (p : Plane) (i : Nat) : Bool := (enabledCells p).getLsbD i

/-- A cell's word of a c register. -/
def cellWord (p : Plane) (c i : Nat) : Word := (mget p.regs c []).getD i 0

/-- What a cell instruction reads in a cell. -/
def cellSource (p : Plane) (x : CellSrc) (i : Nat) : Nat :=
  match x with
  | .reg c => (cellWord p c i).toNat
  | .word w => w.toNat

/-- An integer as FP32. -/
def intCode (n : Int) : Nat := (roundTo fp32 .rne (decide (n < 0)) n.natAbs 0).code

/-- The screen column of a cell (R318). -/
def cellX (p : Plane) (i : Nat) : Nat := intCode (p.ox + (i % 64 : Nat))
/-- The screen row of a cell. -/
def cellY (p : Plane) (i : Nat) : Nat := intCode (p.oy + (i / 64 : Nat))

/-- Results of all cells: the word that an enabled cell writes and the flags it raises. -/
abbrev CellResults := List (Word × Flags)

/-- The results of a function of the cell. -/
def cellResults (f : Nat → FRes) : CellResults := (List.range cellCount).map (fun i => (BitVec.ofNat 32 (f i).code, (f i).flags))

/-- A register after results, and the cells' flags. -/
def writeResults (p : Plane) (c : Nat) (r : CellResults) : Plane :=
  { p with
    regs := mset p.regs c ((List.range cellCount).map (fun i => if cellOn p i then (r.getD i (0, 0)).1 else cellWord p c i)),
    flags := (List.range cellCount).map (fun i =>
      p.flags.getD i 0 ||| (if cellOn p i then (r.getD i (0, 0)).2 else 0)) }

/-! ## Cell arithmetic (R329 to R332) -/

/-- One fused step under the rules of R329. -/
def cellFma (a b c : Nat) : FRes := fFma fp32 envPlain .rne a b c

/-- `plin` in a cell. -/
def linearAt (a b c x y : Nat) : FRes :=
  let u := cellFma b x a
  (cellFma c y u.code).or u.flags

/-- `plquad` in a cell. -/
def quadAt (q : List Word) (x y : Nat) : FRes :=
  let k (i : Nat) : Nat := (q.getD i 0).toNat
  let u1 := cellFma (k 3) x (k 1)
  let u := cellFma (k 4) y u1.code
  let w := cellFma (k 5) y (k 2)
  let v := cellFma w.code y (k 0)
  (cellFma u.code x v.code).or (u1.flags ||| u.flags ||| w.flags ||| v.flags)

/-- 2^Q, correctly rounded (R331). -/
def cellExp2 (q : Nat) : FRes :=
  match valueOf fp32 q with
  | .nan => ⟨canonNaN fp32, 0⟩
  | .inf n => ⟨if n then 0 else infCode fp32, 0⟩
  | .fin n m e =>
    let x := shiftBy m (e + 149)
    if !n ∧ 128 * 2 ^ 149 ≤ x then ⟨infCode fp32, flOverflow⟩
    else if n ∧ 150 * 2 ^ 149 ≤ x then ⟨0, flUnderflow⟩
    else if x % 2 ^ 149 = 0 then roundTo fp32 .rne false 1 (if n then -((x / 2 ^ 149 : Nat) : Int) else (x / 2 ^ 149 : Nat))
    else roundTo fp32 .rne false (2 * refExp2 n m e + 1) (-401)

/-- A two-operand instruction in a cell (R332). -/
def cellBin (op : CellOp) (a b : Nat) : FRes :=
  match op with
  | .add => fAdd fp32 envPlain .rne a b
  | .sub => fSub fp32 envPlain .rne a b
  | .mul => fMul fp32 envPlain .rne a b
  | .min => fMinMax fp32 envPlain true a b
  | .max => fMinMax fp32 envPlain false a b
  | .cmp c =>
    let r := fCompare fp32 envPlain c a b
    ⟨b2n r.1, r.2⟩

/-- The register an entry writes and its results; none for an entry that computes nothing in the cells. -/
def entryResults (p : Plane) (op : PlaneOp) : Option (Nat × CellResults) :=
  match op with
  | .linear d a b c => some (d, cellResults (fun i => linearAt a.toNat b.toNat c.toNat (cellX p i) (cellY p i)))
  | .quad d q exp =>
    some (d, cellResults (fun i =>
      let r := quadAt q (cellX p i) (cellY p i)
      if exp then (cellExp2 r.code).or r.flags else r))
  | .bin op d a b => some (d, cellResults (fun i => cellBin op (cellWord p a i).toNat (cellSource p b i)))
  | .fma d a b c => some (d, cellResults (fun i => cellFma (cellWord p a i).toNat (cellSource p b i) (cellSource p c i)))
  | .mov d b => some (d, cellResults (fun i => ⟨cellSource p b i, 0⟩))
  | .sel d a b c =>
    some (d, cellResults (fun i => ⟨if cellWord p c i ≠ 0 then (cellWord p a i).toNat else cellSource p b i, 0⟩))
  | _ => none

/-! ## Holding the plane (R319 to R323) -/

/-- The group's cohort holds the plane, else PLANE_NOT_HELD (R319). -/
def checkHeld (s : State) (e : Iss) : Res Unit :=
  if (coreOf s e.core).plane.holder = some (holderOf e.g) then .ok () else trapOf 0x11 0

/-- The group runs the handler of an unreturned PLANE_FP of its own (R338). -/
def planeHandler (k : Core) (e : Iss) : Bool := decide (k.plane.unreturned = some e.slot) && e.g.ln.handler.isSome

/-- An entry enters the plane queue, or the entries kept for the handler; without room the group stalls (R326, R338). -/
def enterPlane (s : State) (e : Iss) (op : PlaneOp) : Res State :=
  let k := coreOf s e.core
  let x : PlaneEntry := ⟨gidOf e.g, e.slot, e.g.ln.pc, e.g.ln.em, s.fresh, op, none⟩
  if planeHandler k e then
    if 4 ≤ k.plane.handlerQueue.length then .error (.stall .collector)
    else .ok (setCore s e.core { k with plane := { k.plane with handlerQueue := k.plane.handlerQueue ++ [x] } })
  else if 16 ≤ k.plane.queue.length then .error (.stall .collector)
  else .ok (setCore s e.core { k with plane := { k.plane with queue := k.plane.queue ++ [x] } })

/-- A plane instruction that writes no lane register: its entry, once the hold is checked. -/
def planeInstr (i : Instr) (op : State → Iss → Res PlaneOp) (s : State) : Host.Outcome State Fault Refusal :=
  runLane i s (fun e s =>
    match checkHeld s e with
    | .error r => .error r
    | .ok _ =>
      match op s e with
      | .error r => .error r
      | .ok op =>
        match enterPlane s e op with
        | .error r => .error r
        | .ok s => .ok (Done.plain s))

/-- The status area lies in the cohort's allocation (R320). -/
def statusOk (k : Core) (g : Group) (off : Nat) : Bool :=
  decide (off % 64 = 0) && (match cohortOf k g with
    | some c => decide (c.base ≤ off) && decide (off + 576 ≤ c.base + c.size)
    | none => false)

/-- An entry is an acquisition clear. -/
def isClear (x : PlaneEntry) : Bool :=
  match x.op with
  | .clear => true
  | _ => false

/-- `placq` (R320). -/
def execPlacq (f : LaneForm) (s : State) : Host.Outcome State Fault Refusal :=
  runLane (.placq f) s (fun e s =>
    let off := uni32 s e (fieldAt e.x 1)
    let k := coreOf s e.core
    let p := f.dst.toNat
    if !statusOk k e.g off then trapOf 0x0D (BitVec.ofNat 64 off)
    else if k.plane.holder = some (holderOf e.g) then
      .ok (Done.pred (modCore s e.core (fun k => { k with plane := { k.plane with status := off } })) p e.lanes (BitVec.allOnes 64) 0)
    else if k.plane.holder.isSome then .ok (Done.pred s p e.lanes 0 0)
    else
      match enterPlane s e .clear with
      | .error r => .error r
      | .ok s =>
        .ok (Done.pred (modCore s e.core (fun k =>
          { k with plane := { k.plane with holder := some (holderOf e.g), status := off } })) p e.lanes (BitVec.allOnes 64) 0))

/-- `plrel` (R322). -/
def execPlrel (f : LaneForm) (s : State) : Host.Outcome State Fault Refusal :=
  runLane (.plrel f) s (fun e s =>
    match checkHeld s e with
    | .error r => .error r
    | .ok _ => .ok (Done.plain (modCore s e.core (fun k => { k with plane := { k.plane with holder := none } }))))

/-- `plorg` (R323). -/
def execPlorg (f : LaneForm) (s : State) : Host.Outcome State Fault Refusal :=
  planeInstr (.plorg f) (fun s e =>
    let ox := toSigned 32 (uni32 s e (fieldAt e.x 1))
    let oy := toSigned 32 (uni32 s e (fieldAt e.x 2))
    if 2 ^ 23 < ox.natAbs then illegalOperand 1 f.src1.toNat
    else if 2 ^ 23 < oy.natAbs then illegalOperand 2 f.src2.toNat
    else .ok (.origin ox oy)) s

/-! ## Evaluation and cell instructions -/

/-- A uniform word of a field. -/
def uniWord (s : State) (e : Iss) (idx : Nat) : Word := BitVec.ofNat 32 (uni32 s e (fieldAt e.x idx))

/-- The number of the c register that a field names. -/
def cNumber (spec : BitVec 8) : Nat := spec.toNat - 172

/-- B of the plane: a c register, or a uniform word (R328). -/
def cellB (s : State) (e : Iss) (idx : Nat) : CellSrc :=
  let f := fieldAt e.x idx
  if isC f.spec then .reg (f.spec - 172) else .word (uniWord s e idx)

/-- `plin` (R330). -/
def execPlin (f : LaneForm) (s : State) : Host.Outcome State Fault Refusal :=
  planeInstr (.plin f) (fun s e => .ok (.linear (cNumber f.dst) (uniWord s e 1) (uniWord s e 2) (uniWord s e 3))) s

/-- The six coefficients of a block, from registers those of the lowest active lane (R330, R482). -/
def coefficients (s : State) (e : Iss) (spec : Nat) : List Word :=
  let l := e.g.ln
  let low := lowestLane l.em
  (List.range 6).map (fun j =>
    if isK spec then half64 (l.ks.getD (spec - 144 + j / 2) 0) (j % 2) else regWord s l (laneName l (spec + j) low) low)

/-- `plquad` (R330). -/
def execPlquad (f : LaneForm) (s : State) : Host.Outcome State Fault Refusal :=
  planeInstr (.plquad f) (fun s e => .ok (.quad (cNumber f.dst) (coefficients s e f.src1.toNat) false)) s

/-- `plexq` (R330, R331). -/
def execPlexq (f : LaneForm) (s : State) : Host.Outcome State Fault Refusal :=
  planeInstr (.plexq f) (fun s e => .ok (.quad (cNumber f.dst) (coefficients s e f.src1.toNat) true)) s

/-- A two-operand cell instruction. -/
def cellInstr (i : Instr) (op : CellOp) (f : LaneForm) (s : State) : Host.Outcome State Fault Refusal :=
  planeInstr i (fun s e => .ok (.bin op (cNumber f.dst) (cNumber f.src1) (cellB s e 2))) s

/-- `pladd` (R332). -/
def execPladd (f : LaneForm) (s : State) : Host.Outcome State Fault Refusal := cellInstr (.pladd f) .add f s
/-- `plsub` (R332). -/
def execPlsub (f : LaneForm) (s : State) : Host.Outcome State Fault Refusal := cellInstr (.plsub f) .sub f s
/-- `plmul` (R332). -/
def execPlmul (f : LaneForm) (s : State) : Host.Outcome State Fault Refusal := cellInstr (.plmul f) .mul f s
/-- `plmin` (R332). -/
def execPlmin (f : LaneForm) (s : State) : Host.Outcome State Fault Refusal := cellInstr (.plmin f) .min f s
/-- `plmax` (R332). -/
def execPlmax (f : LaneForm) (s : State) : Host.Outcome State Fault Refusal := cellInstr (.plmax f) .max f s
/-- `plcmp` (R332). -/
def execPlcmp (c : FCond) (f : LaneForm) (s : State) : Host.Outcome State Fault Refusal := cellInstr (.plcmp c f) (.cmp c) f s

/-- `plfma` (R332). -/
def execPlfma (f : LaneForm) (s : State) : Host.Outcome State Fault Refusal :=
  planeInstr (.plfma f) (fun s e => .ok (.fma (cNumber f.dst) (cNumber f.src1) (cellB s e 2) (cellB s e 3))) s

/-- `plmov` (R332). -/
def execPlmov (f : LaneForm) (s : State) : Host.Outcome State Fault Refusal :=
  planeInstr (.plmov f) (fun s e => .ok (.mov (cNumber f.dst) (cellB s e 1))) s

/-- `plsel` (R332). -/
def execPlsel (f : LaneForm) (s : State) : Host.Outcome State Fault Refusal :=
  planeInstr (.plsel f) (fun s e => .ok (.sel (cNumber f.dst) (cNumber f.src1) (cellB s e 2) (cNumber f.src3))) s

/-- `plclr` (R333). -/
def execPlclr (f : LaneForm) (s : State) : Host.Outcome State Fault Refusal :=
  planeInstr (.plclr f) (fun _ _ => .ok (.clearRegs (BitVec.ofNat 16 (wide16 f)))) s

/-! ## Enables (R334) -/

/-- The depth that entries leave. -/
def depthAfter (l : List PlaneEntry) (d : Nat) : Nat :=
  l.foldl (fun d x => match x.op with
    | .clear => 0
    | .restore x => x.enables.length
    | .enable _ => d + 1
    | .popEnable => d - 1
    | _ => d) d

/-- The depth that every entry issued before will leave: for a PLANE_FP handler, those that take effect before its own. -/
def depthAhead (k : Core) (e : Iss) : Nat :=
  let p := k.plane
  if planeHandler k e then depthAfter p.handlerQueue p.enables.length
  else depthAfter (p.handlerQueue ++ p.queue) p.enables.length

/-- `plen` (R334). -/
def execPlen (f : LaneForm) (s : State) : Host.Outcome State Fault Refusal :=
  planeInstr (.plen f) (fun s e =>
    if 8 ≤ depthAhead (coreOf s e.core) e then trapSub 0x01 7 (instrBits (.plen f)) else .ok (.enable (cNumber f.src1))) s

/-- `plels` (R334). -/
def execPlels (f : LaneForm) (s : State) : Host.Outcome State Fault Refusal :=
  planeInstr (.plels f) (fun s e =>
    if depthAhead (coreOf s e.core) e = 0 then trapSub 0x01 8 (instrBits (.plels f)) else .ok .elseEnable) s

/-- `plpop` (R334). -/
def execPlpop (f : LaneForm) (s : State) : Host.Outcome State Fault Refusal :=
  planeInstr (.plpop f) (fun s e =>
    if depthAhead (coreOf s e.core) e = 0 then trapSub 0x01 8 (instrBits (.plpop f)) else .ok .popEnable) s

/-! ## Flags, traps, cells and lanes (R335, R336, R339 to R341) -/

/-- A plane instruction whose result is written when its entry takes effect. -/
def planeResult (s : State) (e : Iss) (dst : BitVec 8) (op : PlaneOp) : Res Done :=
  match enterPlane s e op with
  | .error r => .error r
  | .ok s => .ok (Done.later s (pendingResult s e .plane (write32 dst.toNat e.lanes (fun _ => 0)) 0))

/-- `plflag` (R335). -/
def execPlflag (f : LaneForm) (s : State) : Host.Outcome State Fault Refusal :=
  runLane (.plflag f) s (fun e s =>
    match checkHeld s e with
    | .error r => .error r
    | .ok _ => planeResult s e f.dst (.flags (decide (f.src1 = 1))))

/-- `pltrap` (R336). -/
def execPltrap (f : LaneForm) (s : State) : Host.Outcome State Fault Refusal :=
  planeInstr (.pltrap f) (fun _ _ => .ok (.trapMask (BitVec.ofNat 5 f.src1.toNat))) s

/-- The cell index of a lane (R339). -/
def cellIndex (s : State) (e : Iss) (lane : Nat) : Nat := src32 s e (fieldAt e.x 2) lane % 4096

/-- `plrd` (R339). -/
def execPlrd (f : LaneForm) (s : State) : Host.Outcome State Fault Refusal :=
  runLane (.plrd f) s (fun e s =>
    match checkHeld s e with
    | .error r => .error r
    | .ok _ => planeResult s e f.dst (.read (cNumber f.src1) ((lanesOf e.lanes).map (fun l => (l, cellIndex s e l)))))

/-- `plwr` (R339). -/
def execPlwr (f : LaneForm) (s : State) : Host.Outcome State Fault Refusal :=
  planeInstr (.plwr f) (fun s e =>
    .ok (.write (cNumber f.dst) ((lanesOf e.lanes).map (fun l =>
      (cellIndex s e l, BitVec.ofNat 32 (src32 s e (fieldAt e.x 1) l)))))) s

/-- What a `plcov` at an address has pushed before its region restarted. -/
def staleMark (pc : BitVec 48) (m : Option CoverMark) : Bool := m.any (fun c => c.stale && decide (c.at_ = pc))

/-- A queue without the stream and the entries of an earlier run of a replayed `plcov` (R342). -/
def discardStale (pc : BitVec 48) (q : Queue) : Queue :=
  { q with
    entries := q.entries.filter (fun e => !staleMark pc e.cover),
    stream := match q.stream with
      | some (.cover c) => if staleMark pc c.mark then none else some (.cover c)
      | x => x }

/-- `plcov` (R340 to R342). -/
def execPlcov (f : LaneForm) (s : State) : Host.Outcome State Fault Refusal :=
  runLane (.plcov f) s (fun e s =>
    let n := f.src1.toNat
    let pc := e.g.ln.pc.addr
    match checkHeld s e with
    | .error r => .error r
    | .ok _ =>
      if n = 7 ∧ (queueOf e.g 7).nmode then illegalOperand 1 n
      else
        let q := discardStale pc (queueOf e.g n)
        if q.stream.isSome then .error (.stall .queueEmpty)
        else
          let c : CoverStream := ⟨s.fresh, e.lanes, none, some ⟨pc, false⟩⟩
          let s := modQueue s e.core e.slot n (fun _ => { reserveEntries [] q with stream := some (.cover c) })
          planeResult s e f.dst (.cover n))

/-! ## Entries take effect (R326, R337, R338) -/

/-- The plane after a change of its enable stack. -/
def pushEnable (p : Plane) (c : Nat) : Plane :=
  if 8 ≤ p.enables.length then p
  else
    let m : BitVec 4096 := BitVec.ofNat 4096 ((List.range cellCount).foldl (fun a i => if cellWord p c i ≠ 0 then a + 2 ^ i else a) 0)
    { p with enables := (enabledCells p &&& m) :: p.enables }

/-- `plels` takes effect. -/
def elseEnables (l : List (BitVec 4096)) : List (BitVec 4096) :=
  match l with
  | [] => []
  | t :: rest => (rest.headD (BitVec.allOnes 4096) &&& ~~~ t) :: rest

/-- The plane after an entry that touches only the plane. -/
def planeAfter (p : Plane) (op : PlaneOp) : Plane :=
  match op with
  | .clear => { p with regs := [], flags := [], enables := [], ox := 0, oy := 0, trapMask := 0 }
  | .restore x => p.withImage x
  | .origin ox oy => { p with ox := ox, oy := oy }
  | .enable c => pushEnable p c
  | .elseEnable => { p with enables := elseEnables p.enables }
  | .popEnable => { p with enables := p.enables.tail }
  | .clearRegs m =>
    (List.range 16).foldl (fun p c =>
      if m.getLsbD c then
        { p with regs := mset p.regs c ((List.range cellCount).map (fun i => if cellOn p i then 0 else cellWord p c i)) }
      else p) p
  | .flags clear => if clear then { p with flags := [] } else p
  | .trapMask m => { p with trapMask := m }
  | .write c cells =>
    cells.foldl (fun p x =>
      if cellOn p x.1 then { p with regs := mset p.regs c (lset 0 (mget p.regs c []) x.1 x.2) } else p) p
  | op =>
    match entryResults p op with
    | some (d, r) => writeResults p d r
    | none => p

/-- The enabled cells of an entry that raised a flag of the trap mask (R337). -/
def raisingCells (p : Plane) (r : CellResults) : List Nat :=
  (List.range cellCount).filter (fun i => cellOn p i && decide ((r.getD i (0, 0)).2 &&& p.trapMask ≠ 0))

/-- The flags of some cells together. -/
def cellFlags (r : CellResults) (l : List Nat) : Flags := orFlags (l.map (fun i => (r.getD i (0, 0)).2))

/-- The plane status area (R337). -/
def statusArea (p : Plane) (r : CellResults) (raising : List Nat) (pc : BitVec 48) : List Byte :=
  let row (y : Nat) : Nat := (raising.filter (fun i => decide (i / 64 = y))).foldl (fun a i => a + 2 ^ (i % 64)) 0
  let on := (List.range cellCount).filter (fun i => cellOn p i)
  ((List.range 64).map (fun y => natToBytes 8 (row y))).flatten ++ natToBytes 8 raising.length ++
    natToBytes 8 (raising.headD 0) ++
    natToBytes 8 ((cellFlags r raising &&& p.trapMask).toNat + 256 * (cellFlags r on).toNat) ++ natToBytes 8 pc.toNat ++
    List.replicate 32 0

/-- An arithmetic entry that raises an enabled flag: the status area, then PLANE_FP of its group, which keeps other entries
waiting where its cohort holds the plane (R337, R338). -/
def planeTrap (s : State) (core : Nat) (p : Plane) (x : PlaneEntry) : State :=
  match entryResults p x.op with
  | none => s
  | some (_, r) =>
    let raising := raisingCells p r
    if !planeArith x.op ∨ raising.isEmpty then s
    else
      let s := modCore s core (fun k => { k with
        scratch := Memory.writeBytes k.scratch p.status (statusArea p r raising x.pc.addr) })
      match groupOf s core x.slot with
      | none => s
      | some g =>
        let s := if p.holder = some (holderOf g) then
            modCore s core (fun k => { k with plane := { k.plane with unreturned := some x.slot } })
          else s
        raiseTrap s core x.slot .lane ⟨0x0F, 0, BitVec.ofNat 64 raising.length, some x.em, some ⟨x.pc, false⟩⟩

/-- The entries that a `plcov` pushes for `n` cells dealt to `m` lanes. -/
def coverEntries (n m : Nat) : Nat := if m = 0 then 0 else (n + m - 1) / m

/-- A `plcov` entry takes effect: the enabled cells are its stream's (R340). -/
def startCover (s : State) (core : Nat) (p : Plane) (x : PlaneEntry) (n : Nat) : State :=
  match groupOf s core x.slot with
  | none => s
  | some g =>
    match (queueOf g n).stream with
    | some (.cover c) =>
      if c.tag = x.tag then
        let cells := (List.range cellCount).filter (fun i => cellOn p i)
        let count := coverEntries cells.length (laneCount c.lanes)
        let s := modQueue s core x.slot n (fun q =>
          { q with stream := if cells.isEmpty then none else some (.cover { c with cells := some cells }) })
        completeValues s core x.slot x.tag [List.replicate 64 (BitVec.ofNat 32 count)]
      else s
    | _ => s

/-- The result that an entry writes to lanes. -/
def planeDeliver (s : State) (core : Nat) (p : Plane) (x : PlaneEntry) : State :=
  match x.op with
  | .flags _ =>
    completeValues s core x.slot x.tag [List.replicate 64 ((orFlags p.flags).setWidth 32)]
  | .read c cells =>
    completeValues s core x.slot x.tag [(List.range 64).map (fun l =>
      match cells.find? (fun z => decide (z.1 = l)) with
      | some z => cellWord p c z.2
      | none => 0)]
  | .cover n => startCover s core p x n
  | _ => s

/-- The entry that may take effect next, and the plane without it: the handler's entries first; others wait while a
PLANE_FP is unreturned (R338). -/
def nextEntry (p : Plane) : Option (PlaneEntry × Plane) :=
  match p.handlerQueue with
  | x :: rest => some (x, { p with handlerQueue := rest })
  | [] =>
    if p.unreturned.isSome then none
    else
      match p.queue with
      | x :: rest => some (x, { p with queue := rest })
      | [] => none

/-- The package after an entry of the plane queue has taken effect. -/
def applyPlane (s : State) (core : Nat) (x : PlaneEntry) (p : Plane) : State :=
  let s := modCore s core (fun k => { k with plane := planeAfter p x.op })
  planeTrap (planeDeliver s core p x) core p x

/-- The next entry of the plane queue takes effect (R326). -/
def execPlaneEntry (core : Nat) (s : State) : Host.Outcome State Fault Refusal :=
  match nextEntry (coreOf s core).plane with
  | some (x, p) => if isClear x then .next s else .next (applyPlane s core x p)
  | none => .next s

/-- The acquisition clear at the head of the plane queue takes effect (R321). -/
def execAcquisitionClear (core : Nat) (s : State) : Host.Outcome State Fault Refusal :=
  match nextEntry (coreOf s core).plane with
  | some (x, p) => if isClear x then .next (applyPlane s core x p) else .next s
  | none => .next s

/-- The ac in which the sequencer collects flags and no entry takes effect (R327). -/
def execPlaneUpkeep (_core : Nat) (s : State) : Host.Outcome State Fault Refusal := .next s

/-! ## Coverage streams (R340) -/

/-- The element of an entry for a lane: its cell, or 0x8000_0000. -/
def coverElement (lanes : Mask) (cells : List Nat) (lane : Nat) : Word :=
  if lanes.getLsbD lane then
    match cells[((lanesOf lanes).filter (fun x => decide (x < lane))).length]? with
    | some i => BitVec.ofNat 32 i
    | none => 0x80000000
  else 0x80000000

/-- A coverage stream pushes its next entry (R340). -/
def execPlcovPush (core slot q : Nat) (s : State) : Host.Outcome State Fault Refusal :=
  match groupOf s core slot with
  | none => .next s
  | some g =>
    let x := queueOf g q
    match x.stream with
    | some (.cover c) =>
      match c.cells with
      | some cells =>
        if freeEntries x = 0 ∨ (ctxOf s g.ctx).state = .faulted then .next s
        else
          let rest := cells.drop (laneCount c.lanes)
          let e : QEntry := ⟨(List.range 64).map (coverElement c.lanes cells), true, c.mark, 0⟩
          .next (modQueue s core slot q (fun x =>
            { x with entries := x.entries ++ [e],
                     stream := if rest.isEmpty then none else some (.cover { c with cells := some rest }) }))
      | none => .next s
    | _ => .next s

end Sys2Proof.Machine
end

