-- ==== Sys2Proof/Machine/Schedule.lean ====
section
/-!
DEFINITION. What a core offers its groups: issue opportunities, operand grants, the register reserve (07_group R140 to
R144, R169).
-/
namespace Sys2Proof.Machine

open Sys2Proof

/-! ## Time -/

/-- Time passes during a step: the counter of free values advances, and package time with it (log 5); peers acknowledge
operations, and the other packages of pods join and arrive at pod barriers; the first kernels of the schedulers' orders and the
rails' targets are noted. Every unit reads one package time: the skew of up to 4 ns that R25 allows is taken as 0 (DESIGN CHOICE,
log 5). -/
def tick (s : State) : State :=
  { noteRails (noteFirst s) with
    fresh := s.fresh + 1, now := s.now + Config.elapsed s.fresh, outgoing := ackSome s, barriers := podBarriers s }

/-! ## Candidates (R141) -/

/-- The lane stream of a slot has an instruction to issue; whether it could issue now, a trial tells. -/
def mayTry (s : State) (core slot : Nat) (g : Group) : Bool :=
  !g.ln.yielded && (beforeLane s core slot).isNone && !dueLane s g && canIssue s g

/-- The same of a scalar stream. -/
def mayTryScalar (s : State) (g : Group) : Bool := !dueScalar s g && canScalar s g

/-- What a trial of a stream's next step finds: nothing that stalls it, or why it stalls and how many quarter-registers the pool
must hold for it. -/
abbrev Trial := State → Nat → Option (StallReason × Nat)

/-- Slots of a core that satisfy a test, with their groups. -/
def candidates (s : State) (core : Nat) (p : Nat → Group → Bool) : List (Nat × Group) :=
  (coreOf s core).groups.filter (fun g => p g.1 g.2)

/-- A lane stream that could issue: it has an instruction to issue, and the trial of this ac has found nothing that stalls it. -/
def laneCould (s : State) (core slot : Nat) (g : Group) : Bool := mayTry s core slot g && !laneStalled s core slot

/-- The same of a scalar stream. -/
def scalarCould (s : State) (g : Group) : Bool := mayTryScalar s g && !g.sc.stalled

/-- The lane streams that propose an instruction for the coming ac: those that could issue, if no instruction holds the lane
datapath (R141, R417). -/
def laneProposals (s : State) (core : Nat) : List (Nat × Group) :=
  if (coreOf s core).drawing.isEmpty then candidates s core (laneCould s core) else []

/-- The scalar streams that propose an instruction for the coming ac (R141). -/
def scalarProposals (s : State) (core : Nat) : List (Nat × Group) := candidates s core (fun _ g => scalarCould s g)

/-- The candidates of a core's lane opportunity of this ac (R141). -/
def laneCandidates (s : State) (core : Nat) : List (Nat × Group) :=
  candidates s core (fun slot g => (coreOf s core).offered.contains slot && laneCould s core slot g)

/-- The candidates of its scalar opportunity. -/
def scalarCandidates (s : State) (core : Nat) : List (Nat × Group) :=
  candidates s core (fun slot g => (coreOf s core).scalarOffered.contains slot && scalarCould s g)

/-! ## The choice (R140, R142) -/

/-- Oldest first; ties go to the lower slot (R141). -/
def older (a b : Nat × Group) : Bool := lexLt [a.2.age, a.1] [b.2.age, b.1]

/-- Highest priority first, then oldest. -/
def higher (a b : Nat × Group) : Bool := lexLt [255 - a.2.prio, a.2.age, a.1] [255 - b.2.prio, b.2.age, b.1]

/-- The group chosen among candidates, with the counter that counts for its stream (R142 lines 003 to 005). -/
def chosen (count : Group → Nat) (l : List (Nat × Group)) : Option (Nat × Group) :=
  match (sortBy higher (l.filter (fun g => decide (count g.2 = 32)))).head? with
  | some g => some g
  | none => (sortBy older l).head?

/-- Groups added to an issue slot while their widths fit 32 lanes (R140). -/
def pack : Nat → List (Nat × Group) → List (Nat × Group)
  | _, [] => []
  | used, g :: l => if used + widthG g.2 ≤ 32 then g :: pack (used + widthG g.2) l else pack used l

/-- Two lane streams stand at one address in one translation (R140, R446). -/
def sameWord (s : State) (core : Nat) (g h : Group) : Bool :=
  decide (g.ln.pc = h.ln.pc) && decide (currentWord s core g = currentWord s core h)

/-- The groups packed with a chosen one, oldest first: of its kernel, at its program counter, in the same translation
(R140, R446). -/
def packedWith (s : State) (core : Nat) (g : Nat × Group) (l : List (Nat × Group)) : List (Nat × Group) :=
  pack (widthG g.2) (sortBy older (l.filter (fun h =>
    decide (h.1 ≠ g.1) && decide (h.2.kernel = g.2.kernel) && sameWord s core g.2 h.2)))

/-- The groups of one opportunity: the chosen one and those packed with it (R142 line 006). -/
def issueSlot (s : State) (core : Nat) (l : List (Nat × Group)) : List (Nat × Group) :=
  match chosen (fun g => g.pass) l with
  | some g => g :: packedWith s core g l
  | none => []

/-- The slots of the candidates that an opportunity passes over: those of a priority above that of some group it is given to (R142
lines 008 and 009). -/
def passedOver (issued l : List (Nat × Group)) : List Nat :=
  (l.filter (fun h => !issued.any (fun j => decide (j.1 = h.1)) && issued.any (fun j => decide (j.2.prio < h.2.prio)))).map (fun h => h.1)

/-- A lane stream chosen to issue, in handler mode too (R137). -/
def startIssue (l : Lane) : Lane :=
  { l with state := match l.state with
      | .ready => .issuing
      | .trapped => .issuing
      | st => st }

/-! ## What an instruction draws (R416) -/

/-- The next instruction of a lane stream before which nothing comes. -/
def nextLane (s : State) (core : Nat) (g : Group) : Option Instr :=
  match fetchLane s core g with
  | .ok (.translated i) => some i
  | .ok (.native w) => decodeLane w
  | _ => none

/-- The quarters of a pass of 32 lanes that a group's lane instruction enters. -/
def quartersIn (s : State) (g : Group) (i : Instr) (pass : Nat) : Nat :=
  match fieldsOf i with
  | some fs => ((quartersOf (takingPart s g.ln (settleFields g.ln.fmt fs))).filter (fun q => decide (q / 4 = pass))).length
  | none => 0

/-- The term of R416's table for a lane instruction, of which `quarters` enter the pass, in cu; a kind that the table does not
list counts as control, and a plane or matrix instruction's own issue as well (log 19). -/
def laneTerm (quarters : Nat) (i : Instr) : Nat :=
  match i with
  | .fadd _ _ | .faddShort _ | .fsub _ _ | .fsubShort _ | .fmul _ _ | .fmulShort _ | .ffma _ _ | .fmin _ | .fminShort _
  | .fmax _ | .fmaxShort _ | .fabs _ | .fabsShort _ | .fneg _ | .fnegShort _ | .frnd _ _ | .fcmp _ _ | .fclass _ | .setfpc _
  | .hadd2 _ _ | .hadd2F16Short _ | .hadd2Bf16Short _ | .hsub2 _ _ | .hmul2 _ _ | .hmul2F16Short _ | .hmul2Bf16Short _
  | .hfma2 _ _ | .hmin2 _ _ | .hmax2 _ _ | .cvt _ _ | .cvtSr _ | .pk2 _ _ | .pk2Sr _ _ | .upk2 _ _ | .chain _ => 5
  | .rcp _ | .rsq _ | .sqt _ | .ex2 _ | .lg2 _ | .sinr _ | .cosr _ | .tnh _ => 2 * quarters
  | .ld _ | .ldAcq _ | .st _ | .stRel _ | .lds _ | .sts _ | .atom _ _ | .ared _ _ | .fence _ | .waitw _ | .cpy _ | .cpyw _
  | .kick _ | .kcfg _ | .rld _ | .vfput _ | .vfcfg _ | .tsmp _ | .tfet _ | .tsiz _ | .pref _ | .cwb _ | .cinv _ => 4
  | _ => 3

/-- What a lane issue of some groups draws in each ac of its passes, in quarters of a cu: each pass is counted in as many ac as the
quad's pass count, at that fraction (R51, R416). -/
def laneDraws (s : State) (core : Nat) (l : List (Nat × Group)) : List Nat :=
  match l.filterMap (fun g => (nextLane s core g.2).map (fun i => (g.2, i))) with
  | [] => []
  | (g, i) :: more =>
    let n := passCount (quadOf s core)
    ((List.range ((widthG g + 31) / 32)).map (fun p =>
      let quarters := (((g, i) :: more).map (fun x => quartersIn s x.1 x.2 p)).foldl (· + ·) 0
      List.replicate n (4 * laneTerm quarters i / n))).flatten

/-! ## Opportunities (R141, R142) -/

/-- A lane stream found stalled at its trial, or no longer so (R137). -/
def noteStall (r : Option (StallReason × Nat)) (l : Lane) : Lane :=
  match r with
  | some (r, n) => { l with state := .stalled r, need := n }
  | none => { l with state := restState l }

/-- The core with its lane streams that were tried noted as stalled or not. -/
def noteStalls (trial : Trial) (s : State) (core : Nat) : State :=
  modCore s core (fun k => { k with groups := mapEntries k.groups (fun slot g =>
    if mayTry s core slot g then { g with ln := noteStall (trial s slot) g.ln } else g) })

/-- The core with its scalar streams that were tried noted as stalled or not. -/
def noteScalarStalls (trial : Trial) (s : State) (core : Nat) : State :=
  modCore s core (fun k => { k with groups := mapEntries k.groups (fun slot g =>
    if mayTryScalar s g then { g with sc := { g.sc with stalled := (trial s slot).isSome } } else g) })

/-- The package with a core's lane opportunity given to some of its candidates `l`, of which the first has the turn: their states,
which others are passed over, and what the issue draws in the later ac of its pass (R137, R142, R416). -/
def giveLane (s : State) (core : Nat) (l : List (Nat × Group)) : List (Nat × Group) → State
  | [] => { s with turn := .offer core, packed := [], passed := [] }
  | g :: more =>
    let issued := g :: more
    let t := modCore s core (fun k => { k with
      groups := mapEntries k.groups (fun slot h => if issued.any (fun x => decide (x.1 = slot)) then { h with ln := startIssue h.ln } else h),
      offered := [], drawing := (laneDraws s core issued).tail })
    { t with turn := .lane core g.1, packed := more.map (fun x => x.1), passed := passedOver issued l, opp := s.fresh }

/-- The package with a core's scalar opportunity given to the stream that R142 chooses. -/
def giveScalar (s : State) (core : Nat) : State :=
  let l := scalarCandidates s core
  match chosen (fun g => g.spass) l with
  | none => { s with turn := .offer core, packed := [], passed := [] }
  | some g =>
    let t := modCore s core (fun k => { k with scalarOffered := [] })
    { t with turn := .scalar core g.1, packed := [], passed := passedOver [g] l }

/-- A stream has the turn. -/
def midTurn : Turn → Bool
  | .lane _ _ => true
  | .scalar _ _ => true
  | _ => false

/-- LANE_ISSUE_OPPORTUNITY: a core's lane opportunity of this ac goes to the groups that R142 chooses among its candidates; while a
stream has the turn it waits (log 23). -/
def execLaneIssueOpportunity (core : Nat) (s : State) : Host.Outcome State Fault Refusal :=
  .next (if midTurn s.turn then s else giveLane s core (laneCandidates s core) (issueSlot s core (laneCandidates s core)))

/-! ## After a turn -/

/-- A stream whose turn has passed no longer issues (R137). -/
def notIssuing (l : Lane) : Lane := if l.state = .issuing then { l with state := restState l } else l

/-- A pass counter of a group that is passed over (R142 line 009). -/
def passedMore (n : Nat) : Nat := min (n + 1) 32

/-- A group of an opportunity has issued: the candidates that it passes over are counted, once (R142 lines 008 and 009). -/
def countPassed (s : State) (core : Nat) (f : Group → Group) : State :=
  { modCore s core (fun k => { k with
      groups := mapEntries k.groups (fun slot g => if s.passed.contains slot then f g else g) }) with passed := [] }

/-- The next group packed into the opportunity has its turn, or the core's other streams (R140, R141). -/
def nextTurn (core : Nat) (s : State) : State :=
  match s.packed with
  | [] => { s with turn := .offer core, passed := [] }
  | p :: rest => { s with turn := .lane core p, packed := rest }

/-- After a turn: a group that has issued clears its pass counter, and those passed over count (R142 lines 007 to 009). -/
def afterTurn (t : Turn) (s : State) : State :=
  match t with
  | .lane core slot =>
    let s := modLane s core slot notIssuing
    nextTurn core (if laneStalled s core slot then s
      else countPassed (modGroup s core slot (fun g => { g with pass := 0 })) core (fun g => { g with pass := passedMore g.pass }))
  | .scalar core slot =>
    nextTurn core (if (groupOf s core slot).any (fun g => g.sc.stalled) then s
      else countPassed (modGroup s core slot (fun g => { g with spass := 0 })) core (fun g => { g with spass := passedMore g.spass }))
  | _ => s

/-- After what comes before a lane stream's next instruction the stream keeps its turn, unless it has gone or stalls. -/
def afterBefore (core slot : Nat) (s : State) : State :=
  if (groupOf s core slot).isNone ∨ laneStalled s core slot then nextTurn core (modLane s core slot notIssuing) else s

/-! ## Collectors (R54, R143, R144) -/

/-- The read that a collector asks a bank for: one at a time, in operand order (R143). -/
def askedOf (bank : Nat) (c : Collector) : Option BankRead := c.reads.find? (fun r => decide (r.bank = bank))

/-- Starved reads come first, in the order in which they became starved; ties, and the others, go by the collectors' age (R144). -/
def grantedBefore (a b : BankRead × Nat) : Bool :=
  let key (x : BankRead × Nat) : List Nat := match x.1.starved with
    | some t => [0, t, x.2]
    | none => [1, 0, x.2]
  lexLt (key a) (key b)

/-- The collector to which a bank grants a read in an ac, by its age. -/
def bankWinner (bank : Nat) (l : List Collector) : Option Nat :=
  ((sortBy grantedBefore (l.zipIdx.filterMap (fun c => (askedOf bank c.1).map (fun r => (r, c.2))))).head?).map (fun x => x.2)

/-- A read that is lost in an ac: at the fourth loss one after the other it is starved (R144). -/
def lostRead (ac : Nat) (r : BankRead) : BankRead :=
  { r with lost := r.lost + 1, starved := if r.starved.isNone ∧ 4 ≤ r.lost + 1 then some ac else r.starved }

/-- The collectors after a bank has granted one read (R144). -/
def grantBank (ac : Nat) (l : List Collector) (bank : Nat) : List Collector :=
  match bankWinner bank l with
  | none => l
  | some w => l.zipIdx.map (fun c =>
      if c.2 = w then { c.1 with reads := c.1.reads.eraseP (fun r => decide (r.bank = bank)) }
      else { c.1 with reads := (modFirst (fun r => decide (r.bank = bank)) (lostRead ac) c.1.reads).getD c.1.reads })

/-- The core without the registers that a collector, all of whose reads are granted, read for the last time (R54, R143). -/
def freeCollected (k : Core) (c : Collector) : Core :=
  match mget? k.groups c.slot with
  | none => k
  | some g =>
    let g' := { g with ln := freeNames g.ln c.frees }
    { k with groups := mset k.groups c.slot g', pool := k.pool + charge g - charge g' }

/-- The core after the grants of one ac: each bank has granted one read, and the collectors with no read left are free (R144). -/
def coreGranted (k : Core) : Core :=
  let l := (List.range 16).foldl (grantBank k.ac) k.collectors
  { (l.filter (fun c => c.reads.isEmpty)).foldl freeCollected k with
    collectors := l.filter (fun c => !c.reads.isEmpty), granted := true }

/-- OPERAND_GRANT: the banks of a core grant what they can in this ac, once (R144). -/
def execOperandGrant (core : Nat) (s : State) : Host.Outcome State Fault Refusal :=
  .next (if (coreOf s core).granted then s else setCore s core (coreGranted (coreOf s core)))

/-! ## An ac (R51, R143, R420) -/

/-- A lane stream's clock after an ac, which is `d` eighths of an issue step. Where a step ends with operands of the group's last
instruction not yet granted, that instruction's step is a later one: the next instruction and the landing of its writes wait by as
much (R51, R143). -/
def laneAc (c : Option Collector) (d : Nat) (l : Lane) : Lane :=
  let l' := { l with clock := l.clock + d }
  match c with
  | some c =>
    if (l.clock - c.since) / 8 < (l.clock + d - c.since) / 8 then
      let n := l.hazards.length - c.starts
      { l' with next := l.next + issueSteps 1, hazards := l.hazards.take n ++ (l.hazards.drop n).map (fun h => { h with lands := h.lands + issueSteps 1 }) }
    else l'
  | none => l'

/-- The plane with the entry that takes effect noted as begun, at a pass count (R420). -/
def planeBegun (n : Nat) (p : Plane) : Plane :=
  let begin_ (x : PlaneEntry) : PlaneEntry := { x with count := some (x.count.getD n) }
  match p.handlerQueue with
  | x :: l => { p with handlerQueue := begin_ x :: l }
  | [] =>
    match p.queue with
    | x :: l => if p.unreturned.isSome then p else { p with queue := begin_ x :: l }
    | [] => p

/-- An ac passes on a core: what the last ac's grants have left (R144), the groups' clocks (R51), the SFU (R214), the
spacing of bursts (R425), the plane. -/
def coreAc (s : State) (core : Nat) : State :=
  modCore s core (fun k =>
    let k := if k.granted then k else coreGranted k
    { k with
      groups := mapEntries k.groups (fun slot g => { g with
        ln := laneAc (k.collectors.find? (fun c => decide (c.slot = slot))) (issueSteps 1 / issueAc s core g) g.ln }),
      ac := k.ac + 1, granted := false, sfuBusy := k.sfuBusy - 1, burstGap := k.burstGap - 1, plane := planeBegun (passCount (quadOf s core)) k.plane })

/-- A core's opportunities of an ac: the lane streams and the scalar streams that they may be given to; a `yield` keeps its group out
of one lane opportunity only (R141, R181). -/
def coreOffered (lanes scalars : List Nat) (opportunity : Bool) (k : Core) : Core :=
  { k with
    groups := if opportunity then mapEntries k.groups (fun _ g => { g with ln := { g.ln with yielded := false } }) else k.groups,
    offered := lanes, scalarOffered := scalars, drawing := k.drawing.tail }

/-! ## The register reserve (R169) -/

/-- The quarter-registers that a lane stream's write still lacks. -/
def lacks (k : Core) (g : Group) : Nat := g.ln.need - k.pool

/-- A lane stream that waits for registers which the pool does not hold. -/
def wantsRegisters (k : Core) (g : Group) : Bool := decide (g.ln.state = .stalled .allocation) && decide (0 < lacks k g)

/-- The group served from the reserve: its registers are its own until the write that lacked them, and it tries again. -/
def serve (k : Core) (slot : Nat) (g : Group) : Core :=
  { k with
    reserve := k.reserve - lacks k g,
    groups := mset k.groups slot { g with ln := { g.ln with
      state := if g.ln.handler.isSome then .trapped else .ready, need := 0, grant := g.ln.grant + lacks k g } } }

/-- A group's q7 as any pre-emption leaves it: what came through the narrows stays in it and counts against no slot, and a bound
consumer's is detached, with the waiting entries reserved behind (R277, R480). -/
def q7Alone (w : Narrows) (core slot : Nat) (g : Group) : Queue :=
  let bound := decide (w.bound = some (core, slot))
  let q := detachQ7 bound (g.qs.getD 7 Queue.reset)
  if bound then { q with saved := q.saved ++ carriedEntries g w.waiting } else q

/-- A group pre-empted alone: its registers beyond its floor return, and its region restarts later (R169). -/
def stoppedAlone (w : Narrows) (core slot : Nat) (g : Group) : Group :=
  { g with
    ln := { g.ln with
      state := .preempted, regs := [], sets := [], outstanding := [], hazards := [], sleep := none, watch := none, hint := none,
      faultRestarts := true, need := 0, grant := 0 },
    qs := lset Queue.reset g.qs 7 (q7Alone w core slot g) }

/-- The package with one group pre-empted alone (R169), which also leaves the narrows (R277). -/
def preemptAlone (s : State) (core slot : Nat) (g : Group) : State :=
  let g' := stoppedAlone (narrowsOf s core) core slot g
  modCore (leaveNarrows s core [(slot, g)]) core (fun k =>
    { k with
      groups := mset k.groups slot g', pool := k.pool + charge g - charge g',
      collectors := k.collectors.filter (fun c => decide (c.slot ≠ slot)) })

/-- Groups pre-empted alone form again once no older group waits for registers (R169). -/
def reform (k : Core) : Core :=
  { k with groups := mapEntries k.groups (fun slot g =>
      if g.ln.state = .preempted ∧ !k.groups.any (fun h => wantsRegisters k h.2 && older h (slot, g)) then
        { g with ln := { g.ln with state := .forming } }
      else g) }

/-- Every resident group is stalled for allocation, whatever it waits for: of those that want registers the oldest is served from the
reserve, or else the youngest that may be stopped is pre-empted alone (R169, log 125). -/
def execAllocationReserve (core : Nat) (s : State) : Host.Outcome State Fault Refusal :=
  let k := reform (coreOf s core)
  let l := k.groups.filter (fun g => decide (g.2.ln.state ≠ .preempted))
  if l.all (fun g => decide (g.2.ln.state = .stalled .allocation)) then
    match (sortBy older (l.filter (fun g => wantsRegisters k g.2))).head? with
    | none => .next (setCore s core k)
    | some (slot, g) =>
      if lacks k g ≤ k.reserve then .next (setCore s core (serve k slot g))
      else
        match (sortBy (fun a b => older b a) (l.filter (fun h => decide (h.1 ≠ slot) && mayStop s core h.1 h.2))).head? with
        | none => .next (setCore s core k)
        | some (n, h) => .next (preemptAlone (setCore s core k) core n h)
  else .next (setCore s core k)

end Sys2Proof.Machine
end

