-- ==== Sys2Proof/Machine/Power.lean ====
section
/-!
DEFINITION. Power, current and heat: holm balance, bursts and hints, rails, temperatures, gating (18_power). Temperatures,
energy and which copy engines move data are what the events bring; the ac of a holm is its HOLM_BALANCE event (log 19).
-/
namespace Sys2Proof.Machine

open Sys2Proof

/-- The package with one quad changed. -/
def modQuad (s : State) (q : Nat) (f : Quad → Quad) : State := { s with quads := mset s.quads q (f (mget s.quads q Quad.reset)) }

/-- A quad. -/
def quadNo (s : State) (q : Nat) : Quad := mget s.quads q Quad.reset

/-- Add one to a 32-bit counter that saturates. -/
def satInc (x : BitVec 32) : BitVec 32 := if x = BitVec.allOnes 32 then x else x + 1

/-! ## The estimate (R416), in quarters of a cu -/

/-- A quad's cores (R14). -/
def quadCores (q : Nat) : List Nat := (List.range 4).map (fun i => 4 * q + i)

/-- What a core draws on its own layer besides what it proposes: that it is not gated, the lane instruction in its pass, the
plane entry, the pass that holds the array, the copy engine where it moves data, which only a command that is not paused can
make it do (R416). A pass and an entry keep the pass count at which they began (R420). -/
def coreDraw (s : State) (moving : BitVec 8) (core : Nat) : Nat :=
  let k := coreOf s core
  let n := passCount (quadOf s core)
  4 * 4 + k.drawing.headD 0 +
    (match nextEntry k.plane with
     | some x => 4 * 6 / x.1.count.getD n
     | none => 0) +
    (match k.landing.getLast? with
     | some x => 4 * 5 * x.flags.length / x.count
     | none => 0) +
    (if moving.getLsbD (core % 8) && k.engine.any (fun c => c.paused.isNone) then 4 * 3 else 0)

/-- What a core draws on the facing layer: a pass that reads B from the slices (R416). -/
def facingDraw (s : State) (core : Nat) : Nat :=
  match (coreOf s core).landing.getLast? with
  | some x => if x.sliced then 4 * 8 / x.count else 0
  | none => 0

/-- The term of the lane issue that a core proposes, by the choice of R142 and with the groups packed with it (R140, R416, R417). -/
def proposedLane (s : State) (core : Nat) : Option Nat :=
  match issueSlot s core (laneProposals s core) with
  | [] => none
  | l => some ((laneDraws s core l).headD 0)

/-- The term of the scalar issue that a core proposes. -/
def proposedScalar (s : State) (core : Nat) : Nat := if (scalarProposals s core).isEmpty then 0 else 4

/-- A layer's estimate for the coming ac, with every proposed issue (R416, R417). -/
def layerDraw (s : State) (moving : BitVec 8) (quad : Nat) : Nat :=
  ((quadCores quad).map (fun c => coreDraw s moving c + (proposedLane s c).getD 0 + proposedScalar s c)).foldl (· + ·) 0 +
    ((quadCores (quad ^^^ 1)).map (facingDraw s)).foldl (· + ·) 0

/-! ## Holm balance (R417 to R419) -/

/-- Two layers' estimates are in balance (R417). -/
def balanced (a b : Nat) : Bool := decide (10 * (max a b - min a b) ≤ max a b)

/-- Two layers' estimates with the terms of the proposed lane issues of a holm's cores, index 0 to 3 the lower layer, and the
cores whose proposal is cancelled. -/
structure Balance where
  lo : Nat
  up : Nat
  proposed : List (Option Nat)
  cancelled : List Nat

/-- The core whose proposal is cancelled next on a layer: the highest term, ties to the higher core number (R417). -/
def nextIdle (upper : Bool) (b : Balance) : Option (Nat × Nat) :=
  let l := ((List.range 4).map (fun i => if upper then 4 + i else i)).filterMap (fun i =>
    if b.cancelled.contains i then none else (b.proposed.getD i none).map (fun v => (i, v)))
  (sortBy (fun x y => lexLt [y.2, y.1] [x.2, x.1]) l).head?

/-- Balancing idles on the layer that was the heavier one (R417 step 1). -/
def balanceIdles (upper : Bool) : Nat → Balance → Balance
  | 0, b => b
  | fuel + 1, b =>
    if balanced b.lo b.up then b
    else
      match nextIdle upper b with
      | none => b
      | some (i, v) =>
        balanceIdles upper fuel { b with
          lo := if upper then b.lo else b.lo - v, up := if upper then b.up - v else b.up, cancelled := i :: b.cancelled }

/-- The least shunt in cu that brings two estimates into balance, at most 48 (R417 step 2). -/
def shuntFor (a b : Nat) : Nat := ((List.range 48).find? (fun u => balanced (max a b) (min a b + 4 * u))).getD 48

/-- The balance of a holm for the coming ac after its balancing idles, and its shunt (R416, R417). -/
def holmAfter (s : State) (moving : BitVec 8) (holm : Nat) : Balance × Nat :=
  let b : Balance := ⟨layerDraw s moving (2 * holm), layerDraw s moving (2 * holm + 1),
    (List.range 8).map (fun i => proposedLane s (8 * holm + i)), []⟩
  let b := balanceIdles (decide (b.lo < b.up)) 8 b
  (b, if balanced b.lo b.up then 0 else shuntFor b.lo b.up)

/-- A core's idles and shunts counted (R417). -/
def coreBalanced (cancelled shunted : Bool) (k : Core) : Core :=
  { k with idles := if cancelled then satInc k.idles else k.idles, shunts := if shunted then satInc k.shunts else k.shunts }

/-- What a core of a holm is offered in an ac: a cancelled proposal takes its lane issue opportunity (R141, R417). -/
def offerAc (s : State) (core : Nat) (cancelled shunted : Bool) : State :=
  let lanes := if cancelled then [] else (laneProposals s core).map (fun g => g.1)
  modCore s core (fun k => coreBalanced cancelled shunted
    (coreOffered lanes ((scalarProposals s core).map (fun g => g.1)) (k.drawing.isEmpty && !cancelled) k))

/-- The cores of a holm (R14). -/
def holmCores (holm : Nat) : List Nat := (List.range 8).map (fun i => 8 * holm + i)

/-- The package with the opportunities of an ac of a holm offered; where no stream has anything to do its first core has the turn. -/
def offerHolm (s : State) (holm : Nat) (cancelled : List Nat) (shunted : Bool) : State :=
  let t := (holmCores holm).foldl (fun s c => offerAc s c (cancelled.contains (c % 8)) shunted) s
  if t.turn = .idle then { t with turn := .offer (8 * holm) } else t

/-- The contexts with a cohort resident on a quad. -/
def quadContexts (s : State) (quad : Nat) : List Nat :=
  (((quadCores quad).map (fun c => (coreOf s c).cohorts.map (fun x => x.ctx))).flatten).eraseDups

/-- A shunt's energy charged in equal parts to contexts (R418). -/
def chargeShunt (s : State) (energy : BitVec 64) (l : List Nat) : State :=
  l.foldl (fun s c => modCtx s c (fun c => { c with energy := c.energy + BitVec.ofNat 64 (energy.toNat / l.length) })) s

/-- HOLM_BALANCE: one ac of a holm (R416 to R419), with the opportunities that its cores offer in it (R141); of one with a gated quad
the ac passes and nothing is balanced. What the ac does before is the step's (log 19). -/
def execHolmBalance (holm : Nat) (moving : BitVec 8) (energy : BitVec 64) (s : State) : Host.Outcome State Fault Refusal :=
  if 128 ≤ holm then .next s
  else if (quadNo s (2 * holm)).state = .gated ∨ (quadNo s (2 * holm + 1)).state = .gated then .next (offerHolm s holm [] false)
  else
    let (b, shunt) := holmAfter s moving holm
    let heavier := 2 * holm + (if b.lo < b.up then 1 else 0)
    let t := offerHolm s holm b.cancelled (decide (0 < shunt))
    let t := if 0 < shunt then chargeShunt t energy (quadContexts s heavier) else t
    if balanced (max b.lo b.up) (min b.lo b.up + 4 * shunt) then .next t
    else .next (modQuad t heavier (fun q => { q with balance := if q.balance < 2 then 2 else 4 }))

/-! ## Bursts and hints (R315, R316, R420) -/

/-- A core's declared level (R316). -/
def declaredLevel (k : Core) : Nat :=
  min 16 ((k.groups.map (fun g => match g.2.ln.hint with
    | some h => if h.active then h.intensity else 0
    | none => 0)).foldl (· + ·) 0)

/-- The 65th ac of a run in which the pass holding the array exceeds the declared level (R316). -/
def execUndeclaredBurst (core : Nat) (s : State) : Host.Outcome State Fault Refusal :=
  match (coreOf s core).landing.getLast? with
  | none => .next s
  | some x =>
    if 4 * x.flags.length ≤ declaredLevel (coreOf s core) then .next s
    else
      let s := modQuad s (core / 4) (fun q => { q with burst := true })
      match x.owners.head? with
      | none => .next s
      | some o => .next (modCtx s o.ctx (fun c => { c with ubc := satInc c.ubc }))

/-- A demand on a quad's pass count expires on its timer (R417, R420, R431). -/
def execPassDemandExpiry (quad : Nat) (which : PassDemand) (s : State) : Host.Outcome State Fault Refusal :=
  if 256 ≤ quad then .next s
  else match which with
  | .burst => .next (modQuad s quad (fun q => { q with burst := false }))
  | .balance => .next (modQuad s quad (fun q => { q with balance := 1 }))
  | .thermal =>
    .next (if (stackOf s (quad / 64)).hot then s else modQuad s quad (fun q => { q with thermal := false }))

/-- A pending hint becomes active (R315). -/
def execHintOnset (core slot : Nat) (s : State) : Host.Outcome State Fault Refusal :=
  .next (modLane s core slot (fun l => { l with hint := l.hint.map (fun h => { h with active := true }) }))

/-- An active hint ends (R315). -/
def execHintEnd (core slot : Nat) (s : State) : Host.Outcome State Fault Refusal :=
  .next (modLane s core slot (fun l => { l with hint := if l.hint.any (fun h => h.active) then none else l.hint }))

/-! ## Rails (R422 to R424) -/

/-- A rail layer moves 10 mV toward its target; one that has nothing to fall to holds no longer (R423, R424). -/
def railToward (target : Nat) (r : RailLayer) : RailLayer :=
  if r.level < target then { r with level := r.level + 10, hold := false }
  else if r.level = target then { r with hold := false, stopped := false }
  else if r.hold ∨ r.stopped then r
  else { r with level := r.level - 10 }

/-- RAIL_STEP (R423, R424). -/
def execRailStep (rail : Nat) (upper : Bool) (s : State) : Host.Outcome State Fault Refusal :=
  if 16 ≤ rail then .next s else .next (modRail s rail upper (railToward (railTarget s rail upper)))

/-- A hold of 200 µs ends (R424). -/
def execRailHoldExpiry (rail : Nat) (upper : Bool) (s : State) : Host.Outcome State Fault Refusal :=
  if 16 ≤ rail then .next s else .next (modRail s rail upper (fun r => { r with hold := false }))

/-! ## Temperatures and energy (R107, R421, R429 to R431) -/

/-- A core compares its register bank sets' temperatures (R421). -/
def execBankTempCompare (core : Nat) (t0 t1 : BitVec 8) (s : State) : Host.Outcome State Fault Refusal :=
  if 1024 ≤ core then .next s
  else
    .next (modCore s core (fun k => { k with
      temp0 := t0, temp1 := t1,
      bankSet := if k.bankSet then !decide (t0.toNat + 2 ≤ t1.toNat) else decide (t1.toNat + 2 ≤ t0.toNat) }))

/-- The controller's estimate of a context's energy is added to its account (R107). -/
def execEnergyUpdate (ctx : Nat) (nj : BitVec 64) (s : State) : Host.Outcome State Fault Refusal :=
  .next (modCtx s ctx (fun c => { c with energy := c.energy + nj }))

/-- The thermal level of an HBM4 stack at a temperature (R429). -/
def thermalLevel (level temp : Nat) : Nat :=
  if 95 ≤ temp ∨ (level = 2 ∧ 92 < temp) then 2
  else if 85 ≤ temp ∨ (1 ≤ level ∧ 82 < temp) then 1
  else 0

/-- An HBM4 stack's temperature is read; a change of its level posts a SHORTFALL event (R429, R430). -/
def execThermalLevelChange (stack : Nat) (temp : BitVec 8) (s : State) : Host.Outcome State Fault Refusal :=
  if 12 ≤ stack then .next s
  else
    let h := mget s.hbm stack HbmStack.reset
    let level := thermalLevel h.level temp.toNat
    let s := { s with hbm := mset s.hbm stack { h with temp := temp, level := level } }
    .next (if level = h.level then s else post s (stack / 3) 0x0F 0 0 [stack, level, if level = 0 then 256 else if level = 1 then 236 else 160])

/-- A compute stack's temperature is read: at 100 °C its quads get a thermal demand, until it falls below 95 °C (R431). -/
def execStackThermalDemand (stack : Nat) (temp : BitVec 8) (s : State) : Host.Outcome State Fault Refusal :=
  if 4 ≤ stack then .next s
  else
    let was := (stackOf s stack).hot
    let hot := decide (100 ≤ temp.toNat) || (was && decide (95 ≤ temp.toNat))
    let s := modStack s stack (fun k => { k with temp := temp, hot := hot })
    if hot = was then .next s
    else .next ((List.range 64).foldl (fun s i => modQuad s (64 * stack + i) (fun q => { q with thermal := hot })) s)

/-! ## Gating (R426 to R428) -/

/-- The facing quad of the holm. -/
def facingQuad (q : Nat) : Nat := q ^^^ 1

/-- The link ids of the narrows of a quad's four vertical pairs (R476). -/
def quadNarrows (q : Nat) : List Nat := (quadCores q).map (fun c => narrowsLink (lowerOf c))

/-- A narrows is down, or drains and has no entry waiting (R377, R378). -/
def narrowsDrained (s : State) (id : Nat) : Bool :=
  match (linkOf s id).state with
  | .down => true
  | .draining => linkEmpty s id
  | _ => false

/-- Every cohort of a quad has gone, and its narrows have drained (R426, R427). -/
def gateMayClose (s : State) (q : Nat) : Bool :=
  (quadCores q).all (fun c => (coreOf s c).cohorts.isEmpty) && (quadNarrows q).all (narrowsDrained s)

/-- A draining quad's gate closes; its narrows are down (R378, R427). -/
def execQuadGateClose (quad : Nat) (s : State) : Host.Outcome State Fault Refusal :=
  if quad < 256 ∧ (quadNo s quad).state = .draining ∧ gateMayClose s quad then
    let s := (quadNarrows quad).foldl (fun s id => setLink s id .down) s
    let s := post s (quad / 64) 0x0E 0 (quadNo s quad).tag [quad, 2]
    .next (modQuad s quad (fun q => { q with state := .gated, tag := 0 }))
  else .next s

/-- A quad as it wakes: active, its demands cleared, but for the thermal demand of a stack that is hot (R428, R431). -/
def wokenQuad (s : State) (quad : Nat) : Quad := { Quad.reset with thermal := (stackOf s (quad / 64)).hot }

/-- A waking quad becomes active, its narrows calibrated (R378, R428). -/
def execQuadWakeDone (quad : Nat) (s : State) : Host.Outcome State Fault Refusal :=
  if quad < 256 ∧ (quadNo s quad).state = .waking then
    let s := (quadNarrows quad).foldl (fun s id => if (linkOf s id).state = .training then linkTrained s id true else s) s
    let s := post s (quad / 64) 0x0E 0 (quadNo s quad).tag [quad, 0]
    .next (modQuad s quad (fun _ => wokenQuad s quad))
  else .next s

end Sys2Proof.Machine
end

