-- ==== Sys2Proof/Machine/Skerries.lean ====
section
/-!
DEFINITION. Skerries: the units beside the HBM4 banks, their words, commands, leases and FIFOs (15_skerries R356 to R376,
17_model R412).
-/
namespace Sys2Proof.Machine

open Sys2Proof

/-! ## Channels and rows (R356, R357) -/

/-- The channel of a physical address, numbered over all stacks. -/
def channelOf (pa : Nat) : Nat := pa / 2 ^ 36 * 32 + pa / 2 ^ 15 % 32

/-- A skerry. -/
def skerryOf (s : State) (c : Nat) : Skerry := mget s.skerries c Skerry.reset

/-- The package with one skerry changed. -/
def modSkerry (s : State) (c : Nat) (f : Skerry → Skerry) : State := { s with skerries := mset s.skerries c (f (skerryOf s c)) }

/-- The die below a channel's stack (R9). -/
def channelDie (c : Nat) : Nat := c / 96

/-- The physical address of an element's word: row, column, bank and word (R356). -/
def cellAddress (row col bank i : Nat) : Nat := row + 1024 * col + 64 * bank + 4 * i

/-- Translation and permission of an address, as a skerry instruction checks them at issue (R373): nothing is read, so no
held line and no closed way to it makes the instruction wait. -/
def permitAt (s : State) (core ctx va : Nat) (kind : AccessKind) : AddrCheck :=
  match translate s core ctx va with
  | .error (.page sub) => .page sub
  | .error .access => .access
  | .error .wait => .held
  | .ok x => if !permits x.leaf kind ∨ (isAperture x.pa ∧ !(apertureOf s x.pa).enabled) then .access else .ok x

/-- The same as a result. -/
def permitOne (s : State) (core ctx va : Nat) (kind : AccessKind) : Res Xlat :=
  match permitAt s core ctx va kind with
  | .ok x => .ok x
  | .page sub => .error (.page (BitVec.ofNat 64 va) kind sub)
  | .held => .error (.stall .scoreboard)
  | _ => trapOf 0x0D (BitVec.ofNat 64 va)

/-- The address in any channel that an instruction names: readable and in HBM4. -/
def channelAt (s : State) (core ctx va : Nat) : Res Nat :=
  match permitOne s core ctx va .read with
  | .error r => .error r
  | .ok x => if isMemory x.pa then .ok (channelOf x.pa) else trapOf 0x0D (BitVec.ofNat 64 va)

/-- The first address of some accesses that does not translate stops the instruction before any permission is looked at (R254,
R373). -/
def pagesFirst (s : State) (core ctx : Nat) (l : List (Nat × AccessKind)) : Res Unit :=
  match (l.map (fun a => (a.1, a.2, permitAt s core ctx a.1 a.2))).find? (fun a => match a.2.2 with
    | .page _ => true
    | .held => true
    | _ => false) with
  | some (va, kind, .page sub) => .error (.page (BitVec.ofNat 64 va) kind sub)
  | some _ => .error (.stall .scoreboard)
  | none => .ok ()

/-- The physical row that a virtual address names, with a permission on its pages (R357, R363). -/
def rowAt (s : State) (core ctx v : Nat) (kinds : List AccessKind) : Res Nat :=
  let refuse : Res Nat := trapOf 0x0D (BitVec.ofNat 64 v)
  if v % 32768 ≠ 0 then refuse
  else
    let r := ((List.range 4).map (fun i => kinds.map (fun k => (i, k, permitAt s core ctx (v + 8192 * i) k)))).flatten
    match r.find? (fun e => match e.2.2 with
      | .page _ => true
      | .held => true
      | _ => false) with
    | some (i, k, .page sub) => .error (.page (BitVec.ofNat 64 (v + 8192 * i)) k sub)
    | some _ => .error (.stall .scoreboard)
    | none =>
      match r.head? with
      | some (_, _, .ok x) =>
        let good (e : Nat × AccessKind × AddrCheck) : Bool := match e.2.2 with
          | .ok y => decide (y.pa = x.pa + 8192 * e.1)
          | _ => false
        if x.pa % 32768 = 0 ∧ isMemory x.pa ∧ r.all good then .ok x.pa else refuse
      | _ => refuse

/-! ## Words (R359 to R362) -/

/-- Fields of a skerry word (R359). -/
structure SkWord where
  fop : Nat
  fnd : Nat
  fptr : Nat
  finc : Nat
  aop : Nat
  type : Nat
  nd : Nat
  na : Nat
  nb : Nat
  nc : Nat
  zb : Nat
  imm : Nat
  bimm : Bool
  wop : Nat
  ns : Nat
  wptr : Nat
  winc : Nat
  zc : Nat
  last : Bool
  zeros : Bool
  deriving DecidableEq, Repr

/-- The fields of 64 bits; `zeros` says that every field marked zero is zero. -/
def skWord (w : DWord) : SkWord :=
  let x := w.toNat
  { fop := bits x 1 0, fnd := bits x 4 2, fptr := bits x 6 5, finc := bits x 7 7, aop := bits x 17 12, type := bits x 19 18,
    nd := bits x 22 20, na := bits x 25 23, nb := bits x 28 26, nc := bits x 31 29, zb := bits x 33 32, imm := bits x 41 34,
    bimm := bitOf x 42, wop := bits x 45 44, ns := bits x 48 46, wptr := bits x 50 49, winc := bits x 51 51,
    zc := bits x 53 52, last := bitOf x 56,
    zeros := decide (bits x 11 8 = 0) && !bitOf x 43 && decide (bits x 55 54 = 0) && decide (bits x 63 57 = 0) }

/-- The types that an operation allows (R361). -/
def typeAllowed (aop type : Nat) : Bool :=
  if aop = 9 ∨ aop = 10 then decide (type < 2) else if 11 ≤ aop ∧ aop ≤ 13 then decide (type < 3) else true

/-- A word that ends its command with NM_BADWORD (R362). -/
def badWord (x : SkWord) : Bool :=
  decide (2 ≤ x.fop) || decide (x.fptr = 3) || decide (19 ≤ x.aop) || decide (x.wop = 3) || decide (x.wptr = 3) ||
    !x.zeros || !typeAllowed x.aop x.type || (decide (11 ≤ x.aop) && decide (x.aop ≤ 13) && decide (x.nd ≠ 0)) ||
    (decide (x.aop = 17) && (x.bimm || decide (4 ≤ x.nb)))

/-- The type code of R48 for a type of a skerry word. -/
def skType (t : Nat) : Nat := if t = 0 then 2 else if t = 1 then 6 else if t = 2 then 10 else 9

/-- An operation on two values of a float format (R362). -/
def skFloat (f : Fmt) (aop a b c : Nat) : FRes :=
  match aop with
  | 1 => fAdd f envPlain .rne a b
  | 2 => fSub f envPlain .rne a b
  | 3 => fMul f envPlain .rne a b
  | 4 => fMinMax f envPlain true a b
  | 5 => fMinMax f envPlain false a b
  | _ => fFused f envPlain .rne a b c

/-- An operation on both halves of bf16 pairs (R362). -/
def skPairs (aop a b c : Nat) : FRes :=
  let lo := skFloat bf16 aop (a % 65536) (b % 65536) (c % 65536)
  let hi := skFloat bf16 aop (a / 65536) (b / 65536) (c / 65536)
  ⟨lo.code + hi.code * 65536, lo.flags ||| hi.flags⟩

/-- An integer operation (R361, R362). -/
def skInt (signed : Bool) (aop a b c : Nat) : Nat :=
  let less : Bool := if signed then decide (toSigned 32 a < toSigned 32 b) else decide (a < b)
  match aop with
  | 1 => (a + b) % 2 ^ 32
  | 2 => (a + 2 ^ 32 - b) % 2 ^ 32
  | 3 => a * b % 2 ^ 32
  | 4 => if less then a else b
  | 5 => if less then b else a
  | 9 => a * 2 ^ (b % 32) % 2 ^ 32
  | 10 => if signed then wrapTo 32 (toSigned 32 a / (2 ^ (b % 32) : Nat)) else a / 2 ^ (b % 32)
  | _ => (a * b + c) % 2 ^ 32

/-- One value converted by R81 in RNE; a NaN result is its format's canonical NaN (R362). -/
def skFrom (dst src x : Nat) : FRes :=
  let r := cvtValue envPlain .rne (skType dst) (skType src) x
  match ieeeType (skType dst) with
  | some f => ⟨if isNaN f r.code then canonNaN f else r.code, r.flags⟩
  | none => r

/-- A conversion (R362). -/
def skConvert (src dst a c : Nat) : FRes :=
  let from_ (x : Nat) : FRes := skFrom dst src (if src = 3 then x % 65536 else x)
  if src = dst then ⟨a, 0⟩
  else if dst = 3 then
    let lo := from_ a
    let hi := from_ c
    ⟨lo.code % 65536 + hi.code % 65536 * 65536, lo.flags ||| hi.flags⟩
  else
    let r := from_ a
    ⟨r.code % 2 ^ 32, r.flags⟩

/-- What the arithmetic slot computes for an element (R361). -/
def skValue (x : SkWord) (a b c : Nat) (z : Bool) : FRes :=
  let arith : FRes :=
    if x.type = 2 then skFloat fp32 x.aop a b c
    else if x.type = 3 then skPairs x.aop a b c
    else ⟨skInt (decide (x.type = 0)) x.aop a b c, 0⟩
  match x.aop with
  | 6 => ⟨a &&& b, 0⟩
  | 7 => ⟨a ||| b, 0⟩
  | 8 => ⟨a ^^^ b, 0⟩
  | 14 => ⟨if z then a else b, 0⟩
  | 16 => ⟨((List.range 32).filter (fun i => a.testBit i)).length, 0⟩
  | 17 => skConvert x.type (x.nb % 4) a c
  | 18 => ⟨a, 0⟩
  | _ => arith

/-- What a comparison gives for an element (R361, R362). -/
def skCompare (x : SkWord) (a b : Nat) : Bool × Flags :=
  if x.type = 2 then
    fCompare fp32 envPlain (if x.aop = 11 then .eq else if x.aop = 12 then .lt else .le) a b
  else
    let u : Int := if x.type = 0 then toSigned 32 a else a
    let v : Int := if x.type = 0 then toSigned 32 b else b
    (if x.aop = 11 then decide (u = v) else if x.aop = 12 then decide (u < v) else decide (u ≤ v), 0)

/-- The arithmetic slot compares. -/
def compares (x : SkWord) : Bool := decide (11 ≤ x.aop) && decide (x.aop ≤ 13)

/-! ## Memory of a running command (R371) -/

/-- A byte as a running command sees it. -/
def skRead (s : State) (r : SkRun) (pa : Nat) : Byte := (mget? r.view pa).getD (Memory.read s.mem pa)

/-- A 32-bit word as a running command sees it. -/
def skReadWord (s : State) (r : SkRun) (pa : Nat) : Nat := bytesToNat ((List.range 4).map (fun i => skRead s r (pa + i)))

/-- A byte written by a running command: under a later write of another agent, only the command's own view changes. -/
def skWrite (a : State × SkRun) (pa : Nat) (b : Byte) : State × SkRun :=
  match mget? a.2.view pa with
  | some _ => (a.1, { a.2 with view := mset a.2.view pa b })
  | none => (stampWords { a.1 with mem := Memory.write a.1.mem pa b } pa 1, a.2)

/-- Bytes written by a running command from an address on. -/
def skWriteBytes (a : State × SkRun) (pa : Nat) (bs : List Byte) : State × SkRun :=
  (bs.zipIdx).foldl (fun a e => skWrite a (pa + e.2) e.1) a

/-! ## One word on one bank (R360) -/

/-- A register's 16 words of a bank. -/
def skReg (k : Skerry) (n bank : Nat) : List Word := mget k.n (16 * n + bank) (List.replicate 16 0)

/-- The columns of the two memory slots: the pointers' values, or a step's column (R360, R366). -/
def pointer (cps : Nat × Nat × Nat) (p : Nat) : Nat := if p = 0 then cps.1 else if p = 1 then cps.2.1 else cps.2.2

/-- What a bank holds after a word: its registers and condition bits, flags raised, and what it writes. -/
structure BankStep where
  n : Map (List Word)
  z : Map (BitVec 16)
  flags : Flags
  out : List (Nat × Word)

/-- One bank executes a word; every slot reads the state before it (R360). -/
def bankWord (s : State) (k : Skerry) (r : SkRun) (x : SkWord) (fcol wcol bank : Nat) : BankStep :=
  let na := skReg k x.na bank
  let nb := skReg k x.nb bank
  let nc := skReg k x.nc bank
  let ns := skReg k x.ns bank
  let b (i : Nat) : Nat := if x.bimm then (sext64 8 x.imm).toNat % 2 ^ 32 else (nb.getD i 0).toNat
  let a (i : Nat) : Nat := (na.getD i 0).toNat
  let zb := mget k.z (16 * x.zb + bank) 0
  let zc := mget k.z (16 * x.zc + bank) 0
  let vals := (List.range 16).map (fun i => skValue x (a i) (b i) (nc.getD i 0).toNat (zb.getLsbD i))
  let cmps := (List.range 16).map (fun i => skCompare x (a i) (b i))
  let n1 := if x.fop = 1 then
      mset k.n (16 * x.fnd + bank) ((List.range 16).map (fun i => BitVec.ofNat 32 (skReadWord s r (cellAddress r.cmd.row fcol bank i))))
    else k.n
  let n2 := if x.aop = 0 ∨ compares x then n1 else mset n1 (16 * x.nd + bank) (vals.map (fun v => BitVec.ofNat 32 v.code))
  { n := n2,
    z := if compares x then
        mset k.z (16 * x.zb + bank) (BitVec.ofNat 16 ((List.range 16).foldl (fun m i => m + (if (cmps.getD i (false, 0)).1 then 2 ^ i else 0)) 0))
      else k.z,
    flags := if x.aop = 0 then 0 else if compares x then cmps.foldl (fun f c => f ||| c.2) 0 else vals.foldl (fun f v => f ||| v.flags) 0,
    out := if x.wop = 0 then []
      else ((List.range 16).filter (fun i => decide (x.wop = 1) || zc.getLsbD i)).map (fun i =>
        (cellAddress r.cmd.row wcol bank i, ns.getD i 0)) }

/-- The lines of the columns and banks that a bank writes. -/
def outLines (out : List (Nat × Word)) : List Nat := (out.map (fun e => e.1 / 128)).eraseDups

/-- The command that a skerry has not finished, by its identity. -/
def runOf (k : Skerry) (id : Nat) : Option SkRun := (runsOf k).find? (fun r => decide (r.cmd.issued = id))

/-- A command that a skerry has not finished, changed. -/
def modRun (id : Nat) (f : SkRun → SkRun) (k : Skerry) : Skerry := mapRuns (fun r => if r.cmd.issued = id then f r else r) k

/-- The commands of a skerry behind one that it has not finished. -/
def laterRuns (k : Skerry) (id : Nat) : List Nat :=
  (((runsOf k).dropWhile (fun r => decide (r.cmd.issued ≠ id))).drop 1).map (fun r => r.cmd.issued)

/-- A command sees what an earlier one of its skerry writes, late as its bank may be, also in bytes that another agent has written since
both began (R370, R371). -/
def seeWrites (out : List (Nat × Word)) (r : SkRun) : SkRun :=
  let bs := (out.map (fun e => (natToBytes 4 e.2.toNat).zipIdx.map (fun b => (e.1 + b.2, b.1)))).flatten
  { r with view := bs.foldl (fun v b => if (mget? v b.1).isSome then mset v b.1 b.2 else v) r.view }

/-- The bank's step for a command taken: memory, registers, flags. -/
def applyBank (s : State) (c id : Nat) (x : SkWord) (fcol wcol bank : Nat) : State :=
  let k := skerryOf s c
  match runOf k id with
  | none => s
  | some r =>
    let b := bankWord s k r x fcol wcol bank
    let a := b.out.foldl (fun a e => skWriteBytes a e.1 (natToBytes 4 e.2.toNat)) (s, r)
    let new := (outLines b.out).filter (fun l => !a.2.lines.contains l)
    let r := { a.2 with flags := a.2.flags ||| b.flags, lines := a.2.lines ++ new }
    modSkerry a.1 c (fun k =>
      mapRuns (fun r' => if (laterRuns k id).contains r'.cmd.issued then seeWrites b.out r' else r')
        (modRun id (fun _ => r) { k with n := b.n, z := b.z }))

/-! ## Poisoned frames (R351) -/

/-- A running command meets a poisoned frame: PAGE_FAULT subcode 4 is sent to the host, and the command waits for its answer
(R347, R351, log 104). -/
def skFault (s : State) (chan id va : Nat) (kind : AccessKind) : State :=
  match (runOf (skerryOf s chan) id) with
  | none => s
  | some r =>
    match pageFault s (channelDie chan) r.cmd.ctx va kind 4 with
    | none => s
    | some (w, s) =>
      modSkerry s chan (modRun id (fun r => { r with fault := some ⟨w.1, w.2, pageTrap (BitVec.ofNat 64 va) 4 none none⟩ }))

/-- The first of some columns of a row that lies in a poisoned frame, as a virtual address. -/
def badFrame (s : State) (row va : Nat) (cols : List Nat) : Option Nat :=
  (cols.find? (fun c => poisoned s (row + 1024 * c))).map (fun c => va + 1024 * c)

/-- The access of a word that meets a poisoned frame. -/
def wordFault (s : State) (r : SkRun) (x : SkWord) (fcol wcol : Nat) : Option (Nat × AccessKind) :=
  match (if x.fop = 1 then badFrame s r.cmd.row (r.cmd.vas.getD 0 0) [fcol] else none) with
  | some va => some (va, .read)
  | none => (if x.wop = 0 then none else badFrame s r.cmd.row (r.cmd.vas.getD 0 0) [wcol]).map (fun va => (va, .write))

/-! ## The FIFO (R364, R368, R369) -/

/-- What judges a command: owner, lease and program length. -/
structure Judged where
  owner : Option Nat
  lease : Option GroupId
  len : Nat

/-- A lease is held by another group. -/
def leasedAway (lease : Option GroupId) (gid : GroupId) : Bool := lease.isSome && decide (lease ≠ some gid)

/-- Owner, lease and length after an entry of the FIFO. -/
def afterOp (j : Judged) : SkOp → Judged
  | .run _ => j
  | .load gid _ _ _ n _ => if leasedAway j.lease gid then j else { j with owner := some gid.ctx, len := n }
  | .lease gid _ _ _ => if leasedAway j.lease gid then j else { j with lease := some gid }
  | .unlease gid _ _ _ => if j.lease = some gid then { j with lease := none } else j
  | .reset gid => if j.lease = some gid then { j with lease := none, len := 0 } else j

/-- How things stand after everything accepted so far (R364). -/
def judged (k : Skerry) : Judged := k.fifo.foldl afterOp ⟨k.owner, k.lease, k.program.length⟩

/-- The status of a command at a channel: 0, or the code that refuses it (R364). -/
def judge (j : Judged) (c : SkCmd) : Nat :=
  if leasedAway j.lease c.gid then 1
  else if j.owner ≠ some c.ctx then 2
  else if (c.kind = 0 ∧ j.lease = some c.gid) ∨ (c.kind = 1 ∧ j.lease ≠ some c.gid) then 3
  else if (c.kind = 0 ∧ j.len ≤ c.entry) ∨ (c.kind = 1 ∧ j.len = 0) then 4
  else 0

/-- The destination channel of a transfer, if it is another than the source's. -/
def otherChannel (c : SkCmd) : Option Nat :=
  if c.kind = 2 ∧ channelOf c.drow ≠ channelOf c.row then some (channelOf c.drow) else none

/-- Entries a FIFO holds (R358). -/
def fifoRoom : Nat := 16

/-- An entry of a FIFO that takes one of its places; the reset of a channel is no command. -/
def takesPlace : SkOp → Bool
  | .reset _ => false
  | _ => true

/-- The places of a FIFO that are taken. -/
def fifoLoad (k : Skerry) : Nat := (k.fifo.filter takesPlace).length

/-- A channel can take no further entry: its FIFO and what is on its way fill it. -/
def fifoFull (k : Skerry) : Bool := decide (fifoRoom ≤ fifoLoad k + (k.requests.filter (fun q => takesPlace q.op)).length)

/-- A status returned to an instruction. -/
def returnStatus (s : State) (core slot tag code : Nat) : State :=
  completeValues s core slot tag [List.replicate 64 (BitVec.ofNat 32 code)]

/-- A channel reset: registers, condition bits, pc and program (R358, R368). -/
def resetChannel (k : Skerry) : Skerry := { k with n := [], z := [], pc := 0, program := [], lease := none }

/-- The lease entries at the head of a FIFO take effect, each at its place (R368); `fuel` bounds them. -/
def settleFifo (c : Nat) : Nat → State → State
  | 0, s => s
  | fuel + 1, s =>
    let k := skerryOf s c
    if !(runsOf k).isEmpty then s
    else
      match k.fifo with
      | .lease gid core slot tag :: l =>
        if leasedAway k.lease gid then
          settleFifo c fuel (returnStatus (modSkerry s c (fun k => { k with fifo := l })) core slot tag 1)
        else
          settleFifo c fuel (returnStatus (modSkerry s c (fun k => { k with fifo := l, lease := some gid, pc := 0 })) core slot tag 0)
      | .unlease gid core slot tag :: l =>
        let code := if leasedAway k.lease gid then 1 else 0
        settleFifo c fuel (returnStatus (modSkerry s c (fun k =>
          { k with fifo := l, lease := if code = 0 then none else k.lease })) core slot tag code)
      | .reset gid :: l =>
        settleFifo c fuel (modSkerry s c (fun k =>
          if k.lease = some gid then { resetChannel k with fifo := l } else { k with fifo := l }))
      | _ => s

/-- The entries at the head of a channel's FIFO that act by themselves. -/
def settleChannel (s : State) (c : Nat) : State := settleFifo c 17 s

/-- A request enters its channel's FIFO. -/
def enterFifo (s : State) (c : Nat) (op : SkOp) : State := modSkerry s c (fun k => { k with fifo := k.fifo ++ [op] })

/-- A request is no longer on its way. -/
def dropRequest (s : State) (c : Nat) (q : SkRequest) : State := modSkerry s c (fun k => { k with requests := k.requests.erase q })

/-- A command judged and accepted or refused, at both channels of a transfer (R364, R367); it waits while a channel has no
room. -/
def acceptCommand (s : State) (c : Nat) (q : SkRequest) (x : SkCmd) : State :=
  let drop (s : State) : State := dropRequest s c q
  let here := judge (judged (skerryOf s c)) x
  match otherChannel x with
  | none =>
    if here = 0 ∧ fifoRoom ≤ fifoLoad (skerryOf s c) then s
    else
      let s := drop s
      returnStatus (if here = 0 then enterFifo s c (.run x) else s) q.core q.slot q.tag here
  | some d =>
    let code := if here = 0 then judge (judged (skerryOf s d)) x else here
    if code ≠ 0 then returnStatus (drop s) q.core q.slot q.tag code
    else if fifoRoom ≤ fifoLoad (skerryOf s c) ∨ fifoRoom ≤ fifoLoad (skerryOf s d) then s
    else returnStatus (enterFifo (enterFifo (drop s) c (.run x)) d (.run { x with source := false })) q.core q.slot q.tag 0

/-- A request has arrived at a channel: its way is open (R379), and every earlier one of its group has been taken (R369). -/
def hasArrived (s : State) (chan : Nat) (before : List SkRequest) (q : SkRequest) : Bool :=
  pathsOpen s (dieOf q.core) (channelDie chan) && before.all (fun r => decide (r.gid ≠ q.gid))

/-- The request that arrived first: those of different groups arrive in the order in which they were sent, but for the ways that are
closed meanwhile (R369, log 116). -/
def firstArrived (s : State) (chan : Nat) : List SkRequest → List SkRequest → Option SkRequest
  | _, [] => none
  | before, q :: l => if hasArrived s chan before q then some q else firstArrived s chan (before ++ [q]) l

/-- The request that arrived first at a channel is taken (R364, R369); it waits, and those behind it, while the FIFO is full. -/
def execSkerryAccept (chan : Nat) (s : State) : Host.Outcome State Fault Refusal :=
  let s := settleChannel s chan
  match firstArrived s chan [] (skerryOf s chan).requests with
  | none => .next s
  | some q =>
    match q.op with
    | .run x => .next (acceptCommand s chan q x)
    | op =>
      if takesPlace op ∧ fifoRoom ≤ fifoLoad (skerryOf s chan) then .next s
      else .next (settleChannel (enterFifo (dropRequest s chan q) chan op) chan)

/-- A microprogram is installed at its place in the FIFO, once its image has been fetched (R374). -/
def execNmloadApply (chan : Nat) (s : State) : Host.Outcome State Fault Refusal :=
  let s := settleChannel s chan
  let k := skerryOf s chan
  match runsOf k, k.fifo with
  | [], .load gid core slot tag _ (some image) :: l =>
    if leasedAway k.lease gid then
      .next (settleChannel (returnStatus (modSkerry s chan (fun k => { k with fifo := l })) core slot tag 1) chan)
    else
      .next (settleChannel (returnStatus (modSkerry s chan (fun k =>
        { k with fifo := l, owner := some gid.ctx, program := image, n := [], z := [], pc := 0 })) core slot tag 0) chan)
  | _, _ => .next s

/-! ## Commands (R365 to R372) -/

/-- The physical ranges that the homes hold for a command (R371). -/
def heldRanges (c : SkCmd) : List (Nat × Nat) :=
  if c.kind = 0 then [(c.row, c.row + 32768)]
  else if c.kind = 1 then [(c.row + 1024 * c.p0, c.row + 1024 * (c.p0 + 1))]
  else
    [(c.row + 1024 * c.p0, c.row + 1024 * (c.p0 + c.count)), (c.drow + 1024 * c.p1, c.drow + 1024 * (c.p1 + c.count))]

/-- A command heads the FIFOs of its channels. -/
def headsBoth (s : State) (c : SkCmd) : Bool :=
  match otherChannel c with
  | none => true
  | some d =>
    (runsOf (skerryOf s d)).isEmpty &&
      (match (skerryOf s d).fifo with
       | .run x :: _ => decide (x = { c with source := false })
       | _ => false)

/-- A command that has stopped and that some bank still replays steps aside, so that the next may begin on the other banks
(R370). -/
def stepAside (k : Skerry) : Skerry :=
  match k.running, k.fifo with
  | some r, _ :: .run c :: _ =>
    if r.stop.isSome ∧ !k.catchup.isEmpty ∧ r.cmd.kind ≠ 2 ∧ c.kind ≠ 2 then
      { k with running := none, replaying := k.replaying ++ [r], fifo := k.fifo.tail }
    else k
  | _, _ => k

/-- A command at the head of the FIFO starts (R365 line 001, R370, R371). -/
def execSkerryCommandStart (chan : Nat) (s : State) : Host.Outcome State Fault Refusal :=
  let s := settleChannel (modSkerry s chan stepAside) chan
  let k := skerryOf s chan
  match k.running, k.fifo with
  | none, .run c :: _ =>
    if c.source ∧ headsBoth s c ∧ (c.kind ≠ 2 ∨ k.replaying.isEmpty) then
      let r : SkRun := { cmd := c, done := 0, flags := 0, depth := 0, held := heldRanges c, view := [], lines := [], stop := none,
                         column := 0, fault := none }
      .next (modSkerry s chan (fun k =>
        if c.kind = 0 then { k with running := some r, cp0 := c.p0, cp1 := c.p1, cp2 := c.p2, pc := c.entry }
        else { k with running := some r }))
    else .next s
  | _, _ => .next s

/-- A running command stops with a code. -/
def stopRun (s : State) (chan code : Nat) : State :=
  modSkerry s chan (fun k => { k with running := k.running.map (fun r => { r with stop := some code }) })

/-- A bank's queue of missed words (R370). -/
def missed (k : Skerry) (bank : Nat) : List Missed := mget k.catchup bank []

/-- A command's word on all banks: those that refresh, or are behind, miss it (R370). -/
def wordOnBanks (s : State) (chan id : Nat) (w : DWord) (x : SkWord) (cps : Nat × Nat × Nat) : State :=
  (List.range 16).foldl (fun s bank =>
    let k := skerryOf s chan
    if k.refreshing.contains bank ∨ !(missed k bank).isEmpty then
      let q := missed k bank ++ [⟨id, w, cps⟩]
      modSkerry s chan (fun k => { k with
        catchup := mset k.catchup bank q,
        running := k.running.map (fun r => { r with depth := max r.depth q.length }) })
    else applyBank s chan id x (pointer cps x.fptr) (pointer cps x.wptr) bank) s

/-- The pointers after a word (R360). A pointer holds 0 to 63 (R358): beyond 63 it goes on from 0 (log 103). -/
def advancePointers (x : SkWord) (k : Skerry) : Skerry :=
  let inc (p : Nat) : Nat := (if x.fptr = p then x.finc else 0) + (if x.wptr = p then x.winc else 0)
  { k with cp0 := (k.cp0 + inc 0) % 64, cp1 := (k.cp1 + inc 1) % 64, cp2 := (k.cp2 + inc 2) % 64 }

/-- pc and iterations after a word of a run command (R365 lines 005, 006). -/
def runNext (x : SkWord) (r : SkRun) (k : Skerry) : Skerry :=
  if x.last then
    if r.done + 1 = r.cmd.iter then { k with running := some { r with done := r.done + 1, stop := some 0 } }
    else { k with pc := r.cmd.entry, running := some { r with done := r.done + 1 } }
  else { k with pc := k.pc + 1 }

/-- pc after a step command (R366). -/
def stepNext (x : SkWord) (r : SkRun) (k : Skerry) : Skerry :=
  { k with pc := if x.last ∨ k.pc + 1 = k.program.length then 0 else k.pc + 1, running := some { r with stop := some 0 } }

/-- A memory slot of a word would use a column of 32 or more (R360). -/
def badColumn (x : SkWord) (cps : Nat × Nat × Nat) : Bool :=
  (decide (x.fop = 1) && decide (32 ≤ pointer cps x.fptr)) || (decide (x.wop ≠ 0) && decide (32 ≤ pointer cps x.wptr))

/-- The word at pc executes on every bank (R360, R365, R366). -/
def execSkerryWord (chan : Nat) (s : State) : Host.Outcome State Fault Refusal :=
  let k := skerryOf s chan
  match k.running with
  | none => .next s
  | some r =>
    if r.cmd.kind = 2 ∨ r.stop.isSome ∨ r.fault.isSome ∨ (List.range 16).any (fun b => decide (32 ≤ (missed k b).length)) then .next s
    else
      match k.program.drop k.pc with
      | [] => .next (stopRun s chan 7)
      | w :: _ =>
        let x := skWord w
        let cps : Nat × Nat × Nat := if r.cmd.kind = 1 then (r.cmd.p0, r.cmd.p0, r.cmd.p0) else (k.cp0, k.cp1, k.cp2)
        if badWord x then .next (stopRun s chan 5)
        else if badColumn x cps then .next (stopRun s chan 6)
        else
          match wordFault s r x (pointer cps x.fptr) (pointer cps x.wptr) with
          | some (va, kind) => .next (skFault s chan r.cmd.issued va kind)
          | none =>
            let s := wordOnBanks s chan r.cmd.issued w x cps
            .next (modSkerry s chan (fun k =>
              match k.running with
              | none => k
              | some r => if r.cmd.kind = 1 then stepNext x r k else runNext x r (advancePointers x k)))

/-- A bank begins a refresh, or ends it (R370). -/
def execBankRefresh (chan bank : Nat) (starts : Bool) (s : State) : Host.Outcome State Fault Refusal :=
  .next (modSkerry s chan (fun k =>
    let l := k.refreshing.filter (fun b => decide (b ≠ bank))
    { k with refreshing := if starts then l ++ [bank] else l }))

/-- A bank without the words it has missed of a command. -/
def skipWords (s : State) (chan bank id : Nat) : State :=
  modSkerry s chan (fun k =>
    let l := (missed k bank).filter (fun m => decide (m.id ≠ id))
    { k with catchup := if l.isEmpty then merase k.catchup bank else mset k.catchup bank l })

/-- A command has stopped at an uncorrectable error. -/
def stoppedUncorr (k : Skerry) (id : Nat) : Bool := (runOf k id).any (fun r => decide (r.stop = some 8))

/-- A bank replays the oldest word it has missed, for the command that missed it (R370). Of a command that has stopped with NM_UNCORR
it replays what it has missed up to a word that meets a poisoned frame, since the effects of the earlier words are all in place
(R365, log 104). -/
def execCatchupReplay (chan bank : Nat) (s : State) : Host.Outcome State Fault Refusal :=
  let k := skerryOf s chan
  match missed k bank with
  | [] => .next s
  | ⟨id, w, cps⟩ :: l =>
    let x := skWord w
    let fault := (runOf k id).bind (fun r => wordFault s r x (pointer cps x.fptr) (pointer cps x.wptr))
    if k.refreshing.contains bank ∨ (runOf k id).any (fun r => r.fault.isSome) then .next s
    else
      match fault with
      | some (va, kind) => .next (if stoppedUncorr k id then skipWords s chan bank id else skFault s chan id va kind)
      | none =>
        let s := applyBank s chan id x (pointer cps x.fptr) (pointer cps x.wptr) bank
        .next (modSkerry s chan (fun k => { k with catchup := if l.isEmpty then merase k.catchup bank else mset k.catchup bank l }))

/-- The bytes of a transfer's source columns. -/
def columnBytes (s : State) (r : SkRun) (col : Nat) : List Byte := (List.range 1024).map (fun i => skRead s r (r.cmd.row + 1024 * col + i))

/-- The access of some columns of a transfer that meets a poisoned frame. -/
def transferFault (s : State) (c : SkCmd) (js : List Nat) : Option (Nat × AccessKind) :=
  match badFrame s c.row (c.vas.getD 0 0) (js.map (fun j => c.p0 + j)) with
  | some va => some (va, .read)
  | none => (badFrame s c.drow (c.vas.getD 1 0) (js.map (fun j => c.p1 + j))).map (fun va => (va, .write))

/-- A column of a transfer, or all of them where source and destination share a channel, so that every column is read
before any is written (R367). -/
def execTransferColumn (chan : Nat) (s : State) : Host.Outcome State Fault Refusal :=
  match (skerryOf s chan).running with
  | none => .next s
  | some r =>
    let c := r.cmd
    let js := if (otherChannel c).isSome then [r.column] else List.range c.count
    if c.kind ≠ 2 ∨ r.stop.isSome ∨ r.fault.isSome then .next s
    else
      match transferFault s c js with
      | some (va, kind) => .next (skFault s chan c.issued va kind)
      | none =>
        let cols := js.map (fun j => (j, columnBytes s r (c.p0 + j)))
        let a := cols.foldl (fun a e => skWriteBytes a (c.drow + 1024 * (c.p1 + e.1)) e.2) (s, r)
        let lines := (js.map (fun j => (List.range 8).map (fun i => (c.drow + 1024 * (c.p1 + j)) / 128 + i))).flatten
        let n := r.column + js.length
        .next (modSkerry a.1 chan (fun k => { k with running := some { a.2 with
          column := n, lines := a.2.lines ++ lines, stop := if c.count ≤ n then some 0 else none } }))

/-- The status word of a finished command (R372). -/
def statusWord (r : SkRun) : DWord :=
  BitVec.ofNat 64 (r.stop.getD 0 + r.flags.toNat * 2 ^ 8 + r.done * 2 ^ 16 + r.depth * 2 ^ 32)

/-- An 8-byte word written by a skerry, in its die's L2 or at the home (R372). -/
def skStore (s : State) (chan : Nat) (inL2 : Bool) (pa : Nat) (v : DWord) (sigs : List Sig) : State :=
  let d := channelDie chan
  if isAperture pa then sendOp s (1024 + d) pa (.write (dwordBytes 8 v))
  else if !isMemory pa then s
  else if inL2 then
    let x := mget (stackOf s d).l2 (pa / 32) emptySector
    noteWrite (putL2 s d (pa / 32) (putBytes x (pa % 32) (dwordBytes 8 v)) sigs) (pa / 128) (1 + d)
  else storeHome s pa (dwordBytes 8 v) sigs

/-- The oldest command that a skerry has not finished. -/
def oldestRun (k : Skerry) : Option SkRun := (runsOf k).head?

/-- A command has stopped and no bank has a word of it left. -/
def runOver (k : Skerry) (r : SkRun) : Bool :=
  r.stop.isSome && r.fault.isNone && k.catchup.all (fun e => e.2.all (fun m => decide (m.id ≠ r.cmd.issued)))

/-- What a finishing command's completion publishes: the lines that it wrote and those of every earlier command of its
channels (R408, R412). -/
def finishSigs (s : State) (chan : Nat) (r : SkRun) : List Sig :=
  let own := r.lines ++ (r.cmd.stat.toList.filter isMemory).map (fun a => a / 128)
  let other := match otherChannel r.cmd with
    | some d => liveSigs s.now (skerryOf s d).sigs
    | none => []
  joinSigs (joinSigs (liveSigs s.now (skerryOf s chan).sigs) other) (sigOf s.now own)

/-- A command leaves the FIFOs of its channels; one that had stepped aside left its FIFO then. -/
def leaveFifos (s : State) (chan : Nat) (c : SkCmd) (sigs : List Sig) : State :=
  let s := modSkerry s chan (fun k =>
    match k.replaying with
    | _ :: l => { k with replaying := l, sigs := sigs }
    | [] => { k with running := none, fifo := k.fifo.tail, sigs := sigs })
  match otherChannel c with
  | none => s
  | some d => modSkerry s d (fun k => { k with fifo := k.fifo.tail, sigs := joinSigs k.sigs sigs })

/-- The completion words of a command: of its status and of its flag, the one that lies in a poisoned frame (R351), with its
virtual address. -/
def wordPoison (s : State) (c : SkCmd) : Option Nat :=
  if c.stat.any (fun a => isMemory a && poisoned s a) then some (c.vas.getD 3 0)
  else if c.flag.any (fun a => isMemory a && poisoned s a) then some (c.vas.getD 2 0)
  else none

/-- A finishing command's two words must wait for their ways (R379). -/
def wordWaits (s : State) (chan : Nat) (c : SkCmd) : Bool := (c.stat.toList ++ c.flag.toList).any (routeWaits s (256 * channelDie chan))

/-- The words of a finished command are written for the group that issued it. -/
def writeWords (s : State) (chan : Nat) (c : SkCmd) (status : DWord) (sigs : List Sig) : State :=
  actFor c.gid (fun s =>
    let s := match c.stat with
      | some a => skStore s chan false a status []
      | none => s
    match c.flag with
      | some a => skStore s chan (decide (c.scope = 3)) a c.value sigs
      | none => s) s

/-- A stopped command's last bank finishes: its words are written and it leaves (R372, R412). -/
def execSkerryCommandFinish (chan : Nat) (s : State) : Host.Outcome State Fault Refusal :=
  let k := skerryOf s chan
  match oldestRun k with
  | none => .next s
  | some r =>
    let c := r.cmd
    if !runOver k r ∨ wordWaits s chan c then .next s
    else
      match wordPoison s c with
      | some va => .next (skFault s chan c.issued va .write)
      | none =>
        let s := r.lines.foldl (fun s l => noteWrite s l 0) s
        let sigs := finishSigs s chan r
        .next (settleChannel (writeWords (leaveFifos s chan c sigs) chan c (statusWord r) sigs) chan)

/-! ## The instructions (R373 to R376) -/

/-- A request sent to a channel, with its result to come; with no room there the group stalls (R373). -/
def sendRequest (s : State) (e : Iss) (dst chan : Nat) (op : Nat → SkOp) : Res Done :=
  if fifoFull (skerryOf s chan) then .error (.stall .allocation)
  else
    let q : SkRequest := ⟨gidOf e.g, e.core, e.slot, s.fresh, op s.fresh⟩
    .ok (Done.later (modSkerry s chan (fun k => { k with requests := k.requests ++ [q] }))
      (pendingResult s e .skerry (write32 dst e.g.ln.em (fun _ => 0)) 0))

/-- Every word of a microprogram image may be read (R374). -/
def checkImage (s : State) (core ctx : Nat) : List (Nat × Nat) → Res Unit
  | [] => .ok ()
  | (va, _) :: l =>
    match permitOne s core ctx va .read with
    | .error r => .error r
    | .ok _ => checkImage s core ctx l

/-- `nmload` (R374): the copy engine fetches the image, and the load takes its place in the channel's FIFO. -/
def execNmload (f : LaneForm) (s : State) : Host.Outcome State Fault Refusal :=
  runLane (.nmload f) s (fun e s =>
    let va := uni64 s e (fieldAt e.x 1)
    let vi := uni64 s e (fieldAt e.x 2)
    let n := uni32 s e (fieldAt e.x 3)
    if n = 0 ∨ 1024 < n then illegalOperand 3 f.src3.toNat
    else if vi % 8 ≠ 0 then trapOf 0x0C (BitVec.ofNat 64 vi)
    else
      match andThen (pagesFirst s e.core e.g.ctx ((va, .read) :: (chunksOf vi (8 * n)).map (fun c => (c.1, .read))))
          (channelAt s e.core e.g.ctx va) with
      | .error r => .error r
      | .ok chan =>
        match checkImage s e.core e.g.ctx (chunksOf vi (8 * n)) with
        | .error r => .error r
        | .ok _ =>
          match enqueueEngine s e (.load vi chan n) with
          | .error r => .error r
          | .ok s => sendRequest s e f.dst.toNat chan (fun tag => .load (gidOf e.g) e.core e.slot tag n none))

/-- The first word of a command descriptor that breaks a limit (R363). -/
def commandBad (w : List Nat) : Option Nat :=
  let x (i : Nat) : Nat := w.getD i 0
  let kind := bits (x 0) 49 48
  let iter := bits (x 1) 15 0
  let p (i : Nat) : Nat := bits (x 1) (23 + 8 * i) (16 + 8 * i)
  let entry := bits (x 1) 49 40
  let count := bits (x 1) 55 50
  let run := decide (1 ≤ iter) && (List.range 3).all (fun i => decide (p i < 32)) && decide (count = 0)
  let step := decide (iter = 0) && decide (p 0 < 32) && decide (p 1 = 0) && decide (p 2 = 0) && decide (entry = 0) && decide (count = 0)
  let move := decide (iter = 0) && decide (1 ≤ count) && decide (count ≤ 32) && decide (p 0 + count ≤ 32) &&
    decide (p 1 + count ≤ 32) && decide (p 2 = 0) && decide (entry = 0)
  let flag := bits (x 3) 47 0
  let scope := bits (x 3) 50 48
  if x 0 / 2 ^ 50 ≠ 0 ∨ kind = 3 then some 0x00
  else if x 1 / 2 ^ 56 ≠ 0 ∨ !(if kind = 0 then run else if kind = 1 then step else move) then some 0x08
  else if x 2 / 2 ^ 48 ≠ 0 ∨ (kind ≠ 2 ∧ x 2 ≠ 0) then some 0x10
  else if x 3 / 2 ^ 51 ≠ 0 ∨ flag % 8 ≠ 0 ∨ (if flag = 0 then scope ≠ 0 else scope ≠ 3 ∧ scope ≠ 4) then some 0x18
  else if x 5 / 2 ^ 48 ≠ 0 ∨ x 5 % 8 ≠ 0 then some 0x28
  else if x 6 ≠ 0 then some 0x30
  else if x 7 ≠ 0 then some 0x38
  else none

/-- The physical address of a completion or status word, none for address 0 (R254). -/
def wordAt (s : State) (core ctx va : Nat) : Res (Option Nat) :=
  if va = 0 then .ok none
  else
    match permitOne s core ctx va .write with
    | .error r => .error r
    | .ok x => .ok (some x.pa)

/-- The rows of a command: its row, and a transfer's destination, in one stack (R363). -/
def rowsAt (s : State) (core ctx : Nat) (kind row drow : Nat) : Res (Nat × Nat) :=
  if kind = 2 then
    match rowAt s core ctx row [.read] with
    | .error r => .error r
    | .ok a =>
      match rowAt s core ctx drow [.write] with
      | .error r => .error r
      | .ok b => if a / 2 ^ 36 = b / 2 ^ 36 then .ok (a, b) else trapOf 0x0D (BitVec.ofNat 64 drow)
  else
    match rowAt s core ctx row [.read, .write] with
    | .error r => .error r
    | .ok a => .ok (a, 0)

/-- The four pages of a row with a permission each. -/
def rowPages (v : Nat) (kinds : List AccessKind) : List (Nat × AccessKind) :=
  ((List.range 4).map (fun i => kinds.map (fun k => (v + 8192 * i, k)))).flatten

/-- The accesses that a command's descriptor names, in order: its rows' pages, its completion word, its status word. -/
def commandAccesses (w : List Nat) : List (Nat × AccessKind) :=
  let x (i : Nat) : Nat := w.getD i 0
  let row := bits (x 0) 47 0
  (if bits (x 0) 49 48 = 2 then rowPages row [.read] ++ rowPages (x 2) [.write] else rowPages row [.read, .write]) ++
    ([bits (x 3) 47 0, x 5].filter (fun a => decide (a ≠ 0))).map (fun a => (a, .write))

/-- The command that a descriptor describes, its addresses translated, all of them before any permission is looked at (R254, R357,
R363). -/
def commandOf (s : State) (e : Iss) (w : List Nat) : Res SkCmd :=
  let x (i : Nat) : Nat := w.getD i 0
  let kind := bits (x 0) 49 48
  match andThen (pagesFirst s e.core e.g.ctx (commandAccesses w))
      (rowsAt s e.core e.g.ctx kind (bits (x 0) 47 0) (x 2)) with
  | .error r => .error r
  | .ok (row, drow) =>
    match wordAt s e.core e.g.ctx (bits (x 3) 47 0) with
    | .error r => .error r
    | .ok flag =>
      match wordAt s e.core e.g.ctx (x 5) with
      | .error r => .error r
      | .ok stat =>
        .ok { gid := gidOf e.g, issued := s.fresh, vas := [bits (x 0) 47 0, x 2, bits (x 3) 47 0, x 5], kind := kind,
              ctx := e.g.ctx, row := row, iter := bits (x 1) 15 0, p0 := bits (x 1) 23 16, p1 := bits (x 1) 31 24,
              p2 := bits (x 1) 39 32, entry := bits (x 1) 49 40, count := bits (x 1) 55 50,
              drow := drow, flag := flag, scope := bits (x 3) 50 48, value := BitVec.ofNat 64 (x 4), stat := stat,
              source := true }

/-- `nmcmd` (R375). -/
def execNmcmd (f : LaneForm) (s : State) : Host.Outcome State Fault Refusal :=
  runLane (.nmcmd f) s (fun e s =>
    let off := uni32 s e (fieldAt e.x 1)
    let k := coreOf s e.core
    match checkStruct k e.slot e.g off 64 with
    | .error r => .error r
    | .ok _ =>
      let w := scratchWords k off
      match commandBad w with
      | some at8 => illegalOperand 15 at8
      | none =>
        match commandOf s e w with
        | .error r => .error r
        | .ok c =>
          if (otherChannel c).any (fun d => fifoFull (skerryOf s d)) then .error (.stall .allocation)
          else if releaseWaits s e.core .package then .error (.stall .scoreboard)
          else sendRequest (releaseLane s e.core e.slot .package e.g).2 e f.dst.toNat (channelOf c.row) (fun _ => .run c))

/-- `nmlease` (R376). -/
def execNmlease (f : LaneForm) (s : State) : Host.Outcome State Fault Refusal :=
  runLane (.nmlease f) s (fun e s =>
    match channelAt s e.core e.g.ctx (uni64 s e (fieldAt e.x 1)) with
    | .error r => .error r
    | .ok chan => sendRequest s e f.dst.toNat chan (fun tag => .lease (gidOf e.g) e.core e.slot tag))

/-- `nmrel` (R376). -/
def execNmrel (f : LaneForm) (s : State) : Host.Outcome State Fault Refusal :=
  runLane (.nmrel f) s (fun e s =>
    match channelAt s e.core e.g.ctx (uni64 s e (fieldAt e.x 1)) with
    | .error r => .error r
    | .ok chan => sendRequest s e f.dst.toNat chan (fun tag => .unlease (gidOf e.g) e.core e.slot tag))

end Sys2Proof.Machine
end

