-- ==== Sys2Proof/Machine/Slh.lean ====
section
/-!
DEFINITION. The hash and the signature scheme that the start sequence and the attestation name (R461, R464 to R466): SHA-256 and
SLH-DSA-SHA2-128s, taken from the published standards (log 13), and the device's own key pair.
-/
namespace Sys2Proof.Machine

open Sys2Proof

/-! ## SHA-256 -/

/-- The bytes of a number, the highest first. -/
def bigBytes (n x : Nat) : List Byte := (natToBytes n x).reverse

/-- The number that bytes give, the highest first. -/
def bigNat (bs : List Byte) : Nat := bytesToNat bs.reverse

/-- The round constants of SHA-256. -/
def shaConstants : List Word :=
  [0x428a2f98, 0x71374491, 0xb5c0fbcf, 0xe9b5dba5, 0x3956c25b, 0x59f111f1, 0x923f82a4, 0xab1c5ed5] ++
  [0xd807aa98, 0x12835b01, 0x243185be, 0x550c7dc3, 0x72be5d74, 0x80deb1fe, 0x9bdc06a7, 0xc19bf174] ++
  [0xe49b69c1, 0xefbe4786, 0x0fc19dc6, 0x240ca1cc, 0x2de92c6f, 0x4a7484aa, 0x5cb0a9dc, 0x76f988da] ++
  [0x983e5152, 0xa831c66d, 0xb00327c8, 0xbf597fc7, 0xc6e00bf3, 0xd5a79147, 0x06ca6351, 0x14292967] ++
  [0x27b70a85, 0x2e1b2138, 0x4d2c6dfc, 0x53380d13, 0x650a7354, 0x766a0abb, 0x81c2c92e, 0x92722c85] ++
  [0xa2bfe8a1, 0xa81a664b, 0xc24b8b70, 0xc76c51a3, 0xd192e819, 0xd6990624, 0xf40e3585, 0x106aa070] ++
  [0x19a4c116, 0x1e376c08, 0x2748774c, 0x34b0bcb5, 0x391c0cb3, 0x4ed8aa4a, 0x5b9cca4f, 0x682e6ff3] ++
  [0x748f82ee, 0x78a5636f, 0x84c87814, 0x8cc70208, 0x90befffa, 0xa4506ceb, 0xbef9a3f7, 0xc67178f2]

/-- The initial value of SHA-256. -/
def shaStart : List Word :=
  [0x6a09e667, 0xbb67ae85, 0x3c6ef372, 0xa54ff53a, 0x510e527f, 0x9b05688c, 0x1f83d9ab, 0x5be0cd19]

/-- The next word of a message schedule, whose words stand last first. -/
def shaExtend (r : List Word) : List Word :=
  let a := r.getD 14 0
  let b := r.getD 1 0
  let lo := a.rotateRight 7 ^^^ a.rotateRight 18 ^^^ (a >>> 3)
  let hi := b.rotateRight 17 ^^^ b.rotateRight 19 ^^^ (b >>> 10)
  (hi + r.getD 6 0 + lo + r.getD 15 0) :: r

/-- The message schedule of a block of 64 bytes. -/
def shaSchedule (block : List Byte) : List Word :=
  let w := (List.range 16).map (fun i => BitVec.ofNat 32 (bigNat ((block.drop (4 * i)).take 4)))
  ((List.range 48).foldl (fun r _ => shaExtend r) w.reverse).reverse

/-- One round of SHA-256 with its constant and schedule word. -/
def shaRound (v : List Word) (kw : Word × Word) : List Word :=
  match v with
  | [a, b, c, d, e, f, g, h] =>
    let s1 := e.rotateRight 6 ^^^ e.rotateRight 11 ^^^ e.rotateRight 25
    let ch := (e &&& f) ^^^ (~~~ e &&& g)
    let t1 := h + s1 + ch + kw.1 + kw.2
    let s0 := a.rotateRight 2 ^^^ a.rotateRight 13 ^^^ a.rotateRight 22
    let maj := (a &&& b) ^^^ (a &&& c) ^^^ (b &&& c)
    [t1 + (s0 + maj), a, b, c, d + t1, e, f, g]
  | _ => v

/-- One block hashed into a chaining value. -/
def shaBlock (v : List Word) (block : List Byte) : List Word :=
  List.zipWith (fun a b => a + b) v ((shaConstants.zip (shaSchedule block)).foldl shaRound v)

/-- The message with SHA-256's padding. -/
def shaPadded (bs : List Byte) : List Byte :=
  bs ++ 0x80 :: List.replicate ((119 - bs.length % 64) % 64) 0 ++ bigBytes 8 (8 * bs.length)

/-- So many blocks hashed into a chaining value. -/
def shaBlocks : Nat → List Word → List Byte → List Word
  | 0, v, _ => v
  | n + 1, v, bs => shaBlocks n (shaBlock v (bs.take 64)) (bs.drop 64)

/-- SHA-256, 32 bytes (R461, R464, R465). -/
def sha256 (bs : List Byte) : List Byte :=
  let m := shaPadded bs
  ((shaBlocks (m.length / 64) shaStart m).map (fun w => bigBytes 4 w.toNat)).flatten

/-- A SHA-256 value as the 256 bits that its bytes give (R2). -/
def hash256 (bs : List Byte) : BitVec 256 := BitVec.ofNat 256 (bytesToNat (sha256 bs))

/-- HMAC-SHA-256 under a key of at most 64 bytes. -/
def hmacSha (key bs : List Byte) : List Byte :=
  let k := key ++ List.replicate (64 - key.length) 0
  sha256 (k.map (fun b => b ^^^ 0x5C) ++ sha256 (k.map (fun b => b ^^^ 0x36) ++ bs))

/-! ## SLH-DSA-SHA2-128s -/

/-- An address of SLH-DSA: its layer, its tree, its type and the three words that the type gives a meaning. -/
structure Adrs where
  layer : Nat
  tree : Nat
  kind : Nat
  pair : Nat
  second : Nat
  third : Nat
  deriving DecidableEq, Repr

/-- The compressed form of an address, 22 bytes. -/
def adrsBytes (a : Adrs) : List Byte :=
  bigBytes 1 a.layer ++ bigBytes 8 a.tree ++ bigBytes 1 a.kind ++ bigBytes 4 a.pair ++ bigBytes 4 a.second ++ bigBytes 4 a.third

/-- The tweakable hash of SLH-DSA, 16 bytes, which also gives its secret values. -/
def slhHash (seed : List Byte) (a : Adrs) (m : List Byte) : List Byte :=
  (sha256 (seed ++ List.replicate 48 0 ++ adrsBytes a ++ m)).take 16

/-- The digits of a byte string in base 2^b, the highest first. -/
def slhDigits (b n : Nat) (bs : List Byte) : List Nat :=
  let x := bigNat bs
  let width := 8 * bs.length
  (List.range n).map (fun i => x / 2 ^ (width - b * (i + 1)) % 2 ^ b)

/-- Steps of a hash chain from a place on it. -/
def slhChain (seed : List Byte) (a : Adrs) : Nat → Nat → List Byte → List Byte
  | 0, _, x => x
  | n + 1, i, x => slhChain seed a n (i + 1) (slhHash seed { a with third := i } x)

/-- The 35 digits that a one-time signature covers: those of the message, then those of its checksum. -/
def wotsDigits (m : List Byte) : List Nat :=
  let d := slhDigits 4 32 m
  d ++ slhDigits 4 3 (bigBytes 2 (16 * (d.map (fun x => 15 - x)).sum))

/-- The start of a one-time key's chain. -/
def wotsSecret (sk seed : List Byte) (a : Adrs) (i : Nat) : List Byte :=
  slhHash seed { a with kind := 5, second := i, third := 0 } sk

/-- A one-time public key from the ends of its chains. -/
def wotsKey (seed : List Byte) (a : Adrs) (ends : List (List Byte)) : List Byte :=
  slhHash seed { a with kind := 1, second := 0, third := 0 } ends.flatten

/-- A one-time public key. -/
def wotsPublic (sk seed : List Byte) (a : Adrs) : List Byte :=
  wotsKey seed a ((List.range 35).map (fun i => slhChain seed { a with kind := 0, second := i } 15 0 (wotsSecret sk seed a i)))

/-- A one-time signature, the chain values in order. -/
def wotsSign (m sk seed : List Byte) (a : Adrs) : List (List Byte) :=
  (wotsDigits m).zipIdx.map (fun d => slhChain seed { a with kind := 0, second := d.2 } d.1 0 (wotsSecret sk seed a d.2))

/-- The one-time public key that a signature leads to. -/
def wotsFrom (sig : List (List Byte)) (m seed : List Byte) (a : Adrs) : List Byte :=
  wotsKey seed a ((wotsDigits m).zipIdx.map (fun d =>
    slhChain seed { a with kind := 0, second := d.2 } (15 - d.1) d.1 (sig.getD d.2 [])))

/-- A node of a hash tree from its leaves; `a` is the address of the tree's inner nodes, whose first word stays. -/
def slhNode (leaf : Nat → List Byte) (seed : List Byte) (a : Adrs) : Nat → Nat → List Byte
  | 0, i => leaf i
  | z + 1, i =>
    slhHash seed { a with second := z + 1, third := i }
      (slhNode leaf seed a z (2 * i) ++ slhNode leaf seed a z (2 * i + 1))

/-- The siblings on a leaf's way up a tree. -/
def slhPath (leaf : Nat → List Byte) (seed : List Byte) (a : Adrs) (height i : Nat) : List (List Byte) :=
  (List.range height).map (fun j => slhNode leaf seed a j (i / 2 ^ j ^^^ 1))

/-- The root that a leaf's value and the siblings on its way lead to. -/
def slhRoot (seed : List Byte) (a : Adrs) : List (List Byte) → Nat → Nat → List Byte → List Byte
  | [], _, _, x => x
  | p :: ps, z, i, x =>
    slhRoot seed a ps (z + 1) (i / 2)
      (slhHash seed { a with second := z + 1, third := i / 2 } (if i % 2 = 0 then x ++ p else p ++ x))

/-- The address of the inner nodes of a key tree. -/
def treeAdrs (a : Adrs) : Adrs := { a with kind := 2, pair := 0 }

/-- A leaf of a key tree: a one-time public key. -/
def xmssLeaf (sk seed : List Byte) (a : Adrs) (i : Nat) : List Byte := wotsPublic sk seed { a with pair := i }

/-- A signature of a key tree: a one-time signature and the siblings of its leaf. -/
def xmssSign (m sk seed : List Byte) (a : Adrs) (i : Nat) : List (List Byte) :=
  wotsSign m sk seed { a with pair := i } ++ slhPath (xmssLeaf sk seed a) seed (treeAdrs a) 9 i

/-- The root that a key tree's signature leads to. -/
def xmssFrom (sig : List (List Byte)) (m seed : List Byte) (a : Adrs) (i : Nat) : List Byte :=
  slhRoot seed (treeAdrs a) (sig.drop 35) 0 i (wotsFrom (sig.take 35) m seed { a with pair := i })

/-- The signatures of the layers from one layer up, of so many layers: tree and leaf numbers choose the way. -/
def hyperSign (sk seed : List Byte) : Nat → Nat → Nat → Nat → List Byte → List (List Byte)
  | 0, _, _, _, _ => []
  | n + 1, layer, tree, leaf, m =>
    let a : Adrs := ⟨layer, tree, 0, 0, 0, 0⟩
    let sig := xmssSign m sk seed a leaf
    sig ++ hyperSign sk seed n (layer + 1) (tree / 512) (tree % 512) (xmssFrom sig m seed a leaf)

/-- The top root that the signatures of the layers lead to. -/
def hyperFrom (seed : List Byte) : Nat → Nat → Nat → Nat → List (List Byte) → List Byte → List Byte
  | 0, _, _, _, _, m => m
  | n + 1, layer, tree, leaf, sig, m =>
    hyperFrom seed n (layer + 1) (tree / 512) (tree % 512) (sig.drop 44) (xmssFrom (sig.take 44) m seed ⟨layer, tree, 0, 0, 0, 0⟩ leaf)

/-- A secret value of the few-time signature. -/
def forsSecret (sk seed : List Byte) (a : Adrs) (i : Nat) : List Byte := slhHash seed { a with kind := 6, second := 0, third := i } sk

/-- A leaf of a few-time tree. -/
def forsLeaf (sk seed : List Byte) (a : Adrs) (i : Nat) : List Byte :=
  slhHash seed { a with kind := 3, second := 0, third := i } (forsSecret sk seed a i)

/-- The siblings on the way of a few-time leaf up its tree of height 12; leaves are numbered through all trees. -/
def forsPath (sk seed : List Byte) (a : Adrs) (i : Nat) : List (List Byte) :=
  slhPath (forsLeaf sk seed a) seed { a with kind := 3 } 12 i

/-- The few-time signature: of each of the 14 trees a secret value and its siblings. -/
def forsSign (md sk seed : List Byte) (a : Adrs) : List (List Byte) :=
  ((slhDigits 12 14 md).zipIdx.map (fun d =>
    forsSecret sk seed a (4096 * d.2 + d.1) :: forsPath sk seed a (4096 * d.2 + d.1))).flatten

/-- The few-time public key that a signature leads to. -/
def forsFrom (sig : List (List Byte)) (md seed : List Byte) (a : Adrs) : List Byte :=
  let roots := (slhDigits 12 14 md).zipIdx.map (fun d =>
    let part := (sig.drop (13 * d.2)).take 13
    let i := 4096 * d.2 + d.1
    slhRoot seed { a with kind := 3 } (part.drop 1) 0 i (slhHash seed { a with kind := 3, second := 0, third := i } (part.headD [])))
  slhHash seed { a with kind := 4, second := 0, third := 0 } roots.flatten

/-- The digest of a message: the 21 bytes that the few-time trees sign, the key tree and the leaf that sign in turn. -/
def slhDigest (r pk m : List Byte) : List Byte × Nat × Nat :=
  let inner := sha256 (r ++ pk ++ m)
  let d := (sha256 (r ++ pk.take 16 ++ inner ++ bigBytes 4 0)).take 30
  (d.take 21, bigNat ((d.drop 21).take 7) % 2 ^ 54, bigNat ((d.drop 28).take 2) % 512)

/-- The message as SLH-DSA signs it: pure, without a context (log 13). -/
def slhMessage (m : List Byte) : List Byte := 0 :: 0 :: m

/-- A key of SLH-DSA-SHA2-128s: SK.seed, SK.prf and the public key, PK.seed then PK.root. -/
structure SlhKey where
  seed : List Byte
  prf : List Byte
  pk : List Byte
  deriving DecidableEq, Repr

/-- The key pair that three seeds give (R465). -/
def slhKey (seed prf pkSeed : List Byte) : SlhKey :=
  let a : Adrs := ⟨6, 0, 0, 0, 0, 0⟩
  ⟨seed, prf, pkSeed ++ slhNode (xmssLeaf seed pkSeed a) pkSeed (treeAdrs a) 9 0⟩

/-- Signing; the additional randomness is an argument (R466, log 13). -/
def slhSign (k : SlhKey) (rand m : List Byte) : List Byte :=
  let seed := k.pk.take 16
  let m := slhMessage m
  let r := (hmacSha k.prf (rand ++ m)).take 16
  let d := slhDigest r k.pk m
  let a : Adrs := ⟨0, d.2.1, 3, d.2.2, 0, 0⟩
  let fors := forsSign d.1 k.seed seed a
  r ++ fors.flatten ++ (hyperSign k.seed seed 7 0 d.2.1 d.2.2 (forsFrom fors d.1 seed a)).flatten

/-- So many pieces of 16 bytes. -/
def pieces16 : Nat → List Byte → List (List Byte)
  | 0, _ => []
  | n + 1, bs => bs.take 16 :: pieces16 n (bs.drop 16)

/-- Verification (R464). -/
def slhVerify (pk m sig : List Byte) : Bool :=
  let seed := pk.take 16
  let m := slhMessage m
  let d := slhDigest (sig.take 16) pk m
  let p := pieces16 490 (sig.drop 16)
  let key := forsFrom (p.take 182) d.1 seed ⟨0, d.2.1, 3, d.2.2, 0, 0⟩
  decide (sig.length = 7856) && decide (hyperFrom seed 7 0 d.2.1 d.2.2 (p.drop 182) key = pk.drop 16)

/-! ## The keys of the device -/

/-- The public key of Vrelotte, against which images are verified (R464). -/
def vendorKey : List Byte := natToBytes 32 Config.vendorKey.toNat

/-- The hash that gives seeds of the identity key: the secret, the name, the security version and one byte (R465). -/
def identityHash (svn : BitVec 32) (last : Byte) : List Byte :=
  sha256 (natToBytes 32 Config.deviceSecret.toNat ++ [0x4B, 0x5A, 0x37, 0x2D, 0x49, 0x44] ++ natToBytes 4 svn.toNat ++ [last])

/-- The identity key pair of a security version (R465). -/
def identityKey (svn : BitVec 32) : SlhKey :=
  let k0 := identityHash svn 0
  slhKey (k0.take 16) (k0.drop 16) ((identityHash svn 1).take 16)

end Sys2Proof.Machine
end

