-- ==== Sys2Proof/Machine/Start.lean ====
section
/-!
DEFINITION. The end of queues and contexts, the start sequence, recovery-listen, the image, events to the host
(R101, R119, R461 to R472).
-/
namespace Sys2Proof.Machine

open Sys2Proof

/-! ## Teardown of queues (R119) -/

/-- A queue torn down: the records in its window are discarded, their kernels fault. -/
def teardownQueue (s : State) (n tag : Nat) : State :=
  match mget? s.queues n with
  | none => s
  | some q =>
    let s := modHostQueue s n (fun q => { q with state := .tornDown, tag := tag })
    let s := q.window.foldl (fun s k => endKernel s k .faulted []) s
    settleQueue s n

/-! ## Teardown of a context (R101) -/

/-- A group leaves its core with no further effect (R101); its binding and its barrier places end with it. -/
def stopGroups (s : State) (ctx : Nat) : State :=
  let l := (s.cores.map (fun c => (c.2.groups.filter (fun g => decide (g.2.ctx = ctx))).map (fun g => (c.1, g.1)))).flatten
  l.foldl (fun s g => groupGone s g.1 g.2) s

/-- A narrows without the waiting entries of a context (R278). -/
def narrowsWithout (ctx : Nat) (w : Narrows) : Narrows :=
  clearDirection { w with waiting := w.waiting.filter (fun e => decide (e.ctx ≠ ctx)) }

/-- The waiting narrows entries of a context discarded (R278). -/
def dropWaiting (s : State) (ctx : Nat) : State :=
  { s with cores := mapEntries s.cores (fun _ k => { k with narrows := narrowsWithout ctx k.narrows }) }

/-- The kernels of a context that have not ended fault (R128). -/
def faultKernels (s : State) (ctx : Nat) : State :=
  let l := (s.kernels.filter (fun k => decide (k.2.ctx = ctx))).map (fun k => k.1)
  l.foldl (fun s n => endKernel s n .faulted []) s

/-- The groups of a context in save memory. -/
def savedGroups (s : State) (ctx : Nat) : List Group :=
  ((s.saved.filter (fun v => decide (v.2.cohort.ctx = ctx))).map (fun v => v.2.groups)).flatten

/-- The queues of some contexts, those of lower dies first, the order in which one instant's events stand (R27). -/
def queuesOf (s : State) (l : List Nat) : List Nat :=
  (sortBy (fun a b => lexLt [a.2.die, a.1] [b.2.die, b.1]) (s.queues.filter (fun q => l.contains q.2.ctx))).map (fun q => q.1)

/-- Lines 1 to 3 of a teardown but for the ends of its queues: groups, cohorts and everything that a cohort holds, the leases of
saved groups too; its unanswered page faults are answered by nobody any more (R101, R368). -/
def stopContext (s : State) (ctx tag : Nat) : State :=
  let s := modCtx s ctx (fun c => { c with state := .tornDown, suspending := none, tearing := some tag })
  let l := queuesOf s [ctx]
  let s := { s with queues := mapEntries s.queues (fun _ q => if q.ctx = ctx then { q with state := .halted, after := none } else q) }
  let s := (l.map (fun n => ((mget? s.queues n).map (fun q => q.window)).getD [])).flatten.foldl (fun s k => endKernel s k .faulted []) s
  let s := dropWaiting (stopGroups s ctx) ctx
  let s := (savedGroups s ctx).foldl (fun s g => resetLeases s 0 (gidOf g)) s
  let s := { s with saved := s.saved.filter (fun v => decide (v.2.cohort.ctx ≠ ctx)),
                    barriers := s.barriers.filter (fun b => decide (b.id.ctx ≠ ctx)),
                    dies := mapEntries s.dies (fun _ d => { d with faults := d.faults.filter (fun f => decide (f.ctx ≠ ctx)) }) }
  faultKernels s ctx

/-- Lines 1 to 3 of the teardown of contexts, each with its command's tag (R101). -/
def teardownContexts (s : State) (l : List (Nat × Nat)) : State :=
  let s := l.foldl (fun s c => stopContext s c.1 c.2) s
  (queuesOf s (l.map (fun c => c.1))).foldl (fun s n =>
    settleQueue (modHostQueue s n (fun q =>
      { q with state := .tornDown, tag := ((l.find? (fun c => decide (c.1 = q.ctx))).map (fun c => c.2)).getD 0 })) n) s

/-- Lines 1 to 3 of the teardown of a context (R101). -/
def teardownContext (s : State) (ctx tag : Nat) : State := teardownContexts s [(ctx, tag)]

/-- A FIFO entry of a torn-down context that is discarded (R101). -/
def dropFifo (ctx : Nat) (o : SkOp) : Bool :=
  match o with
  | .run c => decide (c.ctx = ctx)
  | .load g _ _ _ _ _ => decide (g.ctx = ctx)
  | .lease g _ _ _ => decide (g.ctx = ctx)
  | .unlease g _ _ _ => decide (g.ctx = ctx)
  | .reset _ => false

/-- A request that resets a channel. -/
def isReset (o : SkOp) : Bool :=
  match o with
  | .reset _ => true
  | _ => false

/-- A skerry without the requests and commands of a context; the reset of a channel that it leased stays, behind nothing
of its own (R101, R368). -/
def skerryWithout (ctx : Nat) (k : Skerry) : Skerry :=
  let gone := ((runsOf k).filter (fun r => decide (r.cmd.ctx = ctx))).map (fun r => r.cmd.issued)
  { k with
    requests := k.requests.filter (fun r => decide (r.gid.ctx ≠ ctx) || isReset r.op),
    fifo := k.fifo.filter (fun o => !dropFifo ctx o),
    running := k.running.filter (fun r => decide (r.cmd.ctx ≠ ctx)),
    replaying := k.replaying.filter (fun r => decide (r.cmd.ctx ≠ ctx)),
    catchup := (k.catchup.map (fun e => (e.1, e.2.filter (fun m => !gone.contains m.id)))).filter (fun e => !e.2.isEmpty) }

/-- The commands of a context that are still out are discarded: engine commands, notices, skerry requests and commands
(R101 line 4, log 29). -/
def discardCommands (s : State) (ctx : Nat) : State :=
  { s with
    cores := mapEntries s.cores (fun _ k => { k with
      engine := k.engine.filter (fun c => decide (c.gid.ctx ≠ ctx)),
      orphans := k.orphans.filter (fun r => decide (r.1.ctx ≠ ctx)),
      notices := k.notices.filter (fun n => decide (n.ctx ≠ ctx)) }),
    skerries := mapEntries s.skerries (fun _ k => skerryWithout ctx k) }

/-- An operation at a peer was made for a context. -/
def ownedBy (ctx : Nat) (o : ApertureOp) : Bool := o.owner.any (fun g => decide (g.ctx = ctx))

/-- A teardown completes: nothing of the context is out any more, not at a port either, and CX_GONE is posted (R101, R472). -/
def finishTeardown (s : State) (ctx : Nat) : State :=
  match (mget? s.ctxs ctx).bind (fun c => c.tearing) with
  | none => s
  | some tag =>
    let s := settleInvals { discardCommands s ctx with
      logging := s.logging.filter (fun w => decide (w.ctx ≠ ctx)), outgoing := s.outgoing.filter (fun o => !ownedBy ctx o) }
    post (modCtx s ctx (fun c => { c with tearing := none })) 0 0x0A 0 tag [ctx]

/-- A write of a context's has left for a peer, which has not acknowledged it: it may still be performed (R101, R387). -/
def peersWrite (s : State) (ctx : Nat) : Bool := s.outgoing.any (fun o => ownedBy ctx o && o.sent && !asksOnly o && !o.acked)

/-- CX_TEARDOWN_DONE, which no write of a command follows (R101). -/
def execCxTeardownDone (ctx : Nat) (s : State) : Host.Outcome State Fault Refusal :=
  .next (if peersWrite s ctx then s else finishTeardown s ctx)

/-! ## Images (R464) -/

/-- Bytes cut or filled up with zeros to a length. -/
def padTo (n : Nat) (bs : List Byte) : List Byte := bs.take n ++ List.replicate (n - bs.length) 0

/-- Bytes 0x0000 to 0x004F of an image, which its signature covers. -/
def signedHeader (x : Image) : List Byte :=
  natToBytes 4 x.magic.toNat ++ natToBytes 4 x.svn.toNat ++ natToBytes 8 x.length.toNat ++ natToBytes 32 x.keyHash.toNat ++
    natToBytes 32 x.bodyHash.toNat

/-- The bytes of an image. -/
def imageBytes (x : Image) : List Byte := signedHeader x ++ padTo 7856 x.signature ++ List.replicate 256 0 ++ x.body

/-- An image read from bytes. -/
def imageOf (bs : List Byte) : Image :=
  let f (off n : Nat) : Nat := bytesToNat ((bs.drop off).take n)
  { magic := BitVec.ofNat 32 (f 0 4), svn := BitVec.ofNat 32 (f 4 4), length := BitVec.ofNat 64 (f 8 8),
    keyHash := BitVec.ofNat 256 (f 0x10 32), bodyHash := BitVec.ofNat 256 (f 0x30 32),
    signature := (bs.drop 0x50).take 7856, body := bs.drop 0x2000 }

/-- Magic and length are as R464 lays them out. -/
def imageForm (x : Image) : Bool :=
  decide (x.magic = 0x58444E47) && decide (x.length.toNat % 8192 = 0) && decide (x.length.toNat ≤ 64 * 2 ^ 20) &&
    decide (x.body.length = x.length.toNat)

/-- Why an image fails its check, if it does (R464, R472). -/
def imageFailure (x : Image) : Option BootFailure :=
  if !imageForm x then some .magicOrLength
  else if x.keyHash ≠ Config.fusedKeyHash then some .keyHash
  else if !slhVerify vendorKey (signedHeader x) x.signature then some .signature
  else if hash256 x.body ≠ x.bodyHash then some .bodyHash
  else if x.svn.toNat < Config.fusedMinSvn.toNat then some .svn
  else none

/-- Reason codes of a BOOT_FAIL event (R472). -/
def failureCode : BootFailure → Nat
  | .timeLimit => 1
  | .selfTest => 2
  | .training => 3
  | .noPort => 4
  | .magicOrLength => 5
  | .keyHash => 6
  | .signature => 7
  | .bodyHash => 8
  | .svn => 9

/-! ## The start sequence (R461 to R463) -/

/-- The package with Grendex's state changed. -/
def modFw (s : State) (f : Firmware → Firmware) : State := { s with fw := f s.fw }

/-- The keys under which training values are saved: the straits, then the HBM4 stacks. -/
def trainedKeys : List Nat := List.range 4 ++ (List.range 12).map (fun n => 16 + n)

/-- The temperature of what training values belong to: an HBM4 stack's as last read, a strait's, which nothing reports, a free
value (log 105). -/
def trainedTemp (s : State) (key : Nat) : BitVec 8 :=
  if key < 16 then BitVec.ofNat 8 (freeWord s 765 key).toNat else (mget s.hbm (key - 16) HbmStack.reset).temp

/-- Two temperatures lie within 15 °C. -/
def within15 (a b : BitVec 8) : Bool := decide (a.toNat ≤ b.toNat + 15) && decide (b.toNat ≤ a.toNat + 15)

/-- The saved training values that a start may use again: a warm start those whose temperature is near (R462). -/
def reusable (s : State) : Map Training :=
  if s.fw.warm then s.fw.trained.filter (fun t => within15 t.2.temp (trainedTemp s t.1)) else []

/-- Step 3: straits whose saved values are used again come up with them, the others train afresh (R461, R462). -/
def trainStraits (s : State) : State :=
  let s := modFw s (fun w => { w with trained := reusable s })
  straits.foldl (fun s id =>
    match mget? s.fw.trained id with
    | some t => linkTrained (trainAtStart s id) id t.full
    | none => trainAtStart s id) s

/-- The values of a training that has succeeded, saved with their temperatures; those used again stay as they were saved
(R462). -/
def saveTraining (s : State) : State :=
  modFw s (fun w => { w with trained := trainedKeys.foldl (fun m key =>
    match mget? m key with
    | some _ => m
    | none => mset m key ⟨trainedTemp s key, s.fresh, (linkOf s key).full⟩) w.trained })

/-- A start step begins: step 3 trains the straits, step 4 the ports (R461). -/
def enterStep (s : State) (n : Nat) : State :=
  let s := modFw s (fun w => { w with boot := .step n })
  if n = 3 then trainStraits s
  else if n = 4 then ports.foldl trainAtStart s
  else s

/-- A BOOT_FAIL event (R472, R489), which leaves by the listening ports (R463); `tag` is that of the command which started, or 0. -/
def bootFail (s : State) (n tag : Nat) (why : BootFailure) : State :=
  let e : Event := ⟨0x02, 0, unitSource 0, tag, s.now, [BitVec.ofNat 64 n, BitVec.ofNat 64 (failureCode why)]⟩
  let bs := eventBytes e (epWord s 0x2080)
  sendBootFails (modFw (postEvent s 0 e) (fun w => { w with unsent := w.unsent ++ [bs] }))

/-- The start ends in recovery-listen (R461, R463). After a failed step 2 or 3 step 4 runs, so that the failure can be
reported. -/
def enterRecovery (s : State) (n : Nat) (why : BootFailure) : State :=
  let s := if n = 2 ∨ n = 3 then ports.foldl trainAtStart s else s
  bootFail (modFw s (fun w => { w with boot := .recovery n })) n s.fw.tag why

/-- The package as a cold start finds it: nothing resident, nothing configured, every link down; memory lists nothing
(log 2, log 30). -/
def coldState (s : State) : State :=
  { State.reset with fresh := s.fresh, agenda := s.agenda, now := s.now, replies := s.replies }

/-- A cold start begins, commanded under a tag, or with 0 (R461, R472). -/
def coldStart (s : State) (tag : Nat) : State := enterStep (modFw (coldState s) (fun w => { w with tag := tag })) 1

/-- POWER_ON: power applied starts the cold start sequence (R461). -/
def execPowerOn (s : State) : Host.Outcome State Fault Refusal := .next (coldStart s 0)

/-- A warm start begins: every context is torn down first, the ns before its completion events, which carry the command's tag;
package time keeps counting (R101, R462, R472). -/
def warmStart (s : State) (hash : BitVec 256) (tag : Nat) : State :=
  let live := (s.ctxs.filter (fun c => decide (c.2.state ≠ .tornDown))).map (fun c => c.1)
  let s := teardownContexts s (live.map (fun c => (c, tag)))
  let torn := (s.ctxs.filter (fun c => c.2.tearing.isSome)).map (fun c => c.1)
  let s := torn.foldl finishTeardown { s with now := s.now + 1 }
  let skip := s.fw.image.any (fun x => decide (hash256 (imageBytes x) = hash))
  enterStep (modFw s (fun w => { w with warm := true, skipFetch := skip, fatal := false, quote := none, mhead := 0, tag := tag })) 1

/-- What a step's success needs (R461): the straits up or degraded, a port up or degraded, an image that has passed its
check. -/
def stepReady (s : State) (n : Nat) : Bool :=
  if n = 3 then straits.all (linkUp s)
  else if n = 4 then ports.any (linkUp s)
  else if n = 5 then s.fw.skipFetch && s.fw.image.isSome
  else true

/-- The measurement of step 6 (R461). -/
def measure (s : State) : BitVec 256 :=
  hash256 (Config.fuseRecord ++ ((s.fw.image.map imageBytes).getD []) ++
    Config.trainedConfig (s.fw.trained.map (fun t => t.2.value)))

/-- The helper image's stub, `lrun 0, s1, 4` and `sexit` (R436, R442). -/
def helperStub : List Byte := natToBytes 4 0x01010200 ++ natToBytes 4 0x00000290

/-- The helper image: the stub, then entries and routines of native code whose bytes the rules do not give: free values (R442,
log 17). -/
def helperBytes (s : State) : List Byte := helperStub ++ freeBytes s 742 (16384 - 8)

/-- The straits that were lost while the start went on. -/
def lostStraits (s : State) : List Nat := straits.filter (fun id => decide ((linkOf s id).state = .down))

/-- Grendex starts: the mailbox opens with every slot, its tail and the event counts 0, and READY is posted, with the tag of the
command that started (R461, R470, R472); a strait that has been lost meanwhile is reported now (R379, log 124). -/
def grendexStarts (s : State) : State :=
  let s := { s with mem := Memory.writeBytes s.mem Config.helperImage.toNat (helperBytes s),
                    dies := mapEntries s.dies (fun _ d => { d with buffer := [], trapReserve := [], lost := 0 }) }
  let s := modFw s (fun w => { w with
    boot := .running, fatal := false, mhead := 0, quote := none, warm := false, skipFetch := false,
    ep := w.ep.filter (fun c => decide (0x4000 ≤ c.1)) })
  let x := s.fw.image
  let s := post s 0 0x01 0 s.fw.tag [(x.map (fun x => x.svn.toNat)).getD 0, (x.map (fun x => x.length.toNat)).getD 0,
    s.fw.measurement.toNat % 2 ^ 64]
  (lostStraits s).foldl linkFatal (modFw s (fun w => { w with tag := 0 }))

/-- A start step has succeeded (R25, R461, R462). -/
def stepDone (s : State) (n : Nat) : State :=
  if n = 1 then enterStep (if s.fw.warm then s else { s with now := 0 }) (if s.fw.warm then 3 else 2)
  else if n = 3 then enterStep (saveTraining s) 4
  else if n = 6 then enterStep (modFw s (fun w => { w with measurement := measure s })) 7
  else if n = 7 then grendexStarts s
  else enterStep s (n + 1)

/-- START_STEP_DONE (R461, R463). -/
def execStartStepDone (failure : Option BootFailure) (s : State) : Host.Outcome State Fault Refusal :=
  match s.fw.boot with
  | .step n =>
    match failure with
    | some why => .next (enterRecovery s n why)
    | none => .next (if stepReady s n then stepDone s n else s)
  | _ => .next s

/-- IMAGE_FETCH: the image arrives from the host in step 5, by a port that is up, and is checked (R28, R461, R464). -/
def execImageFetch (img : Image) (s : State) : Host.Outcome State Fault Refusal :=
  if s.fw.boot = .step 5 ∧ ports.any (linkUp s) then
    match imageFailure img with
    | some why => .next (enterRecovery s 5 why)
    | none => .next (enterStep (modFw s (fun w => { w with image := some img })) 6)
  else .next s

/-- PORT_RETRY: after a failed step 4 a port tries again every 100 ms (R463). -/
def execPortRetry (port : Nat) (trained : Bool) (s : State) : Host.Outcome State Fault Refusal :=
  if s.fw.boot = .recovery 4 ∧ port < 8 ∧ !linkUp s (portLink port) then
    let s := trainAtStart s (portLink port)
    .next (if trained then linkTrained s (portLink port) true else s)
  else .next s

/-- The step that has failed, where the package is in recovery-listen. -/
def recoveryStep (s : State) : Option Nat :=
  match s.fw.boot with
  | .recovery n => some n
  | _ => none

/-- A port listens in recovery-listen: after a failed step 1 none trains (R463). -/
def listening (s : State) (n : Nat) : Bool := decide (n ≠ 1) && ports.any (linkUp s)

/-- RECOVERY_IMAGE: an image delivered in recovery-listen (R463). -/
def execRecoveryImage (img : Image) (s : State) : Host.Outcome State Fault Refusal :=
  match recoveryStep s with
  | none => .next s
  | some n =>
    if !listening s n then .next s
    else if n = 2 ∨ n = 3 then .next (reply s (.status 1))
    else
      match imageFailure img with
      | some why => .next (bootFail s 5 0 why)
      | none => .next (enterStep (modFw s (fun w => { w with image := some img, skipFetch := true })) 5)

/-! ## Events to the host (R471) -/

/-- 1 µs in ns. -/
def sinkGap : Nat := 1000

/-- EVENT_SINK_UPDATE: the written count is sent to the sink, through a port that is up, at most once per µs while it changes (R28,
R471). -/
def execEventSinkUpdate (s : State) : Host.Outcome State Fault Refusal :=
  match s.fw.sink with
  | none => .next s
  | some (peer, addr) =>
    let n := epWord s 0x2080
    if !ports.any (linkUp s) ∨ s.fw.sinkOut.getLast?.any (fun w => decide (w.count = n) || decide (s.now < w.time + sinkGap)) then .next s
    else .next (modFw s (fun w => { w with sinkOut := w.sinkOut ++ [⟨peer, addr, n, s.now⟩] }))

/-- EVENT_CONSUMED_WRITE: the host reports its progress through a port that is up, and events held back may enter the ring (R28,
R471). -/
def execEventConsumedWrite (count : BitVec 64) (s : State) : Host.Outcome State Fault Refusal :=
  .next (if s.fw.boot = .running ∧ ports.any (linkUp s) then settleRing (epWrite s 0x2100 (dwordBytes 8 count)) else s)

end Sys2Proof.Machine
end

