-- ==== Sys2Proof/Machine/Mailbox.lean ====
section
/-!
DEFINITION. The management mailbox and its commands (21_start R467 to R477).
-/
namespace Sys2Proof.Machine

open Sys2Proof

/-! ## Slots and responses (R467, R468, R473) -/

/-- Argument words of a slot, in order. -/
def mboxArgs (m : Mbox) : List DWord := [m.a0, m.a1, m.a2, m.a3, m.a4, m.a5, m.a6]

/-- Argument `i` as a number. -/
def argOf (m : Mbox) (i : Nat) : Nat := ((mboxArgs m).getD i 0).toNat

/-- Bits [hi:lo] of an argument. -/
def argBits (m : Mbox) (i hi lo : Nat) : Nat := bits (argOf m i) hi lo

/-- Every bit that a command does not name is zero; `ws` holds, for each argument, how many low bits it names (R473). -/
def argsFit (ws : List Nat) (m : Mbox) : Bool := (List.range 7).all (fun i => decide (argOf m i < 2 ^ ws.getD i 0))

/-- What a command answers: a status of R468, its results, the package after it. -/
structure Answer where
  status : Nat
  results : List Nat
  state : State

/-- A command that is done. -/
def Answer.ok (s : State) : Answer := ⟨0, [], s⟩

/-- A command turned away with a status; it changes nothing. -/
def Answer.bad (s : State) (status : Nat) : Answer := ⟨status, [], s⟩

/-- The slot is the next that Grendex executes (R467). -/
def isNextSlot (s : State) (m : Mbox) : Bool :=
  decide (epWord s 0x2000 ≠ s.fw.mhead) && decide (m.slot.toNat = s.fw.mhead % 64)

/-- Grendex goes on to the next slot where this one was next. -/
def passSlot (s : State) (m : Mbox) : State :=
  if isNextSlot s m then modFw s (fun w => { w with mhead := (w.mhead + 1) % 2 ^ 64 }) else s

/-- A slot's results, status and done bit written (R467). -/
def writeSlot (s : State) (m : Mbox) (status : Nat) (results : List Nat) : State :=
  let base := 128 * m.slot.toNat
  let s := epWrite s (base + 0x48) ((List.range 7).map (fun i => natToBytes 8 (results.getD i 0))).flatten
  epWrite s (base + 0x40) (natToBytes 8 (status % 256 + 256))

/-- The response of a slot, in place (R467). -/
def respond (m : Mbox) (a : Answer) : State := passSlot (writeSlot a.state m a.status a.results) m

/-- One mailbox command: unnamed argument bits give BAD_VALUE; after R379 nothing but a start is accepted (R473). -/
def command (ws : List Nat) (m : Mbox) (s : State) (body : State → Answer) : Host.Outcome State Fault Refusal :=
  if s.fw.boot ≠ .running then .next s
  else if s.fw.fatal then .next (respond m (.bad s 1))
  else if !argsFit ws m then .next (respond m (.bad s 2))
  else .next (respond m (body s))

/-- A mailbox command that Grendex would execute, and that waits for its way (R371, R379): what it refuses does not wait. -/
def commandHeld (ws : List Nat) (m : Mbox) (s : State) (waits : Bool) : Bool :=
  decide (s.fw.boot = .running) && !s.fw.fatal && argsFit ws m && waits

/-- A command of which a part must find its way open. -/
def wayCommand (ws : List Nat) (m : Mbox) (s : State) (waits : State → Bool) (body : State → Answer) :
    Host.Outcome State Fault Refusal :=
  if commandHeld ws m s (waits s) then .next s else command ws m s body

/-- Grendex, on die 0, finds the way to the home of a physical address and back closed (R10, R379). -/
def grendexWaits (s : State) (pa : Nat) : Bool := isMemory pa && !pathsOpen s 0 (frameDie pa)

/-- BAD_CMD: a code that no group lists (R473). -/
def execBadCmd (m : Mbox) (s : State) : Host.Outcome State Fault Refusal :=
  command [64, 64, 64, 64, 64, 64, 64] m s (fun s => .bad s 4)

/-! ## Contexts (R97 to R102, R473) -/

/-- The context of arg0[9:0]. -/
def ctxArg (m : Mbox) : Nat := argBits m 0 9 0

/-- The state of a context; none if it was never created. -/
def ctxStateOf (s : State) (n : Nat) : Option CtxState := (mget? s.ctxs n).map (fun c => c.state)

/-- The number may be created: never in use, or its teardown has completed (R101, R473). -/
def ctxFree (s : State) (n : Nat) : Bool :=
  match mget? s.ctxs n with
  | none => true
  | some c => decide (c.state = .tornDown) && c.tearing.isNone

/-- CX_CREATE (R97, R473). -/
def execCxCreate (m : Mbox) (s : State) : Host.Outcome State Fault Refusal :=
  command [10] m s (fun s =>
    let n := ctxArg m
    if ctxFree s n then
      .ok { s with ctxs := mset s.ctxs n Context.created, kernels := s.kernels.filter (fun k => decide (k.2.ctx ≠ n)) }
    else .bad s 1)

/-- The attributes that binding checks (R98). A valid root is, besides, a multiple of its table's 8 KiB and in HBM4 (log 98). -/
def bindOk (s : State) (m : Mbox) : Bool :=
  fpcOk (BitVec.ofNat 32 (argOf m 2)) && decide (argOf m 3 % 4 = 0) && decide (argOf m 4 % 4 = 0) &&
    decide (argOf m 1 % 8192 = 0) && decide (argOf m 1 < hbmTop) &&
    (mget s.partitions (argBits m 0 13 10) Partition.reset).configured && decide (argOf m 5 % 64 = 0) &&
    decide (64 ≤ argBits m 2 48 32) && decide (argBits m 2 48 32 ≤ 65536) && decide (argOf m 6 % 16384 = 0)

/-- The argument bits that CX_BIND names. -/
def bindWidths : List Nat := [23, 46, 49, 48, 48, 46, 48]

/-- CX_BIND will be accepted. -/
def binds (s : State) (m : Mbox) : Bool := decide (ctxStateOf s (ctxArg m) = some .created) && bindOk s m

/-- The two words after the log that CX_BIND names (R106). -/
def logEnd (m : Mbox) : Nat := argOf m 5 + 64 * argBits m 2 48 32

/-- CX_BIND writes the words after its log, whose home the way must lead to (R10). -/
def bindWaits (m : Mbox) (s : State) : Bool := binds s m && (grendexWaits s (logEnd m) || grendexWaits s (logEnd m + 16))

/-- CX_BIND (R98, R106). -/
def execCxBind (m : Mbox) (s : State) : Host.Outcome State Fault Refusal :=
  wayCommand bindWidths m s (bindWaits m) (fun s =>
    let n := ctxArg m
    if binds s m then
      let words := logEnd m
      let s := storeAt (storeAt s words (natToBytes 8 0)) (words + 16) (natToBytes 8 0)
      .ok (modCtx s n (fun c => { c with
        state := .bound, partition := argBits m 0 13 10, ceiling := argBits m 0 21 14, checking := bitOf (argOf m 0) 22,
        root := BitVec.ofNat 46 (argOf m 1), profile := BitVec.ofNat 32 (argOf m 2), logSize := argBits m 2 48 32,
        hlane := BitVec.ofNat 48 (argOf m 3), hscal := BitVec.ofNat 48 (argOf m 4), logBase := BitVec.ofNat 46 (argOf m 5),
        helper := BitVec.ofNat 48 (argOf m 6), written := 0, dropped := 0 }))
    else .bad s 1)

/-- CX_START (R100). -/
def execCxStart (m : Mbox) (s : State) : Host.Outcome State Fault Refusal :=
  command [10] m s (fun s =>
    let n := ctxArg m
    if ctxStateOf s n = some .bound then .ok (modCtx s n (fun c => { c with state := .runnable })) else .bad s 1)

/-- CX_SUSPEND: SUSPENDED follows (R100, R472). -/
def execCxSuspend (m : Mbox) (s : State) : Host.Outcome State Fault Refusal :=
  command [10] m s (fun s =>
    let n := ctxArg m
    if ctxStateOf s n = some .runnable then
      .ok (settleSuspend (modCtx s n (fun c => { c with state := .suspended, suspending := some m.tag.toNat })) n)
    else .bad s 1)

/-- A sleeping lane stream at Resume: a word wait checks its word again as if woken, a stream that debug halt put to
sleep goes on; the others stay asleep until their conditions hold (R102). -/
def resumeLane (l : Lane) : Lane :=
  match l.state, l.sleep with
  | .sleeping, some .word =>
    { l with state := wokenState l, sleep := none, watch := l.watch.map (fun w => { w with woken := true }) }
  | .sleeping, none => { l with state := wokenState l }
  | _, _ => l

/-- A held group at Resume (R102). -/
def resumeGroup (g : Group) : Group :=
  { g with ln := resumeLane g.ln, sc := { g.sc with watch := g.sc.watch.map (fun w => { w with woken := w.woken || w.asked.isNone }) } }

/-- The groups of a context at Resume: faulting ones end as if by `exit`, the others go on (R100, R102). -/
def resumeGroups (s : State) (ctx : Nat) : State :=
  let l := (s.cores.map (fun c => (c.2.groups.filter (fun g => decide (g.2.ctx = ctx))).map (fun g => (c.1, g.1, g.2)))).flatten
  l.foldl (fun s g =>
    if g.2.2.faulting then exitLanes s g.1 g.2.1 (liveLanes g.2.2) else modGroup s g.1 g.2.1 resumeGroup) s

/-- A kernel of a context whose kernels become placeable again: its times begin anew (R132). -/
def ageAnew (now ctx : Nat) (k : Kernel) : Kernel := if k.ctx = ctx then { k with agedAt := now, firstAt := none } else k

/-- CX_RESUME (R100, R102). A suspend that has not completed is given up with it, and no SUSPENDED event follows: R100 does not
say (log 118). -/
def execCxResume (m : Mbox) (s : State) : Host.Outcome State Fault Refusal :=
  command [10] m s (fun s =>
    let n := ctxArg m
    if ctxStateOf s n = some .suspended ∨ ctxStateOf s n = some .faulted then
      let s := { s with kernels := mapEntries s.kernels (fun _ k => ageAnew s.now n k) }
      .ok (resumeGroups (modCtx s n (fun c => { c with state := .runnable, suspending := none })) n)
    else .bad s 1)

/-- CX_TEARDOWN: CX_GONE follows (R101). -/
def execCxTeardown (m : Mbox) (s : State) : Host.Outcome State Fault Refusal :=
  command [10] m s (fun s =>
    let n := ctxArg m
    match ctxStateOf s n with
    | none => .bad s 1
    | some .tornDown => .bad s 1
    | some _ => .ok (teardownContext s n m.tag.toNat))

/-- A context register's RW fields written by the host (R108). -/
def setCtxReg (reg v : Nat) (c : Context) : Context :=
  match reg with
  | 0x041 => { c with checking := bitOf v 0, debug := bitOf v 1, ceiling := bits v 9 2 }
  | 0x042 => { c with hlane := BitVec.ofNat 48 v }
  | 0x043 => { c with hscal := BitVec.ofNat 48 v }
  | _ => { c with profile := BitVec.ofNat 32 v }

/-- CX_SET is allowed in a state (R473). -/
def setAllowed : Option CtxState → Bool
  | some .bound => true
  | some .runnable => true
  | some .suspended => true
  | some .faulted => true
  | _ => false

/-- CX_SET (R108, R473). -/
def execCxSet (m : Mbox) (s : State) : Host.Outcome State Fault Refusal :=
  command [10, 10, 64] m s (fun s =>
    let n := ctxArg m
    let reg := argOf m 1
    if reg < 0x041 ∨ 0x044 < reg ∨ (reg = 0x044 ∧ !fpcOk (BitVec.ofNat 32 (argOf m 2))) then .bad s 2
    else if setAllowed (ctxStateOf s n) then .ok (modCtx s n (setCtxReg reg (argOf m 2)))
    else .bad s 1)

/-- CX_CLEAR (R107); a number that was never created is refused with BAD_STATE (log 99). -/
def execCxClear (m : Mbox) (s : State) : Host.Outcome State Fault Refusal :=
  command [10, 2] m s (fun s =>
    let n := ctxArg m
    if (ctxStateOf s n).isNone then .bad s 1
    else
      .ok (modCtx s n (fun c => { c with
        ubc := if bitOf (argOf m 1) 0 then 0 else c.ubc, energy := if bitOf (argOf m 1) 1 then 0 else c.energy })))

/-- State codes of CX_READ (R473). -/
def ctxCode : CtxState → Nat
  | .created => 0
  | .bound => 1
  | .runnable => 2
  | .suspended => 3
  | .faulted => 4
  | .tornDown => 5

/-- CX_READ (R473). -/
def execCxRead (m : Mbox) (s : State) : Host.Outcome State Fault Refusal :=
  command [10] m s (fun s =>
    match mget? s.ctxs (ctxArg m) with
    | none => ⟨0, [7], s⟩
    | some c => ⟨0, [ctxCode c.state, c.ubc.toNat, c.energy.toNat, c.seq.toNat, c.written], s⟩)

/-! ## Queues (R109, R117 to R119, R474) -/

/-- The queue of arg0[11:0]. -/
def queueArg (m : Mbox) : Nat := argBits m 0 11 0

/-- A context that may own a new queue (R109). -/
def ownsQueues : Option CtxState → Bool
  | some .created => true
  | some .bound => true
  | some .runnable => true
  | some .suspended => true
  | _ => false

/-- A power of two within the limits of a ring (R109). -/
def ringSizeOk (n : Nat) : Bool := (List.range 13).any (fun i => decide (n = 16 * 2 ^ i))

/-- The 8-byte word lies outside a ring. -/
def outsideRing (a ring size : Nat) : Bool := decide (a + 8 ≤ ring) || decide (ring + 256 * size ≤ a)

/-- The attributes of a new queue are within their limits (R109). -/
def queueOk (s : State) (m : Mbox) : Bool :=
  let ring := argOf m 1
  let size := argOf m 2
  let tail := argOf m 3
  let head := argOf m 4
  ownsQueues (ctxStateOf s (argBits m 0 21 12)) && decide (ring % 256 = 0) && ringSizeOk size && decide (tail % 8 = 0) &&
    decide (head % 8 = 0) && outsideRing tail ring size && outsideRing head ring size && decide (tail / 128 ≠ head / 128)

/-- A new queue (R109). -/
def newQueue (m : Mbox) : HostQueue :=
  { state := .halted, ctx := argBits m 0 21 12, die := argBits m 0 23 22, ring := BitVec.ofNat 48 (argOf m 1),
    size := argOf m 2, tailAddr := BitVec.ofNat 48 (argOf m 3), headAddr := BitVec.ofNat 48 (argOf m 4),
    prio := argBits m 0 31 24, head := 0, last := 0, window := [], reading := [], status := 0, exposed := [], tag := 0,
    after := none }

/-- The number is free and the context is there to own a queue (R109). -/
def queueFree (s : State) (m : Mbox) : Bool :=
  (mget? s.queues (queueArg m)).isNone && decide (ctxStateOf s (argBits m 0 21 12) ≠ some .tornDown)

/-- The check of a new queue's head word, which fails in a context that is not bound: R109 lets it own a queue and gives it no tables
(log 31). -/
def headCheck (s : State) (m : Mbox) : AddrCheck := unitCheck s (newQueue m).die (newQueue m).ctx (argOf m 4) 8 .write

/-- A new queue whose head word becomes 0; a head word that cannot be written gives RING_FAULT (R109, R112, log 31). -/
def createQueue (s : State) (m : Mbox) : State :=
  let q := newQueue m
  let t := { s with queues := mset s.queues (queueArg m) q }
  match headCheck s m with
  | .ok x => unitStore t q.die x (natToBytes 8 0) []
  | _ => haltQueue t (queueArg m) 7 (argOf m 4) m.tag.toNat

/-- The argument bits that Q_CREATE names. -/
def createWidths : List Nat := [32, 48, 17, 48, 48]

/-- Q_CREATE waits while the head word's line is held or its way is closed (R371, R379). -/
def createWaits (m : Mbox) (s : State) : Bool := queueFree s m && queueOk s m && decide (headCheck s m = .held)

/-- Q_CREATE (R109). A number in use is refused before the attributes are looked at: R109 gives no order (log 84). -/
def execQCreate (m : Mbox) (s : State) : Host.Outcome State Fault Refusal :=
  wayCommand createWidths m s (createWaits m) (fun s =>
    if !queueFree s m then .bad s 1 else if !queueOk s m then .bad s 3 else .ok (createQueue s m))

/-- The check of the tail word of a halted queue that is to be started. -/
def tailCheck (s : State) (q : HostQueue) : AddrCheck := unitCheck s q.die q.ctx q.tailAddr.toNat 8 .read

/-- A queue that starts with its tail read: empty if it has nothing unread, else armed, or blocked at once where its window is
full (R117). -/
def started (q : HostQueue) : HostQueue := { q with state := if hasUnread q then readState q else .empty }

/-- A halted queue started: its tail is read and checked (R111, R112, R117). -/
def startQueue (s : State) (n tag : Nat) (q : HostQueue) : State :=
  match tailCheck s q with
  | .ok x =>
    let r := unitRead s q.die x 8 64
    let t := bytesDword r.bytes
    if badTail q t then haltQueue r.state n 6 t.toNat tag
    else modHostQueue r.state n (fun q => started (takeTail t (exposures s x.pa q t) r.sigs q))
  | _ => haltQueue s n 7 q.tailAddr.toNat tag

/-- The halted queue that a command starts. -/
def toStart (s : State) (m : Mbox) : Option HostQueue := (mget? s.queues (queueArg m)).filter (fun q => decide (q.state = .halted))

/-- Q_START waits while the tail word's line is held or its way is closed (R371, R379). -/
def startWaits (m : Mbox) (s : State) : Bool := (toStart s m).any (fun q => decide (tailCheck s q = .held))

/-- Q_START (R117). -/
def execQStart (m : Mbox) (s : State) : Host.Outcome State Fault Refusal :=
  wayCommand [12] m s (startWaits m) (fun s =>
    match toStart s m with
    | none => .bad s 1
    | some q => .ok (startQueue s (queueArg m) m.tag.toNat q))

/-- Halt and Drain are allowed in a state (R117). -/
def mayHalt (drain : Bool) : QueueState → Bool
  | .halted => false
  | .tornDown => false
  | .draining => !drain
  | _ => true

/-- A queue halted, after the read under way if there is one (R117, R118). While the read is under way the queue is dispatching, so
another Halt or Drain is allowed: the last one holds (log 113). -/
def haltNow (q : HostQueue) : HostQueue :=
  if q.state = .dispatching then { q with after := some .halted } else { q with state := .halted }

/-- Q_HALT (R118). -/
def execQHalt (m : Mbox) (s : State) : Host.Outcome State Fault Refusal :=
  command [12] m s (fun s =>
    match mget? s.queues (queueArg m) with
    | none => .bad s 1
    | some q => if mayHalt false q.state then .ok (modHostQueue s (queueArg m) haltNow) else .bad s 1)

/-- A queue drained: an empty one is halted at once, one that reads drains after the read, any other is halted when its last
kernel ends; DRAIN is posted then (R117, R118). -/
def drainQueue (s : State) (n tag : Nat) (q : HostQueue) : State :=
  if q.state = .empty then
    post (modHostQueue s n (fun q => { q with state := .halted, tag := tag })) q.die 0x07 0 tag [n]
  else if q.state = .dispatching then modHostQueue s n (fun q => { q with after := some .draining, tag := tag })
  else settleQueue (modHostQueue s n (fun q => { q with state := .draining, tag := tag })) n

/-- Q_DRAIN (R117, R118). -/
def execQDrain (m : Mbox) (s : State) : Host.Outcome State Fault Refusal :=
  command [12] m s (fun s =>
    match mget? s.queues (queueArg m) with
    | none => .bad s 1
    | some q => if mayHalt true q.state then .ok (drainQueue s (queueArg m) m.tag.toNat q) else .bad s 1)

/-- Q_TEARDOWN (R119). -/
def execQTeardown (m : Mbox) (s : State) : Host.Outcome State Fault Refusal :=
  command [12] m s (fun s =>
    match mget? s.queues (queueArg m) with
    | none => .bad s 1
    | some q => if q.state = .halted then .ok (teardownQueue s (queueArg m) m.tag.toNat) else .bad s 1)

/-- Q_PRIO (R474). -/
def execQPrio (m : Mbox) (s : State) : Host.Outcome State Fault Refusal :=
  command [12, 8] m s (fun s =>
    match mget? s.queues (queueArg m) with
    | none => .bad s 1
    | some _ => .ok (modHostQueue s (queueArg m) (fun q => { q with prio := argOf m 1 })))

/-- State codes of Q_READ (R474). -/
def queueCode : QueueState → Nat
  | .empty => 0
  | .armed => 1
  | .dispatching => 2
  | .blocked => 3
  | .draining => 4
  | .halted => 5
  | .tornDown => 6

/-- Q_READ (R474). -/
def execQRead (m : Mbox) (s : State) : Host.Outcome State Fault Refusal :=
  command [12] m s (fun s =>
    match mget? s.queues (queueArg m) with
    | none => ⟨0, [7], s⟩
    | some q => ⟨0, [queueCode q.state + q.status * 256, q.head.toNat, q.last.toNat, q.window.length], s⟩)

/-! ## Page faults answered (R347, R475) -/

/-- A wait is on a fault entry. -/
def waitsOn (die id : Nat) (w : Option FaultWait) : Bool := w.any (fun x => decide (x.die = die) && decide (x.id = id))

/-- The wait without a fault entry. -/
def clearWait (die id : Nat) (w : Option FaultWait) : Option FaultWait := if waitsOn die id w then none else w

/-- A queue whose affine stream waits on a fault entry. -/
def streamWait (q : Queue) : Option FaultWait :=
  match q.stream with
  | some (.affine a) => a.fault
  | _ => none

/-- A queue whose affine stream goes on (R241). -/
def clearQueue (die id : Nat) (q : Queue) : Queue :=
  match q.stream with
  | some (.affine a) => { q with stream := some (.affine { a with fault := clearWait die id a.fault }) }
  | _ => q

/-- A group that retries what waited on a fault entry (R162, R233, R241). -/
def clearGroup (die id : Nat) (g : Group) : Group :=
  { g with ln := { g.ln with fault := clearWait die id g.ln.fault }, sc := { g.sc with fault := clearWait die id g.sc.fault },
           qs := g.qs.map (clearQueue die id) }

/-- A skerry whose commands go on. -/
def clearSkerry (die id : Nat) (k : Skerry) : Skerry := mapRuns (fun r => { r with fault := clearWait die id r.fault }) k

/-- What waits on a fault entry waits no more. -/
def clearWaits (s : State) (die id : Nat) : State :=
  { s with
    cores := mapEntries s.cores (fun _ k => { k with
      groups := mapEntries k.groups (fun _ g => clearGroup die id g),
      engine := k.engine.map (fun c => { c with paused := clearWait die id c.paused }) }),
    saved := mapEntries s.saved (fun _ v => { v with groups := v.groups.map (clearGroup die id) }),
    skerries := mapEntries s.skerries (fun _ k => clearSkerry die id k) }

/-- Every agent that waits on a fault entry retries with a fresh walk (R347). -/
def replayFault (s : State) (die : Nat) (f : FaultEntry) : State := clearWaits (freshWalks s f.ctx f.page) die f.id

/-- A declined fault reported as a trap of a stream (R103, R105), which waits where the other stream runs its handler (R250). -/
def declineTrap (s : State) (core slot : Nat) (st : Stream) (w : FaultWait) : State := raiseTrap s core slot st w.trap

/-- The declined waits of a group: of its lane stream, its scalar stream and its affine streams, whose records hold the
address of their `aff` (R241). -/
def groupWaits (die id : Nat) (g : Group) : List (Stream × FaultWait) :=
  ((if waitsOn die id g.ln.fault then g.ln.fault.toList else []).map (fun w => (Stream.lane, w))) ++
    ((if waitsOn die id g.sc.fault then g.sc.fault.toList else []).map (fun w => (Stream.scalar, w))) ++
    (g.qs.filterMap (fun q => match q.stream with
      | some (.affine a) =>
        if waitsOn die id a.fault then
          a.fault.map (fun w => (Stream.scalar, { w with trap := { w.trap with site := some ⟨⟨a.at_, 0⟩, false⟩ } }))
        else none
      | _ => none))

/-- A declined fault of an engine command: its group's record holds the instruction's address; the command ends, as one that an
ACCESS stops does: a fill's bytes are undefined, and a load is no longer sent (R267, R309, R374). -/
def declineCommand (s : State) (core : Nat) (c : EngineCmd) (w : FaultWait) : State :=
  let s := modCore (dropLoad s c) core (fun k => failFill (dropCommand k c) c)
  match groupOf s core c.slot with
  | some g => if gidOf g = c.gid then declineTrap s core c.slot .lane w else s
  | none => s

/-- A skerry command whose fault is declined: it stops with NM_UNCORR, and a completion word in a poisoned frame is not
written (log 104). -/
def declineRun (s : State) (r : SkRun) : SkRun :=
  let keep (a : Option Nat) : Option Nat := a.filter (fun a => !(isMemory a && poisoned s a))
  { r with stop := if r.stop.getD 0 = 0 then some 8 else r.stop, cmd := { r.cmd with stat := keep r.cmd.stat, flag := keep r.cmd.flag } }

/-- A skerry whose commands that wait on a fault entry are declined; banks that are behind still replay the words before (R365). -/
def declineSkerry (s : State) (die id : Nat) (k : Skerry) : Skerry :=
  mapRuns (fun r => if waitsOn die id r.fault then declineRun s r else r) k

/-- A fault entry declined: its context faults, by the die that holds the entry, and every agent that waits on it reports its trap
(R347, R489); its TRAP event carries the reply's tag (R472). -/
def declineFault (s : State) (die tag : Nat) (f : FaultEntry) : State :=
  let gs := (s.cores.map (fun c => (c.2.groups.map (fun g => (groupWaits die f.id g.2).map (fun w => (c.1, g.1, w)))).flatten)).flatten
  let es := (s.cores.map (fun c => c.2.engine.filterMap (fun e =>
    if waitsOn die f.id e.paused then e.paused.map (fun w => (c.1, e, w)) else none))).flatten
  let s := if (ctxStateOf s f.ctx).isSome then faultContext s f.ctx die (ctxOf s f.ctx).written (logFull s f.ctx) tag else s
  let s := gs.foldl (fun s g => declineTrap s g.1 g.2.1 g.2.2.1 g.2.2.2) s
  let s := es.foldl (fun s e => declineCommand s e.1 e.2.1 e.2.2) s
  clearWaits { s with skerries := mapEntries s.skerries (fun _ k => declineSkerry s die f.id k) } die f.id

/-- PF_REPLY (R347, R475). -/
def execPfReply (m : Mbox) (s : State) : Host.Outcome State Fault Refusal :=
  command [19] m s (fun s =>
    let die := argBits m 0 17 16
    let id := argBits m 0 15 0
    match (dieRec s die).faults.find? (fun f => decide (f.id = id)) with
    | none => .bad s 2
    | some f =>
      let s := modDie s die (fun d => { d with faults := d.faults.filter (fun f => decide (f.id ≠ id)) })
      .ok (if bitOf (argOf m 0) 18 then declineFault s die m.tag.toNat f else replayFault s die f))

/-- The argument bits that INVALIDATE names. -/
def invalWidths : List Nat := [10, 48, 49]

/-- INVALIDATE waits for the ways of the stores by old translations (R350, R379). -/
def invalWaits (m : Mbox) (s : State) : Bool :=
  (match invalidRange (ctxArg m) (argOf m 1) (argOf m 2) with
   | .ok _ => true
   | .error _ => false) && flushWaits s 0 4

/-- INVALIDATE: as `xinv` at package scope; INVAL follows once no access by an old translation is out (R350, R354, R475,
log 102). -/
def execInvalidate (m : Mbox) (s : State) : Host.Outcome State Fault Refusal :=
  wayCommand invalWidths m s (invalWaits m) (fun s =>
    match invalidRange (ctxArg m) (argOf m 1) (argOf m 2) with
    | .error _ => .bad s 2
    | .ok r =>
      let v : Inval := ⟨ctxArg m, argOf m 1, argOf m 2, m.tag.toNat, s.fresh⟩
      .ok (settleInvals (modFw (invalidateRange (flushScope s 0 4) 0 4 r) (fun w => { w with invals := w.invals ++ [v] }))))

/-- UNPOISON (R351, R475). -/
def execUnpoison (m : Mbox) (s : State) : Host.Outcome State Fault Refusal :=
  command [46] m s (fun s =>
    let frame := argOf m 0 / 8192
    let d := frameDie (argOf m 0)
    if argOf m 0 % 8192 ≠ 0 ∨ !(dieRec s d).poison.contains frame then .bad s 2
    else .ok (modDie s d (fun x => { x with poison := x.poison.filter (fun f => decide (f ≠ frame)) })))

/-- POISON_READ (R475). -/
def execPoisonRead (m : Mbox) (s : State) : Host.Outcome State Fault Refusal :=
  command [2, 10] m s (fun s =>
    let l := (dieRec s (argOf m 0)).poison
    ⟨0, [l.length, l.getD (argOf m 1) 0 * 8192], s⟩)

/-! ## Links, endpoints, apertures (R377, R476) -/

/-- A host command to a strait or a port (R476). -/
def linkCommand (m : Mbox) (s : State) (body : Nat → LinkState → Option (State → State)) : Host.Outcome State Fault Refusal :=
  command [12] m s (fun s =>
    let id := argOf m 0
    if !isLink id ∨ id / 1024 = 2 then .bad s 2
    else
      match body id (linkOf s id).state with
      | none => .bad s 1
      | some f => .ok (f s))

/-- The link with the tag of the command that changes it (R472). -/
def tagLink (s : State) (id : Nat) (m : Mbox) : State := modLink s id (fun l => { l with tag := m.tag.toNat })

/-- LINK_ENABLE (R377). -/
def execLinkEnable (m : Mbox) (s : State) : Host.Outcome State Fault Refusal :=
  linkCommand m s (fun id st =>
    match st with
    | .down => some (fun s => startTraining (tagLink s id m) id)
    | _ => none)

/-- LINK_DRAIN (R377). -/
def execLinkDrain (m : Mbox) (s : State) : Host.Outcome State Fault Refusal :=
  linkCommand m s (fun id st =>
    match st with
    | .up => some (fun s => setLink (tagLink s id m) id .draining)
    | .degraded => some (fun s => setLink (tagLink s id m) id .draining)
    | _ => none)

/-- LINK_DISABLE (R377). -/
def execLinkDisable (m : Mbox) (s : State) : Host.Outcome State Fault Refusal :=
  linkCommand m s (fun id st =>
    match st with
    | .down => some (fun s => s)
    | .training => some (fun s => setLink (tagLink s id m) id .down)
    | .draining => some (fun s => s)
    | _ => some (fun s => setLink (tagLink s id m) id .draining))

/-- LINK_READ (R476). -/
def execLinkRead (m : Mbox) (s : State) : Host.Outcome State Fault Refusal :=
  command [12] m s (fun s =>
    let id := argOf m 0
    if !isLink id then .bad s 2
    else
      let l := linkOf s id
      ⟨0, [linkCode l.state, linkWidth id l, (liveReplays s id).length, l.refused], s⟩)

/-- EP_BIND (R385, R476). -/
def execEpBind (m : Mbox) (s : State) : Host.Outcome State Fault Refusal :=
  command [10, 8, 64] m s (fun s =>
    if ctxArg m = 0x3FF then
      .ok { s with ctxs := mapEntries s.ctxs (fun _ c =>
        if c.endpoint.any (fun e => decide (e.2 = m.a2)) then { c with endpoint := none } else c) }
    else
      match ctxStateOf s (ctxArg m) with
      | none => .bad s 1
      | some .tornDown => .bad s 1
      | some _ => .ok (modCtx s (ctxArg m) (fun c => { c with endpoint := some (BitVec.ofNat 8 (argOf m 1), m.a2) })))

/-- An operation that waits at a port goes by what its entry now holds, where that is enabled; in its place among those that
wait (R380, log 24). -/
def rebound (entry : Nat) (a : Aperture) (o : ApertureOp) : ApertureOp :=
  if o.entry = entry ∧ !o.sent then { o with port := a.port, peer := a.peer, ctx := a.ctx, addr := a.base.toNat + o.addr % 2 ^ 40 } else o

/-- APERTURE (R380, R386, R476). -/
def execAperture (m : Mbox) (s : State) : Host.Outcome State Fault Refusal :=
  command [9, 64, 10, 48] m s (fun s =>
    if argOf m 3 % 2 ^ 40 ≠ 0 then .bad s 2
    else
      let x : Aperture := ⟨bitOf (argOf m 0) 5, argBits m 0 8 6, m.a1, argOf m 2, BitVec.ofNat 48 (argOf m 3)⟩
      .ok { s with apertures := mset s.apertures (argBits m 0 4 0) x,
                   outgoing := if x.enabled then s.outgoing.map (rebound (argBits m 0 4 0) x) else s.outgoing })

/-- The package with one partition changed. -/
def modPartition (s : State) (p : Nat) (f : Partition → Partition) : State :=
  { s with partitions := mset s.partitions p (f (mget s.partitions p Partition.reset)) }

/-- POD_SET (R282, R476). -/
def execPodSet (m : Mbox) (s : State) : Host.Outcome State Fault Refusal :=
  command [4, 32, 13] m s (fun s =>
    if argOf m 2 = 0 ∨ 4096 < argOf m 2 then .bad s 2
    else .ok (modPartition s (argOf m 0) (fun p => { p with podId := BitVec.ofNat 32 (argOf m 1), podSize := argOf m 2 })))

/-! ## Power and partitions (R420, R422, R426 to R430, R477) -/

/-- A quad begins to drain: puts toward it stop, its narrows drain (R378, R427). -/
def gateQuad (s : State) (q tag : Nat) : State :=
  let s := modQuad s q (fun x => { x with state := .draining, tag := tag })
  (quadNarrows q).foldl (fun s id =>
    if (linkOf s id).state = .up then setLink (modLink s id (fun l => { l with tag := tag })) id .draining else s) s

/-- GATE: QUAD follows (R426, R427). -/
def execGate (m : Mbox) (s : State) : Host.Outcome State Fault Refusal :=
  command [8] m s (fun s =>
    match (quadNo s (argOf m 0)).state with
    | .active => .ok (gateQuad s (argOf m 0) m.tag.toNat)
    | .gated => .ok s
    | _ => .bad s 1)

/-- A quad begins to wake; its narrows are enabled where the facing quad is not gated (R378, R428). -/
def wakeQuad (s : State) (q tag : Nat) : State :=
  let s := modQuad s q (fun x => { x with state := .waking, tag := tag })
  if (quadNo s (facingQuad q)).state = .gated then s
  else
    (quadNarrows q).foldl (fun s id =>
      if (linkOf s id).state = .down then startTraining (modLink s id (fun l => { l with tag := tag })) id else s) s

/-- UNGATE: QUAD follows (R426, R428). -/
def execUngate (m : Mbox) (s : State) : Host.Outcome State Fault Refusal :=
  command [8] m s (fun s =>
    match (quadNo s (argOf m 0)).state with
    | .gated => .ok (wakeQuad s (argOf m 0) m.tag.toNat)
    | .draining => .bad s 1
    | _ => .ok s)

/-- PASSFLOOR (R420, R426). -/
def execPassfloor (m : Mbox) (s : State) : Host.Outcome State Fault Refusal :=
  command [8, 64] m s (fun s =>
    let n := argOf m 1
    if n = 1 ∨ n = 2 ∨ n = 4 then .ok (modQuad s (argOf m 0) (fun q => { q with floor := n })) else .bad s 2)

/-- A vote in mV within its limits (R422). -/
def voteOk (v : Nat) : Bool := decide (300 ≤ v) && decide (v ≤ 420) && decide (v % 10 = 0)

/-- VOTE (R422). -/
def execVote (m : Mbox) (s : State) : Host.Outcome State Fault Refusal :=
  command [4, 5, 64, 64] m s (fun s =>
    let base := argOf m 2
    let burst := argOf m 3
    if voteOk base ∧ voteOk burst ∧ base ≤ burst then
      .ok (modPartition s (argOf m 0) (fun p =>
        { p with votes := mset p.votes (railKey (argBits m 1 3 0) (bitOf (argOf m 1) 4)) (base, burst) }))
    else .bad s 2)

/-- The shares of a stack held by partitions other than one. -/
def otherShares (s : State) (p stack : Nat) : Nat :=
  ((s.partitions.filter (fun x => decide (x.1 ≠ p))).map (fun x => mget x.2.shares stack 0)).foldl (· + ·) 0

/-- SHARE (R430). -/
def execShare (m : Mbox) (s : State) : Host.Outcome State Fault Refusal :=
  command [4, 4, 64] m s (fun s =>
    if argOf m 1 < 12 ∧ argOf m 2 ≤ 100 ∧ otherShares s (argOf m 0) (argOf m 1) + argOf m 2 ≤ 100 then
      .ok (modPartition s (argOf m 0) (fun p => { p with shares := mset p.shares (argOf m 1) (argOf m 2) }))
    else .bad s 2)

/-- CORESET and IMAGE read memory, whose home the way must lead to (R10). -/
def readWaits (pa n : Nat) (s : State) : Bool := decide (pa + n ≤ hbmTop) && (grendexWaits s pa || grendexWaits s (pa + n - 1))

/-- CORESET (R131, R477). -/
def execCoreset (m : Mbox) (s : State) : Host.Outcome State Fault Refusal :=
  wayCommand [4, 46] m s (readWaits (argOf m 1) 128) (fun s =>
    if hbmTop < argOf m 1 + 128 then .bad s 2
    else
      .ok (modPartition s (argOf m 0) (fun p => { p with cores := BitVec.ofNat 1024 (bytesToNat (loadHome s (argOf m 1) 128)) })))

/-- A bound context uses a partition (R477). -/
def partitionUsed (s : State) (p : Nat) : Bool :=
  s.ctxs.any (fun c => setAllowed (some c.2.state) && decide (c.2.partition = p))

/-- PARTITION (R98, R477). -/
def execPartition (m : Mbox) (s : State) : Host.Outcome State Fault Refusal :=
  command [4, 1] m s (fun s =>
    if argOf m 1 = 0 ∧ partitionUsed s (argOf m 0) then .bad s 1
    else .ok (modPartition s (argOf m 0) (fun p => { p with configured := decide (argOf m 1 = 1) })))

/-! ## The system commands (R462 to R471, R477) -/

/-- Four argument words as 256 bits. -/
def argWords (m : Mbox) : BitVec 256 :=
  BitVec.ofNat 256 (argOf m 0 + argOf m 1 * 2 ^ 64 + argOf m 2 * 2 ^ 128 + argOf m 3 * 2 ^ 192)

/-- A start command: it is executed only as the oldest unexecuted slot, waits for a quote under way, completes with OK, and the
start begins (R379, R467, R469). -/
def startCommand (ws : List Nat) (m : Mbox) (s : State) (start : State → State) : Host.Outcome State Fault Refusal :=
  if s.fw.boot ≠ .running ∨ s.fw.quote.isSome ∨ !isNextSlot s m then .next s
  else if !argsFit ws m then .next (respond m (.bad s 2))
  else .next (start (respond m (.ok s)))

/-- WARM (R462, R469). -/
def execWarm (m : Mbox) (s : State) : Host.Outcome State Fault Refusal :=
  startCommand [64, 64, 64, 64] m s (fun s => warmStart s (argWords m) m.tag.toNat)

/-- A cold start on the host's request; what the mailbox endpoint holds stays until the mailbox opens again. -/
def coldRequest (tag : Nat) (s : State) : State :=
  let t := coldStart s tag
  { t with fw := { t.fw with ep := s.fw.ep } }

/-- COLD, from the mailbox or in recovery-listen (R463, R469). -/
def execCold (m : Mbox) (s : State) : Host.Outcome State Fault Refusal :=
  match recoveryStep s with
  | some n => .next (if listening s n then coldRequest m.tag.toNat s else s)
  | none => startCommand [] m s (coldRequest m.tag.toNat)

/-- QUOTE: the slot completes when the quote is signed; one quote runs at a time (R466). -/
def execQuote (m : Mbox) (s : State) : Host.Outcome State Fault Refusal :=
  if s.fw.boot ≠ .running then .next s
  else if s.fw.fatal ∨ s.fw.quote.isSome then .next (respond m (.bad s 1))
  else if !argsFit [64, 64, 64, 64] m then .next (respond m (.bad s 2))
  else .next (passSlot (modFw s (fun w => { w with quote := some m })) m)

/-- The security version of the resident image. -/
def residentSvn (s : State) : BitVec 32 := (s.fw.image.map (fun x => x.svn)).getD 0

/-- The 32 bytes of the identity public key (R465). -/
def identityBytes (s : State) : List Byte := (identityKey (residentSvn s)).pk

/-- QUOTE_SIGNED: the quote buffer is written and the slot completes (R466, R470). -/
def execQuoteSigned (s : State) : Host.Outcome State Fault Refusal :=
  match s.fw.quote with
  | none => .next s
  | some m =>
    let body := natToBytes 32 (argWords m).toNat ++ natToBytes 32 s.fw.measurement.toNat ++ natToBytes 8 s.now ++ identityBytes s
    let s := epWrite s 0x4000 (body ++ slhSign (identityKey (residentSvn s)) (freeBytes s 766 16) body)
    .next (writeSlot (modFw s (fun w => { w with quote := none })) m 0 [])

/-- IDKEY (R465). -/
def execIdkey (m : Mbox) (s : State) : Host.Outcome State Fault Refusal :=
  command [] m s (fun s =>
    ⟨0, (List.range 4).map (fun i => bytesToNat (((identityBytes s).drop (8 * i)).take 8)), s⟩)

/-- The bytes of the longest image (R464). -/
def imageLimit : Nat := 0x2000 + 64 * 2 ^ 20

/-- IMAGE reads an image whose home the way must lead to (R10). -/
def imageWaits (m : Mbox) (s : State) : Bool :=
  decide (0 < argOf m 1) && decide (argOf m 1 ≤ imageLimit) && readWaits (argOf m 0) (argOf m 1) s

/-- IMAGE: a new image is checked before it replaces the resident one (R464, R469). -/
def execImage (m : Mbox) (s : State) : Host.Outcome State Fault Refusal :=
  wayCommand [46, 64] m s (imageWaits m) (fun s =>
    let n := argOf m 1
    if hbmTop < argOf m 0 + n ∨ imageLimit < n then .bad s 2
    else
      let x := imageOf (loadHome s (argOf m 0) n)
      if n < 0x2000 ∨ (imageFailure x).isSome then .bad s 5
      else .ok (modFw s (fun w => { w with image := some x })))

/-- EVSINK (R471). -/
def execEvsink (m : Mbox) (s : State) : Host.Outcome State Fault Refusal :=
  command [64, 64] m s (fun s =>
    .ok (modFw s (fun w => { w with sink := if m.a0 = 0 then none else some (m.a0, m.a1) })))

/-- HELPERS (R442). -/
def execHelpers (m : Mbox) (s : State) : Host.Outcome State Fault Refusal :=
  command [] m s (fun s => ⟨0, [Config.helperImage.toNat], s⟩)

/-! ## The next slot (R467, R469) -/

/-- The command of a slot, as its words stand. -/
def slotMbox (s : State) (slot : Nat) : Mbox :=
  let w (i : Nat) : DWord := BitVec.ofNat 64 (epWord s (128 * slot + 8 * i))
  { slot := BitVec.ofNat 6 slot, tag := BitVec.ofNat 16 (bits (epWord s (128 * slot)) 31 16),
    a0 := w 1, a1 := w 2, a2 := w 3, a3 := w 4, a4 := w 5, a5 := w 6, a6 := w 7 }

/-- The command that a code names; the others are BAD_CMD (R473 to R477). -/
noncomputable def commandOfCode (code : Nat) (m : Mbox) : Instr :=
  match code with
  | 0x0100 => .cxCreate m
  | 0x0101 => .cxBind m
  | 0x0102 => .cxStart m
  | 0x0103 => .cxSuspend m
  | 0x0104 => .cxResume m
  | 0x0105 => .cxTeardown m
  | 0x0106 => .cxSet m
  | 0x0107 => .cxClear m
  | 0x0108 => .cxRead m
  | 0x0200 => .qCreate m
  | 0x0201 => .qStart m
  | 0x0202 => .qHalt m
  | 0x0203 => .qDrain m
  | 0x0204 => .qTeardown m
  | 0x0205 => .qPrio m
  | 0x0206 => .qRead m
  | 0x0300 => .pfReply m
  | 0x0301 => .invalidate m
  | 0x0302 => .unpoison m
  | 0x0303 => .poisonRead m
  | 0x0400 => .linkEnable m
  | 0x0401 => .linkDrain m
  | 0x0402 => .linkDisable m
  | 0x0403 => .linkRead m
  | 0x0404 => .epBind m
  | 0x0405 => .aperture m
  | 0x0406 => .podSet m
  | 0x0500 => .gate m
  | 0x0501 => .ungate m
  | 0x0502 => .passfloor m
  | 0x0503 => .vote m
  | 0x0504 => .share m
  | 0x0505 => .coreset m
  | 0x0506 => .partition m
  | 0x0600 => .warm m
  | 0x0601 => .cold m
  | 0x0602 => .quote m
  | 0x0603 => .idkey m
  | 0x0604 => .image m
  | 0x0605 => .evsink m
  | 0x0606 => .helpers m
  | _ => .badCmd m

/-- A mailbox command that waits: a start for a quote under way (R469), another for its word or its way (R10, R371, R379). -/
def commandWaits (s : State) (code : Nat) (m : Mbox) : Bool :=
  match code with
  | 0x0600 => s.fw.quote.isSome
  | 0x0601 => s.fw.quote.isSome
  | 0x0101 => commandHeld bindWidths m s (bindWaits m s)
  | 0x0200 => commandHeld createWidths m s (createWaits m s)
  | 0x0201 => commandHeld [12] m s (startWaits m s)
  | 0x0301 => commandHeld invalWidths m s (invalWaits m s)
  | 0x0505 => commandHeld [4, 46] m s (readWaits (argOf m 1) 128 s)
  | 0x0604 => commandHeld [46, 64] m s (imageWaits m s)
  | _ => false

/-- The mailbox command that Grendex executes next, if a slot waits (R467). -/
noncomputable def nextCommand (s : State) : Option Instr :=
  if s.fw.boot ≠ .running ∨ epWord s 0x2000 = s.fw.mhead then none
  else
    let slot := s.fw.mhead % 64
    let code := epWord s (128 * slot) % 65536
    if commandWaits s code (slotMbox s slot) then none else some (commandOfCode code (slotMbox s slot))

end Sys2Proof.Machine
end

