-- ==== Sys2Proof/Machine/Sfu.lean ====
section
/-!
DEFINITION. The special functions (08_lane_ops R210 to R214) and `chain` (R215, R216).
-/
namespace Sys2Proof.Machine

open Sys2Proof

/-! ## Results within the bounds of R211 -/

/-- The functions of the SFU in opcode order (R195). -/
inductive SfuFn where
  | rcp
  | rsq
  | sqt
  | ex2
  | lg2
  | sinr
  | cosr
  | tnh
  deriving DecidableEq, Repr

/-- The number of a function. -/
def SfuFn.code : SfuFn → Nat
  | .rcp => 0
  | .rsq => 1
  | .sqt => 2
  | .ex2 => 3
  | .lg2 => 4
  | .sinr => 5
  | .cosr => 6
  | .tnh => 7

/-- A finite FP32 code as a multiple of 2^-400; none for other codes. -/
def codeScaled (c : Nat) : Option Int :=
  match valueOf fp32 c with
  | .fin n m e => some (if n then -((shiftBy m (e + 400) : Nat) : Int) else ((shiftBy m (e + 400) : Nat) : Int))
  | _ => none

/-- The error of the references: a candidate this far outside its bound still counts as within it, so that no
permitted result is excluded (log 7). -/
def refSlack (x : Nat) : Nat := max (2 ^ 210) (x / 2 ^ 150)

/-- Two magnitudes, as multiples of 2^-400, that an exact result lies strictly between. -/
structure Limits where
  lo : Nat
  hi : Nat

/-- Nothing is known of a result. -/
def Limits.none : Limits := ⟨0, 2 ^ 600⟩

/-- A candidate is within a bound of the exact result, which the reference comes near and the limits enclose: they tell on which side
it lies where the reference cannot. -/
def withinBound (c : Nat) (ref : Int) (at_ : Limits) (bound : Nat) : Bool :=
  match codeScaled c with
  | some v => decide ((v - ref).natAbs ≤ bound + refSlack ref.natAbs) && decide (v.natAbs < at_.hi + bound) && decide (at_.lo < v.natAbs + bound)
  | none => false

/-- The SFU's native result for an argument: its own value where that is within the bound, else the reference. -/
def sfuNativeFor (fn : SfuFn) (a : Nat) (ref : Int) (at_ : Limits) (bound : Nat) : Nat :=
  let c := (Config.sfuNative fn.code (BitVec.ofNat 32 a)).toNat
  if withinBound c ref at_ bound then c else refRound ref

/-- The same for a result that R213 wants to be subnormal, or, with `zero`, subnormal or zero: the magnitude of the SFU's own
result where it is such a one and within the bound, else that of the reference, no larger than the largest subnormal. -/
def sfuTinyFor (fn : SfuFn) (a : Nat) (zero : Bool) (ref : Int) (bound : Nat) : Nat :=
  let c := (Config.sfuNative fn.code (BitVec.ofNat 32 a)).toNat
  let fits (x : Nat) : Bool := decide (magCode fp32 x < 2 ^ fp32.fb) && (zero || decide (0 < magCode fp32 x))
  if withinBound c ref .none bound ∧ fits c ∧ isNeg fp32 c = decide (ref < 0) then magCode fp32 c
  else min (max (magCode fp32 (refRound ref)) (if zero then 0 else 1)) (2 ^ fp32.fb - 1)

/-- A bound of so many ULP, the spacing at the magnitude of the exact result (R211). -/
def ulps (n : Nat) (ref : Int) (at_ : Limits := .none) : Nat := n * refUlp (min (ref.natAbs + refSlack ref.natAbs) (at_.hi - 1))

/-- FP32 1.0. -/
def one32 : Nat := 0x3F800000

/-- The magnitude m × 2^e as a multiple of 2^-149, the weight of the last bit of the smallest FP32 numbers. -/
def tinyScaled (m : Nat) (e : Int) : Nat := shiftBy m (e + 149)

/-- `rcp` (R211, R213). -/
def rcpOf (a : Nat) : FRes :=
  match valueOf fp32 a with
  | .nan => ⟨a, 0⟩
  | .inf n => ⟨withSign fp32 n 0, 0⟩
  | .fin n m e =>
    if m = 0 then ⟨withSign fp32 n (infCode fp32), flDivZero⟩
    else if tinyScaled m e < 2 ^ 21 then ⟨withSign fp32 n (infCode fp32), flOverflow⟩
    else
      let v : Int := (shiftBy 1 (400 - e) / m : Nat)
      let ref := if n then -v else v
      if 2 ^ 275 < tinyScaled m e then ⟨withSign fp32 n (sfuTinyFor .rcp a true ref (ulps 1 ref)), flUnderflow⟩
      else ⟨withSign fp32 n (magCode fp32 (sfuNativeFor .rcp a ref .none (ulps 1 ref))), 0⟩

/-- The result of an argument outside a function's domain (R213). -/
def sfuInvalid : FRes := ⟨canonNaN fp32, flInvalid⟩

/-- `rsq` (R211, R213). -/
def rsqOf (a : Nat) : FRes :=
  match valueOf fp32 a with
  | .nan => ⟨a, 0⟩
  | .inf n => if n then sfuInvalid else ⟨0, 0⟩
  | .fin n m e =>
    if m = 0 then ⟨withSign fp32 n (infCode fp32), flDivZero⟩
    else if n then sfuInvalid
    else
      let ref : Int := (isqrt (shiftBy 1 (800 - e) / m) : Nat)
      ⟨sfuNativeFor .rsq a ref .none (ulps 1 ref), 0⟩

/-- `sqt` (R211, R213): exact when the root is representable. -/
def sqtOf (a : Nat) : FRes :=
  match valueOf fp32 a with
  | .nan => ⟨a, 0⟩
  | .inf n => if n then sfuInvalid else ⟨a, 0⟩
  | .fin n m e =>
    if m = 0 then ⟨a, 0⟩
    else if n then sfuInvalid
    else
      let v := shiftBy m (e + 800)
      let ref : Int := (isqrt v : Nat)
      let r := refRound ref
      if codeScaled r = some ref ∧ isqrt v * isqrt v = v then ⟨r, 0⟩ else ⟨sfuNativeFor .sqt a ref .none (ulps 1 ref), 0⟩

/-- The limits of 2^x for an x nearer to 0 than 1, which is no integer. -/
def exp2Limits (n : Bool) (x : Nat) : Limits :=
  if 2 ^ 149 ≤ x then .none else if n then ⟨2 ^ 399, 2 ^ 400⟩ else ⟨2 ^ 400, 2 ^ 401⟩

/-- `ex2` (R211, R213): exact at every integer. -/
def ex2Of (a : Nat) : FRes :=
  match valueOf fp32 a with
  | .nan => ⟨a, 0⟩
  | .inf n => ⟨if n then 0 else a, 0⟩
  | .fin n m e =>
    let x := tinyScaled m e
    if !n ∧ 128 * 2 ^ 149 ≤ x then ⟨infCode fp32, flOverflow⟩
    else if n ∧ 150 * 2 ^ 149 ≤ x then ⟨0, flUnderflow⟩
    else
      let ref : Int := (refExp2 n m e : Nat)
      let low := n && decide (126 * 2 ^ 149 < x)
      if x % 2 ^ 149 = 0 then ⟨refRound ref, if low then flUnderflow else 0⟩
      else if low then ⟨sfuTinyFor .ex2 a false ref (2 ^ 252), flUnderflow⟩
      else ⟨sfuNativeFor .ex2 a ref (exp2Limits n x) (ulps 2 ref (exp2Limits n x)), 0⟩

/-- `lg2` (R211, R213): exact when x is a power of two. -/
def lg2Of (a : Nat) : FRes :=
  match valueOf fp32 a with
  | .nan => ⟨a, 0⟩
  | .inf n => if n then sfuInvalid else ⟨a, 0⟩
  | .fin n m e =>
    if m = 0 then ⟨withSign fp32 true (infCode fp32), flDivZero⟩
    else if n then sfuInvalid
    else
      let ref := refLog2 m e
      let x := tinyScaled m e
      if m = 2 ^ log2 m then ⟨refRound ref, 0⟩
      else
        ⟨sfuNativeFor .lg2 a ref .none (if 3 * 2 ^ 147 ≤ x ∧ x < 3 * 2 ^ 148 then 2 ^ 378 else ulps 2 ref), 0⟩

/-- `sinr` and `cosr` (R211 to R213): correctly rounded at multiples of 2^-6; `cosr` is `sinr` a quarter turn on. The
sign of a zero is settled on delivery (`sineZero`). Elsewhere the magnitude is below 1. -/
def sineOf (cosine : Bool) (a : Nat) : FRes :=
  match valueOf fp32 a with
  | .nan => ⟨a, 0⟩
  | .inf _ => sfuInvalid
  | .fin n m e =>
    let t := turnOf n m e + (if cosine then 2 ^ 254 else 0)
    let ref := fxSinTurn t * 2 ^ 144
    let c :=
      if tinyScaled m e % 2 ^ 143 = 0 then refRound ref
      else
        sfuNativeFor (if cosine then .cosr else .sinr) a ref ⟨0, 2 ^ 400⟩
          (if ref.natAbs < 2 ^ 380 then 2 ^ 378 else ulps 2 ref ⟨0, 2 ^ 400⟩)
    ⟨c, 0⟩

/-- `tnh` (R211, R213); its magnitude is below that of x. -/
def tnhOf (a : Nat) : FRes :=
  match valueOf fp32 a with
  | .nan => ⟨a, 0⟩
  | .inf n => ⟨withSign fp32 n one32, 0⟩
  | .fin n m e =>
    let x := tinyScaled m e
    if m = 0 then ⟨a, 0⟩
    else if 19 * 2 ^ 148 ≤ x then ⟨withSign fp32 n one32, 0⟩
    else
      let v : Int := (refTanh m e : Nat)
      let ref := if n then -v else v
      let at_ : Limits := ⟨0, min (shiftBy m (e + 400)) (2 ^ 400)⟩
      ⟨sfuNativeFor .tnh a ref at_ (ulps (if x < 2 ^ 139 then 1 else 3) ref at_), 0⟩

/-- A function of an argument that is no NaN. -/
def sfuValue (fn : SfuFn) (a : Nat) : FRes :=
  match fn with
  | .rcp => rcpOf a
  | .rsq => rsqOf a
  | .sqt => sqtOf a
  | .ex2 => ex2Of a
  | .lg2 => lg2Of a
  | .sinr => sineOf false a
  | .cosr => sineOf true a
  | .tnh => tnhOf a

/-- Fraction bits [3:0] of a finite, nonzero result cleared (R96, R210). -/
def truncateSfu (c : Nat) : Nat := if isNaN fp32 c ∨ magCode fp32 c = infCode fp32 then c else c / 16 * 16

/-- The `sfu` field of `fpc` (R88). -/
def sfuLegacy (fpc : Word) : Bool := decide (fpc.toNat / 2 ^ 13 % 2 = 1)

/-- The sign of a zero that `sinr` or `cosr` delivers: that of x, or plus (R212). -/
def sineZero (fn : SfuFn) (a : Nat) (r : FRes) : FRes :=
  match fn with
  | .sinr => if magCode fp32 r.code = 0 then { r with code := withSign fp32 (isNeg fp32 a) 0 } else r
  | .cosr => if magCode fp32 r.code = 0 then { r with code := 0 } else r
  | _ => r

/-- The delivered result of a special function (R210). -/
def sfuFinal (fpc : Word) (fn : SfuFn) (x : Nat) : FRes :=
  let env := envOf fpc
  let a := flushIn fp32 env x
  if isNaN fp32 a then nanRes fp32 env [a] 0
  else
    let r := sfuValue fn a
    sineZero fn a (flushOut fp32 env (if sfuLegacy fpc then { r with code := truncateSfu r.code } else r))

/-- An SFU instruction: flags are decided at operand read, the result comes later (R193, R214). -/
def sfuInstr (i : Instr) (fn : SfuFn) (s : State) : Host.Outcome State Fault Refusal :=
  runLane i s (fun e s =>
    let r (l : Nat) : FRes := sfuFinal e.g.ln.fpc fn (src32 s e (fieldAt e.x 1) l)
    .ok (Done.later s (pendingResult s e .sfu (write32 (fieldAt e.x 0).spec e.lanes (fun l => (r l).code)) (laneFlags e r))))

/-- `rcp` (R210). -/
def execRcp (f : LaneForm) (s : State) : Host.Outcome State Fault Refusal := sfuInstr (.rcp f) .rcp s
/-- `rsq` (R210). -/
def execRsq (f : LaneForm) (s : State) : Host.Outcome State Fault Refusal := sfuInstr (.rsq f) .rsq s
/-- `sqt` (R210). -/
def execSqt (f : LaneForm) (s : State) : Host.Outcome State Fault Refusal := sfuInstr (.sqt f) .sqt s
/-- `ex2` (R210). -/
def execEx2 (f : LaneForm) (s : State) : Host.Outcome State Fault Refusal := sfuInstr (.ex2 f) .ex2 s
/-- `lg2` (R210). -/
def execLg2 (f : LaneForm) (s : State) : Host.Outcome State Fault Refusal := sfuInstr (.lg2 f) .lg2 s
/-- `sinr` (R212). -/
def execSinr (f : LaneForm) (s : State) : Host.Outcome State Fault Refusal := sfuInstr (.sinr f) .sinr s
/-- `cosr` (R212). -/
def execCosr (f : LaneForm) (s : State) : Host.Outcome State Fault Refusal := sfuInstr (.cosr f) .cosr s
/-- `tnh` (R210). -/
def execTnh (f : LaneForm) (s : State) : Host.Outcome State Fault Refusal := sfuInstr (.tnh f) .tnh s

/-- The oldest SFU result of a group arrives (R214): two of one group complete in issue order. -/
def execSfuResult (core slot : Nat) (s : State) : Host.Outcome State Fault Refusal :=
  match groupOf s core slot with
  | none => .next s
  | some g =>
    match g.ln.outstanding.find? (fun p => decide (p.kind = .sfu)) with
    | some p => .next (completeTag s core slot p.tag)
    | none => .next s

/-- A result of stochastic rounding arrives (R207); `idx` counts the group's results of that kind. -/
def execSrResult (core slot idx : Nat) (s : State) : Host.Outcome State Fault Refusal :=
  match groupOf s core slot with
  | none => .next s
  | some g =>
    match (g.ln.outstanding.filter (fun p => decide (p.kind = .stochastic))).drop idx with
    | p :: _ => .next (completeTag s core slot p.tag)
    | [] => .next s

/-! ## chain -/

/-- The accumulator, the held value and the flags so far. -/
structure ChainState where
  acc : Nat
  held : Nat
  flags : Flags

/-- The accumulator with a result. -/
def ChainState.put (c : ChainState) (r : FRes) : ChainState := { c with acc := r.code, flags := c.flags ||| r.flags }

/-- RSB: x − acc, with acc the first operand where a NaN is chosen (R216). -/
def reverseSub (env : FEnv) (acc x : Nat) : FRes :=
  let a := flushIn fp32 env acc
  let x := flushIn fp32 env x
  if isNaN fp32 a ∨ isNaN fp32 x then nanRes fp32 env [a, x] 0 else fSub fp32 env env.rnd x a

/-- SAT: a clamp to [0, 1] under minmax = 0 (R215). -/
def saturate (env : FEnv) (acc : Nat) : FRes :=
  let env := { env with minmax := false }
  let a := fMinMax fp32 env false acc 0
  (fMinMax fp32 env true a.code one32).or a.flags

/-- One slot with its selected input (R215, R216). -/
def chainSlotStep (env : FEnv) (op x : Nat) (c : ChainState) : ChainState :=
  match op with
  | 1 => { c with acc := flushIn fp32 env x }
  | 2 => c.put (fAdd fp32 env env.rnd c.acc x)
  | 3 => c.put (fSub fp32 env env.rnd c.acc x)
  | 4 => c.put (reverseSub env c.acc x)
  | 5 => c.put (fMul fp32 env env.rnd c.acc x)
  | 6 => c.put (fFma fp32 env env.rnd c.acc x c.held)
  | 7 => { c with held := c.acc, acc := flushIn fp32 env x }
  | 8 => c.put (flushOut fp32 env (fMinMax fp32 env true c.acc x))
  | 9 => c.put (flushOut fp32 env (fMinMax fp32 env false c.acc x))
  | 10 => c.put (absBits env c.acc)
  | 11 => c.put (negBits env c.acc)
  | 12 => c.put (saturate env c.acc)
  | 13 => c.put (fRound fp32 env .rdn c.acc)
  | _ => c

/-- The value of a chain for the inputs of one lane. -/
def chainValue (env : FEnv) (slots : List (Nat × Nat)) (ins : List Nat) : FRes :=
  let c := slots.foldl (fun c x => chainSlotStep env x.1 (ins.getD x.2 0) c) ⟨0, 0, 0⟩
  ⟨c.acc, c.flags⟩

/-- `chain` (R216). -/
def execChain (f : ChainForm) (s : State) : Host.Outcome State Fault Refusal :=
  runLane (.chain f) s (fun e s =>
    let slots := chainUsed f.slots
    let r (l : Nat) : FRes :=
      chainValue (envAt e) slots ((List.range 4).map (fun n => src32 s e (fieldAt e.x (n + 1)) l))
    .ok { floatDone s e (2 * slots.length + 2) r with steps := slots.length - 1 })

end Sys2Proof.Machine
end

