-- ==== Sys2Proof/Machine/Texture.lean ====
section
/-!
DEFINITION. Texture instructions (10_memory_ops R279, R280).
-/
namespace Sys2Proof.Machine

open Sys2Proof

/-! ## Descriptors (R279) -/

/-- A texture descriptor. -/
structure Tex where
  base : Nat
  format : Nat
  w : Nat
  h : Nat
  pitch : Nat
  bilinear : Bool
  umode : Nat
  vmode : Nat
  deriving DecidableEq, Repr

/-- The descriptor that 32 bytes hold. -/
def texOf (w : List Nat) : Tex :=
  let x (i : Nat) : Nat := w.getD i 0
  ⟨x 0 % 2 ^ 48, x 0 / 2 ^ 48 % 16, x 1 % 2 ^ 16, x 1 / 2 ^ 16 % 2 ^ 16, x 1 / 2 ^ 32 % 2 ^ 16, decide (x 2 % 2 = 1),
    x 2 / 2 % 4, x 2 / 8 % 4⟩

/-- Bytes of a texel. -/
def texelBytes (t : Tex) : Nat := if t.format = 1 ∨ t.format = 3 then 8 else 4

/-- The descriptor keeps its limits. -/
def texOk (w : List Nat) : Bool :=
  let x (i : Nat) : Nat := w.getD i 0
  let t := texOf w
  decide (x 0 / 2 ^ 52 = 0) && decide (t.base % 256 = 0) && decide (t.format < 4) && decide (1 ≤ t.w) && decide (t.w ≤ 16384) &&
    decide (1 ≤ t.h) && decide (t.h ≤ 16384) && decide (x 1 / 2 ^ 48 = 0) && decide (t.w * texelBytes t ≤ 128 * t.pitch) &&
    decide (x 2 / 32 = 0) && decide (x 3 = 0)

/-- The descriptor that an instruction's k name gives, read through L1 and checked. -/
def readTex (s : State) (e : Iss) : Res (Tex × State) :=
  let spec := (fieldAt e.x 2).spec
  match checkOne s e.core e.g.ctx (e.g.ln.ks.getD (spec - 144) 0).toNat 32 .read true with
  | .error r => .error r
  | .ok x =>
    let r := readX s e.core (accessLevel 0 x.leaf) x 32 800
    if texOk (wordsOf r.bytes) then .ok (texOf (wordsOf r.bytes), noteLoads r.state e.core e.slot r.sigs)
    else illegalOperand 2 spec

/-! ## Indices (R280) -/

/-- An index after its mode; none for the border. -/
def texIndex (mode n : Nat) (i : Int) : Option Nat :=
  match mode with
  | 0 => some (clampInt 0 (n - 1) i).toNat
  | 1 => some (i % n).toNat
  | 2 =>
    let k := (i % (2 * n : Nat)).toNat
    some (if n ≤ k then 2 * n - 1 - k else k)
  | _ => if 0 ≤ i ∧ i < n then some i.toNat else none

/-- A computed index clamped to 32 bits. -/
def clampIndex (i : Int) : Int := clampInt (-(2 ^ 31 : Nat)) ((2 ^ 31 : Nat) - 1) i

/-- A point of the texture on one axis: its floor, and the distance from it, exact; none where the point is infinite. -/
structure TexPoint where
  i : Int
  frac : Option (Nat × Int)
  deriving DecidableEq, Repr

/-- The floor of an FP32 value and what is left. -/
def texFloor (c : Nat) : TexPoint :=
  match valueOf fp32 c with
  | .nan => ⟨0, some (0, 0)⟩
  | .inf neg => ⟨if neg then -(2 ^ 31 : Nat) else (2 ^ 31 : Nat) - 1, none⟩
  | .fin neg m e =>
    if 0 ≤ e then ⟨if neg then -((m * 2 ^ e.toNat : Nat) : Int) else (m * 2 ^ e.toNat : Nat), some (0, 0)⟩
    else
      let k := 2 ^ (-e).toNat
      let lo := m / k
      let rem := m % k
      if neg ∧ rem ≠ 0 then ⟨-(lo : Int) - 1, some (k - rem, e)⟩
      else ⟨if neg then -(lo : Int) else lo, some (rem, e)⟩

/-- The point of a normalized coordinate on an axis of `n` texels: lines 001 to 003. -/
def texPoint (bilinear : Bool) (n c : Nat) : TexPoint :=
  let c := if magCode fp32 c < infCode fp32 then c else 0
  let p := (fMul fp32 envPlain .rne c (roundTo fp32 .rne false n 0).code).code
  texFloor (if bilinear then (fSub fp32 envPlain .rne p 0x3F000000).code else p)

/-- The texels that a lane needs: (i, j) after the modes, none for the border. -/
def texelsFor (t : Tex) (us : List Int) (vs : List Int) : List (Option (Nat × Nat)) :=
  (vs.map (fun v => us.map (fun u =>
    match texIndex t.umode t.w (clampIndex u), texIndex t.vmode t.h (clampIndex v) with
    | some i, some j => some (i, j)
    | _, _ => none))).flatten

/-- The address of a texel. -/
def texelAddress (t : Tex) (p : Nat × Nat) : Nat := t.base + p.2 * t.pitch * 128 + p.1 * texelBytes t

/-! ## Texels (R279) -/

/-- A byte as RNE(c ÷ 255). -/
def unorm (c : Nat) : Nat :=
  (roundTo fp32 .rne false (c * 2 ^ 60 / 255 * 2 + b2n (decide (c * 2 ^ 60 % 255 ≠ 0))) (-61)).code

/-- FP32 one. -/
def texOne : Nat := 0x3F800000

/-- A channel of a texel as FP32. -/
def channel (t : Tex) (x c : Nat) : Nat :=
  match t.format with
  | 0 => unorm (x / 256 ^ c % 256)
  | 1 => (cvtValue envPlain .rne 10 8 (x / 65536 ^ c % 65536)).code
  | 2 => if c = 0 then x % 2 ^ 32 else if c = 3 then texOne else 0
  | _ => if c < 2 then x / (2 ^ 32) ^ c % 2 ^ 32 else if c = 3 then texOne else 0

/-- RNE of an exact fraction times an FP32 value. -/
def fracMul (a : Nat × Int) (d : Nat) : Nat :=
  match valueOf fp32 d with
  | .nan => canonNaN fp32
  | .inf neg => if a.1 = 0 then canonNaN fp32 else withSign fp32 neg (infCode fp32)
  | .fin neg m e => (roundTo fp32 .rne neg (a.1 * m) (a.2 + e)).code

/-- Lines 005 to 007: p + RNE(a × RNE(q − p)); free where the fraction is that of an infinite point. -/
def texLerp (free : Nat) (a : Option (Nat × Int)) (p q : Nat) : Nat :=
  match a with
  | none => free
  | some a => (fAdd fp32 envPlain .rne p (fracMul a (fSub fp32 envPlain .rne q p).code)).code

/-! ## The instructions -/

/-- Reads of each lane's texels: `want` gives them in order. The result holds texel t of lane l under 4 l + t. -/
def readTexels (s : State) (e : Iss) (t : Tex) (want : Nat → List (Option (Nat × Nat))) : Res LaneReads :=
  let l := ((lanesOf e.lanes).map (fun l => (want l).zipIdx.filterMap (fun p =>
    p.1.map (fun q => (4 * l + p.2, texelAddress t q))))).flatten
  match checkLanes s e.core e.g.ctx (texelBytes t) .read l true with
  | .error r => .error r
  | .ok xs =>
    let r := readAll s e.core (texelBytes t) 10000 (accessLevel 0) xs
    .ok { r with state := noteLoads r.state e.core e.slot r.sigs }

/-- A channel of texel `k` of a lane; a border texel reads as zeros. -/
def texelChannel (t : Tex) (r : LaneReads) (want : List (Option (Nat × Nat))) (lane k c : Nat) : Nat :=
  if (want.getD k none).isSome then channel t (bytesToNat (r.at (4 * lane + k))) c else 0

/-- The channel pair of src3, written to vD later. -/
def texDone (s : State) (e : Iss) (f : LaneForm) (out : Nat → Nat → Nat) : Done :=
  let c := 2 * f.src3.toNat
  Done.later s (pendingResult s e .memory (write64 f.dst.toNat e.lanes (fun l => out l c + out l (c + 1) * 2 ^ 32)) 0)

/-- A sampled channel of a lane. -/
def sampled (s : State) (t : Tex) (r : LaneReads) (want : List (Option (Nat × Nat))) (x y : TexPoint) (lane c : Nat) : Nat :=
  let at4 (k : Nat) : Nat := texelChannel t r want lane k c
  if t.bilinear then
    let free := (freeWord s (820 + c) lane).toNat % 2 ^ 32
    texLerp free y.frac (texLerp free x.frac (at4 0) (at4 1)) (texLerp free x.frac (at4 2) (at4 3))
  else at4 0

/-- `tsmp` (R280). -/
def execTsmp (f : LaneForm) (s : State) : Host.Outcome State Fault Refusal :=
  runLane (.tsmp f) s (fun e s =>
    match readTex s e with
    | .error r => .error r
    | .ok (t, s) =>
      let x (l : Nat) : TexPoint := texPoint t.bilinear t.w (src64 s e (fieldAt e.x 1) l % 2 ^ 32)
      let y (l : Nat) : TexPoint := texPoint t.bilinear t.h (src64 s e (fieldAt e.x 1) l / 2 ^ 32)
      let pair (i : Int) : List Int := if t.bilinear then [i, i + 1] else [i]
      let want (l : Nat) : List (Option (Nat × Nat)) := texelsFor t (pair (x l).i) (pair (y l).i)
      match readTexels s e t want with
      | .error r => .error r
      | .ok r => .ok (texDone r.state e f (fun l c => sampled s t r (want l) (x l) (y l) l c)))

/-- `tfet` (R280). -/
def execTfet (f : LaneForm) (s : State) : Host.Outcome State Fault Refusal :=
  runLane (.tfet f) s (fun e s =>
    match readTex s e with
    | .error r => .error r
    | .ok (t, s) =>
      let want (l : Nat) : List (Option (Nat × Nat)) :=
        let v := src64 s e (fieldAt e.x 1) l
        texelsFor t [toSigned 32 (v % 2 ^ 32)] [toSigned 32 (v / 2 ^ 32)]
      match readTexels s e t want with
      | .error r => .error r
      | .ok r => .ok (texDone r.state e f (fun l c => texelChannel t r (want l) l 0 c)))

/-- `tsiz` (R280). -/
def execTsiz (f : LaneForm) (s : State) : Host.Outcome State Fault Refusal :=
  runLane (.tsiz f) s (fun e s =>
    match readTex s e with
    | .error r => .error r
    | .ok (t, s) =>
      .ok (Done.later s (pendingResult s e .memory (write64 f.dst.toNat e.lanes (fun _ => t.w + t.h * 2 ^ 32)) 0)))

end Sys2Proof.Machine
end

