-- ==== Sys2Proof/Machine/Dispatch.lean ====
section
/-!
DEFINITION. The dispatch of every instruction, hardware step and host command to its meaning.
-/
namespace Sys2Proof.Machine

open Sys2Proof

/-- The effect of one instruction, hardware step or host command on the package. -/
def exec (i : Instr) (s : State) : Host.Outcome State Fault Refusal :=
  match i with
  | .iadd f => Sys2Proof.Machine.execIadd f s
  | .iaddShort f => Sys2Proof.Machine.execIaddShort f s
  | .isub f => Sys2Proof.Machine.execIsub f s
  | .isubShort f => Sys2Proof.Machine.execIsubShort f s
  | .imul f => Sys2Proof.Machine.execImul f s
  | .imulShort f => Sys2Proof.Machine.execImulShort f s
  | .imulh v f => Sys2Proof.Machine.execImulh v f s
  | .imad f => Sys2Proof.Machine.execImad f s
  | .iabs f => Sys2Proof.Machine.execIabs f s
  | .iabsShort f => Sys2Proof.Machine.execIabsShort f s
  | .imin v f => Sys2Proof.Machine.execImin v f s
  | .imax v f => Sys2Proof.Machine.execImax v f s
  | .iminI32Short f => Sys2Proof.Machine.execIminI32Short f s
  | .imaxI32Short f => Sys2Proof.Machine.execImaxI32Short f s
  | .iminN32Short f => Sys2Proof.Machine.execIminN32Short f s
  | .imaxN32Short f => Sys2Proof.Machine.execImaxN32Short f s
  | .add64 f => Sys2Proof.Machine.execAdd64 f s
  | .sub64 f => Sys2Proof.Machine.execSub64 f s
  | .iaddSat v f => Sys2Proof.Machine.execIaddSat v f s
  | .isubSat v f => Sys2Proof.Machine.execIsubSat v f s
  | .and f => Sys2Proof.Machine.execAnd f s
  | .andShort f => Sys2Proof.Machine.execAndShort f s
  | .or f => Sys2Proof.Machine.execOr f s
  | .orShort f => Sys2Proof.Machine.execOrShort f s
  | .xor f => Sys2Proof.Machine.execXor f s
  | .xorShort f => Sys2Proof.Machine.execXorShort f s
  | .andn f => Sys2Proof.Machine.execAndn f s
  | .andnShort f => Sys2Proof.Machine.execAndnShort f s
  | .not f => Sys2Proof.Machine.execNot f s
  | .notShort f => Sys2Proof.Machine.execNotShort f s
  | .mov f => Sys2Proof.Machine.execMov f s
  | .movShort f => Sys2Proof.Machine.execMovShort f s
  | .sel f => Sys2Proof.Machine.execSel f s
  | .shl f => Sys2Proof.Machine.execShl f s
  | .shlShort f => Sys2Proof.Machine.execShlShort f s
  | .shr f => Sys2Proof.Machine.execShr f s
  | .shrShort f => Sys2Proof.Machine.execShrShort f s
  | .sar f => Sys2Proof.Machine.execSar f s
  | .sarShort f => Sys2Proof.Machine.execSarShort f s
  | .rot f => Sys2Proof.Machine.execRot f s
  | .rotShort f => Sys2Proof.Machine.execRotShort f s
  | .popc f => Sys2Proof.Machine.execPopc f s
  | .popcShort f => Sys2Proof.Machine.execPopcShort f s
  | .clz f => Sys2Proof.Machine.execClz f s
  | .clzShort f => Sys2Proof.Machine.execClzShort f s
  | .ctz f => Sys2Proof.Machine.execCtz f s
  | .ctzShort f => Sys2Proof.Machine.execCtzShort f s
  | .brev f => Sys2Proof.Machine.execBrev f s
  | .brevShort f => Sys2Proof.Machine.execBrevShort f s
  | .bfx v f => Sys2Proof.Machine.execBfx v f s
  | .bfi f => Sys2Proof.Machine.execBfi f s
  | .icmp c f => Sys2Proof.Machine.execIcmp c f s
  | .fadd rm f => Sys2Proof.Machine.execFadd rm f s
  | .faddShort f => Sys2Proof.Machine.execFaddShort f s
  | .fsub rm f => Sys2Proof.Machine.execFsub rm f s
  | .fsubShort f => Sys2Proof.Machine.execFsubShort f s
  | .fmul rm f => Sys2Proof.Machine.execFmul rm f s
  | .fmulShort f => Sys2Proof.Machine.execFmulShort f s
  | .ffma rm f => Sys2Proof.Machine.execFfma rm f s
  | .fmin f => Sys2Proof.Machine.execFmin f s
  | .fminShort f => Sys2Proof.Machine.execFminShort f s
  | .fmax f => Sys2Proof.Machine.execFmax f s
  | .fmaxShort f => Sys2Proof.Machine.execFmaxShort f s
  | .fabs f => Sys2Proof.Machine.execFabs f s
  | .fabsShort f => Sys2Proof.Machine.execFabsShort f s
  | .fneg f => Sys2Proof.Machine.execFneg f s
  | .fnegShort f => Sys2Proof.Machine.execFnegShort f s
  | .frnd rm f => Sys2Proof.Machine.execFrnd rm f s
  | .fcmp c f => Sys2Proof.Machine.execFcmp c f s
  | .fclass f => Sys2Proof.Machine.execFclass f s
  | .setfpc f => Sys2Proof.Machine.execSetfpc f s
  | .hadd2 h f => Sys2Proof.Machine.execHadd2 h f s
  | .hadd2F16Short f => Sys2Proof.Machine.execHadd2F16Short f s
  | .hadd2Bf16Short f => Sys2Proof.Machine.execHadd2Bf16Short f s
  | .hsub2 h f => Sys2Proof.Machine.execHsub2 h f s
  | .hmul2 h f => Sys2Proof.Machine.execHmul2 h f s
  | .hmul2F16Short f => Sys2Proof.Machine.execHmul2F16Short f s
  | .hmul2Bf16Short f => Sys2Proof.Machine.execHmul2Bf16Short f s
  | .hfma2 h f => Sys2Proof.Machine.execHfma2 h f s
  | .hmin2 h f => Sys2Proof.Machine.execHmin2 h f s
  | .hmax2 h f => Sys2Proof.Machine.execHmax2 h f s
  | .cvt rm f => Sys2Proof.Machine.execCvt rm f s
  | .cvtSr f => Sys2Proof.Machine.execCvtSr f s
  | .pk2 h f => Sys2Proof.Machine.execPk2 h f s
  | .pk2Sr h f => Sys2Proof.Machine.execPk2Sr h f s
  | .upk2 h f => Sys2Proof.Machine.execUpk2 h f s
  | .rngseed f => Sys2Proof.Machine.execRngseed f s
  | .rcp f => Sys2Proof.Machine.execRcp f s
  | .rsq f => Sys2Proof.Machine.execRsq f s
  | .sqt f => Sys2Proof.Machine.execSqt f s
  | .ex2 f => Sys2Proof.Machine.execEx2 f s
  | .lg2 f => Sys2Proof.Machine.execLg2 f s
  | .sinr f => Sys2Proof.Machine.execSinr f s
  | .cosr f => Sys2Proof.Machine.execCosr f s
  | .tnh f => Sys2Proof.Machine.execTnh f s
  | .chain f => Sys2Proof.Machine.execChain f s
  | .shfl k f => Sys2Proof.Machine.execShfl k f s
  | .swp f => Sys2Proof.Machine.execSwp f s
  | .voteAny f => Sys2Proof.Machine.execVoteAny f s
  | .voteAll f => Sys2Proof.Machine.execVoteAll f s
  | .voteBal f => Sys2Proof.Machine.execVoteBal f s
  | .red op f => Sys2Proof.Machine.execRed op f s
  | .scan op f => Sys2Proof.Machine.execScan op f s
  | .pand f => Sys2Proof.Machine.execPand f s
  | .por f => Sys2Proof.Machine.execPor f s
  | .pxor f => Sys2Proof.Machine.execPxor f s
  | .pnot f => Sys2Proof.Machine.execPnot f s
  | .pcat f => Sys2Proof.Machine.execPcat f s
  | .psplit f => Sys2Proof.Machine.execPsplit f s
  | .pmov f => Sys2Proof.Machine.execPmov f s
  | .bra f => Sys2Proof.Machine.execBra f s
  | .brau f => Sys2Proof.Machine.execBrau f s
  | .jmpi f => Sys2Proof.Machine.execJmpi f s
  | .call f => Sys2Proof.Machine.execCall f s
  | .ret f => Sys2Proof.Machine.execRet f s
  | .meld f => Sys2Proof.Machine.execMeld f s
  | .mtab f => Sys2Proof.Machine.execMtab f s
  | .lend f => Sys2Proof.Machine.execLend f s
  | .exit f => Sys2Proof.Machine.execExit f s
  | .ckpt f => Sys2Proof.Machine.execCkpt f s
  | .ckptx f => Sys2Proof.Machine.execCkptx f s
  | .wait f => Sys2Proof.Machine.execWait f s
  | .nop f => Sys2Proof.Machine.execNop f s
  | .nopShort f => Sys2Proof.Machine.execNopShort f s
  | .yield f => Sys2Proof.Machine.execYield f s
  | .emrd f => Sys2Proof.Machine.execEmrd f s
  | .emwr f => Sys2Proof.Machine.execEmwr f s
  | .salloc f => Sys2Proof.Machine.execSalloc f s
  | .sfree f => Sys2Proof.Machine.execSfree f s
  | .trap f => Sys2Proof.Machine.execTrap f s
  | .tret f => Sys2Proof.Machine.execTret f s
  | .brk f => Sys2Proof.Machine.execBrk f s
  | .ld f => Sys2Proof.Machine.execLd f s
  | .ldAcq f => Sys2Proof.Machine.execLdAcq f s
  | .st f => Sys2Proof.Machine.execSt f s
  | .stRel f => Sys2Proof.Machine.execStRel f s
  | .lds f => Sys2Proof.Machine.execLds f s
  | .sts f => Sys2Proof.Machine.execSts f s
  | .atom op f => Sys2Proof.Machine.execAtom op f s
  | .ared op f => Sys2Proof.Machine.execAred op f s
  | .fence f => Sys2Proof.Machine.execFence f s
  | .waitw f => Sys2Proof.Machine.execWaitw f s
  | .cpy f => Sys2Proof.Machine.execCpy f s
  | .cpyw f => Sys2Proof.Machine.execCpyw f s
  | .kick f => Sys2Proof.Machine.execKick f s
  | .kcfg f => Sys2Proof.Machine.execKcfg f s
  | .rld f => Sys2Proof.Machine.execRld f s
  | .vfput f => Sys2Proof.Machine.execVfput f s
  | .vfcfg f => Sys2Proof.Machine.execVfcfg f s
  | .tsmp f => Sys2Proof.Machine.execTsmp f s
  | .tfet f => Sys2Proof.Machine.execTfet f s
  | .tsiz f => Sys2Proof.Machine.execTsiz f s
  | .pref f => Sys2Proof.Machine.execPref f s
  | .cwb f => Sys2Proof.Machine.execCwb f s
  | .cinv f => Sys2Proof.Machine.execCinv f s
  | .mma f => Sys2Proof.Machine.execMma f s
  | .mmz f => Sys2Proof.Machine.execMmz f s
  | .mmrd f => Sys2Proof.Machine.execMmrd f s
  | .mmwr f => Sys2Proof.Machine.execMmwr f s
  | .bfill f => Sys2Proof.Machine.execBfill f s
  | .msync f => Sys2Proof.Machine.execMsync f s
  | .setfmt f => Sys2Proof.Machine.execSetfmt f s
  | .phint f => Sys2Proof.Machine.execPhint f s
  | .placq f => Sys2Proof.Machine.execPlacq f s
  | .plrel f => Sys2Proof.Machine.execPlrel f s
  | .plorg f => Sys2Proof.Machine.execPlorg f s
  | .plin f => Sys2Proof.Machine.execPlin f s
  | .plquad f => Sys2Proof.Machine.execPlquad f s
  | .plexq f => Sys2Proof.Machine.execPlexq f s
  | .pladd f => Sys2Proof.Machine.execPladd f s
  | .plsub f => Sys2Proof.Machine.execPlsub f s
  | .plmul f => Sys2Proof.Machine.execPlmul f s
  | .plfma f => Sys2Proof.Machine.execPlfma f s
  | .plmin f => Sys2Proof.Machine.execPlmin f s
  | .plmax f => Sys2Proof.Machine.execPlmax f s
  | .plmov f => Sys2Proof.Machine.execPlmov f s
  | .plsel f => Sys2Proof.Machine.execPlsel f s
  | .plcmp c f => Sys2Proof.Machine.execPlcmp c f s
  | .plen f => Sys2Proof.Machine.execPlen f s
  | .plels f => Sys2Proof.Machine.execPlels f s
  | .plpop f => Sys2Proof.Machine.execPlpop f s
  | .plclr f => Sys2Proof.Machine.execPlclr f s
  | .plflag f => Sys2Proof.Machine.execPlflag f s
  | .pltrap f => Sys2Proof.Machine.execPltrap f s
  | .plrd f => Sys2Proof.Machine.execPlrd f s
  | .plwr f => Sys2Proof.Machine.execPlwr f s
  | .plcov f => Sys2Proof.Machine.execPlcov f s
  | .barv f => Sys2Proof.Machine.execBarv f s
  | .barw f => Sys2Proof.Machine.execBarw f s
  | .bars f => Sys2Proof.Machine.execBars f s
  | .bari f => Sys2Proof.Machine.execBari f s
  | .klaunch f => Sys2Proof.Machine.execKlaunch f s
  | .kwait f => Sys2Proof.Machine.execKwait f s
  | .xinv f => Sys2Proof.Machine.execXinv f s
  | .pgq f => Sys2Proof.Machine.execPgq f s
  | .nmload f => Sys2Proof.Machine.execNmload f s
  | .nmcmd f => Sys2Proof.Machine.execNmcmd f s
  | .nmlease f => Sys2Proof.Machine.execNmlease f s
  | .nmrel f => Sys2Proof.Machine.execNmrel f s
  | .unassignedOpcode stream word => Sys2Proof.Machine.execUnassignedOpcode stream word s
  | .legacyWord kind word ctl => Sys2Proof.Machine.execLegacyWord kind word ctl s
  | .sfuResult core slot => Sys2Proof.Machine.execSfuResult core slot s
  | .srResult core slot idx => Sys2Proof.Machine.execSrResult core slot idx s
  | .waitExpire core slot => Sys2Proof.Machine.execWaitExpire core slot s
  | .memoryAccessComplete core slot idx => Sys2Proof.Machine.execMemoryAccessComplete core slot idx s
  | .waitwWake core slot timeout => Sys2Proof.Machine.execWaitwWake core slot timeout s
  | .copyComplete core => Sys2Proof.Machine.execCopyComplete core s
  | .engineAccessFault core => Sys2Proof.Machine.execEngineAccessFault core s
  | .enginePageFault core => Sys2Proof.Machine.execEnginePageFault core s
  | .pullStart core => Sys2Proof.Machine.execPullStart core s
  | .pullLanded core => Sys2Proof.Machine.execPullLanded core s
  | .rldResponse core slot idx => Sys2Proof.Machine.execRldResponse core slot idx s
  | .narrowsDeliver core => Sys2Proof.Machine.execNarrowsDeliver core s
  | .bfillComplete core => Sys2Proof.Machine.execBfillComplete core s
  | .mmaPass core => Sys2Proof.Machine.execMmaPass core s
  | .accumulatorWrite core => Sys2Proof.Machine.execAccumulatorWrite core s
  | .arrayEntry core => Sys2Proof.Machine.execArrayEntry core s
  | .planeEntry core => Sys2Proof.Machine.execPlaneEntry core s
  | .acquisitionClear core => Sys2Proof.Machine.execAcquisitionClear core s
  | .planeUpkeep core => Sys2Proof.Machine.execPlaneUpkeep core s
  | .plcovPush core slot q => Sys2Proof.Machine.execPlcovPush core slot q s
  | .barrierPhaseComplete b => Sys2Proof.Machine.execBarrierPhaseComplete b s
  | .barrierRelease core slot => Sys2Proof.Machine.execBarrierRelease core slot s
  | .kwaitWake core slot => Sys2Proof.Machine.execKwaitWake core slot s
  | .invalidationComplete core slot idx => Sys2Proof.Machine.execInvalidationComplete core slot idx s
  | .sadd f => Sys2Proof.Machine.execSadd f s
  | .ssub f => Sys2Proof.Machine.execSsub f s
  | .smul f => Sys2Proof.Machine.execSmul f s
  | .smulhI64 f => Sys2Proof.Machine.execSmulhI64 f s
  | .smulhN64 f => Sys2Proof.Machine.execSmulhN64 f s
  | .sand f => Sys2Proof.Machine.execSand f s
  | .sor f => Sys2Proof.Machine.execSor f s
  | .sxor f => Sys2Proof.Machine.execSxor f s
  | .sshl f => Sys2Proof.Machine.execSshl f s
  | .sshr f => Sys2Proof.Machine.execSshr f s
  | .ssar f => Sys2Proof.Machine.execSsar f s
  | .sminI64 f => Sys2Proof.Machine.execSminI64 f s
  | .sminN64 f => Sys2Proof.Machine.execSminN64 f s
  | .smaxI64 f => Sys2Proof.Machine.execSmaxI64 f s
  | .smaxN64 f => Sys2Proof.Machine.execSmaxN64 f s
  | .saddImm f => Sys2Proof.Machine.execSaddImm f s
  | .ssubImm f => Sys2Proof.Machine.execSsubImm f s
  | .smulImm f => Sys2Proof.Machine.execSmulImm f s
  | .smulhI64Imm f => Sys2Proof.Machine.execSmulhI64Imm f s
  | .smulhN64Imm f => Sys2Proof.Machine.execSmulhN64Imm f s
  | .sandImm f => Sys2Proof.Machine.execSandImm f s
  | .sorImm f => Sys2Proof.Machine.execSorImm f s
  | .sxorImm f => Sys2Proof.Machine.execSxorImm f s
  | .sshlImm f => Sys2Proof.Machine.execSshlImm f s
  | .sshrImm f => Sys2Proof.Machine.execSshrImm f s
  | .ssarImm f => Sys2Proof.Machine.execSsarImm f s
  | .sminI64Imm f => Sys2Proof.Machine.execSminI64Imm f s
  | .sminN64Imm f => Sys2Proof.Machine.execSminN64Imm f s
  | .smaxI64Imm f => Sys2Proof.Machine.execSmaxI64Imm f s
  | .smaxN64Imm f => Sys2Proof.Machine.execSmaxN64Imm f s
  | .saddImmS64 f => Sys2Proof.Machine.execSaddImmS64 f s
  | .ssubImmS64 f => Sys2Proof.Machine.execSsubImmS64 f s
  | .smulImmS64 f => Sys2Proof.Machine.execSmulImmS64 f s
  | .smulhI64ImmS64 f => Sys2Proof.Machine.execSmulhI64ImmS64 f s
  | .smulhN64ImmS64 f => Sys2Proof.Machine.execSmulhN64ImmS64 f s
  | .sandImmS64 f => Sys2Proof.Machine.execSandImmS64 f s
  | .sorImmS64 f => Sys2Proof.Machine.execSorImmS64 f s
  | .sxorImmS64 f => Sys2Proof.Machine.execSxorImmS64 f s
  | .sshlImmS64 f => Sys2Proof.Machine.execSshlImmS64 f s
  | .sshrImmS64 f => Sys2Proof.Machine.execSshrImmS64 f s
  | .ssarImmS64 f => Sys2Proof.Machine.execSsarImmS64 f s
  | .sminI64ImmS64 f => Sys2Proof.Machine.execSminI64ImmS64 f s
  | .sminN64ImmS64 f => Sys2Proof.Machine.execSminN64ImmS64 f s
  | .smaxI64ImmS64 f => Sys2Proof.Machine.execSmaxI64ImmS64 f s
  | .smaxN64ImmS64 f => Sys2Proof.Machine.execSmaxN64ImmS64 f s
  | .smov sd sa => Sys2Proof.Machine.execSmov sd sa s
  | .sli sd imm => Sys2Proof.Machine.execSli sd imm s
  | .sliS64 sd lit => Sys2Proof.Machine.execSliS64 sd lit s
  | .sbeq sa sb off => Sys2Proof.Machine.execSbeq sa sb off s
  | .sbne sa sb off => Sys2Proof.Machine.execSbne sa sb off s
  | .sblt sa sb off => Sys2Proof.Machine.execSblt sa sb off s
  | .sbge sa sb off => Sys2Proof.Machine.execSbge sa sb off s
  | .sbltn sa sb off => Sys2Proof.Machine.execSbltn sa sb off s
  | .sbgen sa sb off => Sys2Proof.Machine.execSbgen sa sb off s
  | .sbeqS64 sa sb lit => Sys2Proof.Machine.execSbeqS64 sa sb lit s
  | .sbneS64 sa sb lit => Sys2Proof.Machine.execSbneS64 sa sb lit s
  | .sbltS64 sa sb lit => Sys2Proof.Machine.execSbltS64 sa sb lit s
  | .sbgeS64 sa sb lit => Sys2Proof.Machine.execSbgeS64 sa sb lit s
  | .sbltnS64 sa sb lit => Sys2Proof.Machine.execSbltnS64 sa sb lit s
  | .sbgenS64 sa sb lit => Sys2Proof.Machine.execSbgenS64 sa sb lit s
  | .sjmp off => Sys2Proof.Machine.execSjmp off s
  | .sjmpS64 lit => Sys2Proof.Machine.execSjmpS64 lit s
  | .scall off => Sys2Proof.Machine.execScall off s
  | .scallS64 lit => Sys2Proof.Machine.execScallS64 lit s
  | .sret => Sys2Proof.Machine.execSret s
  | .sld sd sa mode => Sys2Proof.Machine.execSld sd sa mode s
  | .sldS64 sd sa mode lit => Sys2Proof.Machine.execSldS64 sd sa mode lit s
  | .sst sd sa mode => Sys2Proof.Machine.execSst sd sa mode s
  | .sstS64 sd sa mode lit => Sys2Proof.Machine.execSstS64 sd sa mode lit s
  | .aff qn sa => Sys2Proof.Machine.execAff qn sa s
  | .affPush core slot q => Sys2Proof.Machine.execAffPush core slot q s
  | .affStreamFault core slot q => Sys2Proof.Machine.execAffStreamFault core slot q s
  | .sqld qn sa sb wide => Sys2Proof.Machine.execSqld qn sa sb wide s
  | .queueEntryFill core slot q => Sys2Proof.Machine.execQueueEntryFill core slot q s
  | .sqend qn => Sys2Proof.Machine.execSqend qn s
  | .queueEndEffect core slot q => Sys2Proof.Machine.execQueueEndEffect core slot q s
  | .lrun first count => Sys2Proof.Machine.execLrun first count s
  | .lrunS64 first count lit => Sys2Proof.Machine.execLrunS64 first count lit s
  | .lsync => Sys2Proof.Machine.execLsync s
  | .srd sd number => Sys2Proof.Machine.execSrd sd number s
  | .swr number sa => Sys2Proof.Machine.execSwr number sa s
  | .grSp sa => Sys2Proof.Machine.execGrSp sa s
  | .grStklim sa => Sys2Proof.Machine.execGrStklim sa s
  | .swaitw sd sa sb => Sys2Proof.Machine.execSwaitw sd sa sb s
  | .swaitwS64 sd sa sb lit => Sys2Proof.Machine.execSwaitwS64 sd sa sb lit s
  | .swaitwWake core slot timeout => Sys2Proof.Machine.execSwaitwWake core slot timeout s
  | .skick sa sb => Sys2Proof.Machine.execSkick sa sb s
  | .sexit => Sys2Proof.Machine.execSexit s
  | .scalarStepLimit word => Sys2Proof.Machine.execScalarStepLimit word s
  | .laneIssueOpportunity core => Sys2Proof.Machine.execLaneIssueOpportunity core s
  | .operandGrant core => Sys2Proof.Machine.execOperandGrant core s
  | .deferredTrap core slot => Sys2Proof.Machine.execDeferredTrap core slot s
  | .groupFormed core slot => Sys2Proof.Machine.execGroupFormed core slot s
  | .allocationReserve core => Sys2Proof.Machine.execAllocationReserve core s
  | .cohortPreempt core first => Sys2Proof.Machine.execCohortPreempt core first s
  | .cohortRestore saved core => Sys2Proof.Machine.execCohortRestore saved core s
  | .queueTailWrite q => Sys2Proof.Machine.execQueueTailWrite q s
  | .recordRead die => Sys2Proof.Machine.execRecordRead die s
  | .kernelDeclare kernel => Sys2Proof.Machine.execKernelDeclare kernel s
  | .placementStep die => Sys2Proof.Machine.execPlacementStep die s
  | .placementAging kernel => Sys2Proof.Machine.execPlacementAging kernel s
  | .kernelComplete kernel => Sys2Proof.Machine.execKernelComplete kernel s
  | .cxTeardownDone ctx => Sys2Proof.Machine.execCxTeardownDone ctx s
  | .tableWalk core ctx va => Sys2Proof.Machine.execTableWalk core ctx va s
  | .uncorrectableError pa reader => Sys2Proof.Machine.execUncorrectableError pa reader s
  | .copyExpiry core line => Sys2Proof.Machine.execCopyExpiry core line s
  | .signatureExpiry line => Sys2Proof.Machine.execSignatureExpiry line s
  | .cacheEviction core line l2 => Sys2Proof.Machine.execCacheEviction core line l2 s
  | .casnisFill core ctx va => Sys2Proof.Machine.execCasnisFill core ctx va s
  | .skerryAccept chan => Sys2Proof.Machine.execSkerryAccept chan s
  | .nmloadApply chan => Sys2Proof.Machine.execNmloadApply chan s
  | .skerryCommandStart chan => Sys2Proof.Machine.execSkerryCommandStart chan s
  | .skerryWord chan => Sys2Proof.Machine.execSkerryWord chan s
  | .bankRefresh chan bank starts => Sys2Proof.Machine.execBankRefresh chan bank starts s
  | .catchupReplay chan bank => Sys2Proof.Machine.execCatchupReplay chan bank s
  | .transferColumn chan => Sys2Proof.Machine.execTransferColumn chan s
  | .skerryCommandFinish chan => Sys2Proof.Machine.execSkerryCommandFinish chan s
  | .linkTrained link full => Sys2Proof.Machine.execLinkTrained link full s
  | .linkTrainingFailed link => Sys2Proof.Machine.execLinkTrainingFailed link s
  | .linkErrorsOverLimit link => Sys2Proof.Machine.execLinkErrorsOverLimit link s
  | .linkDrained link => Sys2Proof.Machine.execLinkDrained link s
  | .flitReplay link => Sys2Proof.Machine.execFlitReplay link s
  | .rmaWrite ep port addr bytes => Sys2Proof.Machine.execRmaWrite ep port addr bytes s
  | .rmaRead ep port addr len => Sys2Proof.Machine.execRmaRead ep port addr len s
  | .rmaAtomic ctx port addr cas operand compare => Sys2Proof.Machine.execRmaAtomic ctx port addr cas operand compare s
  | .unsupportedDelivery port => Sys2Proof.Machine.execUnsupportedDelivery port s
  | .holmBalance holm moving energy => Sys2Proof.Machine.execHolmBalance holm moving energy s
  | .undeclaredBurst core => Sys2Proof.Machine.execUndeclaredBurst core s
  | .passDemandExpiry quad which => Sys2Proof.Machine.execPassDemandExpiry quad which s
  | .hintOnset core slot => Sys2Proof.Machine.execHintOnset core slot s
  | .hintEnd core slot => Sys2Proof.Machine.execHintEnd core slot s
  | .railStep rail upper => Sys2Proof.Machine.execRailStep rail upper s
  | .railHoldExpiry rail upper => Sys2Proof.Machine.execRailHoldExpiry rail upper s
  | .bankTempCompare core t0 t1 => Sys2Proof.Machine.execBankTempCompare core t0 t1 s
  | .energyUpdate ctx nj => Sys2Proof.Machine.execEnergyUpdate ctx nj s
  | .thermalLevelChange stack temp => Sys2Proof.Machine.execThermalLevelChange stack temp s
  | .stackThermalDemand stack temp => Sys2Proof.Machine.execStackThermalDemand stack temp s
  | .quadGateClose quad => Sys2Proof.Machine.execQuadGateClose quad s
  | .quadWakeDone quad => Sys2Proof.Machine.execQuadWakeDone quad s
  | .powerOn => Sys2Proof.Machine.execPowerOn s
  | .startStepDone failure => Sys2Proof.Machine.execStartStepDone failure s
  | .imageFetch img => Sys2Proof.Machine.execImageFetch img s
  | .portRetry port trained => Sys2Proof.Machine.execPortRetry port trained s
  | .recoveryImage img => Sys2Proof.Machine.execRecoveryImage img s
  | .quoteSigned => Sys2Proof.Machine.execQuoteSigned s
  | .eventSinkUpdate => Sys2Proof.Machine.execEventSinkUpdate s
  | .eventConsumedWrite count => Sys2Proof.Machine.execEventConsumedWrite count s
  | .badCmd m => Sys2Proof.Machine.execBadCmd m s
  | .cxCreate m => Sys2Proof.Machine.execCxCreate m s
  | .cxBind m => Sys2Proof.Machine.execCxBind m s
  | .cxStart m => Sys2Proof.Machine.execCxStart m s
  | .cxSuspend m => Sys2Proof.Machine.execCxSuspend m s
  | .cxResume m => Sys2Proof.Machine.execCxResume m s
  | .cxTeardown m => Sys2Proof.Machine.execCxTeardown m s
  | .cxSet m => Sys2Proof.Machine.execCxSet m s
  | .cxClear m => Sys2Proof.Machine.execCxClear m s
  | .cxRead m => Sys2Proof.Machine.execCxRead m s
  | .qCreate m => Sys2Proof.Machine.execQCreate m s
  | .qStart m => Sys2Proof.Machine.execQStart m s
  | .qHalt m => Sys2Proof.Machine.execQHalt m s
  | .qDrain m => Sys2Proof.Machine.execQDrain m s
  | .qTeardown m => Sys2Proof.Machine.execQTeardown m s
  | .qPrio m => Sys2Proof.Machine.execQPrio m s
  | .qRead m => Sys2Proof.Machine.execQRead m s
  | .pfReply m => Sys2Proof.Machine.execPfReply m s
  | .invalidate m => Sys2Proof.Machine.execInvalidate m s
  | .unpoison m => Sys2Proof.Machine.execUnpoison m s
  | .poisonRead m => Sys2Proof.Machine.execPoisonRead m s
  | .linkEnable m => Sys2Proof.Machine.execLinkEnable m s
  | .linkDrain m => Sys2Proof.Machine.execLinkDrain m s
  | .linkDisable m => Sys2Proof.Machine.execLinkDisable m s
  | .linkRead m => Sys2Proof.Machine.execLinkRead m s
  | .epBind m => Sys2Proof.Machine.execEpBind m s
  | .aperture m => Sys2Proof.Machine.execAperture m s
  | .podSet m => Sys2Proof.Machine.execPodSet m s
  | .gate m => Sys2Proof.Machine.execGate m s
  | .ungate m => Sys2Proof.Machine.execUngate m s
  | .passfloor m => Sys2Proof.Machine.execPassfloor m s
  | .vote m => Sys2Proof.Machine.execVote m s
  | .share m => Sys2Proof.Machine.execShare m s
  | .coreset m => Sys2Proof.Machine.execCoreset m s
  | .partition m => Sys2Proof.Machine.execPartition m s
  | .warm m => Sys2Proof.Machine.execWarm m s
  | .cold m => Sys2Proof.Machine.execCold m s
  | .quote m => Sys2Proof.Machine.execQuote m s
  | .idkey m => Sys2Proof.Machine.execIdkey m s
  | .image m => Sys2Proof.Machine.execImage m s
  | .evsink m => Sys2Proof.Machine.execEvsink m s
  | .helpers m => Sys2Proof.Machine.execHelpers m s
  | .noticeAccepted core slot => Sys2Proof.Machine.execNoticeAccepted core slot s
  | .releaseComplete core slot idx => Sys2Proof.Machine.execReleaseComplete core slot idx s

end Sys2Proof.Machine
end

