-- ==== Sys2Proof/WellFormed.lean ====
section
/-!
DEFINITION. Instructions that can be: what the encodings admit, and hardware steps about units that exist.
-/
namespace Sys2Proof

/-- Every slot, core, stack, link or context that a hardware step names exists. -/
def stepFits (i : Instr) : Bool :=
  let core (n : Nat) : Bool := decide (n < 1024)
  let slot (n : Nat) : Bool := decide (n < 32)
  let channel (n : Nat) : Bool := decide (n < 384)
  match i with
  | .sfuResult c g => core c && slot g
  | .srResult c g _ => core c && slot g
  | .waitExpire c g => core c && slot g
  | .memoryAccessComplete c g _ => core c && slot g
  | .waitwWake c g _ => core c && slot g
  | .copyComplete c => core c
  | .engineAccessFault c => core c
  | .enginePageFault c => core c
  | .pullStart c => core c
  | .pullLanded c => core c
  | .rldResponse c g _ => core c && slot g
  | .narrowsDeliver c => core c
  | .bfillComplete c => core c
  | .mmaPass c => core c
  | .accumulatorWrite c => core c
  | .arrayEntry c => core c
  | .planeEntry c => core c
  | .acquisitionClear c => core c
  | .planeUpkeep c => core c
  | .plcovPush c g q => core c && slot g && decide (q < 8)
  | .barrierRelease c g => core c && slot g
  | .kwaitWake c g => core c && slot g
  | .invalidationComplete c g _ => core c && slot g
  | .affPush c g q => core c && slot g && decide (q < 8)
  | .affStreamFault c g q => core c && slot g && decide (q < 8)
  | .queueEntryFill c g q => core c && slot g && decide (q < 8)
  | .queueEndEffect c g q => core c && slot g && decide (q < 8)
  | .swaitwWake c g _ => core c && slot g
  | .laneIssueOpportunity c => core c
  | .operandGrant c => core c
  | .deferredTrap c g => core c && slot g
  | .groupFormed c g => core c && slot g
  | .allocationReserve c => core c
  | .cohortPreempt c g => core c && slot g
  | .cohortRestore _ c => core c
  | .queueTailWrite q => decide (q < 4096)
  | .recordRead d => decide (d < 4)
  | .placementStep d => decide (d < 4)
  | .cxTeardownDone x => decide (x < 1024)
  | .tableWalk c x va => core c && decide (x < 1024) && decide (va < 2 ^ 48)
  | .copyExpiry c _ => core c
  | .cacheEviction c _ _ => core c
  | .casnisFill c x _ => core c && decide (x < 1024)
  | .skerryAccept n => channel n
  | .nmloadApply n => channel n
  | .skerryCommandStart n => channel n
  | .skerryWord n => channel n
  | .bankRefresh n b _ => channel n && decide (b < 16)
  | .catchupReplay n b => channel n && decide (b < 16)
  | .transferColumn n => channel n
  | .skerryCommandFinish n => channel n
  | .linkTrained n _ => decide (n < 4096)
  | .linkTrainingFailed n => decide (n < 4096)
  | .linkErrorsOverLimit n => decide (n < 4096)
  | .linkDrained n => decide (n < 4096)
  | .flitReplay n => decide (n < 4096)
  | .rmaWrite _ p _ _ => decide (p < 8)
  | .rmaRead _ p _ _ => decide (p < 8)
  | .rmaAtomic x p _ _ _ _ => decide (x < 1024) && decide (p < 8)
  | .unsupportedDelivery p => decide (p < 8)
  | .holmBalance h _ _ => decide (h < 128)
  | .undeclaredBurst c => core c
  | .passDemandExpiry q _ => decide (q < 256)
  | .hintOnset c g => core c && slot g
  | .hintEnd c g => core c && slot g
  | .railStep r _ => decide (r < 16)
  | .railHoldExpiry r _ => decide (r < 16)
  | .bankTempCompare c _ _ => core c
  | .energyUpdate x _ => decide (x < 1024)
  | .thermalLevelChange n _ => decide (n < 12)
  | .stackThermalDemand d _ => decide (d < 4)
  | .quadGateClose q => decide (q < 256)
  | .quadWakeDone q => decide (q < 256)
  | .portRetry p _ => decide (p < 8)
  | .noticeAccepted c g => core c && slot g
  | .releaseComplete c g _ => core c && slot g
  | _ => true

/-- An instruction is well formed: check 2 of R58 accepts its encoding, and the units it names exist. -/
def wellFormed (i : Instr) : Bool := accepts i && stepFits i

/-- The commands that the mailbox delivers; COLD also comes as a request in recovery-listen (R463, R467). -/
def isMailboxCommand : Instr → Bool
  | .badCmd _ => true
  | .cxCreate _ => true
  | .cxBind _ => true
  | .cxStart _ => true
  | .cxSuspend _ => true
  | .cxResume _ => true
  | .cxTeardown _ => true
  | .cxSet _ => true
  | .cxClear _ => true
  | .cxRead _ => true
  | .qCreate _ => true
  | .qStart _ => true
  | .qHalt _ => true
  | .qDrain _ => true
  | .qTeardown _ => true
  | .qPrio _ => true
  | .qRead _ => true
  | .pfReply _ => true
  | .invalidate _ => true
  | .unpoison _ => true
  | .poisonRead _ => true
  | .linkEnable _ => true
  | .linkDrain _ => true
  | .linkDisable _ => true
  | .linkRead _ => true
  | .epBind _ => true
  | .aperture _ => true
  | .podSet _ => true
  | .gate _ => true
  | .ungate _ => true
  | .passfloor _ => true
  | .vote _ => true
  | .share _ => true
  | .coreset _ => true
  | .partition _ => true
  | .warm _ => true
  | .quote _ => true
  | .idkey _ => true
  | .image _ => true
  | .evsink _ => true
  | .helpers _ => true
  | _ => false

/-- Words that a stream fetches and no encoding names. -/
def isWord : Instr → Bool
  | .unassignedOpcode _ _ => true
  | .legacyWord _ _ _ => true
  | .scalarStepLimit _ => true
  | _ => false

/-- What the outside of the streams and the mailbox may make happen: well-formed hardware steps and host operations
(log 1). -/
def isInput (i : Instr) : Bool := (encode i).isNone && !isWord i && !isMailboxCommand i && wellFormed i

/-- A cold start request, the one command that also comes without the mailbox (R463). -/
def isCold : Instr → Bool
  | .cold _ => true
  | _ => false

end Sys2Proof
end

