-- ==== Sys2Proof/Machine/Turns.lean ====
section
/-!
DEFINITION. Turns: the next step of a stream, which streams could issue in an ac, the ac of a holm, and what runs once the inputs are
used up (07_group R137 to R142, 18_power R416, R417).
-/
namespace Sys2Proof.Machine

open Sys2Proof

/-- The instruction that bits fetched by a stream stand for. -/
noncomputable def fetched (st : Stream) (w : Nat) : Instr :=
  match decodeWord st w with
  | some i => i
  | none => .unassignedOpcode st (BitVec.ofNat 64 w)

/-- The next instruction of a lane stream fetched and issued. -/
noncomputable def fetchIssue (s : State) (core slot : Nat) (g : Group) : Host.Outcome State Fault Refusal :=
  match fetchLane s core g with
  | .error e => .next (stopLane s core slot false g.ln.em e)
  | .ok (.native w) => exec (fetched .lane w) s
  | .ok (.translated i) => exec i s
  | .ok .unfilled => exec (.casnisFill core g.ctx g.ln.pc.addr.toNat) s

/-- What a lane stream does once nothing comes before its next instruction: a waiting trap is taken, else its next instruction
is fetched and issues; while the operands of its last one have not been granted it stalls (R143). -/
noncomputable def laneIssue (s : State) (core slot : Nat) (g : Group) : Host.Outcome State Fault Refusal :=
  if dueLane s g then exec (.deferredTrap core slot) s
  else if !canIssue s g then .next s
  else if ungranted s core slot then .next (modLane s core slot (fun l => { l with state := .stalled .collector }))
  else
    match helperStep s core slot g with
    | some t => .next t
    | none => fetchIssue (laneSeen s core g) core slot g

/-- The next step of a lane stream. -/
noncomputable def laneStep (s : State) (core slot : Nat) : Host.Outcome State Fault Refusal :=
  match beforeLane s core slot with
  | some s' => .next s'
  | none =>
    match groupOf s core slot with
    | none => .next s
    | some g => laneIssue s core slot g

/-- The next step of a scalar stream. -/
noncomputable def scalarStep (s : State) (core slot : Nat) : Host.Outcome State Fault Refusal :=
  match groupOf s core slot with
  | none => .next s
  | some g =>
    if dueScalar s g then exec (.deferredTrap core slot) s
    else if !canScalar s g then .next s
    else
      let s := fetchSeen s core g.ctx g.sc.pc.toNat
      match fetchScalar s core g with
      | .error e => .next (stopScalar s core slot e)
      | .ok w => exec (fetched .scalar w) s

/-- An outcome with what follows it. -/
def andNext (f : State → State) : Host.Outcome State Fault Refusal → Host.Outcome State Fault Refusal
  | .next s => .next (f s)
  | .fault e => .fault e
  | .refused r => .refused r

/-- The turn of a lane stream: after what comes before an instruction it keeps its turn. -/
noncomputable def laneTurn (s : State) (core slot : Nat) : Host.Outcome State Fault Refusal :=
  andNext (if (beforeLane s core slot).isSome then afterBefore core slot else afterTurn (.lane core slot)) (laneStep s core slot)

/-- The turn of a scalar stream. -/
noncomputable def scalarTurn (s : State) (core slot : Nat) : Host.Outcome State Fault Refusal :=
  andNext (afterTurn (.scalar core slot)) (scalarStep s core slot)

/-! ## Who could issue (R141) -/

/-- How a stream stands after an outcome. -/
def stallAfter (stalls : State → Option (StallReason × Nat)) : Host.Outcome State Fault Refusal → Option (StallReason × Nat)
  | .next s => stalls s
  | _ => none

/-- Whether the next instruction of a lane stream before which nothing comes, tried, would stall it (R137, R141). -/
noncomputable def laneTrial (core : Nat) : Trial := fun s slot =>
  stallAfter (fun u => stallOf u core slot) (laneStep { s with turn := .lane core slot, packed := [], opp := s.fresh } core slot)

/-- A scalar stream has stalled. -/
def scalarStall (core slot : Nat) (s : State) : Option (StallReason × Nat) :=
  if (groupOf s core slot).any (fun g => g.sc.stalled) then some (.scoreboard, 0) else none

/-- Whether the next step of a scalar stream, tried, would stall it. -/
noncomputable def scalarTrial (core : Nat) : Trial := fun s slot =>
  stallAfter (scalarStall core slot)
    (scalarStep (modScalar { s with turn := .scalar core slot } core slot (fun z => { z with stalled := false })) core slot)

/-! ## The ac of a holm (R141, R416, R417) -/

/-- Bound on the steps before an instruction: a stack's entries, results and restarts that wait. -/
def beforeFuel : Nat := 2 * stackFuel

/-- The package with a trap taken that has waited for a handler's return, if one is due (R250). -/
def dueTaken (s : State) (core slot : Nat) : State :=
  match execDeferredTrap core slot s with
  | .next t => t
  | _ => s

/-- The package with the translation of the Casnis word at which a lane stream stands, before it can issue (R433). -/
def wordFilled (s : State) (core slot : Nat) : State :=
  match groupOf s core slot with
  | none => s
  | some g =>
    match canIssue s g, fetchLane s core g with
    | true, .ok .unfilled => fillLine s core g.ctx g.ln.pc.addr.toNat
    | _, _ => s

/-- What a slot's streams do in an ac before they may issue: a `wait` whose count has passed ends (R181), a trap that is due is taken
(R250), all that comes before the lane stream's next instruction takes place (R139, R149, R163, R169), its word is translated
(R433). -/
def settleSlot (core : Nat) (s : State) (slot : Nat) : State :=
  let s := dueTaken (dueTaken (wakeWait s core slot) core slot) core slot
  let s := beforeAll core slot beforeFuel (modLane s core slot (fun l => { l with state := restState l }))
  wordFilled s core slot

/-- The streams of a core as an ac finds them. -/
def settleCore (s : State) (core : Nat) : State := ((coreOf s core).groups.map (fun g => g.1)).foldl (settleSlot core) s

/-- Which streams of a core could issue is noted (R137, R141). -/
noncomputable def noteCore (s : State) (core : Nat) : State :=
  noteScalarStalls (scalarTrial core) (noteStalls (laneTrial core) s core) core

/-- A holm as an ac begins: the last one has passed, and which streams could issue in this one is known. -/
noncomputable def beginAc (s : State) (holm : Nat) : State :=
  (holmCores holm).foldl noteCore ((holmCores holm).foldl settleCore ((holmCores holm).foldl coreAc s))

/-- The package as a step's input finds it: a holm's ac begins with its balance (R417, log 19). -/
noncomputable def prepare (i : Instr) (s : State) : State :=
  match i with
  | .holmBalance holm _ _ => if holm < 128 then beginAc s holm else s
  | _ => s

/-- A core whose next streams have the turn: one with a resident group, freely chosen (log 23). -/
def nextOffer (s : State) : Turn :=
  let l := (s.cores.filter (fun c => !c.2.groups.isEmpty)).map (fun c => c.1)
  match l[(freeWord s 790 0).toNat % l.length]? with
  | some c => .offer c
  | none => .idle

/-- An ac of a holm that no input brings: which copy engines move data and what a shunt takes are free (log 19). -/
noncomputable def acStep (s : State) (holm : Nat) : Host.Outcome State Fault Refusal :=
  let i := Instr.holmBalance holm (BitVec.ofNat 8 (freeWord s 791 0).toNat) (freeWord s 792 0)
  andNext (fun t => { t with turn := nextOffer t }) (exec i (prepare i s))

/-! ## Opportunities that are open -/

/-- A core has an opportunity of this ac that a stream of it would take. -/
def coreOpen (s : State) (core : Nat) : Bool := !(laneCandidates s core).isEmpty || !(scalarCandidates s core).isEmpty

/-- A stream of a core has the turn. -/
def turnOn (t : Turn) (core : Nat) : Bool :=
  match t with
  | .lane c _ => decide (c = core)
  | .scalar c _ => decide (c = core)
  | _ => false

/-- A core of a holm whose opportunities of this ac have not been used. -/
def openCore (s : State) (holm : Nat) : Option Nat := (holmCores holm).find? (fun c => coreOpen s c || turnOn s.turn c)

/-- A core has resident groups. -/
def peopled (s : State) (core : Nat) : Bool := !(coreOf s core).groups.isEmpty

/-- A core's turn to offer: its lane opportunity of this ac and its scalar one, in an order that is free; else the turn goes to another
core of the holm whose opportunities are open; else the holm's next ac comes, if anything resides there (R141, log 23). -/
noncomputable def offerStep (s : State) (core : Nat) : Host.Outcome State Fault Refusal :=
  if !(laneCandidates s core).isEmpty ∧ ((scalarCandidates s core).isEmpty ∨ Config.freeBit s.fresh 793 core) then
    exec (.laneIssueOpportunity core) s
  else if !(scalarCandidates s core).isEmpty then .next (giveScalar s core)
  else
    match openCore s (core / 8) with
    | some c => .next { s with turn := .offer c }
    | none =>
      if (holmCores (core / 8)).any (peopled s) then acStep s (core / 8) else .next { s with turn := nextOffer s }

/-! ## The package's own step -/

/-- What has waited for its way: a trap record (R106), or an RMA operation that may be performed (R121). -/
def nextWaiting (s : State) : Option State :=
  match nextLog s with
  | some t => some t
  | none => nextRma s

/-- What runs once the inputs are used up: what has waited for its way, a mailbox command, else the stream whose turn it is. -/
noncomputable def ownStep (s : State) : Host.Outcome State Fault Refusal :=
  match nextWaiting s with
  | some t => .next t
  | none =>
    match nextCommand s with
    | some i => exec i s
    | none =>
      match s.turn with
      | .lane core slot => laneTurn s core slot
      | .scalar core slot => scalarTurn s core slot
      | .offer core => offerStep s core
      | .idle => .next s

/-! ## Inputs -/

/-- The core whose streams an input waits for: an ac of a holm, and its grants, come when the opportunities of the ac before have been
used, and a lane opportunity is given when no stream has the turn (R141, R144, log 23). -/
def waitsFor (s : State) (i : Instr) : Option Nat :=
  match i with
  | .holmBalance holm _ _ => if holm < 128 then openCore s holm else none
  | .operandGrant core => if coreOpen s core || turnOn s.turn core then some core else none
  | .laneIssueOpportunity core => if midTurn s.turn then some core else none
  | _ => none

/-- The package with the turn at a core's streams, unless a stream has it. -/
def turnTo (core : Nat) (s : State) : State := if midTurn s.turn then s else { s with turn := .offer core }

/-- What the head of the inputs may make happen: while Grendex runs, a COLD comes only from its mailbox slot (R28, R469). -/
def arrives (s : State) (i : Instr) : Bool := isInput i && !(isCold i && decide (s.fw.boot = .running))

end Sys2Proof.Machine
end

