-- ==== Sys2Proof/Machine/Step.lean ====
section
/-!
DEFINITION. One step of the package: the next hardware step or command that its inputs hold, else the next instruction
of the stream whose turn it is.
-/
namespace Sys2Proof.Machine

open Sys2Proof

/-- One step: time passes, then the head of the inputs is taken, once the streams that it waits for have had their turn, else the
package's own next step. What is no input does not happen. -/
noncomputable def step (s : State) : Host.Outcome State Fault Refusal :=
  match s.agenda with
  | [] => ownStep (tick s)
  | i :: l =>
    match waitsFor s i with
    | some core => ownStep (tick (turnTo core s))
    | none => if arrives s i then exec i (prepare i (tick { s with agenda := l })) else .next (tick { s with agenda := l })

/-- The machine with an instruction of a stream placed where `step` fetches next (log 10). -/
noncomputable def State.withFetchWord (s : State) (nbits w : Nat) : State := placeWord s nbits w

end Sys2Proof.Machine
end

