-- ==== Sys2Proof/Safety.lean ====
section
/-!
DEFINITION. What counts as a safe run of the package, and the terms in which statements about its instructions are made:
when a stream's instruction takes its effect, and what an instruction leaves as it was.
-/
namespace Sys2Proof.Safety

open Sys2Proof Sys2Proof.Machine

/-! ## Safe steps -/

/-- A step is safe: it gives a next state; the machine does not stop, and no instruction is refused. -/
def SafeOutcome : Host.Outcome State Fault Refusal → Prop
  | .next _ => True
  | .fault _ => False
  | .refused _ => False

/-- The memory of the package and the scratchpad of every core are in their canonical form: addresses rise strictly and no
cell holds what an unlisted address reads as. -/
def MemoryForm (s : State) : Prop := Memory.wf s.mem = true ∧ ∀ core, Memory.wf (coreOf s core).scratch = true

/-! ## A lane instruction takes its effect (R51 to R58, R137 to R146) -/

/-- It is the turn of a lane stream that may issue; the instruction's waits are met, a collector is free, the SFU takes it if it is
one of its own, no plane entry and no trap of the copy engine holds it, and it passes every check. `e` is what it issues with. -/
structure Ready (i : Instr) (s : State) (e : Iss) : Prop where
  turn : s.turn = .lane e.core e.slot
  group : groupOf s e.core e.slot = some e.g
  fields : (fieldsOf i).map (settleFields e.g.ln.fmt) = some e.x
  lanes : e.lanes = takingPart s e.g.ln e.x
  cas : e.cas = translationLength s e.core e.g
  can : canIssue s e.g = true
  access : e.g.deferredAccess = []
  waits : waitsMet e.g.ln i e.x = true
  collector : collectorFree (coreOf s e.core) e.slot = true
  plane : planeHolds (coreOf s e.core) e.slot = false
  sfu : sfuFull s i e = false
  checks : issueChecks e.g (cohortOf (coreOf s e.core) e.g) i e.x = .ok ()
  offset : checkOffset e.g i = .ok ()

/-- The instruction is ready, some lane takes part or it is uniform, and the queues it names hold what it pops; `qs` are the
group's queues after the pops. -/
structure Issues (i : Instr) (s : State) (e : Iss) (qs : List Queue) : Prop extends Ready i s e where
  takes : skips e = false
  pops : popFields e.g.ln.fmt (e.x.fields.drop 1) e.g.qs = .ok (e.pops, qs)

/-- The package in which the instruction's effect takes place: its waits noted, its pops done. -/
def issued (s : State) (e : Iss) (qs : List Queue) : State :=
  modGroup (noteWaits s e.core e.g e.x) e.core e.slot (fun g => { g with qs := qs })

/-- With enough registers for its results, an instruction that issues completes: its effect `d` lands, and the lane stream
goes on as `d` says. -/
def Completes (i : Instr) (s : State) (e : Iss) (qs : List Queue) (d : Done) : Prop :=
  Issues i s e qs → missing i e d = 0 → exec i s = .next (landed i e d)

/-- A trap that an issuing instruction raises is taken by its lane stream; its record holds the lanes taking part. The walk for an
address that an ACCESS reports has been made (R345). -/
def Traps (i : Instr) (s : State) (e : Iss) (qs : List Queue) (t : Trap) : Prop :=
  Issues i s e qs →
    exec i s = .next (raiseTrap (modLane (stopWalk s e.core e.slot (.trap t)) e.core e.slot
        (fun l => { l with state := restState l, watch := none }))
      e.core e.slot .lane { t with mask := some (t.mask.getD e.lanes) })

/-! ## Results in registers -/

/-- The word that a register name holds in a lane of a group; the paths of a meld region have their own names (R156). -/
def nameWord (e : Iss) (g : Group) (n lane : Nat) : Word :=
  let m := laneName e.g.ln n lane
  if isV m then vWord g.ln m lane else oWord g.ln m lane

/-- A lane takes part, in a quarter that has a lane left. -/
def counts (e : Iss) (lane : Nat) : Prop := e.lanes.getLsbD lane = true ∧ lane / 8 ∈ liveQuarters e.g

/-- No older write to a name is still on its way (R57). -/
def Quiet (e : Iss) (n : Nat) : Prop := ∀ lane, counts e lane → landsAt e.g.ln (laneName e.g.ln n lane) ≤ e.g.ln.clock

/-- The core's pool holds enough quarter-registers for results of so many words, on both paths of a meld region (R167). -/
def Room (s : State) (e : Iss) (words : Nat) : Prop := 16 * words ≤ (coreOf s e.core).pool

/-- The group in the slot of an instruction. -/
def groupIn (t : State) (e : Iss) (g : Group) : Prop := groupOf t e.core e.slot = some g

/-- A result of one word has been written: each lane that counts reads it in the v or o name that the destination stands
for. A destination `zero` stands for no name and discards it (R44). -/
def Wrote32 (e : Iss) (g : Group) (dst : Nat) (val : Nat → Word) : Prop :=
  ∀ lane, counts e lane → laneName e.g.ln dst lane < 136 → nameWord e g dst lane = val lane

/-- A result of two words has been written, its low half in the even name, its high half in the next (R43, R156). -/
def Wrote64 (e : Iss) (g : Group) (dst : Nat) (val : Nat → DWord) : Prop :=
  ∀ lane, counts e lane → laneName e.g.ln (dst + 1) lane = laneName e.g.ln dst lane + 1 →
    laneName e.g.ln dst lane + 1 < 136 →
    nameWord e g dst lane = (val lane).setWidth 32 ∧ nameWord e g (dst + 1) lane = (val lane >>> 32).setWidth 32

/-- A name is among those that the instruction declares as read for the last time (R54). -/
def declaredLast (e : Iss) (n : Nat) : Prop := n ∈ lastsOf e

/-- What a lane instruction leaves that writes only registers: `names` are the v and o names it writes. Memory, every other
core, every other group, the rest of its core, its scalar stream, and of its lane stream the mask, the reconvergence
stack, the stack registers, the block parameters, every word of every other name, and the words of all names in lanes
that do not take part. -/
structure LaneFrame (s t : State) (e : Iss) (names : Nat → Prop) : Prop where
  package : { t with cores := s.cores } = s
  cores : ∀ c, c ≠ e.core → coreOf t c = coreOf s c
  groups : ∀ slot, slot ≠ e.slot → groupOf t e.core slot = groupOf s e.core slot
  core : { coreOf t e.core with
      groups := (coreOf s e.core).groups, pool := (coreOf s e.core).pool, collectors := (coreOf s e.core).collectors,
      fills := (coreOf s e.core).fills, sfuBusy := (coreOf s e.core).sfuBusy, sfuOpp := (coreOf s e.core).sfuOpp } = coreOf s e.core
  group : ∀ g, groupIn t e g → { g with ln := e.g.ln, qs := e.g.qs } = e.g
  stream : ∀ g, groupIn t e g →
    { g.ln with
      state := e.g.ln.state, pc := e.g.ln.pc, regs := e.g.ln.regs, ofile := e.g.ln.ofile, preds := e.g.ln.preds,
      lr := e.g.ln.lr, lrLegal := e.g.ln.lrLegal, sb := e.g.ln.sb, fpc := e.g.ln.fpc, next := e.g.ln.next,
      hazards := e.g.ln.hazards, outstanding := e.g.ln.outstanding, watch := e.g.ln.watch, needCkpt := e.g.ln.needCkpt,
      justCkpt := e.g.ln.justCkpt, yielded := e.g.ln.yielded, grant := e.g.ln.grant, sets := e.g.ln.sets, word := e.g.ln.word } = e.g.ln
  words : ∀ g, groupIn t e g → ∀ n lane, lane < 64 → (¬ names n ∨ e.lanes.getLsbD lane = false) → ¬ declaredLast e n →
    (isV n = true → vWord g.ln n lane = vWord e.g.ln n lane) ∧ (isO n = true → oWord g.ln n lane = oWord e.g.ln n lane)

/-- The v and o names that a destination of so many words stands for in some lane. -/
def destNames (e : Iss) (dst words n : Nat) : Prop := ∃ lane h, h < words ∧ n = laneName e.g.ln (dst + h) lane

/-- The group after an instruction of fixed latency that raises flags `fl`, writes no predicate, and goes on to the
following instruction: its flags gather in `fpc` (R192), its lane stream stands at the next address, the next instruction may issue
after the instruction's own issue step and those its stall field and rule add (R51), and its scoreboard counts are as
they were (R52). -/
structure GoesOn (i : Instr) (e : Iss) (g : Group) (fl : Flags) (steps : Nat) : Prop where
  fpc : g.ln.fpc = raiseFlags e.g.ln.fpc fl
  preds : g.ln.preds = e.g.ln.preds
  pc : g.ln.pc = followingPc e i
  next : g.ln.next = e.g.ln.clock + issueSteps (1 + e.x.ctl.stall.toNat + steps)
  sb : g.ln.sb = e.g.ln.sb

/-- An instruction of fixed latency that issues, whose destination has no older write on its way, finds its registers and
raises no enabled flag, writes `val` to `dst` in the lanes that count, and nothing else. -/
def Puts32 (i : Instr) (s : State) (e : Iss) (qs : List Queue) (dst : Nat) (val : Nat → Word) (fl : Flags) (steps : Nat) :
    Prop :=
  Issues i s e qs → Quiet e dst → Room s e 1 → laneFp e.g.ln.fpc fl = none →
    ∃ t g, exec i s = .next t ∧ groupIn t e g ∧ Wrote32 e g dst val ∧ LaneFrame s t e (destNames e dst 1) ∧
      GoesOn i e g fl steps

/-- The same for a result of two words. -/
def Puts64 (i : Instr) (s : State) (e : Iss) (qs : List Queue) (dst : Nat) (val : Nat → DWord) (fl : Flags) (steps : Nat) :
    Prop :=
  Issues i s e qs → Quiet e dst → Quiet e (dst + 1) → Room s e 2 → laneFp e.g.ln.fpc fl = none →
    ∃ t g, exec i s = .next t ∧ groupIn t e g ∧ (dst ≠ 153 → Wrote64 e g dst val) ∧ LaneFrame s t e (destNames e dst 2) ∧
      GoesOn i e g fl steps

/-- The same for an instruction that writes the predicates of `ps`, and no register: each of them holds `val` in the lanes
taking part, its other lanes and every other predicate stay (R46). -/
def PutsPreds (i : Instr) (s : State) (e : Iss) (qs : List Queue) (ps : List Nat) (val : Nat → Nat → Bool) (fl : Flags) :
    Prop :=
  Issues i s e qs → (∀ p ∈ ps, landsAt e.g.ln (predName p) ≤ e.g.ln.clock) → laneFp e.g.ln.fpc fl = none →
    ∃ t g, exec i s = .next t ∧ groupIn t e g ∧
      (∀ p lane, lane < 64 → (g.ln.preds.getD p 0).getLsbD lane =
        if p ∈ ps ∧ p ≠ 7 ∧ e.lanes.getLsbD lane = true then val p lane else (e.g.ln.preds.getD p 0).getLsbD lane) ∧
      LaneFrame s t e (fun _ => False) ∧ g.ln.fpc = raiseFlags e.g.ln.fpc fl ∧ g.ln.pc = followingPc e i

/-! ## A scalar instruction takes its effect (R230) -/

/-- It is the turn of a scalar stream that may issue, and its step count does not run out. -/
structure ScalarReady (x : ScalarFields) (s : State) (core slot : Nat) (g : Group) : Prop where
  turn : s.turn = .scalar core slot
  group : groupOf s core slot = some g
  can : canScalar s g = true
  steps : (isScalarAlu x && stepsFull g) = false

/-- A scalar instruction that may issue has its effect `t`, and its stream goes on at `pc`, or at the following
instruction. -/
def ScalarCompletes (i : Instr) (x : ScalarFields) (s : State) (core slot : Nat) (g : Group) (t : State)
    (pc : Option (BitVec 48)) : Prop :=
  ScalarReady x s core slot g → exec i s = .next (modScalar t core slot (scalarAfter x g pc))

/-- A trap of a scalar instruction is taken by its stream. -/
def ScalarTraps (i : Instr) (x : ScalarFields) (s : State) (core slot : Nat) (g : Group) (t : Trap) : Prop :=
  ScalarReady x s core slot g →
    exec i s = .next (raiseTrap (modScalar (stopWalk s core slot (.trap t)) core slot (fun z => { z with watch := none })) core slot .scalar t)

/-! ## Mailbox commands (R467, R468, R473) -/

/-- Grendex runs, no fatal failure has closed its mailbox, and a command's unnamed argument bits are zero. -/
structure Commands (ws : List Nat) (m : Mbox) (s : State) : Prop where
  boot : s.fw.boot = .running
  open_ : s.fw.fatal = false
  args : argsFit ws m = true

/-- A command is answered with a status and results; `t` is the package with its effect. -/
def Answers (i : Instr) (m : Mbox) (s : State) (status : Nat) (results : List Nat) (t : State) : Prop :=
  exec i s = .next (respond m ⟨status, results, t⟩)

end Sys2Proof.Safety
end

