-- ==== Sys2Proof/Certificates/Slice0/Obligations.lean ====
section
/-!
DEFINITION. The statements about the package that are to be proved, each with the rule of spec/ that it formalises.
-/

/-! ## Terms of the statements -/

namespace Sys2Proof.Rules

open Sys2Proof Sys2Proof.Machine Sys2Proof.Safety

/-- The word that an issuing instruction reads in a lane from its field k of R59. -/
def src (s : State) (e : Iss) (qs : List Queue) (k lane : Nat) : Word := srcWord (issued s e qs) e (fieldAt e.x k) 0 lane

/-- The two words that it reads there as one value, the even name low (R43). -/
def srcPair (s : State) (e : Iss) (qs : List Queue) (k lane : Nat) : DWord :=
  (srcWord (issued s e qs) e (fieldAt e.x k) 1 lane) ++ (srcWord (issued s e qs) e (fieldAt e.x k) 0 lane)

/-- The truth of a predicate in a lane. -/
def predAt (s : State) (e : Iss) (qs : List Queue) (p : BitVec 8) (lane : Nat) : Bool :=
  (predMask (issued s e qs) e.g.ln p.toNat).getLsbD lane

/-- Its destination. -/
def dst (e : Iss) : Nat := (fieldAt e.x 0).spec

/-! ### R196 to R198: integer results, as the table gives them -/

/-- An integer as a 32-bit word. -/
def word (x : Int) : Word := BitVec.ofInt 32 x

/-- A shift amount of 32 or more with shift = 1 in `fpc` (R95). -/
def beyond (fpc n : Word) : Bool := decide (fpc.toNat / 2 ^ 11 % 4 = 1) && decide (32 ≤ n.toNat)

/-- The amount modulo 32 (R95). -/
def amount (n : Word) : Nat := n.toNat % 32

/-- The field position and length that a word gives (R198). -/
def position (b : Word) : Nat := min (b.toNat % 256) 32
/-- The length. -/
def length (b : Word) : Nat := min (b.toNat / 256 % 256) (32 - position b)

/-- `b` clamped to a range. -/
def clamp (lo hi x : Int) : Int := max lo (min hi x)

/-- The result that R196 to R198 give an integer instruction whose word results depend on one lane, from the words of its
fields; the sources of a short form are its destination and field 4 (R64). -/
def integer (fpc : Word) (r : Nat → Word) : Instr → Option Word
  | .iadd _ => some (r 1 + r 2)
  | .iaddShort _ => some (r 1 + r 4)
  | .isub _ => some (r 1 - r 2)
  | .isubShort _ => some (r 1 - r 4)
  | .imul _ => some (r 1 * r 2)
  | .imulShort _ => some (r 1 * r 4)
  | .imulh .i32 _ => some (word ((r 1).toInt * (r 2).toInt / 2 ^ 32))
  | .imulh .n32 _ => some (word ((r 1).toNat * (r 2).toNat / 2 ^ 32))
  | .imad _ => some (r 1 * r 2 + r 3)
  | .iabs _ => some (if (r 1).toInt < 0 then -(r 1) else r 1)
  | .iabsShort _ => some (if (r 4).toInt < 0 then -(r 4) else r 4)
  | .imin .i32 _ => some (if (r 2).toInt < (r 1).toInt then r 2 else r 1)
  | .imin .n32 _ => some (if (r 2).toNat < (r 1).toNat then r 2 else r 1)
  | .imax .i32 _ => some (if (r 1).toInt < (r 2).toInt then r 2 else r 1)
  | .imax .n32 _ => some (if (r 1).toNat < (r 2).toNat then r 2 else r 1)
  | .iminI32Short _ => some (if (r 4).toInt < (r 1).toInt then r 4 else r 1)
  | .imaxI32Short _ => some (if (r 1).toInt < (r 4).toInt then r 4 else r 1)
  | .iminN32Short _ => some (if (r 4).toNat < (r 1).toNat then r 4 else r 1)
  | .imaxN32Short _ => some (if (r 1).toNat < (r 4).toNat then r 4 else r 1)
  | .iaddSat .i32 _ => some (word (clamp (-2 ^ 31) (2 ^ 31 - 1) ((r 1).toInt + (r 2).toInt)))
  | .isubSat .i32 _ => some (word (clamp (-2 ^ 31) (2 ^ 31 - 1) ((r 1).toInt - (r 2).toInt)))
  | .iaddSat .n32 _ => some (word (clamp 0 (2 ^ 32 - 1) ((r 1).toNat + (r 2).toNat)))
  | .isubSat .n32 _ => some (word (clamp 0 (2 ^ 32 - 1) ((r 1).toNat - (r 2).toNat)))
  | .and _ => some (r 1 &&& r 2)
  | .andShort _ => some (r 1 &&& r 4)
  | .or _ => some (r 1 ||| r 2)
  | .orShort _ => some (r 1 ||| r 4)
  | .xor _ => some (r 1 ^^^ r 2)
  | .xorShort _ => some (r 1 ^^^ r 4)
  | .andn _ => some (r 1 &&& ~~~ r 2)
  | .andnShort _ => some (r 1 &&& ~~~ r 4)
  | .not _ => some (~~~ r 1)
  | .notShort _ => some (~~~ r 4)
  | .mov _ => some (r 1)
  | .movShort _ => some (r 4)
  | .popc _ => some (BitVec.ofNat 32 ((List.range 32).countP (r 1).getLsbD))
  | .popcShort _ => some (BitVec.ofNat 32 ((List.range 32).countP (r 4).getLsbD))
  | .clz _ => some (BitVec.ofNat 32 (((List.range 32).find? (fun i => (r 1).getLsbD (31 - i))).getD 32))
  | .clzShort _ => some (BitVec.ofNat 32 (((List.range 32).find? (fun i => (r 4).getLsbD (31 - i))).getD 32))
  | .ctz _ => some (BitVec.ofNat 32 (((List.range 32).find? (r 1).getLsbD).getD 32))
  | .ctzShort _ => some (BitVec.ofNat 32 (((List.range 32).find? (r 4).getLsbD).getD 32))
  | .brev _ => some (r 1).reverse
  | .brevShort _ => some (r 4).reverse
  | .shl _ => some (if beyond fpc (r 2) then 0 else r 1 <<< amount (r 2))
  | .shlShort _ => some (if beyond fpc (r 4) then 0 else r 1 <<< amount (r 4))
  | .shr _ => some (if beyond fpc (r 2) then 0 else r 1 >>> amount (r 2))
  | .shrShort _ => some (if beyond fpc (r 4) then 0 else r 1 >>> amount (r 4))
  | .sar _ => some (if beyond fpc (r 2) then (r 1).sshiftRight 31 else (r 1).sshiftRight (amount (r 2)))
  | .sarShort _ => some (if beyond fpc (r 4) then (r 1).sshiftRight 31 else (r 1).sshiftRight (amount (r 4)))
  | .rot _ => some ((r 1).rotateLeft (amount (r 2)))
  | .rotShort _ => some ((r 1).rotateLeft (amount (r 4)))
  | .bfx .n32 _ => some (((r 1 >>> position (r 2)) <<< (32 - length (r 2))) >>> (32 - length (r 2)))
  | .bfx .i32 _ => some (((r 1 >>> position (r 2)) <<< (32 - length (r 2))).sshiftRight (32 - length (r 2)))
  | .bfi _ =>
    let m : Word := ((BitVec.allOnes 32) >>> (32 - length (r 3))) <<< position (r 3)
    some ((r 1 &&& ~~~ m) ||| ((r 2 <<< position (r 3)) &&& m))
  | _ => none

/-! ### R200 to R208: floating results -/

/-- The environment that `fpc` gives (R88). -/
def env (e : Iss) : FEnv := envOf e.g.ln.fpc

/-- An FP32 operation of one, two or three sources on the words of its fields. -/
def on1 (f : Nat → FRes) (a : Word) : FRes := f a.toNat
/-- Two sources. -/
def on2 (f : Nat → Nat → FRes) (a b : Word) : FRes := f a.toNat b.toNat
/-- Three sources. -/
def on3 (f : Nat → Nat → Nat → FRes) (a b c : Word) : FRes := f a.toNat b.toNat c.toNat

/-- The operation on both elements of its sources, each in [15:0] and in [31:16] (R205). -/
def halves2 (f : Nat → Nat → FRes) (a b : Word) : FRes :=
  packTwo (f (a.extractLsb' 0 16).toNat (b.extractLsb' 0 16).toNat) (f (a.extractLsb' 16 16).toNat (b.extractLsb' 16 16).toNat)
/-- Three sources. -/
def halves3 (f : Nat → Nat → Nat → FRes) (a b c : Word) : FRes :=
  packTwo (f (a.extractLsb' 0 16).toNat (b.extractLsb' 0 16).toNat (c.extractLsb' 0 16).toNat)
    (f (a.extractLsb' 16 16).toNat (b.extractLsb' 16 16).toNat (c.extractLsb' 16 16).toNat)

/-- The FP32 result that R200, R201 and R203 give from the words of the fields: a + b and the others computed exactly and
rounded once in the mode that op10 or `fpc` gives. -/
def floating (v : FEnv) (r : Nat → Word) : Instr → Option FRes
  | .fadd rm _ => some (on2 (fAdd fp32 v (modeOf v rm)) (r 1) (r 2))
  | .faddShort _ => some (on2 (fAdd fp32 v v.rnd) (r 1) (r 4))
  | .fsub rm _ => some (on2 (fSub fp32 v (modeOf v rm)) (r 1) (r 2))
  | .fsubShort _ => some (on2 (fSub fp32 v v.rnd) (r 1) (r 4))
  | .fmul rm _ => some (on2 (fMul fp32 v (modeOf v rm)) (r 1) (r 2))
  | .fmulShort _ => some (on2 (fMul fp32 v v.rnd) (r 1) (r 4))
  | .ffma rm _ => some (on3 (fFma fp32 v (modeOf v rm)) (r 1) (r 2) (r 3))
  | .fmin _ => some (on2 (fMinMax fp32 v true) (r 1) (r 2))
  | .fminShort _ => some (on2 (fMinMax fp32 v true) (r 1) (r 4))
  | .fmax _ => some (on2 (fMinMax fp32 v false) (r 1) (r 2))
  | .fmaxShort _ => some (on2 (fMinMax fp32 v false) (r 1) (r 4))
  | .frnd rm _ => some (on1 (fRound fp32 v (modeOf v rm)) (r 1))
  | .fclass _ => some ⟨fClass fp32 (r 1).toNat, 0⟩
  | _ => none

/-- The result that R205 and R208 give on pairs of 16-bit elements, and R206 for conversions between types of one word. -/
def packed (v : FEnv) (r : Nat → Word) : Instr → Option FRes
  | .hadd2 h _ => some (halves2 (fAdd (halfFmt h) v v.rnd) (r 1) (r 2))
  | .hadd2F16Short _ => some (halves2 (fAdd fp16 v v.rnd) (r 1) (r 4))
  | .hadd2Bf16Short _ => some (halves2 (fAdd bf16 v v.rnd) (r 1) (r 4))
  | .hsub2 h _ => some (halves2 (fSub (halfFmt h) v v.rnd) (r 1) (r 2))
  | .hmul2 h _ => some (halves2 (fMul (halfFmt h) v v.rnd) (r 1) (r 2))
  | .hmul2F16Short _ => some (halves2 (fMul fp16 v v.rnd) (r 1) (r 4))
  | .hmul2Bf16Short _ => some (halves2 (fMul bf16 v v.rnd) (r 1) (r 4))
  | .hfma2 h _ => some (halves3 (fFma (halfFmt h) v v.rnd) (r 1) (r 2) (r 3))
  | .hmin2 h _ => some (halves2 (fMinMax (halfFmt h) v true) (r 1) (r 2))
  | .hmax2 h _ => some (halves2 (fMinMax (halfFmt h) v false) (r 1) (r 2))
  | .pk2 h _ => some (packTwo (toHalf h v v.rnd (r 1).toNat) (toHalf h v v.rnd (r 2).toNat))
  | .cvt rm f => if wideType f.src2.toNat ∨ wideType f.src3.toNat then none
      else some (cvtValue v (modeOf v rm) f.src2.toNat f.src3.toNat (r 1).toNat)
  | _ => none

/-- The flags that an instruction raises: those of every lane taking part (R192). -/
def flagsOf (e : Iss) (r : Nat → FRes) : Flags := orFlags ((lanesOf e.lanes).map (fun l => (r l).flags))

end Sys2Proof.Rules

open Sys2Proof Sys2Proof.Machine Sys2Proof.Safety

/-! ## Integer results -/

/-- R196, R197, R198, R64: each integer instruction of one result word, short or long, writes the result that the table
gives to its destination in the lanes taking part, and nothing else. -/
def Sys2Proof.Rules.IntegerResults : Prop :=
  ∀ (i : Instr) (s : State) (e : Iss) (qs : List Queue) (val : Nat → Word),
    (∀ lane, Rules.integer e.g.ln.fpc (fun k => Rules.src s e qs k lane) i = some (val lane)) →
      Puts32 i s e qs (Rules.dst e) val 0 0

/-- R196, R182, R221, R208: the instructions whose result is a register pair. -/
def Sys2Proof.Rules.PairResults : Prop :=
  ∀ (f : LaneForm) (h : Half) (s : State) (e : Iss) (qs : List Queue),
    Puts64 (.add64 f) s e qs (Rules.dst e) (fun l => Rules.srcPair s e qs 1 l + Rules.srcPair s e qs 2 l) 0 0 ∧
    Puts64 (.sub64 f) s e qs (Rules.dst e) (fun l => Rules.srcPair s e qs 1 l - Rules.srcPair s e qs 2 l) 0 0 ∧
    Puts64 (.emrd f) s e qs f.dst.toNat (fun _ => e.g.ln.em) 0 0 ∧
    Puts64 (.voteBal f) s e qs f.dst.toNat (fun _ => e.lanes &&& predMask (issued s e qs) e.g.ln f.src1.toNat) 0 0 ∧
    (let lo (l : Nat) : FRes := halfTo32 h (Rules.env e) ((Rules.src s e qs 1 l).extractLsb' 0 16).toNat
     let hi (l : Nat) : FRes := halfTo32 h (Rules.env e) ((Rules.src s e qs 1 l).extractLsb' 16 16).toNat
     Puts64 (.upk2 h f) s e qs f.dst.toNat (fun l => BitVec.ofNat 32 (hi l).code ++ BitVec.ofNat 32 (lo l).code)
       (Rules.flagsOf e lo ||| Rules.flagsOf e hi) 0)

/-- R196, R219, R220, R224: the instructions that move words between lanes or from predicates. A shuffle's source lane
lies in its lane's sub-group of 2^k lanes. -/
def Sys2Proof.Rules.MoveResults : Prop :=
  ∀ (f : LaneForm) (s : State) (e : Iss) (qs : List Queue),
    let w := 2 ^ f.src3.toNat
    let base (l : Nat) : Nat := l - l % w
    let b (l : Nat) : Nat := (Rules.src s e qs 2 l).toNat % w
    let moved (g : Nat → Nat) (l : Nat) : Word := Rules.src s e qs 1 (g l)
    Puts32 (.shfl .idx f) s e qs f.dst.toNat (moved (fun l => base l + b l)) 0 0 ∧
    Puts32 (.shfl .xor f) s e qs f.dst.toNat (moved (fun l => base l + ((l - base l) ^^^ b l))) 0 0 ∧
    Puts32 (.shfl .up f) s e qs f.dst.toNat (moved (fun l => if base l + b l ≤ l then l - b l else l)) 0 0 ∧
    Puts32 (.shfl .dn f) s e qs f.dst.toNat (moved (fun l => if l + b l < base l + w then l + b l else l)) 0 0 ∧
    Puts32 (.swp f) s e qs f.dst.toNat (moved (fun l => l ^^^ 2 ^ f.src2.toNat)) 0 0 ∧
    Puts32 (.sel f) s e qs f.dst.toNat
      (fun l => if Rules.predAt s e qs f.src3 l then Rules.src s e qs 1 l else Rules.src s e qs 2 l) 0 0 ∧
    Puts32 (.pcat f) s e qs f.dst.toNat
      (fun l => BitVec.ofNat 32 ((List.range 8).foldl (fun a p => a + if Rules.predAt s e qs (BitVec.ofNat 8 p) l then 2 ^ p else 0) 0))
      0 0

/-- R199, R202, R221, R224: the instructions that write predicates. -/
def Obligations.PredicateResults : Prop :=
  ∀ (f : LaneForm) (c : ICond) (fc : FCond) (s : State) (e : Iss) (qs : List Queue),
    let a (l : Nat) : Word := Rules.src s e qs 1 l
    let b (l : Nat) : Word := Rules.src s e qs 2 l
    let pa (l : Nat) : Bool := Rules.predAt s e qs f.src1 l
    let pb (l : Nat) : Bool := Rules.predAt s e qs f.src2 l
    let truth (l : Nat) : Bool := match c with
      | .eq => a l == b l
      | .ne => a l != b l
      | .ltI => decide ((a l).toInt < (b l).toInt)
      | .leI => decide ((a l).toInt ≤ (b l).toInt)
      | .gtI => decide ((b l).toInt < (a l).toInt)
      | .geI => decide ((b l).toInt ≤ (a l).toInt)
      | .ltN => decide ((a l).toNat < (b l).toNat)
      | .leN => decide ((a l).toNat ≤ (b l).toNat)
      | .gtN => decide ((b l).toNat < (a l).toNat)
      | .geN => decide ((b l).toNat ≤ (a l).toNat)
    let fcmp (l : Nat) : Bool × Flags := fCompare fp32 (Rules.env e) fc (a l).toNat (b l).toNat
    let voters : Mask := e.lanes &&& predMask (issued s e qs) e.g.ln f.src1.toNat
    PutsPreds (.icmp c f) s e qs [f.dst.toNat] (fun _ => truth) 0 ∧
    PutsPreds (.fcmp fc f) s e qs [f.dst.toNat] (fun _ l => (fcmp l).1) (orFlags ((lanesOf e.lanes).map (fun l => (fcmp l).2))) ∧
    PutsPreds (.voteAny f) s e qs [f.dst.toNat] (fun _ _ => decide (voters ≠ 0)) 0 ∧
    PutsPreds (.voteAll f) s e qs [f.dst.toNat] (fun _ _ => decide (voters = e.lanes)) 0 ∧
    PutsPreds (.pand f) s e qs [f.dst.toNat] (fun _ l => pa l && pb l) 0 ∧
    PutsPreds (.por f) s e qs [f.dst.toNat] (fun _ l => pa l || pb l) 0 ∧
    PutsPreds (.pxor f) s e qs [f.dst.toNat] (fun _ l => pa l != pb l) 0 ∧
    PutsPreds (.pnot f) s e qs [f.dst.toNat] (fun _ l => !pa l) 0 ∧
    PutsPreds (.pmov f) s e qs [f.dst.toNat] (fun _ l => a l != 0) 0 ∧
    PutsPreds (.psplit f) s e qs (List.range 7) (fun p l => (a l).getLsbD p) 0

/-! ## Floating results -/

/-- R200, R201, R203, R64: the FP32 instructions and `fclass` write the rounded result and gather its flags. -/
def Sys2Proof.Rules.FloatResults : Prop :=
  ∀ (i : Instr) (s : State) (e : Iss) (qs : List Queue) (r : Nat → FRes),
    (∀ lane, Rules.floating (Rules.env e) (fun k => Rules.src s e qs k lane) i = some (r lane)) →
      Puts32 i s e qs (Rules.dst e) (fun l => BitVec.ofNat 32 (r l).code) (Rules.flagsOf e r) 0

/-- R201: `fabs` and `fneg` clear or invert bit 31 and change nothing else, whatever `fpc` holds, and raise no flag. -/
def Sys2Proof.Rules.SignBits : Prop :=
  ∀ (f : LaneForm) (h : ShortForm) (s : State) (e : Iss) (qs : List Queue),
    Puts32 (.fabs f) s e qs (Rules.dst e) (fun l => Rules.src s e qs 1 l &&& 0x7FFFFFFF) 0 0 ∧
    Puts32 (.fabsShort h) s e qs (Rules.dst e) (fun l => Rules.src s e qs 4 l &&& 0x7FFFFFFF) 0 0 ∧
    Puts32 (.fneg f) s e qs (Rules.dst e) (fun l => Rules.src s e qs 1 l ^^^ 0x80000000) 0 0 ∧
    Puts32 (.fnegShort h) s e qs (Rules.dst e) (fun l => Rules.src s e qs 4 l ^^^ 0x80000000) 0 0

/-- R205, R206, R208, R64: packed 16-bit arithmetic, `pk2`, and `cvt` between types of one word. -/
def Sys2Proof.Rules.PackedResults : Prop :=
  ∀ (i : Instr) (s : State) (e : Iss) (qs : List Queue) (r : Nat → FRes),
    (∀ lane, Rules.packed (Rules.env e) (fun k => Rules.src s e qs k lane) i = some (r lane)) →
      Puts32 i s e qs (Rules.dst e) (fun l => BitVec.ofNat 32 (r l).code) (Rules.flagsOf e r) 0

/-- R206: `cvt` from or to a type of two words. -/
def Sys2Proof.Rules.WideConversion : Prop :=
  ∀ (rm : RM) (f : LaneForm) (s : State) (e : Iss) (qs : List Queue),
    let v := Rules.env e
    let x (l : Nat) : Nat := if wideType f.src3.toNat then (Rules.srcPair s e qs 1 l).toNat else (Rules.src s e qs 1 l).toNat
    let r (l : Nat) : FRes := cvtValue v (modeOf v rm) f.src2.toNat f.src3.toNat (x l)
    (wideType f.src2.toNat = true →
      Puts64 (.cvt rm f) s e qs f.dst.toNat (fun l => BitVec.ofNat 64 (r l).code) (Rules.flagsOf e r) 0) ∧
    (wideType f.src2.toNat = false →
      Puts32 (.cvt rm f) s e qs f.dst.toNat (fun l => BitVec.ofNat 32 (r l).code) (Rules.flagsOf e r) 0)

/-- R215, R216, R222, R87: `chain` evaluates its slots in order and writes the accumulator, with n used slots n − 1 further
issue steps pass; `red` and `scan` write the tree's root over the sub-group's lanes that take part, or the running value
up to the lane. -/
def Obligations.CombinedResults : Prop :=
  ∀ (f : LaneForm) (op : RedOp) (c : ChainForm) (s : State) (e : Iss) (qs : List Queue),
    let v := Rules.env e
    let k := f.src3.toNat
    let leaf (l : Nat) : Option FRes := if e.lanes.getLsbD l then some ⟨(Rules.src s e qs 1 l).toNat, 0⟩ else none
    let group (l : Nat) : List Nat := (List.range (2 ^ k)).map (fun j => l - l % 2 ^ k + j)
    let tree (l : Nat) : FRes := (redTree v op k ((group l).map leaf)).getD ⟨0, 0⟩
    let upTo (l : Nat) : FRes :=
      (((group l).filter (fun j => decide (j ≤ l))).map leaf).foldl (scanStep v op) none |>.getD ⟨0, 0⟩
    let slots := chainUsed c.slots
    let value (l : Nat) : FRes :=
      chainValue v slots [(Rules.src s e qs 1 l).toNat, (Rules.src s e qs 2 l).toNat, (Rules.src s e qs 3 l).toNat, (Rules.src s e qs 4 l).toNat]
    Puts32 (.red op f) s e qs (Rules.dst e) (fun l => BitVec.ofNat 32 (tree l).code) (Rules.flagsOf e tree) 0 ∧
    Puts32 (.scan op f) s e qs (Rules.dst e) (fun l => BitVec.ofNat 32 (upTo l).code) (Rules.flagsOf e upTo) 0 ∧
    Puts32 (.chain c) s e qs (Rules.dst e) (fun l => BitVec.ofNat 32 (value l).code) (Rules.flagsOf e value) (slots.length - 1)

/-- R95, R196 to R198, R219, R220, R224: the integer instructions of one result word, and those that move words between lanes or
from predicates. -/
def Obligations.IntegerAndMoveResults : Prop := Sys2Proof.Rules.IntegerResults ∧ Sys2Proof.Rules.MoveResults

/-- R182, R196, R206, R208, R221: the instructions that write a register pair, and `cvt` from or to a type of two words.
The model's choices in it: log 34. -/
def Obligations.PairAndWideResults : Prop := Sys2Proof.Rules.PairResults ∧ Sys2Proof.Rules.WideConversion

/-- R200, R201, R203, R205, R206, R208: the FP32 instructions, the packed 16-bit ones and the conversions of one word.
The model's choices in it: logs 33, 97, 132. -/
def Obligations.FloatingResults : Prop := Sys2Proof.Rules.FloatResults ∧ Sys2Proof.Rules.SignBits ∧ Sys2Proof.Rules.PackedResults

/-! ## Encoding -/

namespace Sys2Proof.Rules

open Sys2Proof Sys2Proof.Machine Sys2Proof.Safety

/-- Control fields with no waits, no stall, no last read, no guard, and a scoreboard to set (7 for none). -/
def plainCtl (set : BitVec 3) : Ctl := ⟨0, 0, set, 0, 0, false, false⟩

/-- The bytes at an address of a context, as a core fetches them: each word's page lets it be fetched. -/
def codeAt (s : State) (core ctx va : Nat) (bs : List Byte) : Prop :=
  ∀ j, 4 * j < bs.length →
    ∃ x, checkOne s core ctx (va + 4 * j) 4 .fetch true = .ok x ∧ codeBytes s core x 4 = (bs.drop (4 * j)).take 4

/-- The page of an address holds native code (R352). -/
def nativeAt (s : State) (core ctx va : Nat) : Prop :=
  ∃ x, checkOne s core ctx va 4 .fetch true = .ok x ∧ x.leaf / 32 % 2 = 0

end Sys2Proof.Rules

/-- R34, R36, R37, R38, R39, R40: words written out from the layouts, with what they stand for: a short `iadd` v3, v5; an
`icmp.lt.i32` p2, v1, v3; an `iadd` v1, v2, 100 under not p3; a `ld` v4 from the address v8:v9 + 16 that sets sb1; the
`vfput` of 23_program_narrows; a `ckptx` of v32:v33; a `chain`; `sadd` s1, s2, s3; `sbeq` s1, s2, +5 words. -/
def Obligations.DecodesWords : Prop :=
  decodeWord .lane 0x00050308 = some (.iaddShort ⟨3, 5, 0, false, false, false⟩) ∧
  decodeWord .lane 0x00E000003010210A = some (.icmp .ltI ⟨2, 1, 3, 0, Sys2Proof.Rules.plainCtl 7, none⟩) ∧
  decodeWord .lane 0x00000064D8E0000FF0201003 = some (.iadd ⟨1, 2, 255, 0, ⟨0, 0, 7, 0, 3, true, true⟩, some 100⟩) ∧
  decodeWord .lane 0x000000100020000020804A03 = some (.ld ⟨4, 8, 2, 0, Sys2Proof.Rules.plainCtl 1, some 16⟩) ∧
  decodeWord .lane 0x00E0000000200AA2 = some (.vfput ⟨0, 2, 0, 0, Sys2Proof.Rules.plainCtl 7, none⟩) ∧
  decodeWord .lane 0x000000001000000000001957 = some (.ckptx ⟨1, 1⟩) ∧
  decodeWord .lane 0x00003065C1800919001047C3 = some (.chain ⟨4, 1, 0x90, 0x91, 0, false, 0xC19706⟩) ∧
  decodeWord .scalar 0x00C20400 = some (.sadd ⟨1, 2, 3⟩) ∧
  decodeWord .scalar 0x00811500 = some (.sbeq 1 2 5)

/-- R30: bits [1:0] of the first word give the length; in the scalar stream the codes 01 and 11 are no instruction, and
what is fetched there traps ILLEGAL_OP with its own bits. -/
def Obligations.LengthCodes : Prop :=
  ∀ (w : Nat) (s : State) (core slot : Nat) (g : Group),
    (w % 4 < 2 → lengthOf w = 32) ∧ (w % 4 = 2 → lengthOf w = 64) ∧ (w % 4 = 3 → lengthOf w = 96) ∧
    (w % 4 = 1 ∨ w % 4 = 3 → decodeWord .scalar w = none ∧
      ScalarTraps (fetched .scalar w) ⟨0xFF, 0, 0, 0, 0, none⟩ s core slot g ⟨0x01, 0, BitVec.ofNat 64 w, none, none⟩)

/-- R30, R34 to R41, R64, R65: what check 2 accepts and has an encoding is read back from its bytes, every field at
every value: the decoder gives the instruction and its length, whatever follows it. -/
def Obligations.DecodeEncode : Prop :=
  ∀ (i : Instr) (st : Stream) (n w : Nat) (rest : List Byte), accepts i = true → encode i = some (st, n, w) →
    decode st (bytesOfWord (n / 8) w ++ rest) = some (i, n / 8)

/-- R30, R34 to R41, R47: the bits of a word that decodes are those that its instruction encodes to: no bit is dropped,
and no two words of a stream stand for one instruction. -/
def Obligations.EncodeDecode : Prop :=
  ∀ (st : Stream) (w : Nat) (i : Instr), w < 2 ^ lengthOf w → decodeWord st w = some i → encode i = some (st, lengthOf w, w)

/-! ## Reset, and what every step keeps -/

/-- R25, R166, R358, R421, R432, R461: right after reset Grendex has not started, package time is 0, nothing is resident
on a core and its registers are free, bank set 0 is chosen, rails stand at 350 mV, quads are active at pass count 1,
stacks at thermal level 0, every skerry has no owner, no lease and no program; and no byte of memory is listed (log 2).
The model's choices in it: logs 2, 8, 28. -/
def Obligations.ResetState : Prop :=
  let s := State.reset
  s.fw.boot = .off ∧ s.now = 0 ∧ s.mem = [] ∧ s.ctxs = [] ∧ s.queues = [] ∧ s.kernels = [] ∧
  (∀ c, (coreOf s c).groups = [] ∧ (coreOf s c).cohorts = [] ∧ (coreOf s c).pool = 15872 ∧ (coreOf s c).reserve = 512 ∧
    (coreOf s c).bankSet = false ∧ (coreOf s c).idles = 0 ∧ (coreOf s c).shunts = 0 ∧ (coreOf s c).plane.holder = none) ∧
  (∀ r upper, (railAt s r upper).level = 350 ∧ railTarget s r upper = 300) ∧
  (∀ q, (quadNo s q).state = .active ∧ (quadNo s q).floor = 1 ∧ (quadNo s q).burst = false) ∧
  (∀ h, (mget s.hbm h HbmStack.reset).level = 0) ∧
  (∀ c, (skerryOf s c).owner = none ∧ (skerryOf s c).lease = none ∧ (skerryOf s c).program = [] ∧ (skerryOf s c).pc = 0)

/-- The canonical form of memory and scratchpads holds right after reset. The form is no rule of spec/: it is the model's own
representation of memory, in which an unlisted byte reads 0 (log 2, a DESIGN CHOICE). -/
def Obligations.ResetMemoryForm : Prop := MemoryForm State.reset

/-- The canonical form of memory and scratchpads is kept by every step: equal contents stay equal data. The form is no rule of
spec/: it is the model's own representation of memory, in which an unlisted byte reads 0 (log 2, a DESIGN CHOICE). -/
def Obligations.StepKeepsMemoryForm : Prop :=
  ∀ s t : State, MemoryForm s → step s = .next t → MemoryForm t

/-! ## Steps -/

/-- R30, R31, R137, R230, R352, R433: the turn of a stream runs the instruction that the bytes at its address decode to,
or the next word of a translation, in the package that the fetch's walks leave (R345), and then passes the turn on; the
head of the inputs, a trap record or an RMA operation that waited (R106, R121) and a waiting mailbox command run first. Bytes
that decode to nothing run, in either stream, as an instruction that traps ILLEGAL_OP. An input that waits for the streams of a core gives
them the turn.
The model's choices in it: logs 1, 21, 23, 27, 126. -/
def Obligations.StepRuns : Prop :=
  ∀ (s : State) (core slot : Nat) (g : Group) (i : Instr) (bs : List Byte) (l : List Instr),
    let s0 := tick s
    let own := s.agenda = [] ∧ nextWaiting s0 = none ∧ nextCommand s0 = none ∧ groupOf s0 core slot = some g
    let laneTurn := own ∧ s.turn = .lane core slot ∧ beforeLane s0 core slot = none ∧ dueLane s0 g = false ∧
      canIssue s0 g = true ∧ ungranted s0 core slot = false ∧ helperStep s0 core slot g = none
    let scalarTurn := own ∧ s.turn = .scalar core slot ∧ dueScalar s0 g = false ∧ canScalar s0 g = true
    let pc := g.ln.pc.addr.toNat
    let spc := g.sc.pc.toNat
    let seen := laneSeen s0 core g
    let sseen := fetchSeen s0 core g.ctx spc
    (laneTurn → g.ln.pc.sub = 0 → Rules.nativeAt seen core g.ctx pc → Rules.codeAt seen core g.ctx pc bs →
      decode .lane bs = some (i, bs.length) → step s = andNext (afterTurn (.lane core slot)) (exec i seen)) ∧
    (laneTurn → g.ln.pc.sub = 0 → Rules.nativeAt seen core g.ctx pc → Rules.codeAt seen core g.ctx pc bs → 4 ≤ bs.length →
      8 * bs.length = lengthOf (wordOfBytes (bs.take 4)) → decodeWord .lane (wordOfBytes bs) = none →
        step s = andNext (afterTurn (.lane core slot)) (exec (.unassignedOpcode .lane (BitVec.ofNat 64 (wordOfBytes bs))) seen)) ∧
    (laneTurn → fetchLane seen core g = .ok (.translated i) → step s = andNext (afterTurn (.lane core slot)) (exec i seen)) ∧
    (scalarTurn → Rules.nativeAt sseen core g.ctx spc → Rules.codeAt sseen core g.ctx spc bs →
      decode .scalar bs = some (i, bs.length) → step s = andNext (afterTurn (.scalar core slot)) (exec i sseen)) ∧
    (scalarTurn → Rules.nativeAt sseen core g.ctx spc → Rules.codeAt sseen core g.ctx spc bs → 4 ≤ bs.length →
      8 * bs.length = lengthOf (wordOfBytes (bs.take 4)) → decodeWord .scalar (wordOfBytes bs) = none →
        step s = andNext (afterTurn (.scalar core slot)) (exec (.unassignedOpcode .scalar (BitVec.ofNat 64 (wordOfBytes bs))) sseen)) ∧
    (∀ c, s.agenda = i :: l → waitsFor s i = some c → step s = ownStep (tick (turnTo c s))) ∧
    (s.agenda = i :: l → waitsFor s i = none → arrives s i = true → step s = exec i (prepare i (tick { s with agenda := l }))) ∧
    (∀ t, s.agenda = [] → nextWaiting s0 = some t → step s = .next t) ∧
    (s.agenda = [] → nextWaiting s0 = none → nextCommand s0 = some i → step s = exec i s0)

/-- R149, R173: a lane stream that stands at the rpc of its top entry, of any kind but CALL, takes it off the stack
before anything issues, and goes on with its mask and format: at rpc after RECONV and MELD, the meld region ended, at
the entry's pc after PENDING, two issue steps later.
The model's choices in it: log 16. -/
def Obligations.Reconvergence : Prop :=
  ∀ (s : State) (core slot : Nat) (g : Group) (x : StackEntry) (rest : List StackEntry),
    let s0 := tick s
    s.agenda = [] → nextWaiting s0 = none → nextCommand s0 = none → s.turn = .lane core slot → readyResult g.ln = none →
    groupOf s0 core slot = some g → laneRuns s0 g = true →
    g.ln.faultRestarts = false → g.ln.stack = x :: rest → aboveMark g.ln = true → x.kind ≠ .call → x.rpc = g.ln.pc.addr →
    g.ln.pc.sub = 0 → x.mask &&& ~~~ g.ln.exited ≠ 0 → spillCount g.ln = 0 →
      ∃ t h, step s = .next (afterBefore core slot t) ∧ groupOf t core slot = some h ∧ h.ln.stack = rest ∧
        h.ln.em = x.mask &&& ~~~ g.ln.exited ∧ h.ln.fmt = x.fmt ∧
        h.ln.pc.addr = (if x.kind = .pending then x.pc else x.rpc) ∧
        h.ln.path = (if x.kind = .meld then none else g.ln.path) ∧
        h.ln.clock = g.ln.clock ∧
        h.ln.next = (if x.kind = .pending then max g.ln.clock g.ln.next + issueSteps 2 else g.ln.next) ∧
        h.ln.regs = g.ln.regs ∧ h.ln.ofile = g.ln.ofile ∧ h.ln.preds = g.ln.preds ∧ t.mem = s.mem

/-- R45, R51, R52, R57, R192: what the issue step leaves of an instruction with effect `d`: the effect's package, memory
and every other core and group as they are there; its lane stream moved to the next address, the transfer's goal or
where the effect put it; the group's next instruction held back by its own step, its stall field and its delay; a result that comes later queued
under its scoreboard, which counts one more; flags gathered, or LANE_FP taken with the instruction's own address.
The model's choices in it: logs 3, 16, 132. -/
def Obligations.EffectLands : Prop :=
  ∀ (i : Instr) (e : Iss) (d : Done) (g : Group) (p : Pending) (tr : Trap), groupOf d.st e.core e.slot = some g →
    let t := landed i e d
    let set := if e.x.ctl.set.toNat < 6 then some e.x.ctl.set.toNat else none
    (d.pend = none → laneFp e.g.ln.fpc d.flags = some tr → t = raiseTrap
      (setCore d.st e.core (coreAfter i e d d.st.opp g (coreOf d.st e.core))) e.core e.slot .lane
        { tr with mask := some e.lanes, site := some ⟨e.g.ln.pc, e.cas.isSome⟩ }) ∧
    (d.pend ≠ none ∨ laneFp e.g.ln.fpc d.flags = none →
      { t with cores := d.st.cores } = d.st ∧ (∀ c, c ≠ e.core → coreOf t c = coreOf d.st c) ∧
      (∀ slot, slot ≠ e.slot → groupOf t e.core slot = groupOf d.st e.core slot) ∧
      ∃ h, groupOf t e.core e.slot = some h ∧ { h with ln := g.ln } = g ∧ h.ln.em = g.ln.em ∧ h.ln.stack = g.ln.stack ∧
        h.ln.clock = g.ln.clock ∧ h.ln.next = e.g.ln.clock + issueSteps (1 + e.x.ctl.stall.toNat + d.steps) ∧
        (d.flow = .fall → h.ln.pc = followingPc e i) ∧ (∀ pc, d.flow = .goto pc → h.ln.pc = pc) ∧
        (d.flow = .set → h.ln.pc = g.ln.pc) ∧
        (d.pend = none → h.ln.fpc = raiseFlags g.ln.fpc d.flags ∧ h.ln.outstanding = g.ln.outstanding ∧ h.ln.sb = g.ln.sb) ∧
        (d.pend = some p → h.ln.fpc = g.ln.fpc ∧
          h.ln.outstanding = g.ln.outstanding ++
            [{ p with sb := set, writes := (p.writes.map (resolveWrite e.g.ln)).flatten }] ∧
          (∀ n, set = some n → h.ln.sb = lset 0 g.ln.sb n (g.ln.sb.getD n 0 + 1))))

/-! ## Control -/

/-- R173, R174, R175, R176, R177: where the transfers of the lane stream go. Outside a meld region, with a target that
passes R31 and R352, a transfer that every active lane takes sets pc; one that some lanes leave to others pushes the
entries of R150 and goes on with the lanes taking part; `brau` pushes nothing and falls through where its condition is
false everywhere; `call` pushes its return address with `em` before it jumps. -/
def Sys2Proof.Rules.Transfers : Prop :=
  ∀ (f : LaneForm) (s : State) (e : Iss) (qs : List Queue), e.g.ln.path = none →
    let s0 := issued s e qs
    let l := e.g.ln
    let m := (coreOf s0 e.core).scratch
    let t := relTarget l.pc (f.lit.getD 0)
    let tgt (t : Nat) (s : State) : Done := Done.jump s (BitVec.ofNat 48 t)
    let rpc := l.pc.addr + BitVec.ofNat 48 (4 * wide16 f)
    let rest := l.em &&& ~~~ e.lanes
    let p := predMask s0 l f.src1.toNat
    let c := l.em &&& (if f.src2 = 1 then ~~~ p else p)
    let v := src64 s0 e (fieldAt e.x 1) (lowestLane e.lanes)
    let agree := e.lanes &&& maskOf (fun j => decide (src64 s0 e (fieldAt e.x 1) j ≠ v)) = 0
    (checkTransfer s0 e t = .ok () →
      (f.ctl.gen = false ∨ rest = 0 → Completes (.bra f) s e qs (tgt t s0)) ∧
      (∀ l' m', f.ctl.gen = true → rest ≠ 0 → pushPaths l m (followingPc e (.bra f)).addr rpc rest = .ok (l', m') →
        Completes (.bra f) s e qs (tgt t (putLane s0 e.core e.slot ({ l' with em := e.lanes }, m')))) ∧
      (c = l.em → Completes (.brau f) s e qs (tgt t s0))) ∧
    (c ≠ l.em → c = 0 → Completes (.brau f) s e qs (Done.plain s0)) ∧
    (agree → checkTransfer s0 e v = .ok () →
      (f.ctl.gen = false ∨ rest = 0 → Completes (.jmpi f) s e qs (tgt v s0)) ∧
      (∀ l' m', f.ctl.gen = true → rest ≠ 0 → pushPaths l m (followingPc e (.jmpi f)).addr rpc rest = .ok (l', m') →
        Completes (.jmpi f) s e qs (tgt v (putLane s0 e.core e.slot ({ l' with em := e.lanes }, m'))))) ∧
    (∀ l' m', e.cas = none → checkTransfer s0 e t = .ok () →
      pushEntry l m ⟨.call, l.pc.addr + 12, 0, l.em, l.fmt⟩ = .ok (l', m') →
        Completes (.call f) s e qs (tgt t (putLane s0 e.core e.slot ({ l' with em := e.lanes }, m'))))

/-- R175, R176: lanes that disagree on the condition of `brau` or on the target of `jmpi` trap UNIFORMITY, with the lanes
that differ from the lowest one in the record's word. -/
def Sys2Proof.Rules.UniformityTraps : Prop :=
  ∀ (f : LaneForm) (s : State) (e : Iss) (qs : List Queue), e.g.ln.path = none →
    let s0 := issued s e qs
    let l := e.g.ln
    let p := predMask s0 l f.src1.toNat
    let c := l.em &&& (if f.src2 = 1 then ~~~ p else p)
    let v := src64 s0 e (fieldAt e.x 1) (lowestLane e.lanes)
    let dissent := e.lanes &&& maskOf (fun j => decide (src64 s0 e (fieldAt e.x 1) j ≠ v))
    (c ≠ l.em → c ≠ 0 →
      Traps (.brau f) s e qs ⟨0x05, 0, if c.getLsbD (lowestLane l.em) then l.em &&& ~~~ c else c, none, none⟩) ∧
    (dissent ≠ 0 → Traps (.jmpi f) s e qs ⟨0x05, 0, dissent, none, none⟩)

/-- R155, R177, R178, R179, R153: `ret` takes its lanes off the entries above the innermost CALL and, while others remain,
goes on with them, else with what the stack gives, at an address that passes R31 and R352; `meld` pushes its entry and records
the path of each lane; `mtab` sets four entries of a table; `lend` ends the block outside a handler with an empty stack; `exit`
removes the lanes taking part.
The model's choices in it: logs 110, 129, 131. -/
def Obligations.PathsAndEnds : Prop :=
  ∀ (f : LaneForm) (s : State) (e : Iss) (qs : List Queue),
    let s0 := issued s e qs
    let l := e.g.ln
    let m := (coreOf s0 e.core).scratch
    let without : Lane := { l with stack := leaveAbove e.lanes l.stack, em := l.em &&& ~~~ e.lanes }
    let left : State := putLane s0 e.core e.slot (without, leaveSpilled l m e.lanes)
    let target := checkReturn s0 e (leaveSpilled l m e.lanes) without
    let gone := exitLanes s0 e.core e.slot e.lanes
    (l.path = none →
      (hasCall l m = true →
        (l.em &&& ~~~ e.lanes ≠ 0 → Completes (.ret f) s e qs { Done.plain left with steps := 2 }) ∧
        (l.em &&& ~~~ e.lanes = 0 → target = .ok () →
          Completes (.ret f) s e qs { Done.plain (findLanes left e.core e.slot) with flow := .set, steps := 2 }) ∧
        (∀ t, target = .error (.trap t) → Traps (.ret f) s e qs t)) ∧
      (∀ l' m', pushEntry l m ⟨.meld, 0, l.pc.addr + BitVec.ofNat 48 (4 * wide16 f), l.em, l.fmt⟩ = .ok (l', m') →
        Completes (.meld f) s e qs
          (Done.plain (putLane s0 e.core e.slot ({ l' with path := some (l'.em &&& predMask s0 l' f.src1.toNat) }, m')))) ∧
      Completes (.mtab f) s e qs (Done.plain (modLane s0 e.core e.slot (fun l =>
        if f.dst = 0 then { l with t0 := setTable l.t0 (4 * f.src1.toNat) (litOf f) }
        else { l with t1 := setTable l.t1 (4 * f.src1.toNat) (litOf f) })))) ∧
    (stackDepth l = 0 → l.handler = none →
      Completes (.lend f) s e qs { Done.plain (endBlock s0 e.core e.slot) with flow := .set, steps := 2 }) ∧
    (∀ g, groupOf gone e.core e.slot = some g →
      (g.ln.em ≠ 0 → Completes (.exit f) s e qs (Done.plain gone)) ∧
      (g.ln.em = 0 → Completes (.exit f) s e qs { Done.plain (findLanes gone e.core e.slot) with flow := .set, steps := 2 })) ∧
    (groupOf gone e.core e.slot = none → Completes (.exit f) s e qs (Done.plain gone))

/-- R158, R159, R180: `ckpt` and `ckptx` wait for the group's array entries, store the save of the live names at the group's
checkpoint base, and then open the region that the save restarts. -/
def Sys2Proof.Rules.RegionOpens : Prop :=
  ∀ (f : LaneForm) (x : CkptxForm) (s t : State) (e : Iss) (qs : List Queue),
    let s0 := issued s e qs
    let opens (i : Instr) (low : BitVec 32) (pairs : BitVec 48) : Prop :=
      let sv := saveOf (coreOf s0 e.core).scratch e.g (followingPc e i) low pairs
      let bs := saveBytes sv (widthG e.g) (freeBytes s0 64 64)
      arrayBusy (coreOf s0 e.core) e.slot = false → bs.length ≤ e.g.ckptSize →
        storeRange s0 e.core e.g.ctx e.g.ckptBase.toNat bs = .ok t →
          Completes i s e qs (Done.plain (modLane (seeFills (openRegion t e.core e.slot) e.core e.g (fun _ => true)) e.core e.slot
            (fun l => { l with region := some ⟨sv, false, isCkpt i, groupRows e.g⟩ })))
    opens (.ckpt f) (liveMask f) 0 ∧ opens (.ckptx x) (joinedLow e.g.ln) x.pairs

/-- R181, R64: `nop` and its short form, and `wait` of 0, have no effect beyond their stall; `wait` puts the group to sleep
for its count; `yield` renews the group's age. -/
def Sys2Proof.Rules.Pacing : Prop :=
  ∀ (f : LaneForm) (h : ShortForm) (s : State) (e : Iss) (qs : List Queue),
    let s0 := issued s e qs
    Completes (.nop f) s e qs (Done.plain s0) ∧ Completes (.nopShort h) s e qs (Done.plain s0) ∧
    (wide16 f = 0 → Completes (.wait f) s e qs (Done.plain s0)) ∧
    (wide16 f ≠ 0 → Completes (.wait f) s e qs
      (Done.plain (modLane s0 e.core e.slot (fun l => { l with state := .sleeping, sleep := some (.ac (wide16 f) (coreOf s0 e.core).ac) })))) ∧
    Completes (.yield f) s e qs (Done.plain (modGroup s0 e.core e.slot (fun g => { g with age := s0.now })))

/-- R182, R183: `emwr` narrows `em` to a value that leaves some lane, and traps ILLEGAL_OPERAND at field 1 where it leaves
none; `salloc` and `sfree` move `sp` by a nonzero multiple of 32, within the stack area, and trap STACK_LIMIT outside it. -/
def Sys2Proof.Rules.MaskAndStack : Prop :=
  ∀ (f : LaneForm) (s : State) (e : Iss) (qs : List Queue),
    let s0 := issued s e qs
    let v : Mask := BitVec.ofNat 64 (uni64 s0 e (fieldAt e.x 1))
    let n := litOf f
    let sp := e.g.ln.sp.toNat
    (e.g.ln.em &&& v ≠ 0 → Completes (.emwr f) s e qs
      (Done.plain (modLane s0 e.core e.slot (fun l => { l with em := l.em &&& v })))) ∧
    (e.g.ln.em &&& v = 0 → Traps (.emwr f) s e qs ⟨0x02, 0, BitVec.ofNat 64 (1 + f.src1.toNat * 256), none, none⟩) ∧
    (n ≠ 0 → n % 32 = 0 →
      (n + e.g.ln.rsp.toNat ≤ sp → Completes (.salloc f) s e qs
        (Done.plain (modLane s0 e.core e.slot (fun l => { l with sp := BitVec.ofNat 19 (sp - n) })))) ∧
      (sp < n + e.g.ln.rsp.toNat →
        Traps (.salloc f) s e qs ⟨0x0B, 0, BitVec.ofNat 64 sp - BitVec.ofNat 64 n, none, none⟩) ∧
      (sp + n ≤ e.g.stkTop.toNat → Completes (.sfree f) s e qs
        (Done.plain (modLane s0 e.core e.slot (fun l => { l with sp := BitVec.ofNat 19 (sp + n) })))) ∧
      (e.g.stkTop.toNat < sp + n → Traps (.sfree f) s e qs ⟨0x0B, 0, BitVec.ofNat 64 (sp + n), none, none⟩))

/-! ## Traps -/

/-- R184, R438, R444, R58: `trap` raises TRAP_INSN and `brk` BREAK with their immediate; a word that check 2 refuses raises
ILLEGAL_OP in the stream that fetched it; the word of a Casnis instruction that Flinte cannot translate raises what its
kind says. -/
def Obligations.SoftwareTraps : Prop :=
  ∀ (f : LaneForm) (s : State) (e : Iss) (qs : List Queue) (w : BitVec 64) (c : Ctl) (core slot : Nat) (g : Group)
    (sub : BitVec 8) (n : BitVec 4) (v : BitVec 8),
    Traps (.trap f) s e qs ⟨0x15, 0, BitVec.ofNat 64 (wide16 f), none, none⟩ ∧
    Traps (.brk f) s e qs ⟨0x14, 0, BitVec.ofNat 64 (wide16 f), none, none⟩ ∧
    Traps (.unassignedOpcode .lane w) s e qs ⟨0x01, 0, w, none, none⟩ ∧
    ScalarTraps (.unassignedOpcode .scalar w) ⟨0xFF, 0, 0, 0, 0, none⟩ s core slot g ⟨0x01, 0, w, none, none⟩ ∧
    Traps (.legacyWord (.legacy sub) w c) s e qs ⟨0x13, sub.toNat, w, none, none⟩ ∧
    Traps (.legacyWord .illegalOp w c) s e qs ⟨0x01, 9, w, none, none⟩ ∧
    Traps (.legacyWord (.illegalOperand n v) w c) s e qs
      ⟨0x02, 0, BitVec.ofNat 64 (n.toNat + v.toNat * 256), some (guardLanes (issued s e qs) e.g.ln c), none⟩

/-- R103, R104, R147, R171: a trap of a lane stream outside handler mode, in a context with a lane handler and while the
scalar stream runs no handler and no earlier trap of the stream waits, writes its 64-byte record to the group's slot of
the scratchpad, keeps `em`, `fmt`, the predicates, the path and the stack's depth, and goes on at the handler with the
record's mask; main memory and the scalar stream stay. -/
def Sys2Proof.Rules.LaneTrapEntry : Prop :=
  ∀ (s : State) (core slot : Nat) (g : Group) (t : Trap), MemoryForm s → groupOf s core slot = some g → slot < 32 →
    g.ln.handler = none → g.sc.handler = false → g.ln.deferred = [] → (ctxOf s g.ctx).hlane ≠ 0 → t.code ≠ 0x0E → t.code ≠ 0x18 →
    ¬ (t.code = 0x14 ∧ (ctxOf s g.ctx).debug = true) →
      let s' := raiseTrap s core slot .lane t
      let mask := t.mask.getD g.ln.em &&& ~~~ g.ln.exited
      (∃ g', groupOf s' core slot = some g' ∧
        g'.ln.pc = ⟨(ctxOf s g.ctx).hlane, 0⟩ ∧ g'.ln.em = (if mask = 0 then g.ln.em else mask) ∧
        g'.ln.handler = some ⟨g.ln.em, g.ln.fmt, g.ln.preds, stackDepth g.ln, g.ln.path, g.ln.justCkpt⟩ ∧
        g'.ln.mark = some (stackDepth g.ln) ∧ g'.ln.state = .trapped ∧ g'.ln.path = none ∧
        g'.ln.regs = g.ln.regs ∧ g'.ln.stack = g.ln.stack ∧ g'.sc = g.sc) ∧
      Memory.readBytes (coreOf s' core).scratch (trapSlot slot) 64 = trapRecord s core slot g .lane t s.now ∧
      s'.mem = s.mem

/-- R103, R249: the same for the scalar stream: it stands at the scalar handler with its call stack marked, its registers
and the lane stream as they were. -/
def Sys2Proof.Rules.ScalarTrapEntry : Prop :=
  ∀ (s : State) (core slot : Nat) (g : Group) (t : Trap), MemoryForm s → groupOf s core slot = some g → slot < 32 →
    g.ln.handler = none → g.sc.handler = false → g.sc.deferred = [] → (ctxOf s g.ctx).hscal ≠ 0 → t.code ≠ 0x0E → t.code ≠ 0x18 → t.code ≠ 0x14 →
      let s' := raiseTrap s core slot .scalar t
      groupOf s' core slot = some { g with sc :=
        { g.sc with handler := true, rmark := some g.sc.rstack.length, pc := (ctxOf s g.ctx).hscal } } ∧
      Memory.readBytes (coreOf s' core).scratch (trapSlot slot) 64 = trapRecord s core slot g .scalar t s.now ∧
      s'.mem = s.mem

/-- R171, R184, R249, R250: `tret` restores what the entry kept, drops the entries above the mark and goes on at the word at
offset 8 of the record slot; outside handler mode it traps ILLEGAL_OP with subcode 4. The oldest trap that waits is taken
once the other stream's handler has returned, the lane stream's first; the scalar stream's at its next issue, which its
end, a page fault or a word that it waits for holds off.
The model's choices in it: logs 40, 44, 109, 131. -/
def Obligations.TrapReturn : Prop :=
  ∀ (f : LaneForm) (s : State) (e : Iss) (qs : List Queue) (h : HandlerSave),
    let s0 := issued s e qs
    let pc := recordAddress s0 e.core e.slot
    let m := (coreOf s0 e.core).scratch
    let back := modLane (modCore s0 e.core (fun k =>
        if k.plane.unreturned = some e.slot then { k with plane := { k.plane with unreturned := none } } else k))
      e.core e.slot (fun l => leaveLaneHandler l m h pc 0)
    (e.g.ln.handler = some h → pc.toNat % 4 = 0 → h.em &&& ~~~ e.g.ln.exited ≠ 0 →
      Completes (.tret f) s e qs { Done.plain back with flow := .set }) ∧
    (e.g.ln.handler = none → Traps (.tret f) s e qs ⟨0x01, 4, instrBits (.tret f), none, none⟩) ∧
    ∀ (core slot : Nat) (g : Group) (t : Trap) (l : List Trap), groupOf s core slot = some g → g.ln.handler = none →
      (g.ln.deferred = t :: l → g.sc.handler = false → g.faulting = false → (ctxOf s g.ctx).state ≠ .faulted →
        exec (.deferredTrap core slot) s =
          .next (takeTrap (modLane s core slot (fun x => { x with deferred := l })) core slot .lane t)) ∧
      (g.ln.deferred = [] ∨ g.sc.handler = true → g.sc.deferred = t :: l →
        canScalar s { g with sc := { g.sc with deferred := [] } } = true → exec (.deferredTrap core slot) s =
          .next (takeTrap (modScalar s core slot (fun z => { z with deferred := l, watch := none })) core slot .scalar t))

/-- R173 to R177: where the transfers of the lane stream go, and where lanes that disagree trap.
The model's choices in it: logs 37, 44, 110. -/
def Obligations.LaneTransfers : Prop := Sys2Proof.Rules.Transfers ∧ Sys2Proof.Rules.UniformityTraps

/-- R158, R180 to R183: regions opened, pacing, the execution mask and the stack pointer.
The model's choices in it: logs 37, 38, 47, 95. -/
def Obligations.RegionsPacingAndMasks : Prop := Sys2Proof.Rules.RegionOpens ∧ Sys2Proof.Rules.Pacing ∧ Sys2Proof.Rules.MaskAndStack

/-- R103, R104, R171, R249: what taking a trap saves and where each stream goes on.
The model's choices in it: logs 2, 40, 41, 44, 107, 128. -/
def Obligations.TrapEntry : Prop := Sys2Proof.Rules.LaneTrapEntry ∧ Sys2Proof.Rules.ScalarTrapEntry

/-! ## The scalar stream -/

namespace Sys2Proof.Rules

/-- A scalar register of a group; s0 reads zero (R226). -/
def sreg (g : Group) (n : SName) : DWord := if n = 0 then 0 else g.sc.s.getD n.toNat 0

/-- (a × b)[127:64] of signed or unsigned values. -/
def highI (a b : DWord) : DWord := ((a.signExtend 128 * b.signExtend 128) >>> 64).setWidth 64
/-- Unsigned. -/
def highN (a b : DWord) : DWord := ((a.setWidth 128 * b.setWidth 128) >>> 64).setWidth 64

/-- The results of the ALU operations on two values, in opcode order (R229). -/
def scalarOp (op : Nat) (a b : DWord) : Option DWord :=
  match op with
  | 0x00 => some (a + b)
  | 0x01 => some (a - b)
  | 0x02 => some (a * b)
  | 0x03 => some (highI a b)
  | 0x04 => some (highN a b)
  | 0x08 => some (a &&& b)
  | 0x09 => some (a ||| b)
  | 0x0A => some (a ^^^ b)
  | 0x0C => some (a <<< (b.toNat % 64))
  | 0x0D => some (a >>> (b.toNat % 64))
  | 0x0E => some (a.sshiftRight (b.toNat % 64))
  | 0x10 => some (if b.toInt < a.toInt then b else a)
  | 0x11 => some (if b.toNat < a.toNat then b else a)
  | 0x12 => some (if a.toInt < b.toInt then b else a)
  | 0x13 => some (if a.toNat < b.toNat then b else a)
  | _ => none

/-- The second operand of an ALU instruction by its form: op8 below 0x20 reads sb, above it the sign-extended immediate of
10 or of 32 bits (R41). -/
def scalarB (g : Group) (x : ScalarFields) : DWord :=
  if x.op < 0x20 then sreg g x.sb
  else match x.lit with
    | some v => v.signExtend 64
    | none => (x.imm4 ++ x.sb).signExtend 64

/-- The result of an ALU instruction with its fields: `smov` gives sa, `sli` its immediate (R229). -/
def scalarResult (g : Group) (x : ScalarFields) : Option DWord :=
  if 0x40 ≤ x.op then none
  else if x.op = 0x18 then some (sreg g x.sa)
  else if x.op = 0x38 then some (scalarB g x)
  else scalarOp (x.op % 0x20) (sreg g x.sa) (scalarB g x)

/-- The condition of a branch on two values (R231). -/
def branchOp (op : Nat) (a b : DWord) : Option Bool :=
  match op with
  | 0x40 => some (a == b)
  | 0x41 => some (a != b)
  | 0x42 => some (decide (a.toInt < b.toInt))
  | 0x43 => some (decide (b.toInt ≤ a.toInt))
  | 0x44 => some (decide (a.toNat < b.toNat))
  | 0x45 => some (decide (b.toNat ≤ a.toNat))
  | 0x48 => some true
  | _ => none

/-- The byte offset of a transfer: the literal, or the signed word count times 4, which lies in [31:28] and [15:10] of a
branch and in [31:28] and [27:22] of a jump or call (R41, R228). -/
def scalarOffset (x : ScalarFields) : DWord :=
  match x.lit with
  | some v => v.signExtend 64
  | none => (x.imm4 ++ (if x.op < 0x48 then x.sd else x.sb)).signExtend 64 * 4

/-- Its target. -/
def scalarGoal (g : Group) (x : ScalarFields) : DWord := g.sc.pc.setWidth 64 + scalarOffset x

/-- A transfer of the scalar stream may go there: a multiple of 4 (R31) below 2^48, on no page of Casnis code (R352). -/
def scalarOpen (s : State) (core : Nat) (g : Group) (t : DWord) : Prop :=
  t.toNat % 4 = 0 ∧ t.toNat < 2 ^ 48 ∧ onCasnisPage s core g.ctx t.toNat = false

end Sys2Proof.Rules

/-- R226, R229, R230, R41: every scalar ALU instruction, in its register, immediate and literal forms, writes its result
to sd (s0 discards it), counts one step, and goes on after its own 4 or 8 bytes; nothing else changes. -/
def Obligations.ScalarResults : Prop :=
  ∀ (i : Instr) (x : ScalarFields) (s : State) (core slot : Nat) (g : Group) (v : DWord),
    scalarFields i = some x → Rules.scalarResult g x = some v → ScalarReady x s core slot g →
      exec i s = .next (setGroup s core slot { g with sc :=
        { g.sc with
          s := if x.sd = 0 then g.sc.s else lset 0 g.sc.s x.sd.toNat v, watch := none, stalled := false,
          pc := g.sc.pc + (if x.lit.isSome then 8 else 4), steps := g.sc.steps + 1 } })

/-- R231, R352: each branch and `sjmp`, in both lengths, goes to its target where its condition on sa and sb holds, and
else to the instruction after it; a target that is not a multiple of 4 traps ALIGN, taken or not; a transfer to a page
of Casnis code traps ACCESS. -/
def Obligations.ScalarBranches : Prop :=
  ∀ (i : Instr) (x : ScalarFields) (s : State) (core slot : Nat) (g : Group) (c : Bool),
    scalarFields i = some x → Rules.branchOp x.op (Rules.sreg g x.sa) (Rules.sreg g x.sb) = some c →
      let t := Rules.scalarGoal g x
      (ScalarReady x s core slot g → t.toNat % 4 = 0 → (c = true → Rules.scalarOpen s core g t) →
        exec i s = .next (setGroup s core slot { g with sc :=
          { g.sc with
            pc := if c then t.setWidth 48 else g.sc.pc + (if x.lit.isSome then 8 else 4), watch := none, stalled := false,
            steps := 0 } })) ∧
      (t.toNat % 4 ≠ 0 → ScalarTraps i x s core slot g ⟨0x0C, 0, t, none, none⟩) ∧
      (c = true → t.toNat % 4 = 0 → t.toNat < 2 ^ 48 → onCasnisPage s core g.ctx t.toNat = true →
        ScalarTraps i x s core slot g ⟨0x0D, 0, t, none, none⟩)

/-- A branch or jump that is taken to a target beyond 48 bits traps ACCESS (log 44). -/
def Sys2Proof.Rules.ScalarFarTargets : Prop :=
  ∀ (i : Instr) (x : ScalarFields) (s : State) (core slot : Nat) (g : Group),
    scalarFields i = some x → Rules.branchOp x.op (Rules.sreg g x.sa) (Rules.sreg g x.sb) = some true →
      let t := Rules.scalarGoal g x
      t.toNat % 4 = 0 → 2 ^ 48 ≤ t.toNat → ScalarTraps i x s core slot g ⟨0x0D, 0, t, none, none⟩

/-- R232, R249, R352: to a goal that R31 and R352 allow, `scall` pushes the address after it, newest first, and traps
STACK_LIMIT at 16 entries; `sret` pops the newest entry above the handler's mark; at the mark it returns from the
handler to the record's address; with nothing to return to it traps ILLEGAL_OP with subcode 2.
The model's choices in it: log 134. -/
def Obligations.ScalarCalls : Prop :=
  ∀ (i : Instr) (x : ScalarFields) (s : State) (core slot : Nat) (g : Group), scalarFields i = some x →
    let t := Rules.scalarGoal g x
    let back := (g.sc.pc + (if x.lit.isSome then 8 else 4)).setWidth 64
    let mark := g.sc.rmark.getD 0
    let pc := recordAddress s core slot
    (x.op = 0x49 → Rules.scalarOpen s core g t →
      (g.sc.rstack.length < 16 → ScalarCompletes i x s core slot g
        (modScalar s core slot (fun z => { z with rstack := back :: z.rstack })) (some (t.setWidth 48))) ∧
      (16 ≤ g.sc.rstack.length → ScalarTraps i x s core slot g ⟨0x0B, 0, 16, none, none⟩)) ∧
    (x.op = 0x4A →
      (mark < g.sc.rstack.length → Rules.scalarOpen s core g (g.sc.rstack.headD 0) → ScalarCompletes i x s core slot g
        (modScalar s core slot (fun z => { z with rstack := z.rstack.tail })) (some ((g.sc.rstack.headD 0).setWidth 48))) ∧
      (g.sc.rstack.length ≤ mark → g.sc.handler = true → Rules.scalarOpen s core g (pc.setWidth 64) → ScalarCompletes i x s core slot g
        (modScalar s core slot (fun z => leaveScalarHandler z pc)) (some pc)) ∧
      (g.sc.rstack.length ≤ mark → g.sc.handler = false →
        ScalarTraps i x s core slot g ⟨0x01, 2, BitVec.ofNat 64 (scalarWord x), none, none⟩))

/-- R230, R185: an ALU instruction that would bring the step count to 2^20 traps ILLEGAL_OP with subcode 5 and its own bits,
whether the count is met at its issue or comes as a step of its own. -/
def Sys2Proof.Rules.ScalarStepLimit : Prop :=
  ∀ (i : Instr) (x : ScalarFields) (s : State) (core slot : Nat) (g : Group) (v : DWord) (w : BitVec 64),
    s.turn = .scalar core slot → groupOf s core slot = some g → canScalar s g = true → 2 ^ 20 ≤ g.sc.steps + 1 →
      let at_ (w : DWord) : State := raiseTrap (modScalar s core slot (fun z => { z with watch := none })) core slot .scalar
        ⟨0x01, 5, w, none, none⟩
      (scalarFields i = some x → Rules.scalarResult g x = some v → exec i s = .next (at_ (BitVec.ofNat 64 (scalarWord x)))) ∧
      exec (.scalarStepLimit w) s = .next (at_ w)

/-- R233, R234, R255: `sld` reads 1, 2, 4 or 8 bytes at sa plus its literal, at its scope, extends them and writes sd; `sst`
stores the low bytes of sd there, plainly or as a release, which waits for what must reach its homes first (R379, R387). -/
def Sys2Proof.Rules.ScalarMemory : Prop :=
  ∀ (i : Instr) (x : ScalarFields) (s t : State) (core slot : Nat) (g : Group) (bs : List Byte) (a : Xlat),
    scalarFields i = some x →
    let m : BitVec 6 := x.sb
    let va := (Rules.sreg g x.sa + (match x.lit with
      | some v => v.signExtend 64
      | none => 0)).toNat
    let data := dwordBytes (modeSize m) (Rules.sreg g x.sd)
    (x.op = 0x60 → modeScope m < 6 → scalarLoad s core slot g.ctx va (modeSize m) (modeScope m) = .ok (bs, t) →
      ScalarCompletes i x s core slot g (putS t core slot x.sd (extendLoad m bs)) none) ∧
    (x.op = 0x61 → checkOne s core g.ctx va (modeSize m) .write (decide (modeScope m = 0)) = .ok a →
      (modeScope m = 0 →
        ScalarCompletes i x s core slot g (writeX s core (accessLevel 0 a.leaf) a data g.fenceSig) none) ∧
      (0 < modeScope m → modeScope m < 6 → releaseWaits s core (scopeOfCode (modeScope m)) = false →
        ScalarCompletes i x s core slot g
          (modGroup (releaseWrite s core (scopeOfCode (modeScope m)) a data g.sigScalar) core slot
            (fun g => { g with fenceSig := [] })) none))

/-- R235, R237, R238, R239, R242: `sqld` reserves one entry, or two for 64-bit elements, with the words at its lanes'
addresses; `aff` starts a stream from a descriptor within its limits; `sqend` leaves an end pending; q7 in narrows mode
and queue numbers above 7 trap ILLEGAL_OPERAND. -/
def Sys2Proof.Rules.QueueInstructions : Prop :=
  ∀ (qn : BitVec 6) (sa sb : SName) (wide : Bool) (s t : State) (core slot : Nat) (g : Group) (es : List QEntry)
    (w : List Nat),
    let n := qn.toNat
    let q := queueOf g n
    let x : ScalarFields := ⟨0x70, qn, sa, sb, if wide then 1 else 0, none⟩
    let y : ScalarFields := ⟨0x68, qn, sa, 0, 0, none⟩
    let z : ScalarFields := ⟨0x71, qn, 0, 0, 0, none⟩
    (n < 7 ∨ (n = 7 ∧ (queueOf g 7).nmode = false) →
      (q.stream = none → q.saved = [] → q.entries.length + (if wide then 2 else 1) ≤ 8 →
        fetchEntries s core slot g (Rules.sreg g sa) (Rules.sreg g sb) wide = .ok (es, t) →
          ScalarCompletes (.sqld qn sa sb wide) x s core slot g (modQueue t core slot n (reserveEntries es)) none) ∧
      (q.stream = none → readStruct s core slot g.ctx (Rules.sreg g sa).toNat = .ok (w, t) → affBad w = none →
        ScalarCompletes (.aff qn sa) y s core slot g
          (modQueue t core slot n (fun q => { reserveEntries [] q with stream := some (.affine (affOf w g.sc.pc)) })) none) ∧
      ScalarCompletes (.sqend qn) z s core slot g (modQueue s core slot n (fun q => { q with pendingEnd := true })) none) ∧
    (7 < n ∨ (n = 7 ∧ (queueOf g 7).nmode = true) →
      ScalarTraps (.sqld qn sa sb wide) x s core slot g ⟨0x02, 0, BitVec.ofNat 64 (n * 256), none, none⟩ ∧
      ScalarTraps (.aff qn sa) y s core slot g ⟨0x02, 0, BitVec.ofNat 64 (n * 256), none, none⟩ ∧
      ScalarTraps (.sqend qn) z s core slot g ⟨0x02, 0, BitVec.ofNat 64 (n * 256), none, none⟩)

/-- R235, R237, R240, R241: what the queues' streams do: an affine stream pushes its next entry and moves on, or stops at a
fault, which its scalar stream takes at its next issue; the oldest reserved entry is filled, first those that wait from before a
pre-emption, as there is room (R277), and not before a peer has answered what it asks for (R387); a pending end takes effect once every entry
is filled and no stream is active. -/
def Sys2Proof.Rules.QueueEvents : Prop :=
  ∀ (core slot n : Nat) (s t : State) (g : Group) (a : AffStream) (es : List QEntry) (tr : Trap),
    groupOf s core slot = some g → (ctxOf s g.ctx).state ≠ .faulted →
    let q := queueOf g n
    (q.stream = some (.affine a) → a.fault = none → q.saved = [] → q.entries.length + (if a.wide then 2 else 1) ≤ 8 →
      (fetchEntries s core slot g (affAddress a) a.lstride a.wide = .ok (es, t) →
        exec (.affPush core slot n) s = .next (modQueue t core slot n (fun x =>
          { x with entries := x.entries ++ es, stream := (affNext a).map QStream.affine }))) ∧
      (fetchEntries s core slot g (affAddress a) a.lstride a.wide = .error (.trap tr) →
        exec (.affStreamFault core slot n) s = .next (modScalar
          (modQueue s core slot n (fun x => { x with stream := none, pendingEnd := true })) core slot
          (fun z => { z with deferred := z.deferred ++ [{ tr with site := some ⟨⟨a.at_, 0⟩, false⟩ }] })))) ∧
    (∀ e rest filled, q.saved = [] → q.entries = filled ++ e :: rest → (∀ x ∈ filled, x.filled = true) → e.filled = false →
      exec (.queueEntryFill core slot n) s = .next (if answered s e.tag then
        modQueue s core slot n (fun x => { x with entries := filled ++ { e with filled := true } :: rest }) else s)) ∧
    (∀ v l, q.saved = v :: l → q.entries.length < 8 → exec (.queueEntryFill core slot n) s =
      .next (modQueue s core slot n (fun x => { x with entries := x.entries ++ [⟨v, true, none, 0⟩], saved := l }))) ∧
    (q.pendingEnd = true → q.stream = none → q.saved = [] → (∀ e ∈ q.entries, e.filled = true) →
      exec (.queueEndEffect core slot n) s =
        .next (modQueue s core slot n (fun x => { x with ended := true, pendingEnd := false })))

/-- R243, R244, R248: `lrun` enqueues a block at the code base plus its literal, with up to eight parameters, and hands the
scalar stream's signatures to the lanes; `lsync` completes once the lane stream has no block and no scoreboard counts;
`sexit` ends the stream and its queues, and the lanes exit where no block is left. -/
def Sys2Proof.Rules.LaneBlocks : Prop :=
  ∀ (first : SName) (count : BitVec 6) (lit : BitVec 32) (s : State) (core slot : Nat) (g : Group),
    let run (i : Instr) (x : ScalarFields) (off : Nat) : Prop :=
      let t := (g.lcode.toNat + off) % 2 ^ 64
      let ks := (List.range 8).map (fun i => if i < count.toNat then Rules.sreg g (BitVec.ofNat 6 (first.toNat + i)) else 0)
      g.sc.blocks.length < 4 → t % 4 = 0 → t < 2 ^ 48 → checkBlockPage s core g t = .ok () →
        ScalarCompletes i x s core slot g (modGroup s core slot (fun g =>
          { g with sc := { g.sc with blocks := g.sc.blocks ++ [⟨BitVec.ofNat 48 t, ks⟩] },
                   sigLane := joinSigs (liveSigs s.now g.sigLane) (liveSigs s.now g.sigScalar) })) none
    let ended := modGroup s core slot (fun g =>
      { g with qs := endQueues g, sc := { g.sc with stopped := true, sexited := true, handler := false, rmark := none } })
    run (.lrun first count) ⟨0x80, 0, first, count, 0, none⟩ 0 ∧
    run (.lrunS64 first count lit) ⟨0x80, 0, first, count, 0, some lit⟩ lit.toNat ∧
    (lanesQuiet g = true → ScalarCompletes .lsync ⟨0x81, 0, 0, 0, 0, none⟩ s core slot g (modGroup s core slot (fun g =>
      { g with sigScalar := joinSigs (liveSigs s.now g.sigScalar) (liveSigs s.now g.sigLane) })) none) ∧
    (groupOf s core slot = some g → ScalarCompletes .sexit ⟨0xA4, 0, 0, 0, 0, none⟩ s core slot g
      (if g.sc.blocks.isEmpty then exitLanes ended core slot (liveLanes g) else ended) none)

/-- R108, R152, R245: `srd` writes the register's value to sd; a number that is not listed traps ACCESS, as `swr` does
to every register but GR_SP and GR_STKLIM, whose values must fit: GR_SP takes a multiple of 32 from the reconvergence stack's top to
the stack area's, and with any other value traps ACCESS, as GR_STKLIM does. -/
def Sys2Proof.Rules.SystemRegisters : Prop :=
  ∀ (sd sa : SName) (n : BitVec 10) (s : State) (core slot : Nat) (g : Group),
    let v := (Rules.sreg g sa).toNat % 2 ^ 19
    let x : ScalarFields := ⟨0xA0, sd, 0, low6 n, high4 n, none⟩
    (∀ r, sysReg s core slot g n.toNat = some r →
      ScalarCompletes (.srd sd n) x s core slot g (putS s core slot sd (BitVec.ofNat 64 r)) none) ∧
    (sysReg s core slot g n.toNat = none → ScalarTraps (.srd sd n) x s core slot g ⟨0x0D, 0, BitVec.ofNat 64 n.toNat, none, none⟩) ∧
    ScalarTraps (.swr n sa) (swrForm n sa) s core slot g ⟨0x0D, 0, BitVec.ofNat 64 n.toNat, none, none⟩ ∧
    (v % 32 = 0 → g.ln.rsp.toNat ≤ v → v ≤ g.stkTop.toNat → ScalarCompletes (.grSp sa) (swrForm 0x050 sa) s core slot g
      (modLane s core slot (fun l => { l with sp := BitVec.ofNat 19 v })) none) ∧
    (v % 32 ≠ 0 ∨ v < g.ln.rsp.toNat ∨ g.stkTop.toNat < v →
      ScalarTraps (.grSp sa) (swrForm 0x050 sa) s core slot g ⟨0x0D, 0, Rules.sreg g sa, none, none⟩) ∧
    (stklimOk (coreOf s core) g v = true → ScalarCompletes (.grStklim sa) (swrForm 0x051 sa) s core slot g
      (modLane s core slot (fun l => { l with stklim := BitVec.ofNat 19 v, rsp := BitVec.ofNat 19 v })) none) ∧
    (stklimOk (coreOf s core) g v = false →
      ScalarTraps (.grStklim sa) (swrForm 0x051 sa) s core slot g ⟨0x0D, 0, Rules.sreg g sa, none, none⟩)

/-- R246: `swaitw` loads a word as an acquire at package scope; where it differs from sb, or the timeout is 0, or a wake has come, sd
gets it; where it is equal the stream sleeps on its line until a write to the line is performed or the time has passed, and then
loads again. A word at a peer is asked for first (R387). -/
def Sys2Proof.Rules.ScalarWait : Prop :=
  ∀ (i : Instr) (x : ScalarFields) (s : State) (core slot : Nat) (g : Group) (a : Xlat) (r : Read) (w : WordWait)
    (timeout : Bool), scalarFields i = some x → x.op = 0xA2 →
    checkOne s core g.ctx (Rules.sreg g x.sa).toNat 8 .read = .ok a →
      let w0 := beginWait s core a (x.lit.map BitVec.toNat)
      let read := acquireRead s core .package a 8 100
      let v := bytesDword r.bytes
      let t := inheritScalar r.state core slot r.sigs
      (waitRead s a g.sc.watch w0 read = .ok r →
        (v ≠ Rules.sreg g x.sb ∨ x.lit = some 0 ∨ wokenOn g.sc.watch = true →
          ScalarCompletes i x s core slot g (putS t core slot x.sd v) none) ∧
        (v = Rules.sreg g x.sb → x.lit ≠ some 0 → wokenOn g.sc.watch = false → ScalarReady x s core slot g →
          exec i s = .next (modScalar t core slot (fun z => { z with watch := some w0, stalled := false })))) ∧
      (isAperture a.pa = true → g.sc.watch.bind (fun w => w.asked) = none → ScalarReady x s core slot g →
        exec i s = .next (modScalar read.state core slot (fun z =>
          { z with watch := some { w0 with asked := some s.fresh, woken := wokenOn g.sc.watch }, stalled := false }))) ∧
      (groupOf s core slot = some g → g.sc.watch = some w → w.woken = false → w.asked = none → waitOver s core w timeout = true → (ctxOf s g.ctx).state ≠ .faulted →
        exec (.swaitwWake core slot timeout) s =
          .next (modScalar s core slot (fun z => { z with watch := some { w with woken := true } })))

/-- R230, R233, R234, R246: the scalar stream's loads, stores, word waits and step limit, and its targets beyond 48 bits.
The model's choices in it: logs 3, 14, 15, 24, 44, 49, 126, 133, 135. -/
def Obligations.ScalarMemoryAndLimits : Prop := Sys2Proof.Rules.ScalarMemory ∧ Sys2Proof.Rules.ScalarWait ∧ Sys2Proof.Rules.ScalarStepLimit ∧ Sys2Proof.Rules.ScalarFarTargets

/-- R235 to R242: the queue instructions and what the queues' streams do by themselves.
The model's choices in it: logs 3, 24. -/
def Obligations.QueueStreams : Prop := Sys2Proof.Rules.QueueInstructions ∧ Sys2Proof.Rules.QueueEvents

/-- R108, R152, R243 to R245, R248: lane blocks, the end of the scalar stream, and the system registers.
The model's choices in it: log 50. -/
def Obligations.BlocksAndSystemRegisters : Prop := Sys2Proof.Rules.LaneBlocks ∧ Sys2Proof.Rules.SystemRegisters

/-! ## Memory -/

/-- R252, R254, R255, R256, R401, R403: when every lane's address passes the checks, `ld` reads its bytes through the
levels of its policy and pages, `ld.acq` at its scope's coherence point with the drops of its acquire, `lds` in the
scratchpad; the extended values come later under the instruction's scoreboard. Where the core's L1 serves every lane of an
`ld`, or of an `ld.acq` of core scope, home memory stays; what a read through the caches may write back elsewhere is R392's. -/
def Sys2Proof.Rules.Loads : Prop :=
  ∀ (f : LaneForm) (s : State) (e : Iss) (qs : List Queue) (xs : List (Nat × Xlat)) (os : List (Nat × Nat)),
    let s0 := issued s e qs
    let m := f.src2
    let ws (v : Nat → Nat) : List RegWrite := writeSized (mWide m) f.dst.toNat e.lanes v
    let later (t : State) (v : Nat → Nat) : Done := Done.later t (pendingResult t e .memory (ws v) 0)
    let acq (leaf : Nat) : Nat := max (scopeLevel (mScope m)) (accessLevel (mPolicy m) leaf)
    let inL1 (level : Nat → Nat) : Prop := ∀ x ∈ xs, level x.2.leaf = 0 ∧ x.2.sigs = [] ∧ isMemory x.2.pa = true ∧
      usable s.now (mget (coreOf s e.core).l1 (x.2.pa / 32) emptySector) = true
    let r := readAll s0 e.core (mSize m) 400 (accessLevel (mPolicy m)) xs
    let ra := readAll s0 e.core (mSize m) 400 acq xs
    (checkLanes s0 e.core e.g.ctx (mSize m) .read (addressesOf s0 e f) (decide (mPolicy m ≠ 2)) = .ok xs →
      Completes (.ld f) s e qs (later (noteLoads r.state e.core e.slot r.sigs) (fun l => mExtend m (r.at l))) ∧
      (inL1 (accessLevel (mPolicy m)) → r.state.mem = s.mem)) ∧
    (checkLanes s0 e.core e.g.ctx (mSize m) .read (addressesOf s0 e f) = .ok xs →
      Completes (.ldAcq f) s e qs
        (later (acquireLane ra.state e.core e.slot (mScope m) ra.sigs) (fun l => mExtend m (ra.at l))) ∧
      (inL1 acq → (acquireLane ra.state e.core e.slot (mScope m) ra.sigs).mem = s.mem)) ∧
    (checkOffsets s0 e f (mSize m) = .ok os →
      Completes (.lds f) s e qs (later s0 (fun l =>
        mExtend m (Memory.readBytes (coreOf s0 e.core).scratch (laneOffset s0 e f l) (mSize m)))))

/-- R253, R254, R257, R398: `st` writes the low bytes of its data at every lane's address, ascending, with what a fence
of the group has published attached; `st.rel` first writes back what its scope's release demands, once nothing keeps
that from its home (R379, R387); `sts` writes the scratchpad, where every byte outside the lanes' stored ranges stays. -/
def Sys2Proof.Rules.Stores : Prop :=
  ∀ (f : LaneForm) (s : State) (e : Iss) (qs : List Queue) (xs : List (Nat × Xlat)) (os : List (Nat × Nat)),
    let s0 := issued s e qs
    let m := f.src2
    let bytes := storeData s0 e (mSize m)
    let rel := releaseLane s0 e.core e.slot (mScope m) e.g
    let level (leaf : Nat) : Nat := max (scopeLevel (mScope m)) (accessLevel (mPolicy m) leaf)
    let scratch := writeScratch (coreOf s0 e.core).scratch bytes os
    (checkLanes s0 e.core e.g.ctx (mSize m) .write (addressesOf s0 e f) true = .ok xs →
      Completes (.st f) s e qs
        (performed (writeAll s0 e.core (accessLevel (mPolicy m)) e.g.fenceSig bytes xs) e .memory)) ∧
    (checkLanes s0 e.core e.g.ctx (mSize m) .write (addressesOf s0 e f) = .ok xs →
      releaseWaits s0 e.core (mScope m) = false →
      Completes (.stRel f) s e qs (performed (writeAll rel.2 e.core level rel.1 bytes xs) e .memory)) ∧
    (checkOffsets s0 e f (mSize m) = .ok os →
      Completes (.sts f) s e qs (performed (modCore s0 e.core (fun k => { k with scratch := scratch })) e .memory) ∧
      (∀ a, (∀ x ∈ os, a < x.2 ∨ x.2 + mSize m ≤ a) →
        Memory.read scratch a = Memory.read (coreOf s0 e.core).scratch a))

/-- R18, R392, R393: what a core writes into its L1 it reads back there, in a sector whose copy may be used or holds
nothing but the core's own dirty bytes, of a line that L1 holds or has room for; every other byte of the sector, and
every byte whose copy in L1 may be used, reads as before; L1's other sectors, home memory, every other core and the
stacks' caches stay.
The model's choices in it: log 11. -/
def Obligations.StoreReadsBack : Prop :=
  ∀ (s : State) (core pa : Nat) (bs : List Byte) (sigs : List Sig), pa % 32 + bs.length ≤ 32 →
    (mget (coreOf s core).l1 (pa / 32) emptySector).data.length = 32 →
    let x := mget (coreOf s core).l1 (pa / 32) emptySector
    let t := writeLevel s core 0 pa bs sigs
    let m := (coreOf s core).l1
    usable s.now x = true ∨ x.valid = x.dirty → (∃ y ∈ m, sectorLine y.1 = pa / 128) ∨ (linesIn m).length < l1Lines →
      (∀ a, a / 32 = pa / 32 ∨ usable s.now (mget m (a / 32) emptySector) = true →
        (readLevel t core 0 a 1).bytes =
          if pa ≤ a ∧ a < pa + bs.length then [bs.getD (a - pa) 0] else (readLevel s core 0 a 1).bytes) ∧
      (∀ sec, sec ≠ pa / 32 → mget? (coreOf t core).l1 sec = mget? m sec) ∧
      t.mem = s.mem ∧ t.dieStacks = s.dieStacks ∧ ∀ c, c ≠ core → coreOf t c = coreOf s c

/-- R259, R260, R261: `atom` and `ared` read, modify and write every lane's word in ascending lane order, with the
release and the acquire of their order; `atom` delivers the old values later. What each operation writes is the table's: an
addition wraps or, in FP32, rounds to nearest even; the smaller and the larger value are those of the unsigned or of the
two's complement numbers. -/
def Sys2Proof.Rules.Atomics : Prop :=
  ∀ (f : LaneForm) (op : AtomOp) (rop : AredOp) (s : State) (e : Iss) (qs : List Queue) (r : LaneReads)
    (n : BitVec 8) (a b c : Nat),
    let s0 := issued s e qs
    (atomics s0 e f op f.src3 = .ok r → Completes (.atom op f) s e qs
      (Done.later r.state (pendingResult r.state e .memory
        (writeSized (nWide f.src3) f.dst.toNat e.lanes (fun l => bytesToNat (r.at l))) 0))) ∧
    (atomics s0 e f (aredAs rop) f.src3 = .ok r → Completes (.ared rop f) s e qs (performed r.state e .memory)) ∧
    let less (x y : Nat) : Bool := decide ((BitVec.ofNat (8 * nSize n) x).toInt < (BitVec.ofNat (8 * nSize n) y).toInt)
    (nFloat n = false → atomNew .add n a b c = (a + b) % 2 ^ (8 * nSize n)) ∧
    (nFloat n = true → atomNew .add n a b c = (fAdd fp32 envPlain .rne a b).code) ∧
    (nSigned n = false → atomNew .min n a b c = min a b ∧ atomNew .max n a b c = max a b) ∧
    (nSigned n = true → atomNew .min n a b c = (if less b a then b else a) ∧ atomNew .max n a b c = (if less a b then b else a)) ∧
    atomNew .and n a b c = a &&& b ∧ atomNew .or n a b c = a ||| b ∧ atomNew .xor n a b c = a ^^^ b ∧
    atomNew .xch n a b c = b ∧ atomNew .cas n a b c = (if a = c then b else a)

/-- R262, R281: a fence publishes or acquires at its scope by its kind and holds back the group's memory instructions
until it is complete; `pref` fills the lines that translate and may be read, `cwb` writes back and `cinv` writes back
and drops the lines that translate, and no other. What must go to a home waits until nothing keeps it from there (R371,
R379). -/
def Sys2Proof.Rules.FencesAndLines : Prop :=
  ∀ (f : LaneForm) (s : State) (e : Iss) (qs : List Queue),
    let s0 := issued s e qs
    let scope := scopeOfCode (f.src1.toNat % 8)
    let held (t : State) : Done :=
      let t := modLane t e.core e.slot (fun l => { l with fence := true })
      Done.later t (pendingResult t e .fence [] 0)
    let released := fenceRelease s0 e.core e.slot scope e.g
    let filled := addressedLines s0 e f prefXlat
    let lines := addressedLines s0 e f lineXlat
    let goes := (∀ a ∈ addressesOf s0 e f, walkWaits s0 e.core e.g.ctx a.2 = false) ∧
      ∀ x ∈ lines, lineWaits s0 e.core (scopeOfCode f.src2.toNat) x = false
    (f.src1.toNat / 8 = 0 → releaseWaits s0 e.core scope = false →
      Completes (.fence f) s e qs (held (fenceAcquire released e.core e.slot scope))) ∧
    (f.src1.toNat / 8 = 1 → releaseWaits s0 e.core scope = false → Completes (.fence f) s e qs (held released)) ∧
    (f.src1.toNat / 8 = 2 → Completes (.fence f) s e qs (held (fenceAcquire s0 e.core e.slot scope))) ∧
    Completes (.pref f) s e qs (Done.plain (filled.foldl (prefetchLine e.core f.src2.toNat) s0)) ∧
    (goes → Completes (.cwb f) s e qs (performed (lines.foldl (writeBackLine e.core (scopeOfCode f.src2.toNat)) s0) e .release)) ∧
    (goes → Completes (.cinv f) s e qs (performed (lines.foldl (invalidateLine e.core (scopeOfCode f.src2.toNat)) s0) e .release))

/-- R263: lanes that agree on address and value wait together: `waitw` delivers a word that differs, or after a wake or with
timeout 0, as an acquire at package scope; an equal word puts the group to sleep on its line until a write is performed or
the time has passed; lanes that disagree trap UNIFORMITY. A word at a peer is asked for first (R387). -/
def Sys2Proof.Rules.LaneWait : Prop :=
  ∀ (f : LaneForm) (s : State) (e : Iss) (qs : List Queue) (a : Xlat) (core slot : Nat) (g : Group) (w : WordWait)
    (timeout : Bool) (r : Read),
    let s0 := issued s e qs
    let l0 := lowestLane e.lanes
    let va := src64 s0 e (fieldAt e.x 1) l0
    let old := src64 s0 e (fieldAt e.x 2) l0
    let w0 := beginWait s0 e.core a (f.lit.map BitVec.toNat)
    let read := readX s0 e.core 2 a 8 600
    let v := bytesToNat r.bytes
    let t := acquireLane r.state e.core e.slot .package r.sigs
    (waitDissent s0 e f ≠ 0 → Traps (.waitw f) s e qs ⟨0x05, 0, waitDissent s0 e f, none, none⟩) ∧
    (waitDissent s0 e f = 0 → checkOne s0 e.core e.g.ctx va 8 .read = .ok a →
      (waitRead s0 a e.g.ln.watch w0 read = .ok r →
        (v ≠ old ∨ f.lit = some 0 ∨ wokenOn e.g.ln.watch = true → Completes (.waitw f) s e qs
          (Done.regs t 1 (write64 f.dst.toNat e.lanes (fun _ => v)) 0)) ∧
        (v = old → f.lit ≠ some 0 → wokenOn e.g.ln.watch = false → Issues (.waitw f) s e qs →
          exec (.waitw f) s = .next (modLane t e.core e.slot (fun l =>
            { l with state := .sleeping, sleep := some .word, watch := some w0 })))) ∧
      (isAperture a.pa = true → e.g.ln.watch.bind (fun w => w.asked) = none → Issues (.waitw f) s e qs →
        exec (.waitw f) s = .next (modLane read.state e.core e.slot (fun l =>
          { l with
            state := restState l, sleep := none,
            watch := some { w0 with asked := some s0.fresh, woken := wokenOn e.g.ln.watch } })))) ∧
    (groupOf s core slot = some g → g.ln.sleep = some .word → g.ln.watch = some w → waitOver s core w timeout = true →
      (ctxOf s g.ctx).state ≠ .faulted → exec (.waitwWake core slot timeout) s =
        .next (modLane s core slot (fun l =>
          { l with state := wokenState l, sleep := none, watch := some { w with woken := true } })))

/-- R52, R193, R207, R214, R252, R398: results of variable latency come as steps of their own: the group's oldest result
of the special functions, the one in place `idx` of the others, of those of memory that no peer has still to answer (R387). Its
writes are made, its scoreboard falls, its flags gather; a completed release or fence lets memory instructions issue again once
no fence is left.
The model's choices in it: logs 1, 3, 42, 127, 132. -/
def Obligations.LateResults : Prop :=
  ∀ (core slot idx : Nat) (s : State) (g : Group) (p : Pending), groupOf s core slot = some g →
    let of (h : PendingKind → Bool) : List Pending := g.ln.outstanding.filter (fun p => h p.kind)
    let come (h : PendingKind → Bool) : List Pending := g.ln.outstanding.filter (fun p => h p.kind && answered s p.tag)
    let after := completeTag s core slot p.tag
    ((of (fun k => decide (k = .sfu))).head? = some p → exec (.sfuResult core slot) s = .next after) ∧
    (((of (fun k => decide (k = .stochastic))).drop idx).head? = some p → exec (.srResult core slot idx) s = .next after) ∧
    (((come (fun k => decide (k = .memory))).drop idx).head? = some p → exec (.memoryAccessComplete core slot idx) s = .next after) ∧
    (((come (fun k => decide (k = .release ∨ k = .fence))).drop idx).head? = some p →
      exec (.releaseComplete core slot idx) s = .next (modLane after core slot
        (fun l => { l with fence := l.outstanding.any (fun p => decide (p.kind = .fence)) }))) ∧
    (pendingOf s core slot p.tag = some p → laneFp p.fpc p.flags = none →
      charge { (p.writes.foldl (writeName s) g) with ln := settleLane (p.writes.foldl (writeName s) g).ln p } ≤
        (coreOf s core).pool + charge g →
      ∃ t g', after = t ∧ groupOf t core slot = some g' ∧
        g'.ln.regs = (p.writes.foldl (writeName s) g).ln.regs ∧
        g'.ln.outstanding = g.ln.outstanding.filter (fun x => decide (x.tag ≠ p.tag)) ∧
        g'.ln.fpc = raiseFlags g.ln.fpc p.flags ∧
        (∀ n, p.sb = some n → g'.ln.sb = lset 0 g.ln.sb n (g.ln.sb.getD n 0 - 1)) ∧ t.mem = s.mem)

/-- R102, R181: a `wait` wakes its group once its count of ac has passed on the core, unless its context has faulted. -/
def Sys2Proof.Rules.WaitEnds : Prop :=
  ∀ (core slot n t : Nat) (s : State) (g : Group), groupOf s core slot = some g → g.ln.state = .sleeping →
    g.ln.sleep = some (.ac n t) →
      exec (.waitExpire core slot) s = .next (if (ctxOf s g.ctx).state = .faulted ∨ (coreOf s core).ac < t + n then s
        else modLane s core slot (fun l => { l with state := wokenState l, sleep := none }))

/-- R193, R195, R210, R214, R207, R84, R204: the special functions and the stochastic conversions deliver their results
later, these with the generators of the quarters taking part advanced; `setfpc` exchanges bits of `fpc` under a mask, or
traps ILLEGAL_OPERAND on a reserved value; `rngseed` seeds every quarter.
The model's choices in it: logs 4, 7, 48, 127, 132. -/
def Obligations.LateAndModes : Prop :=
  ∀ (f : LaneForm) (h : Half) (s : State) (e : Iss) (qs : List Queue),
    let s0 := issued s e qs
    let sfu (i : Instr) (fn : SfuFn) : Prop :=
      let r (l : Nat) : FRes := sfuFinal e.g.ln.fpc fn (Rules.src s e qs 1 l).toNat
      Completes i s e qs (Done.later s0 (pendingResult s0 e .sfu
        (write32 (Rules.dst e) e.lanes (fun l => (r l).code)) (Rules.flagsOf e r)))
    let sr (i : Instr) (r : Nat → FRes) : Prop :=
      Completes i s e qs (Done.later (modLane s0 e.core e.slot (fun l => { l with gen := advanceGens l.gen e.lanes }))
        (pendingResult s0 e .stochastic (write32 (Rules.dst e) e.lanes (fun l => (r l).code)) (Rules.flagsOf e r)))
    let w (l : Nat) : Word := laneRandom e.g.ln l
    let x (l : Nat) : Nat := if wideType f.src3.toNat then (Rules.srcPair s e qs 1 l).toNat else (Rules.src s e qs 1 l).toNat
    let mask : Word := BitVec.ofNat 32 (uni32 s0 e (fieldAt e.x 2))
    let new := (e.g.ln.fpc &&& ~~~ mask) ||| (BitVec.ofNat 32 (uni32 s0 e (fieldAt e.x 1)) &&& mask)
    sfu (.rcp f) .rcp ∧ sfu (.rsq f) .rsq ∧ sfu (.sqt f) .sqt ∧ sfu (.ex2 f) .ex2 ∧ sfu (.lg2 f) .lg2 ∧
    sfu (.sinr f) .sinr ∧ sfu (.cosr f) .cosr ∧ sfu (.tnh f) .tnh ∧
    sr (.cvtSr f) (fun l => cvtValue (Rules.env e) (.sr (w l)) f.src2.toNat f.src3.toNat (x l)) ∧
    sr (.pk2Sr h f) (fun l => packTwo (toHalf h (Rules.env e) (.sr (w l)) (Rules.src s e qs 1 l).toNat)
      (toHalf h (Rules.env e) (.sr ((w l).rotateLeft 16)) (Rules.src s e qs 2 l).toNat)) ∧
    (fpcOk new = true → Completes (.setfpc f) s e qs
      (Done.regs (modLane s0 e.core e.slot (fun l => { l with fpc := new &&& 0x00FFFFFF })) 2
        (write32 f.dst.toNat e.lanes (fun _ => e.g.ln.fpc.toNat)) 0)) ∧
    (fpcOk new = false → Traps (.setfpc f) s e qs ⟨0x02, 0, BitVec.ofNat 64 (1 + f.src1.toNat * 256), none, none⟩) ∧
    Completes (.rngseed f) s e qs { Done.plain (modLane s0 e.core e.slot (fun l =>
      { l with gen := (List.range 8).map (seedGen (BitVec.ofNat 32 (uni32 s0 e (fieldAt e.x 1)))) })) with lat := 2 }

/-- R252 to R257, R401, R403: the loads and stores of the lane stream, of main memory and of the scratchpad.
The model's choices in it: logs 3, 4, 11, 14, 15, 24, 121. -/
def Obligations.LoadsAndStores : Prop := Sys2Proof.Rules.Loads ∧ Sys2Proof.Rules.Stores

/-- R259 to R262, R281: atomics, fences and the line instructions.
The model's choices in it: logs 3, 11, 14, 15, 24, 51, 52, 121. -/
def Obligations.AtomicsAndFences : Prop := Sys2Proof.Rules.Atomics ∧ Sys2Proof.Rules.FencesAndLines

/-- R102, R181, R263: word waits of the lane stream, and the end of a wait.
The model's choices in it: logs 3, 5, 16. -/
def Obligations.LaneWaits : Prop := Sys2Proof.Rules.LaneWait ∧ Sys2Proof.Rules.WaitEnds

/-! ## The copy engine, notices, remote loads, the narrows -/

/-- R264, R265, R266, R409: a copy descriptor that keeps its limits becomes a command at the end of the core's queue of 16:
`cpyw`'s with its completion word, scope and value, `cpy`'s without one at package scope. A descriptor that breaks a
limit traps ILLEGAL_OPERAND with the offset of the first word that does; one that is misaligned traps ALIGN. -/
def Sys2Proof.Rules.CopyInstructions : Prop :=
  ∀ (f : LaneForm) (s : State) (e : Iss) (qs : List Queue),
    let s0 := issued s e qs
    let k := coreOf s0 e.core
    let off := uni32 s0 e (fieldAt e.x 1)
    let w (n : Nat) : Nat := bytesToNat (Memory.readBytes k.scratch (off + 8 * n) 8)
    let word (b : Bool) : EngineOp := .copy (w 0 % 2 ^ 48) (w 1 % 2 ^ 48) (w 2 % 2 ^ 32) (decide (w 0 / 2 ^ 62 = 1))
      (decide (w 1 / 2 ^ 62 = 1)) (if b then scopeOfCode (w 2 / 2 ^ 32 % 8) else .package) (if b then some (w 3) else none)
      (BitVec.ofNat 64 (w 4))
    let queued (op : EngineOp) : Done := performed (modCore s0 e.core (fun k =>
      { k with engine := k.engine ++ [⟨e.slot, gidOf e.g, e.g.ln.pc, s0.fresh, op, none, .start⟩] })) e .engine
    let run (i : Instr) (b : Bool) : Prop :=
      (off % 64 ≠ 0 → Traps i s e qs ⟨0x0C, 0, BitVec.ofNat 64 off, none, none⟩) ∧
      (off % 64 = 0 → checkScratch k e.slot e.g off 64 = .ok () →
        (∀ at8, copyBad b (scratchWords k off) = some at8 →
          Traps i s e qs ⟨0x02, 0, BitVec.ofNat 64 (15 + at8 * 256), none, none⟩) ∧
        (copyBad b (scratchWords k off) = none → checkCopyRanges k e.slot e.g (word b) = .ok () →
          k.engine.length < 16 → Completes i s e qs (queued (word b))))
    run (.cpy f) false ∧ run (.cpyw f) true

/-- R266, R267, R387: a copy command at work writes its destination, then stores its completion word as a release and
finishes, its scoreboard falling, at once or, while a peer has still to answer or a way is closed, in a later step; a
source at a peer is asked for first and written once it has been answered; so is a microprogram image, which then finishes without
its scoreboard (R373). A command that meets an
ACCESS stops, its scoreboard falls, and its group is to trap at its next lane issue; one that meets a translation fault
pauses behind its page fault. With one command at work it is that one; among several the choice is free (log 4). -/
def Sys2Proof.Rules.CopyCommands : Prop :=
  ∀ (core va sub tag : Nat) (lines : List Nat) (s t u : State) (c : EngineCmd) (g : Group) (kind : AccessKind) (w : Nat × Nat),
    let s0 : State := { s with turn := .idle }
    let own (t : State) : State := claimOps c.gid s.outgoing.length { t with turn := s.turn }
    let goes (t : State) : Prop := exec (.copyComplete core) s = .next (own t)
    let finished (t : State) : State := completeTag (modCore t core (fun k => dropCommand k c)) core c.slot c.tag
    let staged (t : State) (x : CopyStage) : State := modCommand t core c (fun y => { y with stage := x })
    (copiesAtWork (coreOf s core) = [c] →
      ((∀ va chan n, c.op ≠ .load va chan n) →
        (payloadDone c = false → copyPayload s0 core c = .ok (t, .written tag lines) →
          (copyEnd t core c tag lines = .ok u → goes (finished u)) ∧
          (∀ r, copyEnd t core c tag lines = .error r → goes (staged t (.written tag lines)))) ∧
        (payloadDone c = false → copyPayload s0 core c = .ok (t, .asked tag) → goes (staged t (.asked tag))) ∧
        (c.stage = .written tag lines → copyEnd s0 core c tag lines = .ok u → goes (finished u))) ∧
      (∀ at_ chan n ps, c.op = .load at_ chan n → placesOf s0 core c.gid.ctx false .read true at_ (8 * n) = .ok ps →
        let r := readPlaces s0 core 10000 ps
        let given (t : State) : State := modCore (mapSkOps t chan (giveImage c.tag (imageWords r.1 n))) core (fun k => dropCommand k c)
        (c.stage = .start → atPeer ps = false → goes (given r.2.2)) ∧
        (c.stage = .start → atPeer ps = true → goes (staged { s0 with outgoing := r.2.2.outgoing } (.asked s.fresh))) ∧
        (c.stage = .asked tag → answered s tag = true → goes (given { r.2.2 with outgoing := s.outgoing })))) ∧
    (commandsAtWork (coreOf s core) = [c] → groupOf s core c.slot = some g → gidOf g = c.gid →
      firstBad s core (fun a => decide (a = .access)) c = some (kind, va, .access) →
        let s1 := modCore (dropLoad (own (copyPart s0 core c)) c) core (fun k => failFill (dropCommand k c) c)
        exec (.engineAccessFault core) s = .next (reportAccess (completeTag s1 core c.slot c.tag) core c va)) ∧
    (commandsAtWork (coreOf s core) = [c] → pullAtWork (coreOf s core) = none → cmdPage s core c = some (va, kind, sub) →
      pageFault s (dieOf core) c.gid.ctx va kind sub = some (w, t) →
        exec (.enginePageFault core) s = .next (modCommand t core c (fun x =>
          { x with paused := some ⟨w.1, w.2, pageTrap (BitVec.ofNat 64 va) sub none (some ⟨c.pc, false⟩)⟩ })))

/-- R266: the bytes of a copy between scratchpad ranges of its core that do not overlap are in the destination when its
payload has been written, and every scratchpad byte outside the destination, and main memory, is as it was. -/
def Obligations.ScratchCopy : Prop :=
  ∀ (core d a n : Nat) (s : State) (c : EngineCmd) (scope : Scope) (v : DWord), MemoryForm s →
    c.op = .copy d a n true true scope none v → c.stage = .start → a + n ≤ d ∨ d + n ≤ a →
      ∃ t, copyPayload s core c = .ok (t, .written s.fresh []) ∧
        (∀ i, i < n → Memory.read (coreOf t core).scratch (d + i) = Memory.read (coreOf s core).scratch (a + i)) ∧
        (∀ i, i < d ∨ d + n ≤ i → Memory.read (coreOf t core).scratch i = Memory.read (coreOf s core).scratch i) ∧ t.mem = s.mem

/-- R268: `kcfg` makes the issuing cohort's descriptor the core's receiver, or with capacity 0 takes the receiver away once
no notice waits and no pull is at work; its landing area and its ring lie in the cohort's allocation, else ACCESS; a receiver of
another cohort traps ACCESS with the core. -/
def Sys2Proof.Rules.Receivers : Prop :=
  ∀ (f : LaneForm) (s : State) (e : Iss) (qs : List Queue),
    let s0 := issued s e qs
    let k := coreOf s0 e.core
    let off := uni32 s0 e (fieldAt e.x 1)
    let w := wordsOf (Memory.readBytes k.scratch off 32)
    let x (n : Nat) : Nat := w.getD n 0
    let holds (off n : Nat) : Bool := inCohort k e.g.ctx (cohortKey e.g) off n
    checkStruct k e.slot e.g off 32 = .ok () → receiverBad w = none →
      (k.receiver.isSome = true → ownsReceiver k e.g = false →
        Traps (.kcfg f) s e qs ⟨0x0D, 0, BitVec.ofNat 64 e.core, none, none⟩) ∧
      (k.receiver = none ∨ ownsReceiver k e.g = true →
        (x 1 = 0 → k.notices = [] → pulling k = false → Completes (.kcfg f) s e qs
          (Done.plain (modCore s0 e.core (fun k => { k with receiver := none })))) ∧
        (x 1 ≠ 0 → holds (x 0) (x 1) = true → holds (x 2) 256 = true →
          Completes (.kcfg f) s e qs (Done.plain (modCore s0 e.core (fun k =>
            { k with receiver := some ⟨cohortKey e.g, e.g.ctx, x 0, x 1, x 2, x 3⟩ })))) ∧
        (x 1 ≠ 0 → holds (x 0) (x 1) = false → Traps (.kcfg f) s e qs ⟨0x0D, 0, BitVec.ofNat 64 (x 0), none, none⟩) ∧
        (x 1 ≠ 0 → holds (x 0) (x 1) = true → holds (x 2) 256 = false →
          Traps (.kcfg f) s e qs ⟨0x0D, 0, BitVec.ofNat 64 (x 2), none, none⟩))

/-- R247, R269, R270: `kick` and `skick` publish as a release at package scope and hand the notice to a core of the
partition that has a receiver of the context and holds fewer than four, once nothing keeps the release or the notice from
its way (R379); a core outside the partition, or without such a receiver, traps ACCESS. The notice accepted, the
scoreboard of its `kick` falls. -/
def Sys2Proof.Rules.Kicks : Prop :=
  ∀ (f : LaneForm) (sa sb : SName) (s : State) (e : Iss) (qs : List Queue) (core slot : Nat) (g : Group),
    let put (t : State) (tgt from_ : Nat) (g : Group) (bs : List Byte) : State :=
      modCore t tgt (fun k => { k with notices := k.notices ++ [⟨bs, from_, cohortKey g, g.ctx, false, false⟩] })
    let sound (s : State) (core slot : Nat) (g : Group) (off : Nat) : Prop :=
      checkStruct (coreOf s core) slot g off 32 = .ok () ∧
        noticeBad (wordsOf (Memory.readBytes (coreOf s core).scratch off 32)) = none
    let open_ (s : State) (core tgt : Nat) : Prop :=
      (coreOf s tgt).notices.length < 4 ∧ releaseWaits s core .package = false ∧ pathsOpen s (dieOf core) (dieOf tgt) = true
    let mine (s : State) (tgt ctx : Nat) : Bool := (coreOf s tgt).receiver.any (fun r => decide (r.ctx = ctx))
    let s0 := issued s e qs
    let off := uni32 s0 e (fieldAt e.x 1)
    let tgt := uni32 s0 e (fieldAt e.x 2) % 1024
    let soff := (Rules.sreg g sa).toNat % 2 ^ 19
    let sto := (Rules.sreg g sb).toNat % 1024
    let x : ScalarFields := ⟨0xA3, 0, sa, sb, 0, none⟩
    (sound s0 e.core e.slot e.g off →
      (inPartition s0 e.g.ctx tgt = true → mine s0 tgt e.g.ctx = true → open_ s0 e.core tgt →
        Completes (.kick f) s e qs (performed (put (releaseLane s0 e.core e.slot .package e.g).2 tgt e.core e.g
          (Memory.readBytes (coreOf s0 e.core).scratch off 32)) e .notice)) ∧
      (inPartition s0 e.g.ctx tgt = false ∨ mine s0 tgt e.g.ctx = false →
        Traps (.kick f) s e qs ⟨0x0D, 0, BitVec.ofNat 64 tgt, none, none⟩)) ∧
    (sound s core slot g soff →
      (inPartition s g.ctx sto = true → mine s sto g.ctx = true → open_ s core sto →
        ScalarCompletes (.skick sa sb) x s core slot g (put (modGroup (release s core .package g.sigScalar).2 core slot (fun g => { g with fenceSig := [] })) sto core g
          (Memory.readBytes (coreOf s core).scratch soff 32)) none) ∧
      (inPartition s g.ctx sto = true → mine s sto g.ctx = false →
        ScalarTraps (.skick sa sb) x s core slot g ⟨0x0D, 0, BitVec.ofNat 64 sto, none, none⟩) ∧
      (inPartition s g.ctx sto = false →
        ScalarTraps (.skick sa sb) x s core slot g ⟨0x0D, 0, Rules.sreg g sb, none, none⟩)) ∧
    exec (.noticeAccepted core slot) s = .next (completeKind s core slot 0 (fun k => decide (k = .notice)))

/-- R271, R387, R410: a pull of a notice that its receiver can take lands its payload in the landing area and leaves the
notice queue, a payload at a peer once the peer has answered; it then writes the arrival slot in the ring at the arrival count modulo 8 and adds 1 to the count, and at
its end gives the acknowledgement; a notice that cannot be taken only acknowledges, with bit 63 inverted. -/
def Sys2Proof.Rules.Pulls : Prop :=
  ∀ (core tag : Nat) (s t u : State) (n : Notice) (rest : List Notice) (v : Receiver) (bs : List Byte) (c : EngineCmd)
    (sender : Nat) (nb : List Byte) (rcv : Option Receiver) (lines : List Nat) (recorded peer : Bool),
    let s0 : State := { s with turn := .idle }
    let k := coreOf s core
    let offset (bs : List Byte) : Nat := noticeWord bs 1 / 2 ^ 32 % 2 ^ 19
    let landed (t : State) (note data : List Byte) : State := modCore t core (fun k =>
      { k with scratch := Memory.writeBytes k.scratch (v.lbase + offset note) data })
    let ack := noticeWord nb 2
    let value := BitVec.ofNat 64 (noticeWord nb 3)
    let count := arrivalCount s0 core c v.count
    let begins (t : State) : Prop :=
      exec (.pullStart core) s = .next (claimOps (pullGid n) s.outgoing.length { t with turn := s.turn })
    let goes (t : State) : Prop := exec (.pullLanded core) s = .next (claimOps c.gid s.outgoing.length { t with turn := s.turn })
    let staged (t : State) (x : CopyStage) : State := modCommand t core c (fun y => { y with stage := x })
    let ends (t : State) : Prop := goes (modCore t core (fun k => dropCommand k c))
    (k.notices = n :: rest → k.receiver = some v → pulling k = false → k.engine.length < 16 →
      (pullSource s0 core n = .read bs lines false t →
        begins (takeNotice (landed t n.bytes bs) core rest (pullCommand s n (some v) lines .start))) ∧
      (pullSource s0 core n = .read bs lines true t →
        begins (takeNotice { s0 with outgoing := t.outgoing } core rest (pullCommand s n (some v) lines (.asked s.fresh)))) ∧
      (n.dropped = true ∨ v.lsize < offset n.bytes + noticeWord n.bytes 1 % 2 ^ 32 →
        begins (takeNotice s0 core rest (pullCommand s n none [] .start)))) ∧
    (pullAtWork k = some c → c.op = .pull nb sender rcv lines recorded →
      (rcv = some v → stillReceives k v = true → recorded = false →
        (c.stage = .asked tag → answered s tag = true →
          pullSource s0 core ⟨nb, sender, (c.gid.seq, c.gid.cohort), c.gid.ctx, false, false⟩ = .read bs lines peer t →
            goes (staged (landed { t with outgoing := s.outgoing } nb bs) .start)) ∧
        ((∀ tag, c.stage ≠ .asked tag) →
          (count.2 = .ask t → goes (staged t (.counting s.fresh))) ∧
          (count.2 = .have u →
            pullWord (modCore u core (fun k => { k with
              scratch := Memory.writeBytes k.scratch (v.ring + 32 * (count.1.toNat % 8)) (arrivalSlot nb sender) }))
              core c.gid.ctx v.count (count.1 + 1) lines = .ok t →
              (ack = 0 → ends t) ∧ (ack ≠ 0 → goes (modCommand t core c markRecorded))))) ∧
      (rcv.isSome = true → recorded = true → ack ≠ 0 → pullWord s0 core c.gid.ctx ack value lines = .ok t → ends t) ∧
      (rcv = none ∨ (recorded = false ∧ rcv = some v ∧ stillReceives k v = false) →
        (ack = 0 → ends s0) ∧
        (ack ≠ 0 → pullWord s0 core c.gid.ctx ack (value ^^^ (1 : DWord) <<< 63) [] = .ok t → ends t)))

/-- R272, R273, R411: `rld` of an aligned line that may be read, to an aligned place in bounds, is one of at most eight
remote loads of its group, with the line's 128 bytes at its home (log 106); a response, once a peer that was asked has answered
(R387), writes them to the scratchpad and its scoreboard falls; that of a group that has exited lands while the group's
cohort holds its place (R154). -/
def Sys2Proof.Rules.RemoteLoads : Prop :=
  ∀ (f : LaneForm) (s : State) (e : Iss) (qs : List Queue) (x : Xlat) (core slot idx : Nat) (g : Group) (r : RemoteLoad)
    (o : GroupId × RemoteLoad),
    let s0 := issued s e qs
    let va := uni64 s0 e (fieldAt e.x 1)
    let off := uni32 s0 e (fieldAt e.x 2)
    let b := remoteRead s0 e.core x 128 780
    (isMemory x.pa = true → b.1 = loadHome s x.pa 128) ∧
    (va % 128 = 0 → off % 128 = 0 → checkOne s0 e.core e.g.ctx va 128 .read = .ok x →
      checkScratch (coreOf s0 e.core) e.slot e.g off 128 = .ok () → e.g.rlds.length < 8 →
        Completes (.rld f) s e qs (performed (modGroup b.2 e.core e.slot (fun g =>
          { g with rlds := g.rlds ++ [⟨s0.fresh, b.1, off⟩] })) e .remote)) ∧
    (va % 128 ≠ 0 → Traps (.rld f) s e qs ⟨0x0C, 0, BitVec.ofNat 64 va, none, none⟩) ∧
    (groupOf s core slot = none → ((coreOf s core).orphans.drop idx).head? = some o → answered s o.2.tag = true →
      inCohort (coreOf s core) o.1.ctx (o.1.seq, o.1.cohort) o.2.off 128 = true →
        exec (.rldResponse core slot idx) s = .next (modCore s core (fun k =>
          { k with scratch := Memory.writeBytes k.scratch o.2.off o.2.bytes,
                   orphans := k.orphans.filter (fun x => !decide (x.2.tag = o.2.tag)) }))) ∧
    (groupOf s core slot = some g → (g.rlds.drop idx).head? = some r → answered s r.tag = true →
      exec (.rldResponse core slot idx) s = .next (completeTag
        (modGroup (modCore s core (fun k => { k with scratch := Memory.writeBytes k.scratch r.off r.bytes })) core slot
          (fun g => { g with rlds := g.rlds.filter (fun x => !decide (x.tag = r.tag)) })) core slot r.tag))

/-- R274, R275, R276, R277: `vfcfg` binds q7 of its group to the narrows of its core, or unbinds it; `vfput` adds the
words of its lanes, zero in the others, one entry for 32 lanes; gated or waking, the partner traps PARTNER_DOWN; the
narrows deliver an entry to q7 of the bound group when they hold it whole and q7 has room. -/
def Sys2Proof.Rules.NarrowsTraffic : Prop :=
  ∀ (f : LaneForm) (s : State) (e : Iss) (qs : List Queue) (core c slot : Nat) (g : Group),
    let s0 := issued s e qs
    let w := narrowsOf s0 e.core
    let p := partner e.core
    let there : DWord := BitVec.ofNat 64 p
    let st := (quadOf s0 p).state
    let word (l : Nat) : Word := if e.lanes.getLsbD l then BitVec.ofNat 32 (src32 s0 e (fieldAt e.x 1) l) else 0
    let entry (h : Nat) : NarrowsEntry := ⟨(List.range 32).map (fun l => word (32 * h + l)), e.g.ctx⟩
    let n := slotsPerEntry g
    let wc := narrowsOf s core
    (f.src1 = 0 → Completes (.vfcfg f) s e qs (Done.plain (unbindGroup s0 e.core e.slot))) ∧
    (f.src1 ≠ 0 → bindDenied e.core e.slot e.g w = false → Completes (.vfcfg f) s e qs
      (Done.plain (modQueue (modNarrows s0 e.core (fun w =>
        { w with bound := some (e.core, e.slot), toUpper := some (isUpper e.core) })) e.core e.slot 7
          (fun q => { q with nmode := true })))) ∧
    (f.src1 ≠ 0 → bindDenied e.core e.slot e.g w = true → Traps (.vfcfg f) s e qs ⟨0x0D, 0, there, none, none⟩) ∧
    (st = .gated ∨ st = .waking → Traps (.vfput f) s e qs ⟨0x12, 0, there, none, none⟩) ∧
    (st = .active → putDenied s0 e.core e.g w = true → Traps (.vfput f) s e qs ⟨0x0D, 0, there, none, none⟩) ∧
    (st = .active → putDenied s0 e.core e.g w = false → occupied w + slotsPerEntry e.g ≤ 16 →
      Completes (.vfput f) s e qs (Done.plain (modNarrows s0 e.core (fun w =>
        { w with waiting := w.waiting ++ (if e.g.wcode = 3 then [entry 0, entry 1] else [entry 0]),
                 toUpper := some (isUpper p) })))) ∧
    (wc.bound = some (c, slot) → groupOf s c slot = some g → n ≤ wc.waiting.length → freeEntries (queueOf g 7) ≠ 0 →
      exec (.narrowsDeliver core) s = .next (modNarrows
        (modQueue s c slot 7 (fun q => { q with
          entries := q.entries ++ [⟨((wc.waiting.take n).map (fun x => x.elems)).flatten, true, none, 0⟩], narrow := q.narrow + 1 }))
        core (fun w => { w with waiting := w.waiting.drop n, inQ7 := w.inQ7 + n })))

/-- R279, R280: with a descriptor that keeps its limits and texels that translate, `tfet` gives the channel pair of the texel
at its lane's integer coordinates, `tsmp` that of the nearest texel, or of the bilinear mix of four, and `tsiz` width and
height; the words come later. A descriptor that breaks a limit traps ILLEGAL_OPERAND at field 2.
The model's choices in it: logs 3, 14, 59. -/
def Obligations.Textures : Prop :=
  ∀ (f : LaneForm) (s s1 : State) (e : Iss) (qs : List Queue) (t : Tex) (r : LaneReads) (x : Xlat),
    let s0 := issued s e qs
    let coord (l : Nat) : Nat := src64 s1 e (fieldAt e.x 1) l
    let u (l : Nat) : TexPoint := texPoint t.bilinear t.w (coord l % 2 ^ 32)
    let v (l : Nat) : TexPoint := texPoint t.bilinear t.h (coord l / 2 ^ 32)
    let near (i : Int) : List Int := if t.bilinear then [i, i + 1] else [i]
    let sample (l : Nat) : List (Option (Nat × Nat)) := texelsFor t (near (u l).i) (near (v l).i)
    let fetch (l : Nat) : List (Option (Nat × Nat)) :=
      texelsFor t [toSigned 32 (coord l % 2 ^ 32)] [toSigned 32 (coord l / 2 ^ 32)]
    let c := 2 * f.src3.toNat
    let pair (t : State) (val : Nat → Nat → Nat) : Done := Done.later t (pendingResult t e .memory
      (write64 f.dst.toNat e.lanes (fun l => val l c + val l (c + 1) * 2 ^ 32)) 0)
    (readTex s0 e = .ok (t, s1) →
      (readTexels s1 e t fetch = .ok r →
        Completes (.tfet f) s e qs (pair r.state (fun l ch => texelChannel t r (fetch l) l 0 ch))) ∧
      (readTexels s1 e t sample = .ok r →
        Completes (.tsmp f) s e qs (pair r.state (fun l ch => sampled s1 t r (sample l) (u l) (v l) l ch))) ∧
      Completes (.tsiz f) s e qs (Done.later s1 (pendingResult s1 e .memory
        (write64 f.dst.toNat e.lanes (fun _ => t.w + t.h * 2 ^ 32)) 0))) ∧
    (checkOne s0 e.core e.g.ctx (e.g.ln.ks.getD ((fieldAt e.x 2).spec - 144) 0).toNat 32 .read true = .ok x →
      texOk (wordsOf (readX s0 e.core (accessLevel 0 x.leaf) x 32 800).bytes) = false →
      let tr : Trap := ⟨0x02, 0, BitVec.ofNat 64 (2 + (fieldAt e.x 2).spec * 256), none, none⟩
      Traps (.tfet f) s e qs tr ∧ Traps (.tsmp f) s e qs tr ∧ Traps (.tsiz f) s e qs tr)

/-- R264 to R267, R409: the copy instructions and the commands that they make.
The model's choices in it: logs 3, 14, 24, 54, 122. -/
def Obligations.Copies : Prop := Sys2Proof.Rules.CopyInstructions ∧ Sys2Proof.Rules.CopyCommands

/-- R247, R268 to R271: receivers, notices and pulls.
The model's choices in it: logs 3, 24, 57, 58, 115. -/
def Obligations.NoticesAndPulls : Prop := Sys2Proof.Rules.Receivers ∧ Sys2Proof.Rules.Kicks ∧ Sys2Proof.Rules.Pulls

/-- R272 to R277: remote loads and the traffic of the narrows.
The model's choices in it: logs 3, 14, 15, 106. -/
def Obligations.RemoteLoadsAndNarrows : Prop := Sys2Proof.Rules.RemoteLoads ∧ Sys2Proof.Rules.NarrowsTraffic

/-! ## The matrix array -/

namespace Sys2Proof.Rules

open Sys2Proof Sys2Proof.Machine Sys2Proof.Safety

/-- Element k of a container of eight bytes: two's complement for the signed format, else unsigned (R303). -/
def byteElement (fmt x k : Nat) : Int :=
  let b : BitVec 8 := BitVec.ofNat 8 (x >>> (8 * k))
  if fmt = 0 then b.toInt else b.toNat

/-- The sum of the eight products of a pass. -/
def dotProduct (af bf a b : Nat) : Int :=
  byteElement af a 0 * byteElement bf b 0 + byteElement af a 1 * byteElement bf b 1 +
  byteElement af a 2 * byteElement bf b 2 + byteElement af a 3 * byteElement bf b 3 +
  byteElement af a 4 * byteElement bf b 4 + byteElement af a 5 * byteElement bf b 5 +
  byteElement af a 6 * byteElement bf b 6 + byteElement af a 7 * byteElement bf b 7

/-- An instruction's entry at the end of its core's array queue. -/
def entered (s : State) (e : Iss) (op : ArrayOp) : State :=
  modCore s e.core (fun k => { k with arrayQ := k.arrayQ ++ [⟨gidOf e.g, e.slot, s.fresh, op⟩] })

end Sys2Proof.Rules

/-- R300, R306, R307, R308, R309: the matrix instructions enter the array queue of 16: `mma` the quarters of its lanes with
their A values and scales, joined to a pass of the same opportunity, format and column offset where they may; `mmz` the
rows of its group in its slot pair; `mmrd` and `mmwr` the cells of their lanes; `bfill` its fill, with the command of
the copy engine that reads it. Their results come later. -/
def Sys2Proof.Rules.MatrixInstructions : Prop :=
  ∀ (f : LaneForm) (s : State) (e : Iss) (qs : List Queue) (c : Cohort),
    let s0 := issued s e qs
    let k := coreOf s0 e.core
    let lanes := lanesOf e.lanes
    let room := k.arrayQ.length < 16
    let bsel := uni32 s0 e (fieldAt e.x 2)
    let va := uni64 s0 e (fieldAt e.x 1)
    let n := bsel % 2 ^ 12
    let o := bsel / 2 ^ 12 % 2 ^ 11
    let later (t : State) (ws : List RegWrite) : Done := Done.later t (pendingResult t e .array ws 0)
    let row (name l : Nat) : Nat := laneRow c e.g name l
    let passes := enterQuarters s0 e (c.bBase + bsel / 2 ^ 11) (bsel % 2 ^ 11)
      ((quartersOf e.lanes).map (passQuarter s0 e c f.dst.toNat)) k.arrayQ
    let fill : Fill :=
      ⟨gidOf e.g, s0.fresh, c.bBase + f.dst.toNat, o, n, setOf e.x, false, false, false, none, []⟩
    cohortOf k e.g = some c →
      (partialQuarters e.lanes = 0 → bselOk e.g.ln.fmt c.bsl bsel = true → passes.length ≤ 16 →
        Completes (.mma f) s e qs (later (modCore s0 e.core (fun k => { k with arrayQ := passes })) [])) ∧
      (room → Completes (.mmz f) s e qs (performed (Rules.entered s0 e (.zero (zeroRows c e.g f.dst.toNat))) e .array)) ∧
      (room → Completes (.mmrd f) s e qs (later
        (Rules.entered s0 e (.read f.src2.toNat (lanes.map (fun l => (l, row f.src1.toNat l, f.src3.toNat)))))
        (writeSized (wideType f.src2.toNat) f.dst.toNat e.lanes (fun _ => 0)))) ∧
      (room → Completes (.mmwr f) s e qs (performed (Rules.entered s0 e (.write (lanes.map (fun l =>
        (row f.dst.toNat l, f.src3.toNat, writtenCell f.src2.toNat (src64 s0 e (fieldAt e.x 1) l)))))) e .array)) ∧
      (fillOk bsel = true → va % 8 = 0 → va < 2 ^ 48 → room → k.engine.length < 16 →
        Completes (.bfill f) s e qs (performed (modCore (Rules.entered s0 e (.fill fill)) e.core (fun k =>
          { k with engine := k.engine ++
            [⟨e.slot, gidOf e.g, e.g.ln.pc, s0.fresh, .fill va (c.bBase + f.dst.toNat) o (64 * n), none, .start⟩] })) e .engine))

/-- R295, R298, R306, R309, R59: `mma` traps PARTIAL_QUARTER with the quarters of which some lanes but not all take part, and
then ILLEGAL_OPERAND at field 2 on a bsel beyond its limits; `bfill` traps ILLEGAL_OPERAND at field 2 on a fill word
beyond its limits, then ALIGN, then ACCESS on its address. -/
def Sys2Proof.Rules.MatrixTraps : Prop :=
  ∀ (f : LaneForm) (s : State) (e : Iss) (qs : List Queue) (c : Cohort),
    let s0 := issued s e qs
    let w := uni32 s0 e (fieldAt e.x 2)
    let va := uni64 s0 e (fieldAt e.x 1)
    let field2 : Trap := ⟨0x02, 0, BitVec.ofNat 64 (2 + f.src2.toNat * 256), none, none⟩
    cohortOf (coreOf s0 e.core) e.g = some c →
      (partialQuarters e.lanes ≠ 0 → Traps (.mma f) s e qs ⟨0x06, 0, BitVec.ofNat 64 (partialQuarters e.lanes), none, none⟩) ∧
      (partialQuarters e.lanes = 0 → bselOk e.g.ln.fmt c.bsl w = false → Traps (.mma f) s e qs field2) ∧
      (fillOk w = false → Traps (.bfill f) s e qs field2) ∧
      (fillOk w = true → va % 8 ≠ 0 → Traps (.bfill f) s e qs ⟨0x0C, 0, BitVec.ofNat 64 va, none, none⟩) ∧
      (fillOk w = true → va % 8 = 0 → 2 ^ 48 ≤ va → Traps (.bfill f) s e qs ⟨0x0D, 0, BitVec.ofNat 64 va, none, none⟩)

/-- R304, R310, R311, R315: `msync` waits until no entry of its group is queued and no write on its way, and no fill
open, and then delivers the group's matrix flags and clears them; `setfmt` exchanges bits of the format word under a
mask, or traps ILLEGAL_OPERAND at field 1 on a reserved bit; `phint` declares a phase of nonzero length. -/
def Obligations.MatrixModes : Prop :=
  ∀ (f : LaneForm) (s : State) (e : Iss) (qs : List Queue),
    let s0 := issued s e qs
    let k := coreOf s0 e.core
    let mask : Word := BitVec.ofNat 32 (uni32 s0 e (fieldAt e.x 2))
    let new := (e.g.ln.fmt &&& ~~~ mask) ||| (BitVec.ofNat 32 (uni32 s0 e (fieldAt e.x 1)) &&& mask)
    let len := (f.lit.getD 0).toNat
    let set (h : Lane → Lane) : State := modLane s0 e.core e.slot h
    (arrayBusy k e.slot = false → fillsOpen k (gidOf e.g) = false → k.arrayQ.length < 16 →
      Completes (.msync f) s e qs (Done.regs
        (modLane (modCore (Rules.entered s0 e .sync) e.core (fun k => syncFills k e.g)) e.core e.slot
          (fun l => { l with matrixFlags := 0 })) 1
        (write32 f.dst.toNat e.lanes (fun _ => e.g.ln.matrixFlags.toNat)) 0)) ∧
    (new.toNat < 2 ^ 15 → Completes (.setfmt f) s e qs
      (Done.regs (set (fun l => { l with fmt := new })) 2 (write32 f.dst.toNat e.lanes (fun _ => e.g.ln.fmt.toNat)) 0)) ∧
    (2 ^ 15 ≤ new.toNat → Traps (.setfmt f) s e qs ⟨0x02, 0, BitVec.ofNat 64 (1 + f.src1.toNat * 256), none, none⟩) ∧
    (len ≠ 0 → Completes (.phint f) s e qs (Done.plain (set (fun l =>
      { l with hint := some ⟨wide16 f, f.src1.toNat, len, decide (wide16 f = 0), s.now, false⟩ })))) ∧
    (len = 0 → Traps (.phint f) s e qs ⟨0x02, 0, 15, none, none⟩)

/-- R71: a cell of the formats i8 and n8 (codes 0 and 4 of `fmt`) after a pass: the accumulator plus, minus or replaced
by the exact sum of the eight products, by `fmt`[13:12], then wrapped to 36 bits, or with `fmt`[14] clamped to them,
which alone raises the saturation flag. -/
def Obligations.IntegerCells : Prop :=
  ∀ (fmt : Word) (acc : BitVec 36) (a b sa sb : Nat), fmt.toNat % 16 ∈ [0, 4] → fmt.toNat / 16 % 16 ∈ [0, 4] →
    fmt.toNat / 4096 % 4 < 3 →
    let t := Rules.dotProduct (fmt.toNat % 16) (fmt.toNat / 16 % 16) a b
    let mode := fmt.toNat / 4096 % 4
    let v : Int := if mode = 0 then acc.toInt + t else if mode = 1 then t else acc.toInt - t
    let clamped : Int := max (-(2 ^ 35)) (min (2 ^ 35 - 1) v)
    cellAfter fmt acc a b sa sb =
      if fmt.getLsbD 14 then (BitVec.ofInt 36 clamped, if clamped = v then (0 : BitVec 6) else 32) else (BitVec.ofInt 36 v, 0)

/-- R300, R302, R304, R423: the pass at the head of the array queue leaves the queue, its writes on their way, unless it
begins a declared burst whose rail has not risen, or which follows another too closely (R425); the writes land in order, each row as the pass computed it, with the
flags they raise in their groups and the results they complete; the rows of every other number stay. -/
def Sys2Proof.Rules.MatrixPasses : Prop :=
  ∀ (core slot tag b off key : Nat) (s : State) (owner : GroupId) (fmt : Word) (qs : List PassQuarter) (dones : List (Nat × Nat))
    (rest : List ArrayEntry) (x : Landing) (more : List Landing),
    let k := coreOf s core
    let t := modCore s core (fun k => { k with landing := more, accs := writeRows k.accs x.rows })
    let ran := setCore s core { beginBursts k qs with
      arrayQ := rest, landing := k.landing ++ [passLanding s core k fmt b off qs dones], latch := some (b, off) }
    (k.arrayQ = ⟨owner, slot, tag, .pass fmt b off qs dones⟩ :: rest → burstWaits s core = false → exec (.mmaPass core) s =
      .next (if (burstsBegun k).isEmpty = true then ran else { ran with cores := mapEntries ran.cores (fun c k =>
        if c / 64 = core / 64 then { k with burstGap := max k.burstGap (if c / 8 = core / 8 then 32 else 8) } else k) })) ∧
    (burstsBegun k ≠ [] → k.burstGap ≠ 0 → exec (.mmaPass core) s = .next s) ∧
    (k.landing = x :: more → exec (.accumulatorWrite core) s = .next
      (x.done.foldl (fun s d => completeTag s core d.1 d.2) (x.flags.foldl (fun s f => raiseMatrix s core f.1 f.2) t))) ∧
    ((∀ r ∈ x.rows, r.1 ≠ key) → mget? (writeRows k.accs x.rows) key = mget? k.accs key) ∧
    (∀ row, x.rows.Pairwise (fun a b => a.1 ≠ b.1) → (key, row) ∈ x.rows → mget? (writeRows k.accs x.rows) key = some row)

/-- R300, R307, R308, R309: an entry at the head of the array queue other than a pass takes effect once the writes that it
waits for have landed: it zeroes its rows, delivers its cells, or writes them, and its scoreboard falls; or its fill
is open from then on. -/
def Sys2Proof.Rules.ArrayEntries : Prop :=
  ∀ (core : Nat) (s : State) (x : ArrayEntry) (rest : List ArrayEntry) (rows : List Nat) (ty : Nat)
    (cells : List (Nat × Nat × Nat)) (puts : List (Nat × Nat × BitVec 36)) (y : Fill),
    let k := coreOf s core
    let out := setCore s core { k with arrayQ := rest }
    let v := (List.range 64).map (readLane k ty cells)
    k.arrayQ = x :: rest →
      (k.landing = [] →
        (x.op = .zero rows → exec (.arrayEntry core) s = .next (completeTag (modCore out core (fun k =>
          { k with accs := writeRows k.accs (rows.map (fun r => (r, List.replicate 64 0))) })) core x.slot x.tag)) ∧
        (x.op = .read ty cells → exec (.arrayEntry core) s = .next (completeValues
          (raiseMatrix out core x.slot ((v.map (fun x => x.2)).foldl (fun a f => a ||| f) 0)) core x.slot x.tag
          (if wideType ty = true then [v.map (fun x => BitVec.ofNat 32 x.1), v.map (fun x => BitVec.ofNat 32 (x.1 / 2 ^ 32))]
           else [v.map (fun x => BitVec.ofNat 32 x.1)]))) ∧
        (x.op = .write puts → exec (.arrayEntry core) s = .next (completeTag (modCore out core (fun k =>
          { k with accs := writeCells k.accs puts, latch := none })) core x.slot x.tag))) ∧
      (x.op = .fill y → ownerHere k y = true → exec (.arrayEntry core) s =
        .next (modCore out core (fun k => { k with fills := k.fills ++ [y], latch := none }))) ∧
      (x.op = .sync → exec (.arrayEntry core) s = .next out)

/-- R309, R314, R387: a fill completes: column j of its slot holds, from its offset, its own n bytes of what the copy engine
read, in order; and its scoreboard falls. Bytes at a peer are asked for first, and land once the peer has answered. -/
def Sys2Proof.Rules.Fills : Prop :=
  ∀ (core va b o n tag : Nat) (s : State) (c : EngineCmd) (l : List (Place × Nat)) (bs : List Byte) (j i : Nat) (m : Memory),
    let s0 : State := { s with turn := .idle }
    (fillsAtWork (coreOf s core) = [c] → c.op = .fill va b o (64 * n) →
      (∃ y ∈ (coreOf s core).fills, y.tag = c.tag) → placesOf s0 core c.gid.ctx false .read true va (64 * n) = .ok l →
        let r := readPlaces s0 core 10000 l
        let goes (t : State) : Prop :=
          exec (.bfillComplete core) s = .next (claimOps c.gid s.outgoing.length { t with turn := s.turn })
        let landed (t : State) : State := completeTag (modCore t core (fun k => dropCommand { k with
          bmem := writeFill k.bmem b o n r.1,
          fills := k.fills.map (fun y => if y.tag = c.tag then { y with done := true } else y) } c)) core c.slot c.tag
        (c.stage = .start → atPeer l = false → goes (landed r.2.2)) ∧
        (c.stage = .start → atPeer l = true → goes (modCommand { s0 with outgoing := r.2.2.outgoing } core c
          (fun x => { x with stage := .asked s.fresh }))) ∧
        (c.stage = .asked tag → answered s tag = true → goes (landed { r.2.2 with outgoing := s.outgoing }))) ∧
    (Memory.wf m = true → bs.length = 64 * n → o + n ≤ 2048 → j < 64 → i < n →
      Memory.read (writeFill m b o n bs) (bAddress b j (o + i)) = bs.getD (j * n + i) 0)

/-- R295, R298, R300, R306 to R309: how the matrix instructions enter the array queue, and where they trap.
The model's choices in it: logs 22, 60. -/
def Obligations.MatrixIssue : Prop := Sys2Proof.Rules.MatrixInstructions ∧ Sys2Proof.Rules.MatrixTraps

/-- R300, R302, R304, R307 to R309, R314: what the array does by itself.
The model's choices in it: logs 5, 20, 22, 61, 66, 85. -/
def Obligations.MatrixArray : Prop := Sys2Proof.Rules.MatrixPasses ∧ Sys2Proof.Rules.ArrayEntries ∧ Sys2Proof.Rules.Fills

/-! ## The cell plane -/

namespace Sys2Proof.Rules

open Sys2Proof Sys2Proof.Machine Sys2Proof.Safety

/-- The entry of a plane instruction at the end of its core's plane queue, the rest of the package as it was; a PLANE_FP
handler's entries are kept ahead of it (R326, R338). -/
def planeQueued (s : State) (e : Iss) (op : PlaneOp) : State :=
  let x : PlaneEntry := ⟨gidOf e.g, e.slot, e.g.ln.pc, e.g.ln.em, s.fresh, op, none⟩
  let first (p : Plane) : Plane := { p with handlerQueue := p.handlerQueue ++ [x] }
  let last (p : Plane) : Plane := { p with queue := p.queue ++ [x] }
  modCore s e.core (fun k => { k with plane := (if planeHandler (coreOf s e.core) e then first k.plane else last k.plane) })

/-- The queue that its entry goes to has room. -/
def planeRoom (s : State) (e : Iss) : Prop :=
  if planeHandler (coreOf s e.core) e then (coreOf s e.core).plane.handlerQueue.length < 4
  else (coreOf s e.core).plane.queue.length < 16

/-- The entry that an arithmetic or moving plane instruction makes, from R330 to R333: c registers by number, the other
operands as the group's own words. -/
def planeEntryOf (s : State) (e : Iss) : Instr → Option PlaneOp
  | .plin f => some (.linear (cNumber f.dst) (uniWord s e 1) (uniWord s e 2) (uniWord s e 3))
  | .plquad f => some (.quad (cNumber f.dst) (coefficients s e f.src1.toNat) false)
  | .plexq f => some (.quad (cNumber f.dst) (coefficients s e f.src1.toNat) true)
  | .pladd f => some (.bin .add (cNumber f.dst) (cNumber f.src1) (cellB s e 2))
  | .plsub f => some (.bin .sub (cNumber f.dst) (cNumber f.src1) (cellB s e 2))
  | .plmul f => some (.bin .mul (cNumber f.dst) (cNumber f.src1) (cellB s e 2))
  | .plmin f => some (.bin .min (cNumber f.dst) (cNumber f.src1) (cellB s e 2))
  | .plmax f => some (.bin .max (cNumber f.dst) (cNumber f.src1) (cellB s e 2))
  | .plcmp c f => some (.bin (.cmp c) (cNumber f.dst) (cNumber f.src1) (cellB s e 2))
  | .plfma f => some (.fma (cNumber f.dst) (cNumber f.src1) (cellB s e 2) (cellB s e 3))
  | .plmov f => some (.mov (cNumber f.dst) (cellB s e 1))
  | .plsel f => some (.sel (cNumber f.dst) (cNumber f.src1) (cellB s e 2) (cNumber f.src3))
  | .plclr f => some (.clearRegs (BitVec.ofNat 16 (wide16 f)))
  | .pltrap f => some (.trapMask (BitVec.ofNat 5 f.src1.toNat))
  | .plwr f => some (.write (cNumber f.dst) ((lanesOf e.lanes).map (fun l =>
      (src32 s e (fieldAt e.x 2) l % 4096, BitVec.ofNat 32 (src32 s e (fieldAt e.x 1) l)))))
  | _ => none

end Sys2Proof.Rules

/-- R319, R326, R328, R330, R332, R333, R336, R339: a plane instruction of a group whose cohort holds the plane enters
the plane queue and completes; of any other group it traps PLANE_NOT_HELD. -/
def Sys2Proof.Rules.PlaneInstructions : Prop :=
  ∀ (i : Instr) (s : State) (e : Iss) (qs : List Queue) (op : PlaneOp),
    let s0 := issued s e qs
    Rules.planeEntryOf s0 e i = some op →
      ((coreOf s0 e.core).plane.holder = some (holderOf e.g) → Rules.planeRoom s0 e →
        Completes i s e qs (Done.plain (Rules.planeQueued s0 e op))) ∧
      ((coreOf s0 e.core).plane.holder ≠ some (holderOf e.g) → Traps i s e qs ⟨0x11, 0, 0, none, none⟩)

/-- R319, R320, R321, R322, R323: `placq` makes the cohort the holder of a free plane, with its acquisition clear
queued and its status area set, and answers true; of a plane it holds it moves the status area; of another's it answers
false; a status area out of the allocation traps ACCESS. `plrel` gives the plane back; `plorg` sets the origin within
2^23 and traps ILLEGAL_OPERAND beyond it, with the field of the coordinate; without the plane these two, and the
instructions of enables and results, trap PLANE_NOT_HELD. -/
def Sys2Proof.Rules.PlaneHolding : Prop :=
  ∀ (f : LaneForm) (s : State) (e : Iss) (qs : List Queue),
    let s0 := issued s e qs
    let k := coreOf s0 e.core
    let off := uni32 s0 e (fieldAt e.x 1)
    let mine := k.plane.holder = some (holderOf e.g)
    let p := f.dst.toNat
    let mod (s : State) (h : Plane → Plane) : State := modCore s e.core (fun k => { k with plane := h k.plane })
    let x := toSigned 32 off
    let y := toSigned 32 (uni32 s0 e (fieldAt e.x 2))
    (statusOk k e.g off = true →
      (mine →
        Completes (.placq f) s e qs (Done.pred (mod s0 (fun p => { p with status := off })) p e.lanes (BitVec.allOnes 64) 0)) ∧
      (¬ mine → k.plane.holder.isSome = true → Completes (.placq f) s e qs (Done.pred s0 p e.lanes 0 0)) ∧
      (k.plane.holder = none → Rules.planeRoom s0 e →
        Completes (.placq f) s e qs (Done.pred (mod (Rules.planeQueued s0 e .clear)
          (fun p => { p with holder := some (holderOf e.g), status := off })) p e.lanes (BitVec.allOnes 64) 0))) ∧
    (statusOk k e.g off = false → Traps (.placq f) s e qs ⟨0x0D, 0, BitVec.ofNat 64 off, none, none⟩) ∧
    (mine → Completes (.plrel f) s e qs (Done.plain
      (modCore s0 e.core (fun k => { k with plane := { k.plane with holder := none } })))) ∧
    (¬ mine → ∀ i ∈ [.plrel f, .plorg f, .plen f, .plels f, .plpop f, .plflag f, .plrd f, .plcov f],
      Traps i s e qs ⟨0x11, 0, 0, none, none⟩) ∧
    (mine → x.natAbs ≤ 2 ^ 23 → y.natAbs ≤ 2 ^ 23 → Rules.planeRoom s0 e →
      Completes (.plorg f) s e qs (Done.plain (Rules.planeQueued s0 e (.origin x y)))) ∧
    (mine → 2 ^ 23 < x.natAbs → Traps (.plorg f) s e qs ⟨0x02, 0, BitVec.ofNat 64 (1 + f.src1.toNat * 256), none, none⟩) ∧
    (mine → x.natAbs ≤ 2 ^ 23 → 2 ^ 23 < y.natAbs →
      Traps (.plorg f) s e qs ⟨0x02, 0, BitVec.ofNat 64 (2 + f.src2.toNat * 256), none, none⟩)

/-- R334: `plen` pushes an enable while the depth that the entries ahead leave is below 8, `plels` and `plpop` need a depth
above 0; otherwise they trap ILLEGAL_OP with subcodes 7 and 8 and their own bits. -/
def Sys2Proof.Rules.PlaneEnables : Prop :=
  ∀ (f : LaneForm) (s : State) (e : Iss) (qs : List Queue),
    let s0 := issued s e qs
    let k := coreOf s0 e.core
    let depth := depthAhead k e
    let queued (op : PlaneOp) : Done := Done.plain (Rules.planeQueued s0 e op)
    let bad (i : Instr) (sub : Nat) : Trap := ⟨0x01, sub, instrBits i, none, none⟩
    k.plane.holder = some (holderOf e.g) →
      (depth < 8 → Rules.planeRoom s0 e → Completes (.plen f) s e qs (queued (.enable (cNumber f.src1)))) ∧
      (8 ≤ depth → Traps (.plen f) s e qs (bad (.plen f) 7)) ∧
      (0 < depth → Rules.planeRoom s0 e → Completes (.plels f) s e qs (queued .elseEnable) ∧
        Completes (.plpop f) s e qs (queued .popEnable)) ∧
      (depth = 0 → Traps (.plels f) s e qs (bad (.plels f) 8) ∧ Traps (.plpop f) s e qs (bad (.plpop f) 8))

/-- R335, R339, R340, R342: `plflag`, `plrd` and `plcov` queue an entry that writes their register when it takes effect;
`plcov` starts its stream in the queue, and discards what a run of it before the group's restart left there. -/
def Sys2Proof.Rules.PlaneResults : Prop :=
  ∀ (f : LaneForm) (s : State) (e : Iss) (qs : List Queue),
    let s0 := issued s e qs
    let n := f.src1.toNat
    let later (s : State) (op : PlaneOp) : Done :=
      Done.later (Rules.planeQueued s e op) (pendingResult (Rules.planeQueued s e op) e .plane (write32 f.dst.toNat e.lanes (fun _ => 0)) 0)
    let q := discardStale e.g.ln.pc.addr (queueOf e.g n)
    let c : CoverStream := ⟨s0.fresh, e.lanes, none, some ⟨e.g.ln.pc.addr, false⟩⟩
    (coreOf s0 e.core).plane.holder = some (holderOf e.g) → Rules.planeRoom s0 e →
      Completes (.plflag f) s e qs (later s0 (.flags (decide (n = 1)))) ∧
      Completes (.plrd f) s e qs (later s0 (.read (cNumber f.src1)
        ((lanesOf e.lanes).map (fun l => (l, src32 s0 e (fieldAt e.x 2) l % 4096))))) ∧
      (n < 7 ∨ (n = 7 ∧ (queueOf e.g 7).nmode = false) → q.stream = none → Completes (.plcov f) s e qs
        (later (modQueue s0 e.core e.slot n (fun _ => { reserveEntries [] q with stream := some (.cover c) })) (.cover n)))

/-- R321, R326, R338, R340: the next entry of the plane takes effect: the handler's entries first, the queue's while no
PLANE_FP is unreturned; the acquisition clear by a step of its own. The sequencer's upkeep changes nothing that a
program sees; a coverage stream pushes its cells, one to each of its lanes in ascending order. -/
def Sys2Proof.Rules.PlaneSteps : Prop :=
  ∀ (core slot q : Nat) (s : State) (g : Group) (x : PlaneEntry) (rest : List PlaneEntry) (c : CoverStream) (cells : List Nat),
    let p := (coreOf s core).plane
    let wait := queueOf g q
    let step (x : PlaneEntry) (p : Plane) : Prop :=
      (isClear x = false → exec (.planeEntry core) s = .next (applyPlane s core x p)) ∧
      (isClear x = true → exec (.acquisitionClear core) s = .next (applyPlane s core x p))
    (p.handlerQueue = x :: rest → step x { p with handlerQueue := rest }) ∧
    (p.handlerQueue = [] → p.unreturned = none → p.queue = x :: rest → step x { p with queue := rest }) ∧
    exec (.planeUpkeep core) s = .next s ∧
    (groupOf s core slot = some g → wait.stream = some (.cover c) → c.cells = some cells → freeEntries wait ≠ 0 →
      (ctxOf s g.ctx).state ≠ .faulted →
      let left := cells.drop (laneCount c.lanes)
      exec (.plcovPush core slot q) s = .next (modQueue s core slot q (fun y => { y with
        entries := y.entries ++ [⟨(List.range 64).map (coverElement c.lanes cells), true, c.mark, 0⟩],
        stream := if left = [] then none else some (.cover { c with cells := some left }) })))

/-- R317, R321, R323, R329 to R335, R339: what an entry does to the plane. Cells that are not enabled keep every word and
flag, but for the clear, a restored image and the clearing of `plflag`, which touch all cells. An entry with results
writes its register alone; each enabled cell gets its word, and its flags gather. The clear empties the plane. -/
def Sys2Proof.Rules.PlaneCells : Prop :=
  ∀ (p : Plane) (op : PlaneOp) (r : CellResults) (d n u v w i : Nat) (a b c : Word) (k : CellSrc) (cond : FCond) (k6 : List Word)
    (m : BitVec 16) (x y : Int) (l : List (Nat × Word)) (en : BitVec 4096) (below : List (BitVec 4096)), i < 4096 →
    let on := cellOn p i = true
    let word (q : Plane) (r : Nat) : Word := cellWord q r i
    let flags (q : Plane) : Flags := q.flags.getD i 0
    let gives (op : PlaneOp) (res : FRes) : Prop :=
      word (planeAfter p op) d = BitVec.ofNat 32 res.code ∧ flags (planeAfter p op) = flags p ||| res.flags
    let src := cellSource p k i
    let fma (a b c : Nat) : FRes := fFma fp32 envPlain .rne a b c
    let column := cellX p i
    let row := cellY p i
    let q (j : Nat) : Nat := (k6.getD j 0).toNat
    let u1 := fma (q 3) column (q 1)
    let u2 := fma (q 4) row u1.code
    let w2 := fma (q 5) row (q 2)
    let s2 := fma w2.code row (q 0)
    let r2 := fma u2.code column s2.code
    let quad : FRes := ⟨r2.code, r2.flags ||| (u1.flags ||| u2.flags ||| w2.flags ||| s2.flags)⟩
    let lin := fma b.toNat column a.toNat
    let lin2 := fma c.toNat row lin.code
    (¬ on → op ≠ .clear → (∀ z, op ≠ .restore z) →
      (∀ r, word (planeAfter p op) r = word p r) ∧ (op ≠ .flags true → flags (planeAfter p op) = flags p)) ∧
    (entryResults p op = some (d, r) → (n ≠ d → word (planeAfter p op) n = word p n) ∧
      (on → word (planeAfter p op) d = (r.getD i (0, 0)).1 ∧ flags (planeAfter p op) = flags p ||| (r.getD i (0, 0)).2)) ∧
    (on →
      gives (.mov d k) ⟨src, 0⟩ ∧
      gives (.sel d u k w) ⟨if word p w ≠ 0 then (word p u).toNat else src, 0⟩ ∧
      gives (.bin .add d u k) (fAdd fp32 envPlain .rne (word p u).toNat src) ∧
      gives (.bin .sub d u k) (fSub fp32 envPlain .rne (word p u).toNat src) ∧
      gives (.bin .mul d u k) (fMul fp32 envPlain .rne (word p u).toNat src) ∧
      gives (.bin .min d u k) (fMinMax fp32 envPlain true (word p u).toNat src) ∧
      gives (.bin .max d u k) (fMinMax fp32 envPlain false (word p u).toNat src) ∧
      gives (.bin (.cmp cond) d u k) ⟨if (fCompare fp32 envPlain cond (word p u).toNat src).1 = true then 1 else 0,
        (fCompare fp32 envPlain cond (word p u).toNat src).2⟩ ∧
      gives (.fma d u k (.reg v)) (fma (word p u).toNat src (word p v).toNat) ∧
      gives (.fma d u k (.word c)) (fma (word p u).toNat src c.toNat) ∧
      gives (.linear d a b c) ⟨lin2.code, lin2.flags ||| lin.flags⟩ ∧
      gives (.quad d k6 false) quad ∧
      gives (.quad d k6 true) ⟨(cellExp2 quad.code).code, (cellExp2 quad.code).flags ||| quad.flags⟩ ∧
      (m.getLsbD d = true → word (planeAfter p (.clearRegs m)) d = 0) ∧
      word (planeAfter p (.write d (l ++ [(i, a)]))) d = a) ∧
    (m.getLsbD d = false → word (planeAfter p (.clearRegs m)) d = word p d) ∧
    flags (planeAfter p (.clearRegs m)) = flags p ∧ flags (planeAfter p (.write d l)) = flags p ∧
    (n ≠ d → word (planeAfter p (.write d l)) n = word p n) ∧
    flags (planeAfter p (.flags true)) = 0 ∧ planeAfter p (.flags false) = p ∧
    (planeAfter p (.origin x y)).ox = x ∧ (planeAfter p (.origin x y)).oy = y ∧
    (let q := planeAfter p .clear
     q.enables = [] ∧ q.flags = [] ∧ q.trapMask = 0 ∧ q.ox = 0 ∧ q.oy = 0 ∧ q.status = p.status ∧ word q d = 0) ∧
    (planeAfter p .popEnable).enables = p.enables.tail ∧
    (p.enables.length < 8 → cellOn (planeAfter p (.enable u)) i = (cellOn p i && decide (word p u ≠ 0))) ∧
    (p.enables = en :: below →
      cellOn (planeAfter p .elseEnable) i = (cellOn { p with enables := below } i && !en.getLsbD i))

/-- R319, R326, R328, R330 to R336, R339: how the plane instructions enter the plane queue, and where they trap. -/
def Obligations.PlaneIssue : Prop := Sys2Proof.Rules.PlaneInstructions ∧ Sys2Proof.Rules.PlaneEnables

/-- R319 to R323, R335, R339, R340, R342: the holder of the plane, and the instructions that read it.
The model's choices in it: log 65. -/
def Obligations.PlaneHoldingAndResults : Prop := Sys2Proof.Rules.PlaneHolding ∧ Sys2Proof.Rules.PlaneResults

/-- R321, R326, R329, R332 to R335, R338 to R340: the plane's entries in order, and what they do to the cells.
The model's choices in it: log 20. -/
def Obligations.PlaneEffects : Prop := Sys2Proof.Rules.PlaneSteps ∧ Sys2Proof.Rules.PlaneCells

/-! ## Barriers -/

/-- R286, R287: `bari` joins its group to a wide barrier that has room for it, makes the barrier where the scope's
instance has an entry free, and leaves a member as it is; a full barrier traps BARRIER_SCOPE, a scope below quad too, and a
count outside 1 to 65,535 ILLEGAL_OPERAND. In handler mode it traps ILLEGAL_OP with subcode 6 whatever its scope: which of
the two comes first for a scope that is not permitted is the model's choice (log 114). -/
def Sys2Proof.Rules.BarrierJoins : Prop :=
  ∀ (f : LaneForm) (s : State) (e : Iss) (qs : List Queue) (b : Barrier),
    let s0 := issued s e qs
    let scope := f.src1.toNat % 8
    let count := uni32 s0 e (fieldAt e.x 2)
    let id := wideId s0 e.core e.g f
    let record (b : Barrier) : Member := ⟨gidOf e.g, b.phase, b.phase, b.phase, 0, false, none⟩
    let joined (b : Barrier) : Barrier := { b with members := b.members ++ [record b] }
    let wrong : Trap := ⟨0x16, 0, BitVec.ofNat 64 scope, none, none⟩
    (2 ≤ scope → e.g.ln.handler = none → 1 ≤ count → count ≤ 65535 →
      (wideBarrier s0 id = some b →
        (memberOf b e.g ≠ none → Completes (.bari f) s e qs (Done.plain s0)) ∧
        (memberOf b e.g = none → b.members.length + b.others.joined < b.count → Completes (.bari f) s e qs (Done.plain
          { s0 with barriers := s0.barriers.map (fun x => if x.id = id then joined x else x) })) ∧
        (memberOf b e.g = none → b.count ≤ b.members.length + b.others.joined → Traps (.bari f) s e qs wrong)) ∧
      (wideBarrier s0 id = none → networkUse s0 id < 64 → Completes (.bari f) s e qs (Done.plain
        { s0 with barriers := s0.barriers ++ [joined ⟨id, count, 0, [], ⟨0, 0, 0⟩, [], []⟩] }))) ∧
    (scope < 2 → e.g.ln.handler = none → Traps (.bari f) s e qs wrong) ∧
    (e.g.ln.handler ≠ none → Traps (.bari f) s e qs ⟨0x01, 6, instrBits (.bari f), none, none⟩) ∧
    (2 ≤ scope → e.g.ln.handler = none → count = 0 ∨ 65535 < count →
      Traps (.bari f) s e qs ⟨0x02, 0, BitVec.ofNat 64 (2 + f.src2.toNat * 256), none, none⟩)

/-- R288, R289, R292: a member's arrival, once every phase it arrived at has completed for it and nothing that the
release must write waits, publishes as a release and counts; a replayed one only counts down; its wait completes, as an
acquire, once the phase of its last arrival has completed; `bars` does both, and stalls between them with its arrival
made. A group that is no member traps BARRIER_SCOPE, scope 0 too; a handler traps ILLEGAL_OP with subcode 6 at any scope
(log 114 for the order of the two). -/
def Sys2Proof.Rules.BarrierArrivals : Prop :=
  ∀ (f : LaneForm) (s t : State) (e : Iss) (qs : List Queue) (b : Barrier) (m : Member),
    let s0 := issued s e qs
    let scope := f.src1.toNat % 8
    let named := namedBarrier s0 e.core e.g f
    let may := 1 ≤ scope ∧ e.g.ln.handler = none
    let wrong : Trap := ⟨0x16, 0, BitVec.ofNat 64 scope, none, none⟩
    let waits := releaseWaits s0 e.core (scopeOfCode scope)
    let rel := releaseLane (publishFills s0 e f m) e.core e.slot (scopeOfCode scope) e.g
    (may → named = some b → memberOf b e.g = some m →
      (arrive s0 e f m = .ok t →
        Completes (.barv f) s e qs { Done.plain t with steps := 1 } ∧
        (m.half ≠ some e.g.ln.pc.addr → Completes (.bars f) s e qs (barsWait t e f))) ∧
      (m.s ≠ 0 → arrive s0 e f m = .ok (setMember s0 e f (fun m => { m with s := m.s - 1 }))) ∧
      (m.s = 0 → m.a ≤ m.c → waits = false → arrive s0 e f m = .ok (modBarrier rel.2 e.core e.g f (fun b =>
        { modMember b (gidOf e.g) (fun m => { m with a := m.a + 1 }) with arriving := joinSigs (liveSigs s0.now b.arriving) rel.1 }))) ∧
      (m.s = 0 → m.c < m.a ∨ waits = true → arrive s0 e f m = .error (.stall .barrier)) ∧
      (m.half = some e.g.ln.pc.addr → m.a - m.s ≤ m.c → Completes (.bars f) s e qs (barsWait s0 e f)) ∧
      (m.a - m.s ≤ m.c → Completes (.barw f) s e qs (Done.plain (acquireBarrier s0 e f b m)))) ∧
    (may → named = none ∨ (named = some b ∧ memberOf b e.g = none) →
      Traps (.barv f) s e qs wrong ∧ Traps (.barw f) s e qs wrong ∧ Traps (.bars f) s e qs wrong) ∧
    (scope = 0 → e.g.ln.handler = none →
      Traps (.barv f) s e qs wrong ∧ Traps (.barw f) s e qs wrong ∧ Traps (.bars f) s e qs wrong) ∧
    (e.g.ln.handler ≠ none → ∀ i ∈ [.barv f, .barw f, .bars f], Traps i s e qs ⟨0x01, 6, instrBits i, none, none⟩)

/-- R284, R291, R404: a phase of a barrier completes, for the barrier named and no other, when as many members have
arrived or exited as its count says, those of a pod's other packages with them, and one is left; its signatures pass to those
who wait; the completion reaches a group as its completed count.
The model's choices in it: logs 62, 63. -/
def Obligations.BarrierPhases : Prop :=
  ∀ (core slot : Nat) (s : State) (g : Group) (id : BarrierId) (b : Barrier) (now : Nat),
    let next (b : Barrier) : Barrier := if b.id = id then nextPhase s.now b else b
    let here (b : Barrier) : Nat := (b.members.filter (fun m => m.exited || decide (b.phase < m.a))).length
    let hear (b : Barrier) : Barrier := modMember b (gidOf g) (fun m => { m with c := min m.a b.phase })
    exec (.barrierPhaseComplete id) s = .next { s with
      barriers := s.barriers.map next,
      cores := mapEntries s.cores (fun _ k => { k with cohorts := k.cohorts.map (fun c => { c with barrier := next c.barrier }) }) } ∧
    (b.count ≤ here b + b.others.arrived →
      (∃ m ∈ b.members, m.exited = false) ∨ b.others.exited < b.others.joined →
      (nextPhase now b).phase = b.phase + 1 ∧ (nextPhase now b).arriving = [] ∧ (nextPhase now b).members = b.members ∧
        (nextPhase now b).others = ⟨b.others.joined, b.others.exited, b.others.exited⟩ ∧
        ∀ x ∈ b.arriving, x ∈ (nextPhase now b).complete) ∧
    (here b + b.others.arrived < b.count → nextPhase now b = b) ∧
    ((∀ m ∈ b.members, m.exited = true) → b.others.joined ≤ b.others.exited → nextPhase now b = b) ∧
    (groupOf s core slot = some g → exec (.barrierRelease core slot) s = .next
      (modCore { s with barriers := s.barriers.map hear } core
        (fun k => modCohort k g (fun c => { c with barrier := hear c.barrier }))))

/-! ## Launches from a kernel, pages -/

/-- R134, R135, R136: `klaunch` publishes as a release at package scope and declares a kernel for each lane's record, in lane
order; its word is each child's sequence number, and comes once all are declared. A record that is not valid traps
LAUNCH with the reason of the first, no kernel declared. `kwait` answers true if every child of its group is done,
false if all have ended and some not so, and sleeps while one has not; it wakes when all have.
The model's choices in it: logs 3, 68, 100. -/
def Obligations.KernelLaunches : Prop :=
  ∀ (f : LaneForm) (s s1 : State) (e : Iss) (qs : List Queue) (rs : List (Nat × (List Byte ⊕ Nat))) (core slot : Nat) (g : Group)
    (j n : Nat) (more : List (Nat × Nat)),
    let s0 := issued s e qs
    let lanes := lanesOf e.lanes
    let rel := releaseLane s0 e.core e.slot .package e.g
    let num (l : Nat) : Nat := (ctxOf s1 e.g.ctx).seq.toNat + (lanes.filter (fun j => decide (j < l))).length
    let mine := childrenOf s0 (gidOf e.g)
    let done := mine.all (fun k => decide (k.state = .done))
    (childWindow s0 (dieOf e.core) + lanes.length ≤ 256 → releaseWaits s0 e.core .package = false →
      fetchRecords rel.2 e.core e.g.ctx (lanes.map (fun l => (l, src64 s0 e (fieldAt e.x 1) l))) = .ok (rs, s1) →
        (rejected rs = [] → Completes (.klaunch f) s e qs (Done.later (declareChildren s1 e.core s0.fresh e.g rel.1 rs)
          (pendingResult s0 e .launch (write32 f.dst.toNat e.lanes num) 0))) ∧
        (rejected rs = (j, n) :: more → Traps (.klaunch f) s e qs
          ⟨0x17, n, maskOf (fun l => decide (l ∈ j :: more.map (fun b => b.1))), none, none⟩)) ∧
    (mine.all ended = true → Completes (.kwait f) s e qs
      { Done.pred s0 f.dst.toNat (lanesBelow (widthG e.g)) (if done then BitVec.allOnes 64 else 0) 0 with lat := 1 }) ∧
    (mine.all ended = false → Completes (.kwait f) s e qs { Done.plain (modLane s0 e.core e.slot (fun l =>
      { l with state := .sleeping, sleep := some .children })) with flow := .set }) ∧
    (groupOf s core slot = some g → g.ln.sleep = some .children → g.ln.state = .sleeping →
      (childrenOf s (gidOf g)).all ended = true → (ctxOf s g.ctx).state ≠ .faulted →
        exec (.kwaitWake core slot) s = .next (modLane s core slot (fun l => { l with state := wokenState l, sleep := none })))

/-- R350, R354, R355: `xinv` writes the dirty sectors of its scope back to the scope's coherence point, once the ways there
are open, and drops every cached translation of its range in the caches of its scope, length 0 meaning the whole address
space; a range that is not in 8 KiB units traps ALIGN, one beyond the space ACCESS; its scoreboard
falls once no skerry command of the context that was issued before it is unfinished and no operation made at a peer before
it is unacknowledged. `pgq` reports each lane's page
without an access to it. -/
def Sys2Proof.Rules.PageInstructions : Prop :=
  ∀ (f : LaneForm) (s : State) (e : Iss) (qs : List Queue) (r : List (Nat × Nat) × List Sig) (p : Pending)
    (more : List Pending) (g : Group) (core slot : Nat),
    let s0 := issued s e qs
    let base := uni64 s0 e (fieldAt e.x 1)
    let len := uni32 s0 e (fieldAt e.x 2)
    let drop (lo hi : Nat) : Done := performed
      (invalidateRange (flushScope s0 e.core f.src3.toNat) e.core f.src3.toNat ⟨e.g.ctx, lo, hi⟩) e .invalidate
    let ways := flushWaits s0 e.core f.src3.toNat = false
    (len = 0 → ways → Completes (.xinv f) s e qs (drop 0 (2 ^ 48))) ∧
    (len ≠ 0 → base % 8192 = 0 → len % 8192 = 0 → base + len ≤ 2 ^ 48 → ways → Completes (.xinv f) s e qs (drop base (base + len))) ∧
    (len ≠ 0 → base % 8192 ≠ 0 ∨ len % 8192 ≠ 0 → Traps (.xinv f) s e qs ⟨0x0C, 0, BitVec.ofNat 64 base, none, none⟩) ∧
    (len ≠ 0 → base % 8192 = 0 → len % 8192 = 0 → 2 ^ 48 < base + len →
      Traps (.xinv f) s e qs ⟨0x0D, 0, BitVec.ofNat 64 base, none, none⟩) ∧
    (groupOf (settleInvals s) core slot = some g →
      g.ln.outstanding.filter (fun p => decide (p.kind = .invalidate) && !(skerryOlder (settleInvals s) g.ctx p.tag ||
        (settleInvals s).outgoing.any (fun o => decide (o.tag < p.tag) && !o.acked && o.owner.all (fun w => decide (w.ctx = g.ctx))))) =
        p :: more →
        exec (.invalidationComplete core slot 0) s = .next (completeTag (settleInvals s) core slot p.tag)) ∧
    (queriesOf s0 e.core e.g.ctx (addressesOf s0 e f) = .ok r → Completes (.pgq f) s e qs (Done.later
      (acquireDrop s0 e.core .package r.2) (pendingResult s0 e .memory (write64 f.dst.toNat e.lanes
        (fun l => ((r.1.find? (fun x => decide (x.1 = l))).map (fun x => x.2)).getD 0)) 0)))

/-- R350, R352: after an invalidation no core in its scope holds a translation of its context that meets the range, or an
instruction of it; translations of other contexts stay. -/
def Sys2Proof.Rules.InvalidationLeavesNone : Prop :=
  ∀ (s : State) (core scope c : Nat) (r : VRange) (t : Translation),
    let s1 := invalidateRange s core scope r
    (c ∈ s.cores.map (fun e => e.1) → inScope core scope c = true →
      (t ∈ (coreOf s1 c).tlb → t.ctx = r.ctx → t.base + pageSize t.level ≤ r.lo ∨ r.hi ≤ t.base) ∧
      ∀ e ∈ (coreOf s1 c).icache, e.1 / 2 ^ 48 = r.ctx → e.1 % 2 ^ 48 < r.lo / 128 * 128 ∨ r.hi ≤ e.1 % 2 ^ 48) ∧
    (t.ctx ≠ r.ctx → (t ∈ (coreOf s1 c).tlb ↔ t ∈ (coreOf s c).tlb)) ∧ s1.mem = s.mem

/-! ## Skerries -/

/-- R357, R363, R373, R374, R375, R376: `nmload`, `nmcmd`, `nmlease` and `nmrel` send a request to their channel, which has
room for 16 with those on their way; their word, a status, comes later. Every page translates before a permission is looked
at (R254). An `nmload` also gives the copy engine the fetch of its image (CopyCommands). A descriptor or a count beyond its
limits traps ILLEGAL_OPERAND, a misaligned image ALIGN. -/
def Sys2Proof.Rules.SkerryInstructions : Prop :=
  ∀ (f : LaneForm) (s : State) (e : Iss) (qs : List Queue) (chan at8 : Nat) (c : SkCmd),
    let s0 := issued s e qs
    let k := coreOf s0 e.core
    let va := uni64 s0 e (fieldAt e.x 1)
    let vi := uni64 s0 e (fieldAt e.x 2)
    let n := uni32 s0 e (fieldAt e.x 3)
    let off := uni32 s0 e (fieldAt e.x 1)
    let free (s : State) (chan : Nat) : Prop :=
      ((skerryOf s chan).fifo.filter takesPlace).length +
        ((skerryOf s chan).requests.filter (fun q => takesPlace q.op)).length < 16
    let sent (s : State) (chan : Nat) (op : Nat → SkOp) : Done :=
      Done.later (modSkerry s chan (fun k => { k with requests := k.requests ++ [⟨gidOf e.g, e.core, e.slot, s.fresh, op s.fresh⟩] }))
        (pendingResult s e .skerry (write32 f.dst.toNat e.g.ln.em (fun _ => 0)) 0)
    let rel := (releaseLane s0 e.core e.slot .package e.g).2
    let wrong (n : Nat) : Trap := ⟨0x02, 0, BitVec.ofNat 64 n, none, none⟩
    (channelAt s0 e.core e.g.ctx va = .ok chan →
      (1 ≤ n → n ≤ 1024 → vi % 8 = 0 →
        pagesFirst s0 e.core e.g.ctx ((va, .read) :: (chunksOf vi (8 * n)).map (fun c => (c.1, .read))) = .ok () →
        checkImage s0 e.core e.g.ctx (chunksOf vi (8 * n)) = .ok () → k.engine.length < 16 →
        let fetching := modCore s0 e.core (fun k =>
          { k with engine := k.engine ++ [⟨e.slot, gidOf e.g, e.g.ln.pc, s0.fresh, .load vi chan n, none, .start⟩] })
        free s0 chan → Completes (.nmload f) s e qs
          (sent fetching chan (fun tag => .load (gidOf e.g) e.core e.slot tag n none))) ∧
      (free s0 chan →
        Completes (.nmlease f) s e qs (sent s0 chan (fun tag => .lease (gidOf e.g) e.core e.slot tag)) ∧
        Completes (.nmrel f) s e qs (sent s0 chan (fun tag => .unlease (gidOf e.g) e.core e.slot tag)))) ∧
    (n = 0 ∨ 1024 < n → Traps (.nmload f) s e qs (wrong (3 + f.src3.toNat * 256))) ∧
    (1 ≤ n → n ≤ 1024 → vi % 8 ≠ 0 → Traps (.nmload f) s e qs ⟨0x0C, 0, BitVec.ofNat 64 vi, none, none⟩) ∧
    (checkStruct k e.slot e.g off 64 = .ok () →
      (commandBad (scratchWords k off) = some at8 → Traps (.nmcmd f) s e qs (wrong (15 + at8 % 256 * 256))) ∧
      (commandBad (scratchWords k off) = none → commandOf s0 e (scratchWords k off) = .ok c →
        (∀ d, otherChannel c = some d → free s0 d) → releaseWaits s0 e.core .package = false → free rel (channelOf c.row) →
          Completes (.nmcmd f) s e qs (sent rel (channelOf c.row) (fun _ => .run c))))

/-- R364, R368, R369, R374: a command's request is judged when it arrives, before those that were sent earlier if their ways
are closed: refused with a status by a lease of another
group, an owner of another context, a kind that its lease does not allow, or no program; else accepted with status 0 at
its place in the FIFO. A loaded program is installed at its place. -/
def Sys2Proof.Rules.SkerryAcceptance : Prop :=
  ∀ (chan core slot tag n : Nat) (s : State) (q : SkRequest) (before l : List SkRequest) (x : SkCmd) (j : Judged) (gid : GroupId)
    (image : List DWord) (rest : List SkOp),
    let k := skerryOf s chan
    let room := (k.fifo.filter takesPlace).length < 16
    let mine (lease : Option GroupId) (gid : GroupId) : Prop := lease = none ∨ lease = some gid
    let dropped := modSkerry s chan (fun k => { k with requests := before ++ l })
    let status (s : State) (code : Nat) : State := completeValues s q.core q.slot q.tag [List.replicate 64 (BitVec.ofNat 32 code)]
    (settleChannel s chan = s → k.requests = before ++ q :: l → pathsOpen s (dieOf q.core) (channelDie chan) = true →
      (∀ r ∈ before, pathsOpen s (dieOf r.core) (channelDie chan) = false ∧ r.gid ≠ q.gid) →
      (q.op = .run x → otherChannel x = none →
        (judge (judged k) x = 0 → room → exec (.skerryAccept chan) s = .next (status (enterFifo dropped chan (.run x)) 0)) ∧
        (judge (judged k) x ≠ 0 → exec (.skerryAccept chan) s = .next (status dropped (judge (judged k) x)))) ∧
      (q.op = .lease gid core slot tag → room → exec (.skerryAccept chan) s = .next (settleChannel
        (enterFifo dropped chan q.op) chan))) ∧
    (settleChannel s chan = s → runsOf k = [] → k.fifo = .load gid core slot tag n (some image) :: rest → mine k.lease gid →
      exec (.nmloadApply chan) s = .next (settleChannel (completeValues (modSkerry s chan (fun k => { k with
        fifo := rest, owner := some gid.ctx, program := image, n := [], z := [], pc := 0 })) core slot tag
          [List.replicate 64 0]) chan)) ∧
    (¬ mine j.lease x.gid → judge j x = 1) ∧
    (mine j.lease x.gid → j.owner ≠ some x.ctx → judge j x = 2) ∧
    (mine j.lease x.gid → j.owner = some x.ctx →
      (x.kind = 0 → j.lease = some x.gid → judge j x = 3) ∧ (x.kind = 1 → j.lease = none → judge j x = 3) ∧
      (x.kind = 0 → j.lease = none → j.len ≤ x.entry → judge j x = 4) ∧
      (x.kind = 0 → j.lease = none → x.entry < j.len → judge j x = 0) ∧
      (x.kind = 1 → j.lease = some x.gid → j.len = 0 → judge j x = 4) ∧
      (x.kind = 1 → j.lease = some x.gid → 0 < j.len → judge j x = 0) ∧ (x.kind = 2 → judge j x = 0))

/-- R360, R362, R365, R366, R370: a command at the head of its channels starts; a word with a field beyond its limits
stops it with NM_BADWORD, one that would use a column beyond 31 with NM_COLUMN, a pc past the program with NM_RUNOFF;
any other word whose frames are not poisoned runs on every bank that is up to date, the rest miss it, and pointers, pc
and iterations move on. A bank replays what it missed, oldest first, for a run that has stopped too; one stopped with NM_UNCORR
up to a word that meets a poisoned frame. -/
def Sys2Proof.Rules.SkerryWords : Prop :=
  ∀ (chan bank : Nat) (s : State) (c : SkCmd) (r : SkRun) (rest : List SkOp) (w : DWord) (m : Missed) (more : List Missed)
    (starts : Bool) (bad : Nat × AccessKind),
    let k := skerryOf s chan
    let x := skWord w
    let y := skWord m.word
    let cps : Nat × Nat × Nat := if r.cmd.kind = 1 then (r.cmd.p0, r.cmd.p0, r.cmd.p0) else (k.cp0, k.cp1, k.cp2)
    let halt (code : Nat) : State := modSkerry s chan (fun k => { k with running := some { r with stop := some code } })
    let run : SkRun := ⟨c, 0, 0, 0, heldRanges c, [], [], none, 0, none⟩
    (settleChannel s chan = s → runsOf k = [] → k.fifo = .run c :: rest → c.source = true → headsBoth s c = true →
      exec (.skerryCommandStart chan) s = .next (modSkerry s chan (fun k =>
        if c.kind = 0 then { k with running := some run, cp0 := c.p0, cp1 := c.p1, cp2 := c.p2, pc := c.entry }
        else { k with running := some run }))) ∧
    (k.running = some r → r.cmd.kind ≠ 2 → r.stop = none → r.fault = none → (∀ b, b < 16 → (missed k b).length < 32) →
      (k.program.length ≤ k.pc → exec (.skerryWord chan) s = .next (halt 7)) ∧
      (k.program[k.pc]? = some w →
        (badWord x = true → exec (.skerryWord chan) s = .next (halt 5)) ∧
        (badWord x = false → badColumn x cps = true → exec (.skerryWord chan) s = .next (halt 6)) ∧
        (badWord x = false → badColumn x cps = false → wordFault s r x (pointer cps x.fptr) (pointer cps x.wptr) = none →
          exec (.skerryWord chan) s = .next (modSkerry (wordOnBanks s chan r.cmd.issued w x cps) chan (fun k => match k.running with
            | none => k
            | some r => if r.cmd.kind = 1 then stepNext x r k else runNext x r (advancePointers x k)))))) ∧
    exec (.bankRefresh chan bank starts) s = .next (modSkerry s chan (fun k => { k with
      refreshing := k.refreshing.filter (fun b => decide (b ≠ bank)) ++ (if starts then [bank] else []) })) ∧
    (bank ∉ k.refreshing → missed k bank = m :: more → runOf k m.id = some r → r.fault = none →
      let now := wordFault s r y (pointer m.cps y.fptr) (pointer m.cps y.wptr)
      let kept (l : List Missed) (k : Skerry) : Skerry :=
        { k with catchup := if l = [] then merase k.catchup bank else mset k.catchup bank l }
      (now = none → exec (.catchupReplay chan bank) s = .next (modSkerry
        (applyBank s chan m.id y (pointer m.cps y.fptr) (pointer m.cps y.wptr) bank) chan (kept more))) ∧
      (now = some bad → r.stop = some 8 → exec (.catchupReplay chan bank) s = .next (modSkerry s chan
        (kept ((missed k bank).filter (fun x => decide (x.id ≠ m.id)))))) ∧
      (now = some bad → r.stop ≠ some 8 → exec (.catchupReplay chan bank) s = .next (skFault s chan m.id bad.1 bad.2)))

/-- R367, R372, R412: a transfer between channels copies its next column, one within a channel all of them, each read
before any is written; it stops after the last. A stopped command leaves once no bank has a word of it left, its status
word and then its completion word written. -/
def Sys2Proof.Rules.SkerryEnds : Prop :=
  ∀ (chan d : Nat) (s : State) (r : SkRun),
    let k := skerryOf s chan
    let c := r.cmd
    let target (j : Nat) : Nat := c.drow + 1024 * (c.p1 + j)
    let column (j : Nat) : List Byte := columnBytes s r (c.p0 + j)
    let linesOf (j : Nat) : List Nat := (List.range 8).map (fun i => target j / 128 + i)
    let one := skWriteBytes (s, r) (target r.column) (column r.column)
    let all := (List.range c.count).foldl (fun a j => skWriteBytes a (target j) (column j)) (s, r)
    let moved (a : State × SkRun) (lines : List Nat) (n : Nat) : State := modSkerry a.1 chan (fun k =>
      { k with running := some { a.2 with column := n, lines := a.2.lines ++ lines, stop := if c.count ≤ n then some 0 else none } })
    let s1 := r.lines.foldl (fun s l => noteWrite s l 0) s
    let sigs := finishSigs s1 chan r
    let gone := leaveFifos s1 chan c sigs
    let s2 : State := { gone with turn := .idle }
    let s3 := match c.stat with
      | some a => skStore s2 chan false a (statusWord r) []
      | none => s2
    let s4 := match c.flag with
      | some a => skStore s3 chan (decide (c.scope = 3)) a c.value sigs
      | none => s3
    (k.running = some r → c.kind = 2 → r.stop = none → r.fault = none →
      (otherChannel c = some d → transferFault s c [r.column] = none →
        exec (.transferColumn chan) s = .next (moved one (linesOf r.column) (r.column + 1))) ∧
      (otherChannel c = none → transferFault s c (List.range c.count) = none →
        exec (.transferColumn chan) s = .next (moved all ((List.range c.count).map linesOf).flatten (r.column + c.count)))) ∧
    (oldestRun k = some r → runOver k r = true → wordWaits s chan c = false → wordPoison s c = none →
      exec (.skerryCommandFinish chan) s = .next (settleChannel (claimOps c.gid gone.outgoing.length { s4 with turn := gone.turn }) chan))

/-- R286 to R289, R292: joining a barrier, arriving and waiting.
The model's choices in it: logs 63, 64, 114. -/
def Obligations.BarrierMembers : Prop := Sys2Proof.Rules.BarrierJoins ∧ Sys2Proof.Rules.BarrierArrivals

/-- R350, R352, R354, R355: `xinv` and `pgq`, and what an invalidation leaves.
The model's choices in it: logs 12, 14, 24, 102. -/
def Obligations.PagesAndInvalidation : Prop := Sys2Proof.Rules.PageInstructions ∧ Sys2Proof.Rules.InvalidationLeavesNone

/-- R357, R363, R364, R368, R369, R373 to R376: requests to a skerry and how they are judged.
The model's choices in it: logs 78, 102, 104, 116. -/
def Obligations.SkerryRequests : Prop := Sys2Proof.Rules.SkerryInstructions ∧ Sys2Proof.Rules.SkerryAcceptance

/-- R351, R358, R360, R362, R365 to R367, R370 to R372, R412: programs at work on a channel, transfers and ends.
The model's choices in it: logs 11, 24, 78, 103, 104. -/
def Obligations.SkerryRuns : Prop := Sys2Proof.Rules.SkerryWords ∧ Sys2Proof.Rules.SkerryEnds

/-! ## Schedulers -/

/-- R137, R140, R141, R142: at a core's turn to offer, with no input, nothing that has waited and no command, its lane
opportunity of the ac is given if a lane stream could issue, its scalar one if a scalar stream could, either first (log 23);
else the turn goes to a core of the holm whose opportunities are open, else the holm's next ac comes. Of the candidates,
those whose pass counter is 32 come first, the one of highest priority, else the oldest has the turn, with the groups
packed. A group that has issued clears its counter, and the candidates of higher priority than some group of the
opportunity, which did not issue in it, count one more, to 32 at most; one that stalls counts nothing. -/
def Sys2Proof.Rules.Scheduling : Prop :=
  ∀ (core slot n other : Nat) (s : State) (g y : Group),
    let cs := laneCandidates s core
    let zs := scalarCandidates s core
    let r := giveLane s core cs (issueSlot s core cs)
    let z := giveScalar s core
    let t := tick s
    let lanes := laneCandidates t core
    let scalars := scalarCandidates t core
    let holm := core / 8
    let first (count : Group → Nat) (l : List (Nat × Group)) (x : Nat × Group) : Prop :=
      (∀ y ∈ l, count y.2 = 32 → count x.2 = 32 ∧ 255 - x.2.prio ≤ 255 - y.2.prio) ∧
      ((∀ y ∈ l, count y.2 ≠ 32) → ∀ y ∈ l, x.2.age ≤ y.2.age)
    let below (issued : List (Nat × Group)) (l : List (Nat × Group)) : Prop :=
      ∃ h ∈ l, h.1 = slot ∧ (∀ j ∈ issued, j.1 ≠ slot) ∧ ∃ j ∈ issued, j.2.prio < h.2.prio
    let counted (issued passed : Bool) (v : Nat) : Nat :=
      let w := if issued then 0 else v
      if passed then min (w + 1) 32 else w
    (midTurn s.turn = false → exec (.laneIssueOpportunity core) s = .next r) ∧
    (midTurn s.turn = true → exec (.laneIssueOpportunity core) s = .next s) ∧
    (cs ≠ [] → ∃ x ∈ cs, first (fun g => g.pass) cs x ∧ r.turn = .lane core x.1 ∧
      r.packed = (packedWith s core x cs).map (fun y => y.1) ∧
      (slot ∈ r.passed ↔ below (x :: packedWith s core x cs) cs) ∧ (coreOf r core).offered = []) ∧
    (zs ≠ [] → ∃ x ∈ zs, first (fun g => g.spass) zs x ∧ z.turn = .scalar core x.1 ∧ z.packed = [] ∧
      (slot ∈ z.passed ↔ below [x] zs) ∧ (coreOf z core).scalarOffered = []) ∧
    (s.agenda = [] → nextWaiting t = none → nextCommand t = none → s.turn = .offer core →
      let lane := step s = .next (giveLane t core lanes (issueSlot t core lanes))
      let scalar := step s = .next (giveScalar t core)
      (lanes ≠ [] → scalars = [] → lane) ∧ (lanes = [] → scalars ≠ [] → scalar) ∧ (lanes ≠ [] → scalars ≠ [] → lane ∨ scalar) ∧
      (lanes = [] → scalars = [] →
        (openCore t holm = some other → step s = .next { t with turn := .offer other }) ∧
        (openCore t holm = none → (holmCores holm).any (peopled t) = false → step s = .next { t with turn := nextOffer t }) ∧
        (openCore t holm = none → (holmCores holm).any (peopled t) = true → holm < 128 → ∃ moving nj u,
          exec (.holmBalance holm moving nj) (beginAc t holm) = .next u ∧ step s = .next { u with turn := nextOffer u }))) ∧
    (groupOf s core slot = some g →
      (groupOf (afterTurn (.lane core n) s) core slot = some y →
        y.pass = if laneStalled s core n then g.pass else counted (decide (slot = n)) (s.passed.contains slot) g.pass) ∧
      (groupOf (afterTurn (.scalar core n) s) core slot = some y →
        y.spass = if (groupOf s core n).any (fun g => g.sc.stalled) then g.spass
          else counted (decide (slot = n)) (s.passed.contains slot) g.spass))

/-- R51, R54, R143, R144: in each ac every bank grants one read, once: a starved one first, by when it became so, else that of
the oldest collector; one that is lost the fourth time running becomes starved. A collector with no read left goes, and the
registers that it read for the last time go back to the pool. A lane stream's clock counts an ac as the part of an issue
step that it is, and while an operand is ungranted at the end of a step the next issue and the landing of the group's writes
wait by one more. -/
def Sys2Proof.Rules.Grants : Prop :=
  ∀ (core slot bank n m ac d : Nat) (s : State) (g : Group) (c c' : Collector) (r x : BankRead) (l : List Collector) (ln : Lane),
    let k := coreOf s core
    let ends := (ln.clock - c.since) / 8 < (ln.clock + d - c.since) / 8
    let kept := ln.hazards.length - c.starts
    exec (.operandGrant core) s = .next (if k.granted = true then s else setCore s core (coreGranted k)) ∧
    (k.collectors = [c] → (c.reads.map (fun r => r.bank)).Nodup → (∀ r ∈ c.reads, r.bank < 16) → mget? k.groups c.slot = some g →
      let g' := { g with ln := freeNames g.ln c.frees }
      coreGranted k = { k with
        collectors := [], granted := true, groups := mset k.groups c.slot g', pool := k.pool + charge g - charge g' }) ∧
    (bankWinner bank l = some n → ∃ c r, l[n]? = some c ∧ askedOf bank c = some r ∧
      (l[m]? = some c' → askedOf bank c' = some x →
        (r.starved = none → x.starved = none ∧ n ≤ m) ∧
        (∀ a b, r.starved = some a → x.starved = some b → a ≤ b ∧ (a = b → n ≤ m)))) ∧
    (bankWinner bank l = none → ∀ c ∈ l, askedOf bank c = none) ∧
    ((lostRead ac r).lost = r.lost + 1 ∧
      (lostRead ac r).starved = if r.starved = none ∧ 4 ≤ r.lost + 1 then some ac else r.starved) ∧
    (k.granted = false → coreAc s core = coreAc (setCore s core (coreGranted k)) core) ∧
    (k.granted = true → (coreOf (coreAc s core) core).ac = k.ac + 1 ∧ (coreOf (coreAc s core) core).granted = false ∧
      (groupOf s core slot = some g → groupOf (coreAc s core) core slot = some { g with
        ln := laneAc (k.collectors.find? (fun c => decide (c.slot = slot))) (8 / issueAc s core g) g.ln })) ∧
    laneAc none d ln = { ln with clock := ln.clock + d } ∧
    (¬ ends → laneAc (some c) d ln = { ln with clock := ln.clock + d }) ∧
    (ends → laneAc (some c) d ln = { ln with
      clock := ln.clock + d, next := ln.next + 8,
      hazards := ln.hazards.take kept ++ (ln.hazards.drop kept).map (fun h => { h with lands := h.lands + 8 }) })

/-- R141, R142, R169: a group whose state is loaded becomes ready, its pass counters 0, formed anew or restored; where every
resident group is stalled for allocation, the reserve serves the oldest of those that want registers which the pool does not
hold, with what it lacks. -/
def Sys2Proof.Rules.Residence : Prop :=
  ∀ (core slot : Nat) (s : State) (g : Group),
    let k := coreOf s core
    let others := k.groups.filter (fun h => decide (h.2.ln.state ≠ .preempted))
    let wants (h : Nat × Group) : Bool := decide (k.pool < h.2.ln.need)
    (groupOf s core slot = some g → g.ln.state = .forming → planeAwaited k g = false →
      exec (.groupFormed core slot) s = .next (setGroup s core slot (
        if g.formed = true then { g with pass := 0, spass := 0, ln := { g.ln with state := .ready } }
        else { g with formed := true, age := s.now, pass := 0, spass := 0, checking := (ctxOf s g.ctx).checking, ln :=
          { g.ln with state := .ready, faultRestarts := false,
                      fpc := BitVec.ofNat 32 ((ctxOf s g.ctx).profile.toNat % 2 ^ 19) } }))) ∧
    (reform k = k → others.all (fun h => decide (h.2.ln.state = .stalled .allocation)) = true →
      (sortBy older (others.filter wants)).head? = some (slot, g) → g.ln.need - k.pool ≤ k.reserve →
        exec (.allocationReserve core) s = .next (setCore s core { k with
          reserve := k.reserve - (g.ln.need - k.pool),
          groups := mset k.groups slot { g with ln := { g.ln with
            state := if g.ln.handler.isSome then .trapped else .ready, need := 0, grant := g.ln.grant + (g.ln.need - k.pool) } } }))

/-- R131, R132, R133, R165: a placement step places one cohort of the first kernel in its die's order that fits a core,
as saved or new, or pre-empts for an express kernel, and no cohort of a faulted context; 1 ms without placement raises a
kernel's boost, and 1 ms as the first in order, since when every step keeps, reserves cores for it; a cohort whose
pre-emption is asked for is saved once its groups may stop and nothing of it is under way; a saved cohort is read back where
its scheduler places it. -/
def Sys2Proof.Rules.Placement : Prop :=
  ∀ (die core n : Nat) (s : State) (k : Kernel) (rest : List (Nat × Kernel)) (c : Cohort) (v : SavedCohort),
    let saved := savedOf s n k
    let aged := modKernel s n (fun k => { k with boost := min (k.boost + 1) (254 - k.prio), agedAt := k.agedAt + 1000000 })
    let reserving (s : State) : State := modKernel s n (fun k =>
      { k with reserved := k.reserved || k.firstAt.any (fun t => decide (t + 1000000 ≤ s.now)) })
    let first := ∃ d < 4, ∃ e, (placeOrder s d).head? = some (n, e)
    exec (.placementStep die) s = .next (placeFirst s (placeOrder s die)) ∧
    (mget? s.kernels n = some k →
      (first → mget? (noteFirst s).kernels n = some { k with firstAt := some (k.firstAt.getD s.now) }) ∧
      (¬ first → mget? (noteFirst s).kernels n = some { k with firstAt := none })) ∧
    (placeOrder s die = (n, k) :: rest →
      (placeWhere s n k saved = some core → placeFirst s (placeOrder s die) = putCohort s n core k saved) ∧
      (placeWhere s n k saved = none → k.prio = 255 → placeFirst s (placeOrder s die) = expressPreempt s n k saved) ∧
      (placeWhere s n k saved = none → k.prio ≠ 255 → placeFirst s (placeOrder s die) = placeFirst s rest)) ∧
    (placeWhere s n k saved = some core → fits k saved (coreOf s core) = true ∧ inSet s k core = true ∧
      (quadOf s core).state = .active ∧ reservedFrom s n k core = false) ∧
    (c ∈ victims s (coreOf s core) → (ctxOf s c.ctx).state ≠ .faulted ∧ c ∈ (coreOf s core).cohorts ∧
      ∃ e, mget? s.kernels c.kernel = some e ∧ e.prio < 255) ∧
    (mget? s.kernels n = some k → placeable s k = true →
      (s.now < k.agedAt + 1000000 ∨ 255 ≤ k.prio → exec (.placementAging n) s = .next (reserving s)) ∧
      (k.agedAt + 1000000 ≤ s.now → k.prio < 255 → exec (.placementAging n) s = .next (reserving aged))) ∧
    ((coreOf s core).cohorts.find? (fun c => decide (c.slots.head? = some n)) = some c → preemptAsked s core c = true →
      quiet s core c = true → exec (.cohortPreempt core n) s = .next (preemptCohort s core c)) ∧
    (nextPlacement s ((n, k) :: rest) = match placeWhere s n k saved with
      | some c => some (n, c)
      | none => if k.prio = 255 then none else nextPlacement s rest) ∧
    (mget? s.saved n = some v → mget? s.kernels v.cohort.kernel = some k →
      nextPlacement s (placeOrder s k.die) = some (v.cohort.kernel, core) →
      (savedOf s v.cohort.kernel k).map (fun x => x.1) = some n →
        exec (.cohortRestore n core) s = .next (restoreCohort s core n v))

/-- R110 to R119: a write to a watched tail that is valid exposes its records, each with the time of the oldest write from
which on every tail shows it (R113), and arms an empty queue; an invalid one halts the queue with status 6, an address that
fails with status 7. A scheduler takes up its best queue, and then reads one record of it, whose head word it writes, once
nothing that it has written to a peer is unacknowledged (R387, R398); the record becomes a kernel or, not valid, a fault. -/
def Sys2Proof.Rules.HostQueues : Prop :=
  ∀ (n die w1 w2 : Nat) (s : State) (q : HostQueue) (x h : Xlat) (v : DWord) (rest : List (Nat × HostQueue)),
    let check (a : BitVec 48) (size : Nat) (kind : AccessKind) : AddrCheck := unitCheck s q.die q.ctx a.toNat size kind
    let r := unitRead s q.die x 8 64
    let t := bytesDword r.bytes
    let slot := q.ring.toNat + 256 * (q.head.toNat % q.size)
    let w := unitRead s q.die x 256 65
    let behind (v : DWord) : Nat := (v - q.last).toNat
    (mget? s.queues n = some q → watched q = true →
      (check q.tailAddr 8 .read = .ok x →
        (t = q.last → exec (.queueTailWrite n) s = .next r.state) ∧
        (t ≠ q.last → badTail q t = true → exec (.queueTailWrite n) s = .next (haltQueue r.state n 6 t.toNat)) ∧
        (t ≠ q.last → badTail q t = false →
          exec (.queueTailWrite n) s = .next (modHostQueue r.state n (takeTail t (exposures s x.pa q t) r.sigs)))) ∧
      (check q.tailAddr 8 .read = .access → exec (.queueTailWrite n) s = .next (haltQueue s n 7 q.tailAddr.toNat))) ∧
    (isMemory x.pa = true → behind t ≤ q.size → t ≠ q.last →
      (mget s.stamps (x.pa / 8) [] = [(w1, t)] → exposures s x.pa q t = [(t, w1)]) ∧
      (mget s.stamps (x.pa / 8) [] = [(w2, t), (w1, v)] → 0 < behind v → behind v < behind t →
        exposures s x.pa q t = [(v, w1), (t, w2)])) ∧
    (dispatchingOn s die = none → queueOrder s die = (n, q) :: rest →
      exec (.recordRead die) s = .next (modHostQueue s n (fun q => { q with state := .dispatching }))) ∧
    (dispatchingOn s die = some (n, q) → unitOwes s q.die = true → exec (.recordRead die) s = .next s) ∧
    (dispatchingOn s die = some (n, q) → unitOwes s q.die = false →
      (unitCheck s q.die q.ctx slot 256 .read = .ok x → check q.headAddr 8 .write = .ok h →
        exec (.recordRead die) s = .next (acceptRecord
          (unitStore w.state q.die h (dwordBytes 8 (q.head + 1)) (exposure q).2) n q w.bytes)) ∧
      (unitCheck s q.die q.ctx slot 256 .read = .access → exec (.recordRead die) s = .next (haltQueue s n 7 slot))) ∧
    (badTail q t = true ↔ q.size < (t - q.head).toNat ∨ (t - q.head).toNat < (q.last - q.head).toNat)

/-- R101, R127, R128, R130: a declared kernel waits on the earlier kernels of its context that it depends on, or is ready; a
retiring kernel with no command out is done once its writes are performed, by peers too, and its flag written, by a peer once it
has acknowledged the flag; a flag that cannot be written faults it, with an event (R489). A teardown ends, with CX_GONE, once no
write of the context is on its way at a peer; what it had waiting is discarded. -/
def Sys2Proof.Rules.Kernels : Prop :=
  ∀ (n ctx tag : Nat) (s : State) (k : Kernel) (x : Xlat) (c : Context),
    let deps := dependences s k
    let f := flushAll s
    let flagAt := unitCheck f.2 k.die k.ctx k.record.flag.toNat 8 .write
    let clear := ∀ e ∈ s.cores, releaseWaits s e.1 .package = false
    let w := claimOps (kernelGid k) f.2.outgoing.length { unitStore { f.2 with turn := .idle } k.die x
      (dwordBytes 8 k.record.value) (joinSigs k.sigs f.1) with turn := f.2.turn }
    let from_ : Nat := match k.queue with
      | some q => q.1
      | none => 0xFFFF
    (mget? s.kernels n = some k → k.state = .declared → exec (.kernelDeclare n) s = .next (settleLaunch
      (if deps = [] then makeReady s n else modKernel s n (fun k => { k with state := .waiting, deps := deps })) k)) ∧
    (mget? s.kernels n = some k → k.state = .retiring → commandsOut s k = false → peersOwe s k = false → clear →
      (k.record.flag = 0 ∨ k.flagged = true → exec (.kernelComplete n) s = .next (endKernel f.2 n .done f.1)) ∧
      (k.record.flag ≠ 0 → k.flagged = false → unitOwes f.2 k.die = false →
        (flagAt = .ok x → isAperture x.pa = false → exec (.kernelComplete n) s = .next (endKernel w n .done f.1)) ∧
        (flagAt = .ok x → isAperture x.pa = true →
          exec (.kernelComplete n) s = .next (modKernel w n (fun k => { k with flagged := true }))) ∧
        (flagAt = .access → exec (.kernelComplete n) s = .next (endKernel
          (post f.2 k.die 0x09 9 0 [k.ctx, from_, k.seq, k.record.flag.toNat]) n .faulted [])))) ∧
    (mget? s.kernels n = some k → commandsOut s k = true ∨ peersOwe s k = true → exec (.kernelComplete n) s = .next s) ∧
    (peersWrite s ctx = true → exec (.cxTeardownDone ctx) s = .next s) ∧
    (mget? s.ctxs ctx = some c → c.tearing = some tag → peersWrite s ctx = false → exec (.cxTeardownDone ctx) s = .next
      (post (modCtx (settleInvals { discardCommands s ctx with
        logging := s.logging.filter (fun w => decide (w.ctx ≠ ctx)), outgoing := s.outgoing.filter (fun o => !ownedBy ctx o) }) ctx
        (fun c => { c with tearing := none })) 0 0x0A 0 tag [ctx]))

/-- R126: a kernel depends on the kernels of its context that have a lower sequence number, are not done or faulted and no
ancestor of it, whatever their queue, and share a byte with it that one of the two writes; that is what its declaration
makes it wait for. Ranges of valid records hold a byte (R123). -/
def Obligations.Dependences : Prop :=
  ∀ (s : State) (k : Kernel) (n m : Nat),
    let sound (k : Kernel) : Prop := ∀ r ∈ k.record.rd ++ k.record.wr, r.lo < r.hi
    let has (l : List Range) (a : Nat) : Prop := ∃ r ∈ l, r.lo ≤ a ∧ a < r.hi
    (sound k → (∀ x ∈ s.kernels, x.2.state = .faulted ∨ sound x.2) →
      (n ∈ dependences s k ↔ ∃ e, (n, e) ∈ s.kernels ∧ e.ctx = k.ctx ∧ e.seq < k.seq ∧ e.state ≠ .done ∧ e.state ≠ .faulted ∧
        n ∉ k.ancestors ∧ ∃ a, (has k.record.wr a ∧ (has e.record.rd a ∨ has e.record.wr a)) ∨
          (has k.record.rd a ∧ has e.record.wr a))) ∧
    (mget? s.kernels m = some k → k.state = .declared →
      ∃ t d, exec (.kernelDeclare m) s = .next t ∧ mget? t.kernels m = some d ∧ d.deps = dependences s k)

/-! ## Pages and caches by themselves -/

/-- R345, R349, R351, R392, R393, R400, R433: a walk that ends in a leaf acquires what it has read and enters the leaf
in the core's and the stack's caches; an uncorrectable error lists its frame once, drops its translations and faults the
reader's context; copies older than their life and attachments that have expired go; a line leaves a cache if it is clean
there or its dirty bytes find their way below, and writes them there first; a line of Casnis code is translated word by word. -/
def Sys2Proof.Rules.CacheEvents : Prop :=
  ∀ (core ctx va level leaf pa line : Nat) (l2 : Bool) (s : State) (reader : Reader) (sigs : List Sig),
    let d := dieOf core
    let t : Translation := ⟨ctx, va / pageSize level * pageSize level, level, BitVec.ofNat 64 leaf⟩
    let start := walkStart s d ctx va
    let ps := (pointersFrom s va (5 - start.1) start.1 start.2).map (fun p => (ctx, walkKey p.1 va, p.2))
    let home := frameDie pa
    let frame := pa / 8192
    let adds := frame ∉ (dieRec s home).poison ∧ (dieRec s home).poison.length < 1024
    let listed := dropFrame (modDie s home (fun x => { x with poison := x.poison ++ [frame] })) frame
    let told (s : State) (n : Nat) : State :=
      post (raiseUncorrectable s home pa reader) home 0x05 0 0 [(readerCtx s reader).getD 0xFFFF, pa, n]
    ((mget? s.ctxs ctx).isSome = true → va < 2 ^ 48 → walkOn s d ctx va = .leaf level leaf sigs →
      exec (.tableWalk core ctx va) s = .next (modStack
        (modCore (acquireDrop s core .package sigs) core (fun k => { k with tlb := cacheLeaf 64 t k.tlb })) d (fun k => { k with
          tlb := cacheLeaf 4096 t k.tlb,
          walk := ps ++ k.walk.filter (fun w => !ps.any (fun p => decide (p.1 = w.1 ∧ p.2.1 = w.2.1))) }))) ∧
    (pa < hbmTop →
      (adds → exec (.uncorrectableError pa reader) s = .next (told listed 1)) ∧
      (¬ adds → exec (.uncorrectableError pa reader) s = .next (told s 0))) ∧
    exec (.copyExpiry core line) s = .next (modStack
      (modCore s core (fun k => { k with
        l1 := expireLine s.now line k.l1, l1sigs := keptSigs (expireLine s.now line k.l1) k.l1sigs })) d
      (fun k => { k with l2 := expireLine s.now line k.l2, l2sigs := keptSigs (expireLine s.now line k.l2) k.l2sigs })) ∧
    exec (.signatureExpiry line) s = .next { s with attached := (if attachedAt s line = [] then merase s.attached line
      else mset s.attached line (attachedAt s line)) } ∧
    (mayEvict s core line l2 = true → exec (.cacheEviction core line l2) s = .next ((List.range 4).foldl (fun s i =>
      if l2 then evictL2 s d (4 * line + i) else evictL1 s core (4 * line + i)) s)) ∧
    (mayEvict s core line l2 = false → exec (.cacheEviction core line l2) s = .next s) ∧
    ((if l2 then dirtyLine (stackOf s d).l2 line else dirtyLine (coreOf s core).l1 line) = false → mayEvict s core line l2 = true) ∧
    (dirtyLine (stackOf s d).l2 line = true → pathsOpen s d (frameDie (128 * line)) = false → mayEvict s core line true = false) ∧
    exec (.casnisFill core ctx va) s = .next ((List.range 16).foldl (fun s i => fillWord s core ctx (va / 128 * 128 + 8 * i)) s)

/-! ## Links and the fabric -/

/-- R377, R378, R379, R383, R384, R463: a training link comes up, at full width or degraded, a narrows whose quad drains
to drain at once; after three failed attempts a strait or port is down, for a strait fatal; more
than 1,000 replays in 1 ms make it train again, and stay counted while they are in the last 1 ms; a draining one, empty, is
down; a replay is counted, a packet in an unsupported mode at a port that is up refused and counted; in recovery-listen after step 4 a port that is
not up tries again. -/
def Sys2Proof.Rules.LinkEvents : Prop :=
  ∀ (id port : Nat) (full : Bool) (s : State),
    let l := linkOf s id
    let wide := full || decide (id / 1024 = 2)
    let narrows := id / 1024 = 2
    let p := portLink port
    let trained := startTraining (modLink s p (fun l => { l with tag := s.fw.tag })) p
    let comesUp (s : State) (id : Nat) (full : Bool) : State :=
      let t := sendBootFails (setLink (modLink s id (fun l => { l with full := full })) id (if full then .up else .degraded))
      if gateDrains t id then setLink (modLink t id (fun l => { l with tag := gateTag t id })) id .draining else t
    isLink id = true →
      (l.state = .training →
        exec (.linkTrained id full) s = .next (comesUp s id wide) ∧
        (¬ narrows → l.attempts < 3 →
          exec (.linkTrainingFailed id) s = .next (modLink s id (fun l => { l with attempts := l.attempts + 1 }))) ∧
        (¬ narrows → 3 ≤ l.attempts →
          let s1 := setLink s id .down
          exec (.linkTrainingFailed id) s =
            .next (if id / 1024 = 0 then linkFatal s1 id else s1))) ∧
      (linkFatal s id).fw.fatal = true ∧
      (linkUp s id = true →
        (1000 < (liveReplays s id).length → exec (.linkErrorsOverLimit id) s =
          .next (startTraining (modLink s id (fun l => { l with tag := 0 })) id)) ∧
        (¬ narrows → exec (.flitReplay id) s = .next (modLink s id (fun l => { l with replays := liveReplays s id ++ [s.now] })))) ∧
      (l.state = .draining → linkEmpty s id = true → exec (.linkDrained id) s = .next (setLink s id .down)) ∧
      (port < 8 →
        (linkUp s p = true → exec (.unsupportedDelivery port) s =
          .next { modLink s p (fun l => { l with refused := l.refused + 1 }) with replies := s.replies ++ [.error] }) ∧
        (linkUp s p = false → exec (.unsupportedDelivery port) s = .next s) ∧
        (s.fw.boot = .recovery 4 → linkUp s p = false →
          exec (.portRetry port true) s = .next (comesUp trained p true) ∧
          exec (.portRetry port false) s = .next trained))

/-- R121, R261, R384, R385, R413, R467, R470: the RMA operations at an endpoint bound to the port: a write lands at its
homes and is answered done, a read returns the bytes, an atomic the old value, with the new one stored; where
translation or permission fails, an error and RMA_ERR. One that must wait for a held line, or that follows a waiting one
of its endpoint and port, is kept and performed later, in order. The mailbox's endpoint takes and shows what it lists. -/
def Sys2Proof.Rules.RmaOperations : Prop :=
  ∀ (ctx port addr len bad : Nat) (bs : List Byte) (cas : Bool) (v cmp : DWord) (s : State) (x : Xlat) (o : RmaOp) (ask : RmaAsk)
    (rest : List RmaOp),
    let die := port / 2
    let up := linkUp s (portLink port) = true
    let first (ask : RmaAsk) : Prop := s.rma.any (sameDelivery ⟨ctx, port, addr, ask⟩) = false
    let wr := rmaChecks s ctx port addr bs.length .write
    let rd := rmaChecks s ctx port addr len .read
    let sigs := rmaSigs s ctx (rmaLines (rmaParts wr))
    let note (s : State) (sigs : List Sig) : State := modCtx s ctx (fun c => { c with rmaSigs := sigs })
    let got := rmaLoad die (rmaParts rd) s
    let r := unitRead s die x 8 762
    let old := bytesDword r.bytes
    let asigs := rmaSigs s ctx (rmaLines [(x, 8)])
    (up → endpointAt s ctx port = true →
      (bs.length ≤ 4 * 2 ^ 20 → first (.write bs) → rmaBar wr = .none → exec (.rmaWrite (.context ctx) port addr bs) s =
        .next (reply (rmaStore die sigs (fun _ => true) 0 wr bs (note s sigs)) .done)) ∧
      (bs.length ≤ 4 * 2 ^ 20 → ¬ first (.write bs) ∨ rmaBar wr = .held →
        exec (.rmaWrite (.context ctx) port addr bs) s = .next { s with rma := s.rma ++ [⟨ctx, port, addr, .write bs⟩] }) ∧
      (len ≤ 4 * 2 ^ 20 → first (.read len) →
        (rmaBar rd = .none → exec (.rmaRead (.context ctx) port addr len) s = .next (reply got.2 (.data got.1))) ∧
        (rmaBar rd = .fails bad → exec (.rmaRead (.context ctx) port addr len) s =
          .next (reply (post s die 0x10 0 0 [ctx, bad, port]) .error))) ∧
      (first (.atomic cas v cmp) → unitCheck s die ctx addr 8 .atomic = .ok x → exec (.rmaAtomic ctx port addr cas v cmp) s = .next (reply
        (if cas = true ∧ old ≠ cmp then note r.state asigs
          else unitStore (note r.state asigs) die x (dwordBytes 8 (if cas then v else old + v)) asigs) (.data r.bytes)))) ∧
    (s.rma = o :: rest → rmaHeld s o = false → nextRma s = some (performRma { s with rma := rest } o)) ∧
    (endpointAt s ctx port = false → first ask → arriveRma s ⟨ctx, port, addr, ask⟩ = reply s .error) ∧
    (up → s.fw.boot = .running →
      (bs.length ≤ 4 * 2 ^ 20 → exec (.rmaWrite .mailbox port addr bs) s =
        .next (reply (settleRing { s with fw := { s.fw with ep := epTake s.fw.ep addr bs } }) .done)) ∧
      (len ≤ 4 * 2 ^ 20 → exec (.rmaRead .mailbox port addr len) s = .next (reply s (.data
        ((List.range len).map (fun i => if hostReads (addr + i) then Memory.read s.fw.ep (addr + i) else 0))))))

/-! ## Power -/

/-- R107, R315, R316, R416, R417, R418, R420, R421, R423, R424, R429, R430, R431: what the power steps do: a holm is
balanced for the ac from the estimates of its layers, by idles, which take cores' lane opportunities of that ac, and a shunt,
whose energy goes in equal parts to the contexts on the heavier layer, else that layer demands passes; each core is offered the
streams that proposed to issue (R141); a burst beyond the declared level
noted for its quad and its context, demands that expire, hints that begin and end, a rail that moves 10 mV toward its
target or holds, as it does from a fall of the target by a voter that has gone, bank sets that swap at 2 degrees, energy added,
levels of stacks and thermal demands of their quads. -/
def Sys2Proof.Rules.PowerEvents : Prop :=
  ∀ (n ctx : Nat) (upper : Bool) (t0 t1 moving : BitVec 8) (nj : BitVec 64) (s : State) (x : Landing)
    (slot goal was : Nat) (o : GroupId) (more : List GroupId) (r : RailLayer) (voters : List Nat) (cancel shunt : Bool),
    let k := coreOf s n
    let lo := layerDraw s moving (2 * n)
    let hi := layerDraw s moving (2 * n + 1)
    let proposed := (List.range 8).map (fun i => proposedLane s (8 * n + i))
    let b := balanceIdles (decide (lo < hi)) 8 ⟨lo, hi, proposed, []⟩
    let u := if balanced b.lo b.up then 0 else shuntFor b.lo b.up
    let heavy := 2 * n + (if b.lo < b.up then 1 else 0)
    let ctxs := quadContexts s heavy
    let offered := offerHolm s n b.cancelled (decide (0 < u))
    let charged := if 0 < u then ctxs.foldl (fun t c => modCtx t c (fun c =>
        { c with energy := c.energy + BitVec.ofNat 64 (nj.toNat / ctxs.length) })) offered else offered
    let gated := (quadNo s (2 * n)).state = .gated ∨ (quadNo s (2 * n + 1)).state = .gated
    let lost := ∃ p ∈ r.voters, p ∉ voters
    let h := mget s.hbm n HbmStack.reset
    let lv := thermalLevel h.level t0.toNat
    let set : State := { s with hbm := mset s.hbm n { h with temp := t0, level := lv } }
    (n < 128 → gated → exec (.holmBalance n moving nj) s = .next (offerHolm s n [] false)) ∧
    (coreOf (offerAc s n cancel shunt) n = { k with
      idles := if cancel = true then satInc k.idles else k.idles, shunts := if shunt = true then satInc k.shunts else k.shunts,
      offered := if cancel = true then [] else (laneProposals s n).map (fun g => g.1),
      scalarOffered := (scalarProposals s n).map (fun g => g.1), drawing := k.drawing.tail,
      groups := if k.drawing = [] ∧ cancel = false then
        mapEntries k.groups (fun _ g => { g with ln := { g.ln with yielded := false } }) else k.groups }) ∧
    (n < 128 → ¬ gated →
      (balanced (max b.lo b.up) (min b.lo b.up + 4 * u) = true → exec (.holmBalance n moving nj) s = .next charged) ∧
      (balanced (max b.lo b.up) (min b.lo b.up + 4 * u) = false → exec (.holmBalance n moving nj) s = .next
        (modQuad charged heavy (fun q => { q with balance := if q.balance < 2 then 2 else 4 })))) ∧
    (k.landing.getLast? = some x → declaredLevel k < 4 * x.flags.length → x.owners = o :: more → exec (.undeclaredBurst n) s = .next
      (modCtx (modQuad s (n / 4) (fun q => { q with burst := true })) o.ctx (fun c => { c with ubc := satInc c.ubc }))) ∧
    (n < 256 →
      exec (.passDemandExpiry n .burst) s = .next (modQuad s n (fun q => { q with burst := false })) ∧
      exec (.passDemandExpiry n .balance) s = .next (modQuad s n (fun q => { q with balance := 1 })) ∧
      ((stackOf s (n / 64)).hot = false →
        exec (.passDemandExpiry n .thermal) s = .next (modQuad s n (fun q => { q with thermal := false })))) ∧
    exec (.hintOnset n slot) s =
      .next (modLane s n slot (fun l => { l with hint := l.hint.map (fun h => { h with active := true }) })) ∧
    exec (.hintEnd n slot) s =
      .next (modLane s n slot (fun l => { l with hint := if l.hint.any (fun h => h.active) then none else l.hint })) ∧
    (n < 16 →
      exec (.railStep n upper) s = .next (modRail s n upper (fun r =>
        if r.level < railTarget s n upper then { r with level := r.level + 10, hold := false }
        else if r.level = railTarget s n upper then { r with hold := false, stopped := false }
        else if r.hold = true ∨ r.stopped = true then r else { r with level := r.level - 10 })) ∧
      exec (.railHoldExpiry n upper) s = .next (modRail s n upper (fun r => { r with hold := false }))) ∧
    (r.target = was → (railSeen goal voters r).target = goal ∧ (railSeen goal voters r).voters = voters ∧
      (was < goal → (railSeen goal voters r).hold = false) ∧
      (goal < was → goal < r.level → (lost → (railSeen goal voters r).hold = true) ∧
        (¬ lost → (railSeen goal voters r).hold = r.hold ∧ (railSeen goal voters r).stopped = false))) ∧
    (n < 1024 → exec (.bankTempCompare n t0 t1) s = .next (modCore s n (fun k => { k with
      temp0 := t0, temp1 := t1,
      bankSet := if k.bankSet then !decide (t0.toNat + 2 ≤ t1.toNat) else decide (t1.toNat + 2 ≤ t0.toNat) }))) ∧
    exec (.energyUpdate ctx nj) s = .next (modCtx s ctx (fun c => { c with energy := c.energy + nj })) ∧
    (n < 12 → exec (.thermalLevelChange n t0) s = .next (if lv = h.level then set
      else post set (n / 3) 0x0F 0 0 [n, lv, if lv = 0 then 256 else if lv = 1 then 236 else 160])) ∧
    (n < 4 → (stackOf s n).hot = false → 100 ≤ t0.toNat → exec (.stackThermalDemand n t0) s = .next
      ((List.range 64).foldl (fun s i => modQuad s (64 * n + i) (fun q => { q with thermal := true }))
        (modStack s n (fun k => { k with temp := t0, hot := true }))))

/-- R378, R427, R428: a draining quad with no cohort left and its narrows drained closes its gate, and QUAD is posted
with code 2; a waking one becomes active, its narrows up and its demands cleared but for the thermal demand of a hot
stack, with code 0. -/
def Sys2Proof.Rules.QuadGates : Prop :=
  ∀ (q : Nat) (s : State), q < 256 →
    let tag := (quadNo s q).tag
    let down := (quadNarrows q).foldl (fun s id => setLink s id .down) s
    let up := (quadNarrows q).foldl (fun s id => if (linkOf s id).state = .training then linkTrained s id true else s) s
    let woken := post up (q / 64) 0x0E 0 tag [q, 0]
    ((quadNo s q).state = .draining → gateMayClose s q = true → exec (.quadGateClose q) s = .next
      (modQuad (post down (q / 64) 0x0E 0 tag [q, 2]) q (fun x => { x with state := .gated, tag := 0 }))) ∧
    ((quadNo s q).state = .waking → exec (.quadWakeDone q) s = .next
      (modQuad woken q (fun _ => { Quad.reset with thermal := (stackOf woken (q / 64)).hot })))

/-! ## The start -/

/-- R25, R461, R463, R464, R466, R471: power begins a cold start at step 1; a step that has succeeded begins the next, step 7
starting Grendex; one that fails ends in recovery-listen with BOOT_FAIL; the image fetched in step 5, by a port that is up, is
checked before step 6; one delivered in recovery-listen resumes the start; a signed quote is written and its slot completes; the event
count goes to the sink at most once a microsecond, and the host's count frees room in the ring. -/
def Sys2Proof.Rules.StartEvents : Prop :=
  ∀ (n : Nat) (why : BootFailure) (img : Image) (s : State) (m : Mbox) (peer addr count : BitVec 64),
    exec .powerOn s = .next (enterStep { State.reset with
      fresh := s.fresh, agenda := s.agenda, now := s.now, replies := s.replies } 1) ∧
    (s.fw.boot = .step n →
      exec (.startStepDone (some why)) s = .next (enterRecovery s n why) ∧
      (stepReady s n = true → exec (.startStepDone none) s = .next (stepDone s n))) ∧
    (stepDone s 2 = enterStep s 3 ∧ stepDone s 3 = enterStep (saveTraining s) 4 ∧ stepDone s 4 = enterStep s 5 ∧
      stepDone s 5 = enterStep s 6 ∧ stepDone s 7 = grendexStarts s) ∧
    (ports.any (linkUp s) = false → exec (.imageFetch img) s = .next s ∧ exec .eventSinkUpdate s = .next s) ∧
    (s.fw.boot = .step 5 → ports.any (linkUp s) = true →
      exec (.imageFetch img) s = .next (match imageFailure img with
        | none => enterStep (modFw s (fun w => { w with image := some img })) 6
        | some bad => enterRecovery s 5 bad)) ∧
    (s.fw.boot = .recovery n → listening s n = true → n ≠ 2 → n ≠ 3 →
      exec (.recoveryImage img) s = .next (match imageFailure img with
        | none => enterStep (modFw s (fun w => { w with image := some img, skipFetch := true })) 5
        | some bad => bootFail s 5 0 bad)) ∧
    (s.fw.quote = some m →
      let body := natToBytes 32 (argWords m).toNat ++ natToBytes 32 s.fw.measurement.toNat ++ natToBytes 8 s.now ++ identityBytes s
      exec .quoteSigned s = .next (writeSlot (modFw
        (epWrite s 0x4000 (body ++ slhSign (identityKey (residentSvn s)) (freeBytes s 766 16) body)) (fun w => { w with quote := none })) m 0 [])) ∧
    (s.fw.sink = some (peer, addr) → ports.any (linkUp s) = true →
      (∀ w, s.fw.sinkOut.getLast? = some w → w.count ≠ epWord s 0x2080 ∧ w.time + 1000 ≤ s.now) →
        exec .eventSinkUpdate s =
          .next (modFw s (fun w => { w with sinkOut := w.sinkOut ++ [⟨peer, addr, epWord s 0x2080, s.now⟩] }))) ∧
    (s.fw.boot = .running → (∃ p < 8, linkUp s (portLink p) = true) → exec (.eventConsumedWrite count) s = .next (settleRing (epWrite s 0x2100 (dwordBytes 8 count))))

/-- R51, R54, R131 to R133, R137, R140 to R144, R165, R169: the schedulers of a core and of a die.
The model's choices in it: logs 5, 16, 19, 22, 23, 43, 71, 74, 75, 79, 100, 111, 125. -/
def Obligations.SchedulingAndPlacement : Prop := Sys2Proof.Rules.Scheduling ∧ Sys2Proof.Rules.Grants ∧ Sys2Proof.Rules.Residence ∧ Sys2Proof.Rules.Placement

/-- R101, R110 to R119, R127, R128, R130: host queues and the lives of kernels.
The model's choices in it: logs 3, 14, 24, 29, 31, 69, 70, 72, 73, 123. -/
def Obligations.HostKernels : Prop := Sys2Proof.Rules.HostQueues ∧ Sys2Proof.Rules.Kernels

/-- R121, R261, R345, R349, R351, R377 to R379, R383 to R385, R392, R393, R400, R413, R433, R467, R470: what caches and links do by themselves, and the RMA
operations.
The model's choices in it: logs 11, 12, 14, 15, 24, 26, 27, 86, 91, 92, 117, 124. -/
def Obligations.CachesAndLinks : Prop := Sys2Proof.Rules.CacheEvents ∧ Sys2Proof.Rules.LinkEvents ∧ Sys2Proof.Rules.RmaOperations

/-- R107, R315, R316, R378, R416 to R418, R420, R421, R423, R424, R427 to R431, R461, R463, R464, R466, R471: the power steps and the start.
The model's choices in it: logs 13, 19, 23, 28, 30, 81, 82, 83, 85, 88, 89, 105, 112, 124. -/
def Obligations.PowerAndStart : Prop := Sys2Proof.Rules.PowerEvents ∧ Sys2Proof.Rules.QuadGates ∧ Sys2Proof.Rules.StartEvents

/-! ## Mailbox commands -/

/-- R97, R98, R100, R101, R107, R108, R468, R473: the context commands: each does what it says in the states that allow
it and answers OK with its results; in the others it answers BAD_STATE and changes nothing. CX_BIND waits while the way to
the home of its log's words is closed. A code that no group lists answers BAD_CMD. -/
def Sys2Proof.Rules.ContextCommands : Prop :=
  ∀ (m : Mbox) (s : State) (c : Context),
    let n := m.a0.toNat % 2 ^ 10
    let st := ctxStateOf s n
    let tgt (f : Context → Context) : State := modCtx s n f
    let words := m.a5.toNat + 64 * (m.a2.toNat / 2 ^ 32 % 2 ^ 17)
    let zero (s : State) (pa : Nat) : State := if pa < hbmTop then storeHome s pa (natToBytes 8 0) [] else s
    let cleared := zero (zero s words) (words + 16)
    let anew (k : Kernel) : Kernel := if k.ctx = n then { k with agedAt := s.now, firstAt := none } else k
    let aged : State := { s with kernels := mapEntries s.kernels (fun _ k => anew k) }
    (Commands [64, 64, 64, 64, 64, 64, 64] m s → Answers (.badCmd m) m s 4 [] s) ∧
    (Commands [10] m s →
      (ctxFree s n = true → Answers (.cxCreate m) m s 0 [] { s with
        ctxs := mset s.ctxs n Context.created, kernels := s.kernels.filter (fun k => decide (k.2.ctx ≠ n)) }) ∧
      (ctxFree s n = false → Answers (.cxCreate m) m s 1 [] s) ∧
      (st = some .bound → Answers (.cxStart m) m s 0 [] (tgt (fun c => { c with state := .runnable }))) ∧
      (st ≠ some .bound → Answers (.cxStart m) m s 1 [] s) ∧
      (st = some .runnable → Answers (.cxSuspend m) m s 0 []
        (settleSuspend (tgt (fun c => { c with state := .suspended, suspending := some m.tag.toNat })) n)) ∧
      (st ≠ some .runnable → Answers (.cxSuspend m) m s 1 [] s) ∧
      (st = some .suspended ∨ st = some .faulted → Answers (.cxResume m) m s 0 []
        (resumeGroups (modCtx aged n (fun c => { c with state := .runnable, suspending := none })) n)) ∧
      (st ≠ some .suspended ∧ st ≠ some .faulted → Answers (.cxResume m) m s 1 [] s) ∧
      (st ≠ none → st ≠ some .tornDown → Answers (.cxTeardown m) m s 0 [] (teardownContext s n m.tag.toNat)) ∧
      (st = none ∨ st = some .tornDown → Answers (.cxTeardown m) m s 1 [] s) ∧
      (mget? s.ctxs n = none → Answers (.cxRead m) m s 0 [7] s) ∧
      (mget? s.ctxs n = some c →
        Answers (.cxRead m) m s 0 [ctxCode c.state, c.ubc.toNat, c.energy.toNat, c.seq.toNat, c.written] s)) ∧
    (Commands [23, 46, 49, 48, 48, 46, 48] m s →
      (bindWaits m s = true → exec (.cxBind m) s = .next s) ∧
      (st = some .created → bindOk s m = true → bindWaits m s = false →
        Answers (.cxBind m) m s 0 [] (modCtx cleared n (fun c => { c with
        state := .bound, partition := m.a0.toNat / 2 ^ 10 % 2 ^ 4, ceiling := m.a0.toNat / 2 ^ 14 % 2 ^ 8,
        checking := m.a0.getLsbD 22, root := m.a1.setWidth 46, profile := m.a2.setWidth 32,
        logSize := m.a2.toNat / 2 ^ 32 % 2 ^ 17, hlane := m.a3.setWidth 48, hscal := m.a4.setWidth 48,
        logBase := m.a5.setWidth 46, helper := m.a6.setWidth 48, written := 0, dropped := 0 }))) ∧
      (st ≠ some .created ∨ bindOk s m = false → Answers (.cxBind m) m s 1 [] s)) ∧
    (Commands [10, 10, 64] m s →
      let reg := m.a1.toNat
      let bad := reg < 0x041 ∨ 0x044 < reg ∨ (reg = 0x044 ∧ fpcOk (m.a2.setWidth 32) = false)
      (bad → Answers (.cxSet m) m s 2 [] s) ∧
      (¬ bad → setAllowed st = true → Answers (.cxSet m) m s 0 [] (tgt (setCtxReg reg m.a2.toNat))) ∧
      (¬ bad → setAllowed st = false → Answers (.cxSet m) m s 1 [] s)) ∧
    (Commands [10, 2] m s →
      (st ≠ none → Answers (.cxClear m) m s 0 [] (tgt (fun c => { c with
        ubc := if m.a1.getLsbD 0 then 0 else c.ubc, energy := if m.a1.getLsbD 1 then 0 else c.energy }))) ∧
      (st = none → Answers (.cxClear m) m s 1 [] s))

/-- R109, R111, R112, R117, R118, R119, R474: the queue commands, in the states that allow them. A head or tail word
whose access fails gives RING_FAULT, as that of a context which is not bound does (log 31); one whose line is held makes the
command wait. A queue from which a record is being
read halts or drains once the read has ended. A halted or torn-down queue answers BAD_STATE to Q_HALT and Q_DRAIN, a draining
one to Q_DRAIN. That a number in use answers BAD_STATE whatever the attributes is the model's choice (log 84). -/
def Sys2Proof.Rules.QueueCommands : Prop :=
  ∀ (m : Mbox) (s : State) (q : HostQueue) (x : Xlat),
    let n := m.a0.toNat % 2 ^ 12
    let owner := m.a0.toNat / 2 ^ 12 % 2 ^ 10
    let new := newQueue m
    let made : State := { s with queues := mset s.queues n new }
    let head := unitCheck s new.die new.ctx m.a4.toNat 8 .write
    let tail := unitCheck s q.die q.ctx q.tailAddr.toNat 8 .read
    let r := unitRead s q.die x 8 64
    let word := bytesDword r.bytes
    let taken := takeTail word (exposures s x.pa q word) r.sigs q
    let halting (q : HostQueue) : HostQueue := if q.state = .dispatching then { q with after := some .halted } else { q with state := .halted }
    (Commands [32, 48, 17, 48, 48] m s →
      (mget? s.queues n = none → ctxStateOf s owner ≠ some .tornDown →
        (queueOk s m = true →
          (head = .ok x → Answers (.qCreate m) m s 0 [] (unitStore made new.die x (natToBytes 8 0) [])) ∧
          (head = .access → Answers (.qCreate m) m s 0 [] (haltQueue made n 7 m.a4.toNat m.tag.toNat)) ∧
          (head = .held → exec (.qCreate m) s = .next s) ∧
          ((ctxOf s new.ctx).state = .created → head = .access)) ∧
        (queueOk s m = false → Answers (.qCreate m) m s 3 [] s)) ∧
      ((mget? s.queues n).isSome = true ∨ ctxStateOf s owner = some .tornDown → Answers (.qCreate m) m s 1 [] s)) ∧
    (Commands [12] m s →
      (mget? s.queues n = some q →
        (q.state = .halted →
          (tail = .ok x → badTail q word = true → Answers (.qStart m) m s 0 [] (haltQueue r.state n 6 word.toNat m.tag.toNat)) ∧
          (tail = .ok x → badTail q word = false → Answers (.qStart m) m s 0 []
            (modHostQueue r.state n (fun _ =>
              { taken with state := if taken.last = taken.head then .empty else readState taken }))) ∧
          (tail = .access → Answers (.qStart m) m s 0 [] (haltQueue s n 7 q.tailAddr.toNat m.tag.toNat)) ∧
          (tail = .held → exec (.qStart m) s = .next s)) ∧
        (q.state ≠ .halted → Answers (.qStart m) m s 1 [] s) ∧
        (q.state ≠ .halted → q.state ≠ .tornDown →
          Answers (.qHalt m) m s 0 [] (modHostQueue s n halting) ∧
          (q.state ≠ .draining → Answers (.qDrain m) m s 0 [] (drainQueue s n m.tag.toNat q))) ∧
        (q.state = .halted ∨ q.state = .tornDown → Answers (.qHalt m) m s 1 [] s ∧ Answers (.qDrain m) m s 1 [] s) ∧
        (q.state = .draining → Answers (.qDrain m) m s 1 [] s) ∧
        (q.state = .halted → Answers (.qTeardown m) m s 0 [] (teardownQueue s n m.tag.toNat)) ∧
        (q.state ≠ .halted → Answers (.qTeardown m) m s 1 [] s) ∧
        Answers (.qRead m) m s 0 [queueCode q.state + q.status * 256, q.head.toNat, q.last.toNat, q.window.length] s) ∧
      (mget? s.queues n = none → Answers (.qStart m) m s 1 [] s ∧ Answers (.qHalt m) m s 1 [] s ∧
        Answers (.qDrain m) m s 1 [] s ∧ Answers (.qTeardown m) m s 1 [] s ∧ Answers (.qRead m) m s 0 [7] s)) ∧
    (Commands [12, 8] m s →
      (mget? s.queues n = some q →
        Answers (.qPrio m) m s 0 [] (modHostQueue s n (fun q => { q with prio := m.a1.toNat }))) ∧
      (mget? s.queues n = none → Answers (.qPrio m) m s 1 [] s))

/-- R347, R350, R351, R475: PF_REPLY takes the fault's entry away and lets every agent that waits on it try again, or
faults its context; INVALIDATE writes dirty sectors back, once the ways are open, and drops a range everywhere, and INVAL
follows once no skerry command of the context and no operation at a peer is out; UNPOISON unlists a frame; POISON_READ tells the
list. -/
def Sys2Proof.Rules.MemoryCommands : Prop :=
  ∀ (m : Mbox) (s : State) (f : FaultEntry),
    let die := m.a0.toNat / 2 ^ 16 % 4
    let id := m.a0.toNat % 2 ^ 16
    let found := (dieRec s die).faults.find? (fun f => decide (f.id = id))
    let gone := modDie s die (fun d => { d with faults := d.faults.filter (fun f => decide (f.id ≠ id)) })
    let ctx := m.a0.toNat % 2 ^ 10
    let base := m.a1.toNat
    let len := m.a2.toNat
    let ways := flushWaits s 0 4 = false
    let frame := m.a0.toNat / 8192
    let d := frameDie m.a0.toNat
    let dropped (lo hi : Nat) : State := settleInvals (modFw (invalidateRange (flushScope s 0 4) 0 4 ⟨ctx, lo, hi⟩) (fun w =>
      { w with invals := w.invals ++ [⟨ctx, base, len, m.tag.toNat, s.fresh⟩] }))
    (Commands [19] m s →
      (found = some f → Answers (.pfReply m) m s 0 []
        (if m.a0.getLsbD 18 then declineFault gone die m.tag.toNat f else replayFault gone die f)) ∧
      (found = none → Answers (.pfReply m) m s 2 [] s)) ∧
    (Commands [10, 48, 49] m s →
      (len = 0 → ways → Answers (.invalidate m) m s 0 [] (dropped 0 (2 ^ 48))) ∧
      (len ≠ 0 → base % 8192 = 0 → len % 8192 = 0 → base + len ≤ 2 ^ 48 → ways →
        Answers (.invalidate m) m s 0 [] (dropped base (base + len))) ∧
      (len ≠ 0 → base % 8192 ≠ 0 ∨ len % 8192 ≠ 0 ∨ 2 ^ 48 < base + len → Answers (.invalidate m) m s 2 [] s)) ∧
    (Commands [10, 48, 49] m s → len = 0 → ¬ ways → exec (.invalidate m) s = .next s) ∧
    (Commands [46] m s →
      (m.a0.toNat % 8192 = 0 → frame ∈ (dieRec s d).poison → Answers (.unpoison m) m s 0 []
        (modDie s d (fun x => { x with poison := x.poison.filter (fun f => decide (f ≠ frame)) }))) ∧
      (m.a0.toNat % 8192 ≠ 0 ∨ frame ∉ (dieRec s d).poison → Answers (.unpoison m) m s 2 [] s)) ∧
    (Commands [2, 10] m s → Answers (.poisonRead m) m s 0
      [(dieRec s m.a0.toNat).poison.length, (dieRec s m.a0.toNat).poison.getD m.a1.toNat 0 * 8192] s)

/-- R282, R377, R385, R386, R476: the link, endpoint, aperture and pod commands. A strait or port is enabled from down,
drained from up, disabled from any state; another id answers BAD_VALUE, another state BAD_STATE. An enabled aperture entry
also takes the operations that wait at its port (R380). -/
def Sys2Proof.Rules.LinkCommands : Prop :=
  ∀ (m : Mbox) (s : State),
    let id := m.a0.toNat
    let l := linkOf s id
    let tagged := modLink s id (fun l => { l with tag := m.tag.toNat })
    let named := isLink id = true ∧ id / 1024 ≠ 2
    let ctx := id % 2 ^ 10
    let entry : Aperture := ⟨m.a0.getLsbD 5, id / 2 ^ 6 % 2 ^ 3, m.a1, m.a2.toNat, m.a3.setWidth 48⟩
    (id / 1024 = 1 → l.state = .up → l.full = true → linkWidth id l = 1600) ∧
    (Commands [12] m s →
      (named →
        (l.state = .down → Answers (.linkEnable m) m s 0 [] (startTraining tagged id) ∧ Answers (.linkDrain m) m s 1 [] s ∧
          Answers (.linkDisable m) m s 0 [] s) ∧
        (l.state = .up ∨ l.state = .degraded → Answers (.linkEnable m) m s 1 [] s ∧
          Answers (.linkDrain m) m s 0 [] (setLink tagged id .draining) ∧
          Answers (.linkDisable m) m s 0 [] (setLink tagged id .draining)) ∧
        (l.state = .training → Answers (.linkDisable m) m s 0 [] (setLink tagged id .down)) ∧
        (l.state = .draining → Answers (.linkDisable m) m s 0 [] s)) ∧
      (¬ named → Answers (.linkEnable m) m s 2 [] s ∧ Answers (.linkDrain m) m s 2 [] s ∧ Answers (.linkDisable m) m s 2 [] s) ∧
      (isLink id = true →
        Answers (.linkRead m) m s 0 [linkCode l.state, linkWidth id l, (liveReplays s id).length, l.refused] s)) ∧
    (Commands [10, 8, 64] m s →
      (ctx = 0x3FF → Answers (.epBind m) m s 0 [] { s with ctxs := mapEntries s.ctxs (fun _ c =>
        if c.endpoint.any (fun e => decide (e.2 = m.a2)) then { c with endpoint := none } else c) }) ∧
      (ctx ≠ 0x3FF → ctxStateOf s ctx ≠ none → ctxStateOf s ctx ≠ some .tornDown → Answers (.epBind m) m s 0 []
        (modCtx s ctx (fun c => { c with endpoint := some (m.a1.setWidth 8, m.a2) }))) ∧
      (ctx ≠ 0x3FF → ctxStateOf s ctx = none ∨ ctxStateOf s ctx = some .tornDown → Answers (.epBind m) m s 1 [] s)) ∧
    (Commands [9, 64, 10, 48] m s →
      (m.a3.toNat % 2 ^ 40 = 0 → Answers (.aperture m) m s 0 [] { s with
        apertures := mset s.apertures (id % 2 ^ 5) entry,
        outgoing := if m.a0.getLsbD 5 = true then s.outgoing.map (fun o => if o.entry = id % 2 ^ 5 ∧ o.sent = false then
          { o with port := id / 2 ^ 6 % 2 ^ 3, peer := m.a1, ctx := m.a2.toNat,
                   addr := (m.a3.setWidth 48).toNat + o.addr % 2 ^ 40 } else o) else s.outgoing }) ∧
      (m.a3.toNat % 2 ^ 40 ≠ 0 → Answers (.aperture m) m s 2 [] s)) ∧
    (Commands [4, 32, 13] m s →
      (m.a2.toNat ≠ 0 → m.a2.toNat ≤ 4096 → Answers (.podSet m) m s 0 [] { s with partitions := (mset s.partitions id
        { mget s.partitions id Partition.reset with podId := m.a1.setWidth 32, podSize := m.a2.toNat }) }) ∧
      (m.a2.toNat = 0 ∨ 4096 < m.a2.toNat → Answers (.podSet m) m s 2 [] s))

/-- R98, R131, R420, R422, R426, R427, R428, R430, R477: the power and partition commands, with their limits. -/
def Sys2Proof.Rules.PowerCommands : Prop :=
  ∀ (m : Mbox) (s : State),
    let a := m.a0.toNat
    let b := m.a1.toNat
    let quad := (quadNo s a).state
    let part (p : Partition) : State := { s with partitions := mset s.partitions a p }
    let p := mget s.partitions a Partition.reset
    let fits (v : BitVec 64) : Prop := 300 ≤ v.toNat ∧ v.toNat ≤ 420 ∧ v.toNat % 10 = 0
    (Commands [8] m s →
      (quad = .active → Answers (.gate m) m s 0 [] (gateQuad s a m.tag.toNat)) ∧
      (quad = .gated → Answers (.gate m) m s 0 [] s ∧ Answers (.ungate m) m s 0 [] (wakeQuad s a m.tag.toNat)) ∧
      (quad = .draining → Answers (.gate m) m s 1 [] s ∧ Answers (.ungate m) m s 1 [] s) ∧
      (quad = .active ∨ quad = .waking → Answers (.ungate m) m s 0 [] s)) ∧
    (Commands [8, 64] m s →
      (b ∈ [1, 2, 4] → Answers (.passfloor m) m s 0 [] (modQuad s a (fun q => { q with floor := b }))) ∧
      (b ∉ [1, 2, 4] → Answers (.passfloor m) m s 2 [] s)) ∧
    (Commands [4, 5, 64, 64] m s →
      let ok := fits m.a2 ∧ fits m.a3 ∧ m.a2.toNat ≤ m.a3.toNat
      (ok → Answers (.vote m) m s 0 [] (part { p with
        votes := mset p.votes (2 * (b % 16) + b / 16 % 2) (m.a2.toNat, m.a3.toNat) })) ∧
      (¬ ok → Answers (.vote m) m s 2 [] s)) ∧
    (Commands [4, 4, 64] m s →
      let ok := b < 12 ∧ m.a2.toNat ≤ 100 ∧ otherShares s a b + m.a2.toNat ≤ 100
      (ok → Answers (.share m) m s 0 [] (part { p with shares := mset p.shares b m.a2.toNat })) ∧
      (¬ ok → Answers (.share m) m s 2 [] s)) ∧
    (Commands [4, 46] m s →
      (readWaits b 128 s = true → exec (.coreset m) s = .next s) ∧
      (b + 128 ≤ hbmTop → readWaits b 128 s = false → Answers (.coreset m) m s 0 []
        (part { p with cores := BitVec.ofNat 1024 (bytesToNat (loadHome s b 128)) })) ∧
      (hbmTop < b + 128 → Answers (.coreset m) m s 2 [] s)) ∧
    (Commands [4, 1] m s →
      (b = 0 → partitionUsed s a = true → Answers (.partition m) m s 1 [] s) ∧
      (b = 1 ∨ partitionUsed s a = false → Answers (.partition m) m s 0 [] (part { p with configured := decide (b = 1) })))

/-- R442, R462, R463, R464, R465, R466, R467, R469, R471, R477: the system commands: a warm or cold start begins once
its slot is the oldest not executed, is answered and no quote is under way; a quote is signed later; a new image replaces the
resident one if its check passes, and else answers BAD_IMAGE. -/
def Sys2Proof.Rules.SystemCommands : Prop :=
  ∀ (m : Mbox) (s : State),
    let a := m.a0.toNat
    let n := m.a1.toNat
    let done := respond m ⟨0, [], s⟩
    let hash : BitVec 256 := m.a3 ++ m.a2 ++ m.a1 ++ m.a0
    let x := imageOf (loadHome s a n)
    let inside := a + n ≤ hbmTop ∧ n ≤ 0x2000 + 64 * 2 ^ 20
    (Commands [64, 64, 64, 64] m s → s.fw.quote = none →
      (isNextSlot s m = true → exec (.warm m) s = .next (warmStart done hash m.tag.toNat)) ∧
      (isNextSlot s m = false → exec (.warm m) s = .next s) ∧
      exec (.quote m) s = .next (passSlot (modFw s (fun w => { w with quote := some m })) m)) ∧
    (Commands [64, 64, 64, 64] m s → s.fw.quote ≠ none →
      exec (.warm m) s = .next s ∧ Answers (.quote m) m s 1 [] s) ∧
    (Commands [] m s →
      (s.fw.quote = none → isNextSlot s m = true → exec (.cold m) s = .next (coldRequest m.tag.toNat done)) ∧
      (isNextSlot s m = false → exec (.cold m) s = .next s) ∧
      Answers (.idkey m) m s 0 ((List.range 4).map (fun i => bytesToNat (((identityBytes s).drop (8 * i)).take 8))) s ∧
      Answers (.helpers m) m s 0 [Config.helperImage.toNat] s) ∧
    (Commands [46, 64] m s →
      (imageWaits m s = true → exec (.image m) s = .next s) ∧
      (inside → 0x2000 ≤ n → imageWaits m s = false → match imageFailure x with
        | none => Answers (.image m) m s 0 [] (modFw s (fun w => { w with image := some x }))
        | some _ => Answers (.image m) m s 5 [] s) ∧
      (inside → n < 0x2000 → imageWaits m s = false → Answers (.image m) m s 5 [] s) ∧
      (¬ inside → Answers (.image m) m s 2 [] s)) ∧
    (Commands [64, 64] m s → Answers (.evsink m) m s 0 []
      (modFw s (fun w => { w with sink := if m.a0 = 0 then none else some (m.a0, m.a1) })))

/-- R97 to R101, R107 to R109, R117 to R119, R473, R474: the mailbox's context and queue commands.
The model's choices in it: logs 14, 24, 29, 31, 84, 98, 99, 113, 118. -/
def Obligations.ContextAndQueueCommands : Prop := Sys2Proof.Rules.ContextCommands ∧ Sys2Proof.Rules.QueueCommands

/-- R282, R347, R350, R351, R377, R385, R386, R475, R476: the mailbox's memory and link commands.
The model's choices in it: logs 15, 24, 26, 35, 84, 92, 102, 104. -/
def Obligations.MemoryAndLinkCommands : Prop := Sys2Proof.Rules.MemoryCommands ∧ Sys2Proof.Rules.LinkCommands

/-- R98, R131, R420, R422, R426 to R428, R430, R442, R462 to R471, R477: the mailbox's power and system commands.
The model's choices in it: logs 13, 84, 88, 90. -/
def Obligations.PowerAndSystemCommands : Prop := Sys2Proof.Rules.PowerCommands ∧ Sys2Proof.Rules.SystemCommands
end

