-- ==== Sys2Proof/Laws/Maps.lean ====
section
/-!
SUPPORT. Laws of the sparse maps and of the byte memory: read after write, other keys and addresses untouched, and the
canonical form kept.
-/
namespace Sys2Proof.Laws

open Sys2Proof Sys2Proof.Machine

/-! ## Maps -/

@[simp] theorem mget?_mset_same {α : Type} (m : Map α) (n : Nat) (x : α) : mget? (mset m n x) n = some x := by
  induction m with
  | nil => simp [mset, mget?]
  | cons e m ih =>
    obtain ⟨k, v⟩ := e
    simp only [mset]
    split
    · simp [mget?]
    · split
      · simp [mget?]
      · have : k ≠ n := by omega
        simp [mget?, this, ih]

theorem mget?_mset_other {α : Type} (m : Map α) (n k : Nat) (x : α) (h : k ≠ n) : mget? (mset m n x) k = mget? m k := by
  induction m with
  | nil => simp [mset, mget?, Ne.symm h]
  | cons e m ih =>
    obtain ⟨j, v⟩ := e
    simp only [mset]
    split
    · simp [mget?, Ne.symm h]
    · split
      · rename_i h2; subst h2; simp [mget?, Ne.symm h]
      · simp [mget?, ih]

theorem mget?_mset {α : Type} (m : Map α) (n k : Nat) (x : α) :
    mget? (mset m n x) k = if k = n then some x else mget? m k := by
  split
  · rename_i h; subst h; simp
  · exact mget?_mset_other m n k x ‹_›

@[simp] theorem mget_mset_same {α : Type} (m : Map α) (n : Nat) (x d : α) : mget (mset m n x) n d = x := by simp [mget]

theorem mget_mset_other {α : Type} (m : Map α) (n k : Nat) (x d : α) (h : k ≠ n) :
    mget (mset m n x) k d = mget m k d := by simp [mget, mget?_mset_other m n k x h]

@[simp] theorem mset_mset {α : Type} (m : Map α) (n : Nat) (x y : α) : mset (mset m n x) n y = mset m n y := by
  induction m with
  | nil => simp [mset]
  | cons e m ih =>
    obtain ⟨k, v⟩ := e
    by_cases h1 : n < k
    · simp [mset, h1]
    · by_cases h2 : n = k
      · simp [mset, h2]
      · simp [mset, h1, h2, ih]

theorem length_mset {α : Type} (m : Map α) (n : Nat) (x : α) : (mset m n x).length ≤ m.length + 1 := by
  induction m with
  | nil => simp [mset]
  | cons e m ih =>
    obtain ⟨k, v⟩ := e
    simp only [mset]
    split
    · simp
    · split
      · simp
      · simp; omega

/-! ## Memory -/

theorem read_below (m : Memory) (lo a : Nat) (h : Memory.sortedFrom lo m = true) (ha : a < lo) : Memory.read m a = 0 := by
  induction m generalizing lo with
  | nil => rfl
  | cons e m ih =>
    obtain ⟨k, v⟩ := e
    simp [Memory.sortedFrom] at h
    have hk : k ≠ a := by omega
    simp only [Memory.read, hk, if_false]
    exact ih (k + 1) h.2 (by omega)

theorem sortedFrom_cons (lo k : Nat) (v : Byte) (m : Memory) :
    Memory.sortedFrom lo ((k, v) :: m) = true ↔ lo ≤ k ∧ v ≠ 0 ∧ Memory.sortedFrom (k + 1) m = true := by
  simp [Memory.sortedFrom, and_assoc]

theorem sortedFrom_le (m : Memory) (lo hi : Nat) (h : Memory.sortedFrom hi m = true) (hl : lo ≤ hi) :
    Memory.sortedFrom lo m = true := by
  cases m with
  | nil => rfl
  | cons e m =>
    obtain ⟨k, v⟩ := e
    rw [sortedFrom_cons] at h ⊢
    exact ⟨by omega, h.2.1, h.2.2⟩

theorem write_sortedFrom (m : Memory) (lo a : Nat) (b : Byte) (h : Memory.sortedFrom lo m = true) (ha : lo ≤ a) :
    Memory.sortedFrom lo (Memory.write m a b) = true := by
  induction m generalizing lo with
  | nil =>
    simp only [Memory.write]
    split
    · rfl
    · rw [sortedFrom_cons]; exact ⟨ha, ‹_›, rfl⟩
  | cons e m ih =>
    obtain ⟨k, v⟩ := e
    have h' := h
    rw [sortedFrom_cons] at h'
    obtain ⟨h1, h2, h3⟩ := h'
    simp only [Memory.write]
    split
    · split
      · exact h
      · rw [sortedFrom_cons, sortedFrom_cons]; exact ⟨ha, ‹_›, by omega, h2, h3⟩
    · split
      · rename_i h4 h5; subst h5
        split
        · exact sortedFrom_le m _ _ h3 (by omega)
        · rw [sortedFrom_cons]; exact ⟨ha, ‹_›, h3⟩
      · rw [sortedFrom_cons]; exact ⟨h1, h2, ih _ h3 (by omega)⟩

/-- A write keeps the canonical form. -/
theorem write_wf (m : Memory) (a : Nat) (b : Byte) (h : Memory.wf m = true) : Memory.wf (Memory.write m a b) = true :=
  write_sortedFrom m 0 a b h (Nat.zero_le a)

/-- Writes of several bytes keep the canonical form. -/
theorem writeBytes_wf (m : Memory) (a : Nat) (bs : List Byte) (h : Memory.wf m = true) :
    Memory.wf (Memory.writeBytes m a bs) = true := by
  induction bs generalizing m a with
  | nil => exact h
  | cons b bs ih => exact ih _ _ (write_wf m a b h)

/-- A fold of writes keeps the canonical form. -/
theorem foldl_write_wf {α : Type} (l : List α) (f : α → Nat) (g : α → Byte) (m : Memory) (h : Memory.wf m = true) :
    Memory.wf (l.foldl (fun m e => Memory.write m (f e) (g e)) m) = true := by
  induction l generalizing m with
  | nil => exact h
  | cons e l ih => exact ih _ (write_wf _ _ _ h)

theorem read_write_sorted (m : Memory) (lo a : Nat) (b : Byte) (h : Memory.sortedFrom lo m = true) (k : Nat) :
    Memory.read (Memory.write m a b) k = if k = a then b else Memory.read m k := by
  induction m generalizing lo with
  | nil =>
    simp only [Memory.write]
    split
    · rename_i h1; subst h1; simp [Memory.read]
    · simp only [Memory.read]
      by_cases h2 : k = a
      · subst h2; simp
      · simp [h2, Ne.symm h2]
  | cons e m ih =>
    obtain ⟨j, v⟩ := e
    simp [Memory.sortedFrom] at h
    obtain ⟨⟨h1, h2⟩, h3⟩ := h
    simp only [Memory.write]
    split
    · rename_i h4
      split
      · rename_i h5
        split
        · rename_i h6; subst h6
          simp only [Memory.read]
          have : j ≠ k := by omega
          simp only [this, if_false, h5]
          exact read_below m (j + 1) k h3 (by omega)
        · rfl
      · simp only [Memory.read]
        by_cases h6 : k = a
        · subst h6; simp
        · simp [h6, Ne.symm h6]
    · split
      · rename_i h4 h5; subst h5
        split
        · rename_i h6
          by_cases h7 : k = a
          · subst h7; simp [h6]; exact read_below m (k + 1) k h3 (by omega)
          · simp [Memory.read, h7, Ne.symm h7]
        · by_cases h7 : k = a
          · subst h7; simp [Memory.read]
          · simp [Memory.read, h7, Ne.symm h7]
      · rename_i h4 h5
        simp only [Memory.read]
        by_cases h6 : j = k
        · have : k ≠ a := by omega
          simp [h6, this]
        · simp only [h6, if_false]; exact ih _ h3

/-- A byte read after a write: the byte written at its address, the old byte anywhere else. -/
theorem read_write (m : Memory) (a : Nat) (b : Byte) (h : Memory.wf m = true) (k : Nat) :
    Memory.read (Memory.write m a b) k = if k = a then b else Memory.read m k := read_write_sorted m 0 a b h k

/-- A write of several bytes leaves every byte outside them. -/
theorem read_writeBytes_other (m : Memory) (a : Nat) (bs : List Byte) (h : Memory.wf m = true) (k : Nat)
    (hk : k < a ∨ a + bs.length ≤ k) : Memory.read (Memory.writeBytes m a bs) k = Memory.read m k := by
  induction bs generalizing m a with
  | nil => rfl
  | cons b bs ih =>
    simp only [Memory.writeBytes]
    rw [ih _ _ (write_wf m a b h) (by simp at hk; omega), read_write m a b h]
    have : k ≠ a := by simp at hk; omega
    simp [this]

end Sys2Proof.Laws
end

