-- ==== Sys2Proof/Laws/State.lean ====
section
/-!
SUPPORT. What each update of the package's state leaves: one lemma per field per update.
-/
namespace Sys2Proof.Laws

open Sys2Proof Sys2Proof.Machine

/-! ## setCore -/

@[simp] theorem setCore_fresh (s : State) (c : Nat) (k : Core) : (setCore s c k).fresh = s.fresh := rfl
@[simp] theorem setCore_agenda (s : State) (c : Nat) (k : Core) : (setCore s c k).agenda = s.agenda := rfl
@[simp] theorem setCore_turn (s : State) (c : Nat) (k : Core) : (setCore s c k).turn = s.turn := rfl
@[simp] theorem setCore_packed (s : State) (c : Nat) (k : Core) : (setCore s c k).packed = s.packed := rfl
@[simp] theorem setCore_passed (s : State) (c : Nat) (k : Core) : (setCore s c k).passed = s.passed := rfl
@[simp] theorem setCore_stamps (s : State) (c : Nat) (k : Core) : (setCore s c k).stamps = s.stamps := rfl
@[simp] theorem setCore_opp (s : State) (c : Nat) (k : Core) : (setCore s c k).opp = s.opp := rfl
@[simp] theorem setCore_now (s : State) (c : Nat) (k : Core) : (setCore s c k).now = s.now := rfl
@[simp] theorem setCore_mem (s : State) (c : Nat) (k : Core) : (setCore s c k).mem = s.mem := rfl
@[simp] theorem setCore_attached (s : State) (c : Nat) (k : Core) : (setCore s c k).attached = s.attached := rfl
@[simp] theorem setCore_writes (s : State) (c : Nat) (k : Core) : (setCore s c k).writes = s.writes := rfl
@[simp] theorem setCore_cores (s : State) (c : Nat) (k : Core) : (setCore s c k).cores = mset s.cores c k := rfl
@[simp] theorem setCore_dieStacks (s : State) (c : Nat) (k : Core) : (setCore s c k).dieStacks = s.dieStacks := rfl
@[simp] theorem setCore_ctxs (s : State) (c : Nat) (k : Core) : (setCore s c k).ctxs = s.ctxs := rfl
@[simp] theorem setCore_queues (s : State) (c : Nat) (k : Core) : (setCore s c k).queues = s.queues := rfl
@[simp] theorem setCore_kernels (s : State) (c : Nat) (k : Core) : (setCore s c k).kernels = s.kernels := rfl
@[simp] theorem setCore_nextKernel (s : State) (c : Nat) (k : Core) : (setCore s c k).nextKernel = s.nextKernel := rfl
@[simp] theorem setCore_barriers (s : State) (c : Nat) (k : Core) : (setCore s c k).barriers = s.barriers := rfl
@[simp] theorem setCore_saved (s : State) (c : Nat) (k : Core) : (setCore s c k).saved = s.saved := rfl
@[simp] theorem setCore_nextSaved (s : State) (c : Nat) (k : Core) : (setCore s c k).nextSaved = s.nextSaved := rfl
@[simp] theorem setCore_dies (s : State) (c : Nat) (k : Core) : (setCore s c k).dies = s.dies := rfl
@[simp] theorem setCore_skerries (s : State) (c : Nat) (k : Core) : (setCore s c k).skerries = s.skerries := rfl
@[simp] theorem setCore_links (s : State) (c : Nat) (k : Core) : (setCore s c k).links = s.links := rfl
@[simp] theorem setCore_apertures (s : State) (c : Nat) (k : Core) : (setCore s c k).apertures = s.apertures := rfl
@[simp] theorem setCore_outgoing (s : State) (c : Nat) (k : Core) : (setCore s c k).outgoing = s.outgoing := rfl
@[simp] theorem setCore_rma (s : State) (c : Nat) (k : Core) : (setCore s c k).rma = s.rma := rfl
@[simp] theorem setCore_logging (s : State) (c : Nat) (k : Core) : (setCore s c k).logging = s.logging := rfl
@[simp] theorem setCore_replies (s : State) (c : Nat) (k : Core) : (setCore s c k).replies = s.replies := rfl
@[simp] theorem setCore_quads (s : State) (c : Nat) (k : Core) : (setCore s c k).quads = s.quads := rfl
@[simp] theorem setCore_rails (s : State) (c : Nat) (k : Core) : (setCore s c k).rails = s.rails := rfl
@[simp] theorem setCore_hbm (s : State) (c : Nat) (k : Core) : (setCore s c k).hbm = s.hbm := rfl
@[simp] theorem setCore_partitions (s : State) (c : Nat) (k : Core) : (setCore s c k).partitions = s.partitions := rfl
@[simp] theorem setCore_fw (s : State) (c : Nat) (k : Core) : (setCore s c k).fw = s.fw := rfl

/-! ## modCore -/

@[simp] theorem modCore_fresh (s : State) (c : Nat) (f : Core → Core) : (modCore s c f).fresh = s.fresh := rfl
@[simp] theorem modCore_agenda (s : State) (c : Nat) (f : Core → Core) : (modCore s c f).agenda = s.agenda := rfl
@[simp] theorem modCore_turn (s : State) (c : Nat) (f : Core → Core) : (modCore s c f).turn = s.turn := rfl
@[simp] theorem modCore_packed (s : State) (c : Nat) (f : Core → Core) : (modCore s c f).packed = s.packed := rfl
@[simp] theorem modCore_passed (s : State) (c : Nat) (f : Core → Core) : (modCore s c f).passed = s.passed := rfl
@[simp] theorem modCore_stamps (s : State) (c : Nat) (f : Core → Core) : (modCore s c f).stamps = s.stamps := rfl
@[simp] theorem modCore_opp (s : State) (c : Nat) (f : Core → Core) : (modCore s c f).opp = s.opp := rfl
@[simp] theorem modCore_now (s : State) (c : Nat) (f : Core → Core) : (modCore s c f).now = s.now := rfl
@[simp] theorem modCore_mem (s : State) (c : Nat) (f : Core → Core) : (modCore s c f).mem = s.mem := rfl
@[simp] theorem modCore_attached (s : State) (c : Nat) (f : Core → Core) : (modCore s c f).attached = s.attached := rfl
@[simp] theorem modCore_writes (s : State) (c : Nat) (f : Core → Core) : (modCore s c f).writes = s.writes := rfl
@[simp] theorem modCore_cores (s : State) (c : Nat) (f : Core → Core) : (modCore s c f).cores = mset s.cores c (f (coreOf s c)) := rfl
@[simp] theorem modCore_dieStacks (s : State) (c : Nat) (f : Core → Core) : (modCore s c f).dieStacks = s.dieStacks := rfl
@[simp] theorem modCore_ctxs (s : State) (c : Nat) (f : Core → Core) : (modCore s c f).ctxs = s.ctxs := rfl
@[simp] theorem modCore_queues (s : State) (c : Nat) (f : Core → Core) : (modCore s c f).queues = s.queues := rfl
@[simp] theorem modCore_kernels (s : State) (c : Nat) (f : Core → Core) : (modCore s c f).kernels = s.kernels := rfl
@[simp] theorem modCore_nextKernel (s : State) (c : Nat) (f : Core → Core) : (modCore s c f).nextKernel = s.nextKernel := rfl
@[simp] theorem modCore_barriers (s : State) (c : Nat) (f : Core → Core) : (modCore s c f).barriers = s.barriers := rfl
@[simp] theorem modCore_saved (s : State) (c : Nat) (f : Core → Core) : (modCore s c f).saved = s.saved := rfl
@[simp] theorem modCore_nextSaved (s : State) (c : Nat) (f : Core → Core) : (modCore s c f).nextSaved = s.nextSaved := rfl
@[simp] theorem modCore_dies (s : State) (c : Nat) (f : Core → Core) : (modCore s c f).dies = s.dies := rfl
@[simp] theorem modCore_skerries (s : State) (c : Nat) (f : Core → Core) : (modCore s c f).skerries = s.skerries := rfl
@[simp] theorem modCore_links (s : State) (c : Nat) (f : Core → Core) : (modCore s c f).links = s.links := rfl
@[simp] theorem modCore_apertures (s : State) (c : Nat) (f : Core → Core) : (modCore s c f).apertures = s.apertures := rfl
@[simp] theorem modCore_outgoing (s : State) (c : Nat) (f : Core → Core) : (modCore s c f).outgoing = s.outgoing := rfl
@[simp] theorem modCore_rma (s : State) (c : Nat) (f : Core → Core) : (modCore s c f).rma = s.rma := rfl
@[simp] theorem modCore_logging (s : State) (c : Nat) (f : Core → Core) : (modCore s c f).logging = s.logging := rfl
@[simp] theorem modCore_replies (s : State) (c : Nat) (f : Core → Core) : (modCore s c f).replies = s.replies := rfl
@[simp] theorem modCore_quads (s : State) (c : Nat) (f : Core → Core) : (modCore s c f).quads = s.quads := rfl
@[simp] theorem modCore_rails (s : State) (c : Nat) (f : Core → Core) : (modCore s c f).rails = s.rails := rfl
@[simp] theorem modCore_hbm (s : State) (c : Nat) (f : Core → Core) : (modCore s c f).hbm = s.hbm := rfl
@[simp] theorem modCore_partitions (s : State) (c : Nat) (f : Core → Core) : (modCore s c f).partitions = s.partitions := rfl
@[simp] theorem modCore_fw (s : State) (c : Nat) (f : Core → Core) : (modCore s c f).fw = s.fw := rfl

/-! ## setGroup -/

@[simp] theorem setGroup_fresh (s : State) (c g : Nat) (x : Group) : (setGroup s c g x).fresh = s.fresh := rfl
@[simp] theorem setGroup_agenda (s : State) (c g : Nat) (x : Group) : (setGroup s c g x).agenda = s.agenda := rfl
@[simp] theorem setGroup_turn (s : State) (c g : Nat) (x : Group) : (setGroup s c g x).turn = s.turn := rfl
@[simp] theorem setGroup_packed (s : State) (c g : Nat) (x : Group) : (setGroup s c g x).packed = s.packed := rfl
@[simp] theorem setGroup_passed (s : State) (c g : Nat) (x : Group) : (setGroup s c g x).passed = s.passed := rfl
@[simp] theorem setGroup_stamps (s : State) (c g : Nat) (x : Group) : (setGroup s c g x).stamps = s.stamps := rfl
@[simp] theorem setGroup_opp (s : State) (c g : Nat) (x : Group) : (setGroup s c g x).opp = s.opp := rfl
@[simp] theorem setGroup_now (s : State) (c g : Nat) (x : Group) : (setGroup s c g x).now = s.now := rfl
@[simp] theorem setGroup_mem (s : State) (c g : Nat) (x : Group) : (setGroup s c g x).mem = s.mem := rfl
@[simp] theorem setGroup_attached (s : State) (c g : Nat) (x : Group) : (setGroup s c g x).attached = s.attached := rfl
@[simp] theorem setGroup_writes (s : State) (c g : Nat) (x : Group) : (setGroup s c g x).writes = s.writes := rfl
@[simp] theorem setGroup_dieStacks (s : State) (c g : Nat) (x : Group) : (setGroup s c g x).dieStacks = s.dieStacks := rfl
@[simp] theorem setGroup_ctxs (s : State) (c g : Nat) (x : Group) : (setGroup s c g x).ctxs = s.ctxs := rfl
@[simp] theorem setGroup_queues (s : State) (c g : Nat) (x : Group) : (setGroup s c g x).queues = s.queues := rfl
@[simp] theorem setGroup_kernels (s : State) (c g : Nat) (x : Group) : (setGroup s c g x).kernels = s.kernels := rfl
@[simp] theorem setGroup_nextKernel (s : State) (c g : Nat) (x : Group) : (setGroup s c g x).nextKernel = s.nextKernel := rfl
@[simp] theorem setGroup_barriers (s : State) (c g : Nat) (x : Group) : (setGroup s c g x).barriers = s.barriers := rfl
@[simp] theorem setGroup_saved (s : State) (c g : Nat) (x : Group) : (setGroup s c g x).saved = s.saved := rfl
@[simp] theorem setGroup_nextSaved (s : State) (c g : Nat) (x : Group) : (setGroup s c g x).nextSaved = s.nextSaved := rfl
@[simp] theorem setGroup_dies (s : State) (c g : Nat) (x : Group) : (setGroup s c g x).dies = s.dies := rfl
@[simp] theorem setGroup_skerries (s : State) (c g : Nat) (x : Group) : (setGroup s c g x).skerries = s.skerries := rfl
@[simp] theorem setGroup_links (s : State) (c g : Nat) (x : Group) : (setGroup s c g x).links = s.links := rfl
@[simp] theorem setGroup_apertures (s : State) (c g : Nat) (x : Group) : (setGroup s c g x).apertures = s.apertures := rfl
@[simp] theorem setGroup_outgoing (s : State) (c g : Nat) (x : Group) : (setGroup s c g x).outgoing = s.outgoing := rfl
@[simp] theorem setGroup_rma (s : State) (c g : Nat) (x : Group) : (setGroup s c g x).rma = s.rma := rfl
@[simp] theorem setGroup_logging (s : State) (c g : Nat) (x : Group) : (setGroup s c g x).logging = s.logging := rfl
@[simp] theorem setGroup_replies (s : State) (c g : Nat) (x : Group) : (setGroup s c g x).replies = s.replies := rfl
@[simp] theorem setGroup_quads (s : State) (c g : Nat) (x : Group) : (setGroup s c g x).quads = s.quads := rfl
@[simp] theorem setGroup_rails (s : State) (c g : Nat) (x : Group) : (setGroup s c g x).rails = s.rails := rfl
@[simp] theorem setGroup_hbm (s : State) (c g : Nat) (x : Group) : (setGroup s c g x).hbm = s.hbm := rfl
@[simp] theorem setGroup_partitions (s : State) (c g : Nat) (x : Group) : (setGroup s c g x).partitions = s.partitions := rfl
@[simp] theorem setGroup_fw (s : State) (c g : Nat) (x : Group) : (setGroup s c g x).fw = s.fw := rfl

/-! ## modGroup -/

@[simp] theorem modGroup_fresh (s : State) (c g : Nat) (f : Group → Group) : (modGroup s c g f).fresh = s.fresh := by unfold modGroup; split <;> rfl
@[simp] theorem modGroup_agenda (s : State) (c g : Nat) (f : Group → Group) : (modGroup s c g f).agenda = s.agenda := by unfold modGroup; split <;> rfl
@[simp] theorem modGroup_turn (s : State) (c g : Nat) (f : Group → Group) : (modGroup s c g f).turn = s.turn := by unfold modGroup; split <;> rfl
@[simp] theorem modGroup_packed (s : State) (c g : Nat) (f : Group → Group) : (modGroup s c g f).packed = s.packed := by unfold modGroup; split <;> rfl
@[simp] theorem modGroup_passed (s : State) (c g : Nat) (f : Group → Group) : (modGroup s c g f).passed = s.passed := by unfold modGroup; split <;> rfl
@[simp] theorem modGroup_stamps (s : State) (c g : Nat) (f : Group → Group) : (modGroup s c g f).stamps = s.stamps := by unfold modGroup; split <;> rfl
@[simp] theorem modGroup_opp (s : State) (c g : Nat) (f : Group → Group) : (modGroup s c g f).opp = s.opp := by unfold modGroup; split <;> rfl
@[simp] theorem modGroup_now (s : State) (c g : Nat) (f : Group → Group) : (modGroup s c g f).now = s.now := by unfold modGroup; split <;> rfl
@[simp] theorem modGroup_mem (s : State) (c g : Nat) (f : Group → Group) : (modGroup s c g f).mem = s.mem := by unfold modGroup; split <;> rfl
@[simp] theorem modGroup_attached (s : State) (c g : Nat) (f : Group → Group) : (modGroup s c g f).attached = s.attached := by unfold modGroup; split <;> rfl
@[simp] theorem modGroup_writes (s : State) (c g : Nat) (f : Group → Group) : (modGroup s c g f).writes = s.writes := by unfold modGroup; split <;> rfl
@[simp] theorem modGroup_dieStacks (s : State) (c g : Nat) (f : Group → Group) : (modGroup s c g f).dieStacks = s.dieStacks := by unfold modGroup; split <;> rfl
@[simp] theorem modGroup_ctxs (s : State) (c g : Nat) (f : Group → Group) : (modGroup s c g f).ctxs = s.ctxs := by unfold modGroup; split <;> rfl
@[simp] theorem modGroup_queues (s : State) (c g : Nat) (f : Group → Group) : (modGroup s c g f).queues = s.queues := by unfold modGroup; split <;> rfl
@[simp] theorem modGroup_kernels (s : State) (c g : Nat) (f : Group → Group) : (modGroup s c g f).kernels = s.kernels := by unfold modGroup; split <;> rfl
@[simp] theorem modGroup_nextKernel (s : State) (c g : Nat) (f : Group → Group) : (modGroup s c g f).nextKernel = s.nextKernel := by unfold modGroup; split <;> rfl
@[simp] theorem modGroup_barriers (s : State) (c g : Nat) (f : Group → Group) : (modGroup s c g f).barriers = s.barriers := by unfold modGroup; split <;> rfl
@[simp] theorem modGroup_saved (s : State) (c g : Nat) (f : Group → Group) : (modGroup s c g f).saved = s.saved := by unfold modGroup; split <;> rfl
@[simp] theorem modGroup_nextSaved (s : State) (c g : Nat) (f : Group → Group) : (modGroup s c g f).nextSaved = s.nextSaved := by unfold modGroup; split <;> rfl
@[simp] theorem modGroup_dies (s : State) (c g : Nat) (f : Group → Group) : (modGroup s c g f).dies = s.dies := by unfold modGroup; split <;> rfl
@[simp] theorem modGroup_skerries (s : State) (c g : Nat) (f : Group → Group) : (modGroup s c g f).skerries = s.skerries := by unfold modGroup; split <;> rfl
@[simp] theorem modGroup_links (s : State) (c g : Nat) (f : Group → Group) : (modGroup s c g f).links = s.links := by unfold modGroup; split <;> rfl
@[simp] theorem modGroup_apertures (s : State) (c g : Nat) (f : Group → Group) : (modGroup s c g f).apertures = s.apertures := by unfold modGroup; split <;> rfl
@[simp] theorem modGroup_outgoing (s : State) (c g : Nat) (f : Group → Group) : (modGroup s c g f).outgoing = s.outgoing := by unfold modGroup; split <;> rfl
@[simp] theorem modGroup_rma (s : State) (c g : Nat) (f : Group → Group) : (modGroup s c g f).rma = s.rma := by unfold modGroup; split <;> rfl
@[simp] theorem modGroup_logging (s : State) (c g : Nat) (f : Group → Group) : (modGroup s c g f).logging = s.logging := by unfold modGroup; split <;> rfl
@[simp] theorem modGroup_replies (s : State) (c g : Nat) (f : Group → Group) : (modGroup s c g f).replies = s.replies := by unfold modGroup; split <;> rfl
@[simp] theorem modGroup_quads (s : State) (c g : Nat) (f : Group → Group) : (modGroup s c g f).quads = s.quads := by unfold modGroup; split <;> rfl
@[simp] theorem modGroup_rails (s : State) (c g : Nat) (f : Group → Group) : (modGroup s c g f).rails = s.rails := by unfold modGroup; split <;> rfl
@[simp] theorem modGroup_hbm (s : State) (c g : Nat) (f : Group → Group) : (modGroup s c g f).hbm = s.hbm := by unfold modGroup; split <;> rfl
@[simp] theorem modGroup_partitions (s : State) (c g : Nat) (f : Group → Group) : (modGroup s c g f).partitions = s.partitions := by unfold modGroup; split <;> rfl
@[simp] theorem modGroup_fw (s : State) (c g : Nat) (f : Group → Group) : (modGroup s c g f).fw = s.fw := by unfold modGroup; split <;> rfl

/-! ## modLane -/

@[simp] theorem modLane_fresh (s : State) (c g : Nat) (f : Lane → Lane) : (modLane s c g f).fresh = s.fresh := by unfold modLane; simp
@[simp] theorem modLane_agenda (s : State) (c g : Nat) (f : Lane → Lane) : (modLane s c g f).agenda = s.agenda := by unfold modLane; simp
@[simp] theorem modLane_turn (s : State) (c g : Nat) (f : Lane → Lane) : (modLane s c g f).turn = s.turn := by unfold modLane; simp
@[simp] theorem modLane_packed (s : State) (c g : Nat) (f : Lane → Lane) : (modLane s c g f).packed = s.packed := by unfold modLane; simp
@[simp] theorem modLane_passed (s : State) (c g : Nat) (f : Lane → Lane) : (modLane s c g f).passed = s.passed := by unfold modLane; simp
@[simp] theorem modLane_stamps (s : State) (c g : Nat) (f : Lane → Lane) : (modLane s c g f).stamps = s.stamps := by unfold modLane; simp
@[simp] theorem modLane_opp (s : State) (c g : Nat) (f : Lane → Lane) : (modLane s c g f).opp = s.opp := by unfold modLane; simp
@[simp] theorem modLane_now (s : State) (c g : Nat) (f : Lane → Lane) : (modLane s c g f).now = s.now := by unfold modLane; simp
@[simp] theorem modLane_mem (s : State) (c g : Nat) (f : Lane → Lane) : (modLane s c g f).mem = s.mem := by unfold modLane; simp
@[simp] theorem modLane_attached (s : State) (c g : Nat) (f : Lane → Lane) : (modLane s c g f).attached = s.attached := by unfold modLane; simp
@[simp] theorem modLane_writes (s : State) (c g : Nat) (f : Lane → Lane) : (modLane s c g f).writes = s.writes := by unfold modLane; simp
@[simp] theorem modLane_dieStacks (s : State) (c g : Nat) (f : Lane → Lane) : (modLane s c g f).dieStacks = s.dieStacks := by unfold modLane; simp
@[simp] theorem modLane_ctxs (s : State) (c g : Nat) (f : Lane → Lane) : (modLane s c g f).ctxs = s.ctxs := by unfold modLane; simp
@[simp] theorem modLane_queues (s : State) (c g : Nat) (f : Lane → Lane) : (modLane s c g f).queues = s.queues := by unfold modLane; simp
@[simp] theorem modLane_kernels (s : State) (c g : Nat) (f : Lane → Lane) : (modLane s c g f).kernels = s.kernels := by unfold modLane; simp
@[simp] theorem modLane_nextKernel (s : State) (c g : Nat) (f : Lane → Lane) : (modLane s c g f).nextKernel = s.nextKernel := by unfold modLane; simp
@[simp] theorem modLane_barriers (s : State) (c g : Nat) (f : Lane → Lane) : (modLane s c g f).barriers = s.barriers := by unfold modLane; simp
@[simp] theorem modLane_saved (s : State) (c g : Nat) (f : Lane → Lane) : (modLane s c g f).saved = s.saved := by unfold modLane; simp
@[simp] theorem modLane_nextSaved (s : State) (c g : Nat) (f : Lane → Lane) : (modLane s c g f).nextSaved = s.nextSaved := by unfold modLane; simp
@[simp] theorem modLane_dies (s : State) (c g : Nat) (f : Lane → Lane) : (modLane s c g f).dies = s.dies := by unfold modLane; simp
@[simp] theorem modLane_skerries (s : State) (c g : Nat) (f : Lane → Lane) : (modLane s c g f).skerries = s.skerries := by unfold modLane; simp
@[simp] theorem modLane_links (s : State) (c g : Nat) (f : Lane → Lane) : (modLane s c g f).links = s.links := by unfold modLane; simp
@[simp] theorem modLane_apertures (s : State) (c g : Nat) (f : Lane → Lane) : (modLane s c g f).apertures = s.apertures := by unfold modLane; simp
@[simp] theorem modLane_outgoing (s : State) (c g : Nat) (f : Lane → Lane) : (modLane s c g f).outgoing = s.outgoing := by unfold modLane; simp
@[simp] theorem modLane_rma (s : State) (c g : Nat) (f : Lane → Lane) : (modLane s c g f).rma = s.rma := by unfold modLane; simp
@[simp] theorem modLane_logging (s : State) (c g : Nat) (f : Lane → Lane) : (modLane s c g f).logging = s.logging := by unfold modLane; simp
@[simp] theorem modLane_replies (s : State) (c g : Nat) (f : Lane → Lane) : (modLane s c g f).replies = s.replies := by unfold modLane; simp
@[simp] theorem modLane_quads (s : State) (c g : Nat) (f : Lane → Lane) : (modLane s c g f).quads = s.quads := by unfold modLane; simp
@[simp] theorem modLane_rails (s : State) (c g : Nat) (f : Lane → Lane) : (modLane s c g f).rails = s.rails := by unfold modLane; simp
@[simp] theorem modLane_hbm (s : State) (c g : Nat) (f : Lane → Lane) : (modLane s c g f).hbm = s.hbm := by unfold modLane; simp
@[simp] theorem modLane_partitions (s : State) (c g : Nat) (f : Lane → Lane) : (modLane s c g f).partitions = s.partitions := by unfold modLane; simp
@[simp] theorem modLane_fw (s : State) (c g : Nat) (f : Lane → Lane) : (modLane s c g f).fw = s.fw := by unfold modLane; simp

/-! ## modScalar -/

@[simp] theorem modScalar_fresh (s : State) (c g : Nat) (f : Scalar → Scalar) : (modScalar s c g f).fresh = s.fresh := by unfold modScalar; simp
@[simp] theorem modScalar_agenda (s : State) (c g : Nat) (f : Scalar → Scalar) : (modScalar s c g f).agenda = s.agenda := by unfold modScalar; simp
@[simp] theorem modScalar_turn (s : State) (c g : Nat) (f : Scalar → Scalar) : (modScalar s c g f).turn = s.turn := by unfold modScalar; simp
@[simp] theorem modScalar_packed (s : State) (c g : Nat) (f : Scalar → Scalar) : (modScalar s c g f).packed = s.packed := by unfold modScalar; simp
@[simp] theorem modScalar_passed (s : State) (c g : Nat) (f : Scalar → Scalar) : (modScalar s c g f).passed = s.passed := by unfold modScalar; simp
@[simp] theorem modScalar_stamps (s : State) (c g : Nat) (f : Scalar → Scalar) : (modScalar s c g f).stamps = s.stamps := by unfold modScalar; simp
@[simp] theorem modScalar_opp (s : State) (c g : Nat) (f : Scalar → Scalar) : (modScalar s c g f).opp = s.opp := by unfold modScalar; simp
@[simp] theorem modScalar_now (s : State) (c g : Nat) (f : Scalar → Scalar) : (modScalar s c g f).now = s.now := by unfold modScalar; simp
@[simp] theorem modScalar_mem (s : State) (c g : Nat) (f : Scalar → Scalar) : (modScalar s c g f).mem = s.mem := by unfold modScalar; simp
@[simp] theorem modScalar_attached (s : State) (c g : Nat) (f : Scalar → Scalar) : (modScalar s c g f).attached = s.attached := by unfold modScalar; simp
@[simp] theorem modScalar_writes (s : State) (c g : Nat) (f : Scalar → Scalar) : (modScalar s c g f).writes = s.writes := by unfold modScalar; simp
@[simp] theorem modScalar_dieStacks (s : State) (c g : Nat) (f : Scalar → Scalar) : (modScalar s c g f).dieStacks = s.dieStacks := by unfold modScalar; simp
@[simp] theorem modScalar_ctxs (s : State) (c g : Nat) (f : Scalar → Scalar) : (modScalar s c g f).ctxs = s.ctxs := by unfold modScalar; simp
@[simp] theorem modScalar_queues (s : State) (c g : Nat) (f : Scalar → Scalar) : (modScalar s c g f).queues = s.queues := by unfold modScalar; simp
@[simp] theorem modScalar_kernels (s : State) (c g : Nat) (f : Scalar → Scalar) : (modScalar s c g f).kernels = s.kernels := by unfold modScalar; simp
@[simp] theorem modScalar_nextKernel (s : State) (c g : Nat) (f : Scalar → Scalar) : (modScalar s c g f).nextKernel = s.nextKernel := by unfold modScalar; simp
@[simp] theorem modScalar_barriers (s : State) (c g : Nat) (f : Scalar → Scalar) : (modScalar s c g f).barriers = s.barriers := by unfold modScalar; simp
@[simp] theorem modScalar_saved (s : State) (c g : Nat) (f : Scalar → Scalar) : (modScalar s c g f).saved = s.saved := by unfold modScalar; simp
@[simp] theorem modScalar_nextSaved (s : State) (c g : Nat) (f : Scalar → Scalar) : (modScalar s c g f).nextSaved = s.nextSaved := by unfold modScalar; simp
@[simp] theorem modScalar_dies (s : State) (c g : Nat) (f : Scalar → Scalar) : (modScalar s c g f).dies = s.dies := by unfold modScalar; simp
@[simp] theorem modScalar_skerries (s : State) (c g : Nat) (f : Scalar → Scalar) : (modScalar s c g f).skerries = s.skerries := by unfold modScalar; simp
@[simp] theorem modScalar_links (s : State) (c g : Nat) (f : Scalar → Scalar) : (modScalar s c g f).links = s.links := by unfold modScalar; simp
@[simp] theorem modScalar_apertures (s : State) (c g : Nat) (f : Scalar → Scalar) : (modScalar s c g f).apertures = s.apertures := by unfold modScalar; simp
@[simp] theorem modScalar_outgoing (s : State) (c g : Nat) (f : Scalar → Scalar) : (modScalar s c g f).outgoing = s.outgoing := by unfold modScalar; simp
@[simp] theorem modScalar_rma (s : State) (c g : Nat) (f : Scalar → Scalar) : (modScalar s c g f).rma = s.rma := by unfold modScalar; simp
@[simp] theorem modScalar_logging (s : State) (c g : Nat) (f : Scalar → Scalar) : (modScalar s c g f).logging = s.logging := by unfold modScalar; simp
@[simp] theorem modScalar_replies (s : State) (c g : Nat) (f : Scalar → Scalar) : (modScalar s c g f).replies = s.replies := by unfold modScalar; simp
@[simp] theorem modScalar_quads (s : State) (c g : Nat) (f : Scalar → Scalar) : (modScalar s c g f).quads = s.quads := by unfold modScalar; simp
@[simp] theorem modScalar_rails (s : State) (c g : Nat) (f : Scalar → Scalar) : (modScalar s c g f).rails = s.rails := by unfold modScalar; simp
@[simp] theorem modScalar_hbm (s : State) (c g : Nat) (f : Scalar → Scalar) : (modScalar s c g f).hbm = s.hbm := by unfold modScalar; simp
@[simp] theorem modScalar_partitions (s : State) (c g : Nat) (f : Scalar → Scalar) : (modScalar s c g f).partitions = s.partitions := by unfold modScalar; simp
@[simp] theorem modScalar_fw (s : State) (c g : Nat) (f : Scalar → Scalar) : (modScalar s c g f).fw = s.fw := by unfold modScalar; simp

/-! ## modCtx -/

@[simp] theorem modCtx_fresh (s : State) (n : Nat) (f : Context → Context) : (modCtx s n f).fresh = s.fresh := rfl
@[simp] theorem modCtx_agenda (s : State) (n : Nat) (f : Context → Context) : (modCtx s n f).agenda = s.agenda := rfl
@[simp] theorem modCtx_turn (s : State) (n : Nat) (f : Context → Context) : (modCtx s n f).turn = s.turn := rfl
@[simp] theorem modCtx_packed (s : State) (n : Nat) (f : Context → Context) : (modCtx s n f).packed = s.packed := rfl
@[simp] theorem modCtx_passed (s : State) (n : Nat) (f : Context → Context) : (modCtx s n f).passed = s.passed := rfl
@[simp] theorem modCtx_stamps (s : State) (n : Nat) (f : Context → Context) : (modCtx s n f).stamps = s.stamps := rfl
@[simp] theorem modCtx_opp (s : State) (n : Nat) (f : Context → Context) : (modCtx s n f).opp = s.opp := rfl
@[simp] theorem modCtx_now (s : State) (n : Nat) (f : Context → Context) : (modCtx s n f).now = s.now := rfl
@[simp] theorem modCtx_mem (s : State) (n : Nat) (f : Context → Context) : (modCtx s n f).mem = s.mem := rfl
@[simp] theorem modCtx_attached (s : State) (n : Nat) (f : Context → Context) : (modCtx s n f).attached = s.attached := rfl
@[simp] theorem modCtx_writes (s : State) (n : Nat) (f : Context → Context) : (modCtx s n f).writes = s.writes := rfl
@[simp] theorem modCtx_cores (s : State) (n : Nat) (f : Context → Context) : (modCtx s n f).cores = s.cores := rfl
@[simp] theorem modCtx_dieStacks (s : State) (n : Nat) (f : Context → Context) : (modCtx s n f).dieStacks = s.dieStacks := rfl
@[simp] theorem modCtx_ctxs (s : State) (n : Nat) (f : Context → Context) : (modCtx s n f).ctxs = mmod s.ctxs n f := rfl
@[simp] theorem modCtx_queues (s : State) (n : Nat) (f : Context → Context) : (modCtx s n f).queues = s.queues := rfl
@[simp] theorem modCtx_kernels (s : State) (n : Nat) (f : Context → Context) : (modCtx s n f).kernels = s.kernels := rfl
@[simp] theorem modCtx_nextKernel (s : State) (n : Nat) (f : Context → Context) : (modCtx s n f).nextKernel = s.nextKernel := rfl
@[simp] theorem modCtx_barriers (s : State) (n : Nat) (f : Context → Context) : (modCtx s n f).barriers = s.barriers := rfl
@[simp] theorem modCtx_saved (s : State) (n : Nat) (f : Context → Context) : (modCtx s n f).saved = s.saved := rfl
@[simp] theorem modCtx_nextSaved (s : State) (n : Nat) (f : Context → Context) : (modCtx s n f).nextSaved = s.nextSaved := rfl
@[simp] theorem modCtx_dies (s : State) (n : Nat) (f : Context → Context) : (modCtx s n f).dies = s.dies := rfl
@[simp] theorem modCtx_skerries (s : State) (n : Nat) (f : Context → Context) : (modCtx s n f).skerries = s.skerries := rfl
@[simp] theorem modCtx_links (s : State) (n : Nat) (f : Context → Context) : (modCtx s n f).links = s.links := rfl
@[simp] theorem modCtx_apertures (s : State) (n : Nat) (f : Context → Context) : (modCtx s n f).apertures = s.apertures := rfl
@[simp] theorem modCtx_outgoing (s : State) (n : Nat) (f : Context → Context) : (modCtx s n f).outgoing = s.outgoing := rfl
@[simp] theorem modCtx_rma (s : State) (n : Nat) (f : Context → Context) : (modCtx s n f).rma = s.rma := rfl
@[simp] theorem modCtx_logging (s : State) (n : Nat) (f : Context → Context) : (modCtx s n f).logging = s.logging := rfl
@[simp] theorem modCtx_replies (s : State) (n : Nat) (f : Context → Context) : (modCtx s n f).replies = s.replies := rfl
@[simp] theorem modCtx_quads (s : State) (n : Nat) (f : Context → Context) : (modCtx s n f).quads = s.quads := rfl
@[simp] theorem modCtx_rails (s : State) (n : Nat) (f : Context → Context) : (modCtx s n f).rails = s.rails := rfl
@[simp] theorem modCtx_hbm (s : State) (n : Nat) (f : Context → Context) : (modCtx s n f).hbm = s.hbm := rfl
@[simp] theorem modCtx_partitions (s : State) (n : Nat) (f : Context → Context) : (modCtx s n f).partitions = s.partitions := rfl
@[simp] theorem modCtx_fw (s : State) (n : Nat) (f : Context → Context) : (modCtx s n f).fw = s.fw := rfl

/-! ## modStack -/

@[simp] theorem modStack_fresh (s : State) (d : Nat) (f : Stack → Stack) : (modStack s d f).fresh = s.fresh := rfl
@[simp] theorem modStack_agenda (s : State) (d : Nat) (f : Stack → Stack) : (modStack s d f).agenda = s.agenda := rfl
@[simp] theorem modStack_turn (s : State) (d : Nat) (f : Stack → Stack) : (modStack s d f).turn = s.turn := rfl
@[simp] theorem modStack_packed (s : State) (d : Nat) (f : Stack → Stack) : (modStack s d f).packed = s.packed := rfl
@[simp] theorem modStack_passed (s : State) (d : Nat) (f : Stack → Stack) : (modStack s d f).passed = s.passed := rfl
@[simp] theorem modStack_stamps (s : State) (d : Nat) (f : Stack → Stack) : (modStack s d f).stamps = s.stamps := rfl
@[simp] theorem modStack_opp (s : State) (d : Nat) (f : Stack → Stack) : (modStack s d f).opp = s.opp := rfl
@[simp] theorem modStack_now (s : State) (d : Nat) (f : Stack → Stack) : (modStack s d f).now = s.now := rfl
@[simp] theorem modStack_mem (s : State) (d : Nat) (f : Stack → Stack) : (modStack s d f).mem = s.mem := rfl
@[simp] theorem modStack_attached (s : State) (d : Nat) (f : Stack → Stack) : (modStack s d f).attached = s.attached := rfl
@[simp] theorem modStack_writes (s : State) (d : Nat) (f : Stack → Stack) : (modStack s d f).writes = s.writes := rfl
@[simp] theorem modStack_cores (s : State) (d : Nat) (f : Stack → Stack) : (modStack s d f).cores = s.cores := rfl
@[simp] theorem modStack_dieStacks (s : State) (d : Nat) (f : Stack → Stack) : (modStack s d f).dieStacks = mset s.dieStacks d (f (stackOf s d)) := rfl
@[simp] theorem modStack_ctxs (s : State) (d : Nat) (f : Stack → Stack) : (modStack s d f).ctxs = s.ctxs := rfl
@[simp] theorem modStack_queues (s : State) (d : Nat) (f : Stack → Stack) : (modStack s d f).queues = s.queues := rfl
@[simp] theorem modStack_kernels (s : State) (d : Nat) (f : Stack → Stack) : (modStack s d f).kernels = s.kernels := rfl
@[simp] theorem modStack_nextKernel (s : State) (d : Nat) (f : Stack → Stack) : (modStack s d f).nextKernel = s.nextKernel := rfl
@[simp] theorem modStack_barriers (s : State) (d : Nat) (f : Stack → Stack) : (modStack s d f).barriers = s.barriers := rfl
@[simp] theorem modStack_saved (s : State) (d : Nat) (f : Stack → Stack) : (modStack s d f).saved = s.saved := rfl
@[simp] theorem modStack_nextSaved (s : State) (d : Nat) (f : Stack → Stack) : (modStack s d f).nextSaved = s.nextSaved := rfl
@[simp] theorem modStack_dies (s : State) (d : Nat) (f : Stack → Stack) : (modStack s d f).dies = s.dies := rfl
@[simp] theorem modStack_skerries (s : State) (d : Nat) (f : Stack → Stack) : (modStack s d f).skerries = s.skerries := rfl
@[simp] theorem modStack_links (s : State) (d : Nat) (f : Stack → Stack) : (modStack s d f).links = s.links := rfl
@[simp] theorem modStack_apertures (s : State) (d : Nat) (f : Stack → Stack) : (modStack s d f).apertures = s.apertures := rfl
@[simp] theorem modStack_outgoing (s : State) (d : Nat) (f : Stack → Stack) : (modStack s d f).outgoing = s.outgoing := rfl
@[simp] theorem modStack_rma (s : State) (d : Nat) (f : Stack → Stack) : (modStack s d f).rma = s.rma := rfl
@[simp] theorem modStack_logging (s : State) (d : Nat) (f : Stack → Stack) : (modStack s d f).logging = s.logging := rfl
@[simp] theorem modStack_replies (s : State) (d : Nat) (f : Stack → Stack) : (modStack s d f).replies = s.replies := rfl
@[simp] theorem modStack_quads (s : State) (d : Nat) (f : Stack → Stack) : (modStack s d f).quads = s.quads := rfl
@[simp] theorem modStack_rails (s : State) (d : Nat) (f : Stack → Stack) : (modStack s d f).rails = s.rails := rfl
@[simp] theorem modStack_hbm (s : State) (d : Nat) (f : Stack → Stack) : (modStack s d f).hbm = s.hbm := rfl
@[simp] theorem modStack_partitions (s : State) (d : Nat) (f : Stack → Stack) : (modStack s d f).partitions = s.partitions := rfl
@[simp] theorem modStack_fw (s : State) (d : Nat) (f : Stack → Stack) : (modStack s d f).fw = s.fw := rfl

/-! ## modDie -/

@[simp] theorem modDie_fresh (s : State) (d : Nat) (f : Die → Die) : (modDie s d f).fresh = s.fresh := rfl
@[simp] theorem modDie_agenda (s : State) (d : Nat) (f : Die → Die) : (modDie s d f).agenda = s.agenda := rfl
@[simp] theorem modDie_turn (s : State) (d : Nat) (f : Die → Die) : (modDie s d f).turn = s.turn := rfl
@[simp] theorem modDie_packed (s : State) (d : Nat) (f : Die → Die) : (modDie s d f).packed = s.packed := rfl
@[simp] theorem modDie_passed (s : State) (d : Nat) (f : Die → Die) : (modDie s d f).passed = s.passed := rfl
@[simp] theorem modDie_stamps (s : State) (d : Nat) (f : Die → Die) : (modDie s d f).stamps = s.stamps := rfl
@[simp] theorem modDie_opp (s : State) (d : Nat) (f : Die → Die) : (modDie s d f).opp = s.opp := rfl
@[simp] theorem modDie_now (s : State) (d : Nat) (f : Die → Die) : (modDie s d f).now = s.now := rfl
@[simp] theorem modDie_mem (s : State) (d : Nat) (f : Die → Die) : (modDie s d f).mem = s.mem := rfl
@[simp] theorem modDie_attached (s : State) (d : Nat) (f : Die → Die) : (modDie s d f).attached = s.attached := rfl
@[simp] theorem modDie_writes (s : State) (d : Nat) (f : Die → Die) : (modDie s d f).writes = s.writes := rfl
@[simp] theorem modDie_cores (s : State) (d : Nat) (f : Die → Die) : (modDie s d f).cores = s.cores := rfl
@[simp] theorem modDie_dieStacks (s : State) (d : Nat) (f : Die → Die) : (modDie s d f).dieStacks = s.dieStacks := rfl
@[simp] theorem modDie_ctxs (s : State) (d : Nat) (f : Die → Die) : (modDie s d f).ctxs = s.ctxs := rfl
@[simp] theorem modDie_queues (s : State) (d : Nat) (f : Die → Die) : (modDie s d f).queues = s.queues := rfl
@[simp] theorem modDie_kernels (s : State) (d : Nat) (f : Die → Die) : (modDie s d f).kernels = s.kernels := rfl
@[simp] theorem modDie_nextKernel (s : State) (d : Nat) (f : Die → Die) : (modDie s d f).nextKernel = s.nextKernel := rfl
@[simp] theorem modDie_barriers (s : State) (d : Nat) (f : Die → Die) : (modDie s d f).barriers = s.barriers := rfl
@[simp] theorem modDie_saved (s : State) (d : Nat) (f : Die → Die) : (modDie s d f).saved = s.saved := rfl
@[simp] theorem modDie_nextSaved (s : State) (d : Nat) (f : Die → Die) : (modDie s d f).nextSaved = s.nextSaved := rfl
@[simp] theorem modDie_dies (s : State) (d : Nat) (f : Die → Die) : (modDie s d f).dies = mset s.dies d (f (dieRec s d)) := rfl
@[simp] theorem modDie_skerries (s : State) (d : Nat) (f : Die → Die) : (modDie s d f).skerries = s.skerries := rfl
@[simp] theorem modDie_links (s : State) (d : Nat) (f : Die → Die) : (modDie s d f).links = s.links := rfl
@[simp] theorem modDie_apertures (s : State) (d : Nat) (f : Die → Die) : (modDie s d f).apertures = s.apertures := rfl
@[simp] theorem modDie_outgoing (s : State) (d : Nat) (f : Die → Die) : (modDie s d f).outgoing = s.outgoing := rfl
@[simp] theorem modDie_rma (s : State) (d : Nat) (f : Die → Die) : (modDie s d f).rma = s.rma := rfl
@[simp] theorem modDie_logging (s : State) (d : Nat) (f : Die → Die) : (modDie s d f).logging = s.logging := rfl
@[simp] theorem modDie_replies (s : State) (d : Nat) (f : Die → Die) : (modDie s d f).replies = s.replies := rfl
@[simp] theorem modDie_quads (s : State) (d : Nat) (f : Die → Die) : (modDie s d f).quads = s.quads := rfl
@[simp] theorem modDie_rails (s : State) (d : Nat) (f : Die → Die) : (modDie s d f).rails = s.rails := rfl
@[simp] theorem modDie_hbm (s : State) (d : Nat) (f : Die → Die) : (modDie s d f).hbm = s.hbm := rfl
@[simp] theorem modDie_partitions (s : State) (d : Nat) (f : Die → Die) : (modDie s d f).partitions = s.partitions := rfl
@[simp] theorem modDie_fw (s : State) (d : Nat) (f : Die → Die) : (modDie s d f).fw = s.fw := rfl

/-! ## modQuad -/

@[simp] theorem modQuad_fresh (s : State) (q : Nat) (f : Quad → Quad) : (modQuad s q f).fresh = s.fresh := rfl
@[simp] theorem modQuad_agenda (s : State) (q : Nat) (f : Quad → Quad) : (modQuad s q f).agenda = s.agenda := rfl
@[simp] theorem modQuad_turn (s : State) (q : Nat) (f : Quad → Quad) : (modQuad s q f).turn = s.turn := rfl
@[simp] theorem modQuad_packed (s : State) (q : Nat) (f : Quad → Quad) : (modQuad s q f).packed = s.packed := rfl
@[simp] theorem modQuad_passed (s : State) (q : Nat) (f : Quad → Quad) : (modQuad s q f).passed = s.passed := rfl
@[simp] theorem modQuad_stamps (s : State) (q : Nat) (f : Quad → Quad) : (modQuad s q f).stamps = s.stamps := rfl
@[simp] theorem modQuad_opp (s : State) (q : Nat) (f : Quad → Quad) : (modQuad s q f).opp = s.opp := rfl
@[simp] theorem modQuad_now (s : State) (q : Nat) (f : Quad → Quad) : (modQuad s q f).now = s.now := rfl
@[simp] theorem modQuad_mem (s : State) (q : Nat) (f : Quad → Quad) : (modQuad s q f).mem = s.mem := rfl
@[simp] theorem modQuad_attached (s : State) (q : Nat) (f : Quad → Quad) : (modQuad s q f).attached = s.attached := rfl
@[simp] theorem modQuad_writes (s : State) (q : Nat) (f : Quad → Quad) : (modQuad s q f).writes = s.writes := rfl
@[simp] theorem modQuad_cores (s : State) (q : Nat) (f : Quad → Quad) : (modQuad s q f).cores = s.cores := rfl
@[simp] theorem modQuad_dieStacks (s : State) (q : Nat) (f : Quad → Quad) : (modQuad s q f).dieStacks = s.dieStacks := rfl
@[simp] theorem modQuad_ctxs (s : State) (q : Nat) (f : Quad → Quad) : (modQuad s q f).ctxs = s.ctxs := rfl
@[simp] theorem modQuad_queues (s : State) (q : Nat) (f : Quad → Quad) : (modQuad s q f).queues = s.queues := rfl
@[simp] theorem modQuad_kernels (s : State) (q : Nat) (f : Quad → Quad) : (modQuad s q f).kernels = s.kernels := rfl
@[simp] theorem modQuad_nextKernel (s : State) (q : Nat) (f : Quad → Quad) : (modQuad s q f).nextKernel = s.nextKernel := rfl
@[simp] theorem modQuad_barriers (s : State) (q : Nat) (f : Quad → Quad) : (modQuad s q f).barriers = s.barriers := rfl
@[simp] theorem modQuad_saved (s : State) (q : Nat) (f : Quad → Quad) : (modQuad s q f).saved = s.saved := rfl
@[simp] theorem modQuad_nextSaved (s : State) (q : Nat) (f : Quad → Quad) : (modQuad s q f).nextSaved = s.nextSaved := rfl
@[simp] theorem modQuad_dies (s : State) (q : Nat) (f : Quad → Quad) : (modQuad s q f).dies = s.dies := rfl
@[simp] theorem modQuad_skerries (s : State) (q : Nat) (f : Quad → Quad) : (modQuad s q f).skerries = s.skerries := rfl
@[simp] theorem modQuad_links (s : State) (q : Nat) (f : Quad → Quad) : (modQuad s q f).links = s.links := rfl
@[simp] theorem modQuad_apertures (s : State) (q : Nat) (f : Quad → Quad) : (modQuad s q f).apertures = s.apertures := rfl
@[simp] theorem modQuad_outgoing (s : State) (q : Nat) (f : Quad → Quad) : (modQuad s q f).outgoing = s.outgoing := rfl
@[simp] theorem modQuad_rma (s : State) (q : Nat) (f : Quad → Quad) : (modQuad s q f).rma = s.rma := rfl
@[simp] theorem modQuad_logging (s : State) (q : Nat) (f : Quad → Quad) : (modQuad s q f).logging = s.logging := rfl
@[simp] theorem modQuad_replies (s : State) (q : Nat) (f : Quad → Quad) : (modQuad s q f).replies = s.replies := rfl
@[simp] theorem modQuad_rails (s : State) (q : Nat) (f : Quad → Quad) : (modQuad s q f).rails = s.rails := rfl
@[simp] theorem modQuad_hbm (s : State) (q : Nat) (f : Quad → Quad) : (modQuad s q f).hbm = s.hbm := rfl
@[simp] theorem modQuad_partitions (s : State) (q : Nat) (f : Quad → Quad) : (modQuad s q f).partitions = s.partitions := rfl
@[simp] theorem modQuad_fw (s : State) (q : Nat) (f : Quad → Quad) : (modQuad s q f).fw = s.fw := rfl

/-! ## modLink -/

@[simp] theorem modLink_fresh (s : State) (id : Nat) (f : Link → Link) : (modLink s id f).fresh = s.fresh := rfl
@[simp] theorem modLink_agenda (s : State) (id : Nat) (f : Link → Link) : (modLink s id f).agenda = s.agenda := rfl
@[simp] theorem modLink_turn (s : State) (id : Nat) (f : Link → Link) : (modLink s id f).turn = s.turn := rfl
@[simp] theorem modLink_packed (s : State) (id : Nat) (f : Link → Link) : (modLink s id f).packed = s.packed := rfl
@[simp] theorem modLink_passed (s : State) (id : Nat) (f : Link → Link) : (modLink s id f).passed = s.passed := rfl
@[simp] theorem modLink_stamps (s : State) (id : Nat) (f : Link → Link) : (modLink s id f).stamps = s.stamps := rfl
@[simp] theorem modLink_opp (s : State) (id : Nat) (f : Link → Link) : (modLink s id f).opp = s.opp := rfl
@[simp] theorem modLink_now (s : State) (id : Nat) (f : Link → Link) : (modLink s id f).now = s.now := rfl
@[simp] theorem modLink_mem (s : State) (id : Nat) (f : Link → Link) : (modLink s id f).mem = s.mem := rfl
@[simp] theorem modLink_attached (s : State) (id : Nat) (f : Link → Link) : (modLink s id f).attached = s.attached := rfl
@[simp] theorem modLink_writes (s : State) (id : Nat) (f : Link → Link) : (modLink s id f).writes = s.writes := rfl
@[simp] theorem modLink_cores (s : State) (id : Nat) (f : Link → Link) : (modLink s id f).cores = s.cores := rfl
@[simp] theorem modLink_dieStacks (s : State) (id : Nat) (f : Link → Link) : (modLink s id f).dieStacks = s.dieStacks := rfl
@[simp] theorem modLink_ctxs (s : State) (id : Nat) (f : Link → Link) : (modLink s id f).ctxs = s.ctxs := rfl
@[simp] theorem modLink_queues (s : State) (id : Nat) (f : Link → Link) : (modLink s id f).queues = s.queues := rfl
@[simp] theorem modLink_kernels (s : State) (id : Nat) (f : Link → Link) : (modLink s id f).kernels = s.kernels := rfl
@[simp] theorem modLink_nextKernel (s : State) (id : Nat) (f : Link → Link) : (modLink s id f).nextKernel = s.nextKernel := rfl
@[simp] theorem modLink_barriers (s : State) (id : Nat) (f : Link → Link) : (modLink s id f).barriers = s.barriers := rfl
@[simp] theorem modLink_saved (s : State) (id : Nat) (f : Link → Link) : (modLink s id f).saved = s.saved := rfl
@[simp] theorem modLink_nextSaved (s : State) (id : Nat) (f : Link → Link) : (modLink s id f).nextSaved = s.nextSaved := rfl
@[simp] theorem modLink_dies (s : State) (id : Nat) (f : Link → Link) : (modLink s id f).dies = s.dies := rfl
@[simp] theorem modLink_skerries (s : State) (id : Nat) (f : Link → Link) : (modLink s id f).skerries = s.skerries := rfl
@[simp] theorem modLink_links (s : State) (id : Nat) (f : Link → Link) : (modLink s id f).links = mset s.links id (f (linkOf s id)) := rfl
@[simp] theorem modLink_apertures (s : State) (id : Nat) (f : Link → Link) : (modLink s id f).apertures = s.apertures := rfl
@[simp] theorem modLink_outgoing (s : State) (id : Nat) (f : Link → Link) : (modLink s id f).outgoing = s.outgoing := rfl
@[simp] theorem modLink_rma (s : State) (id : Nat) (f : Link → Link) : (modLink s id f).rma = s.rma := rfl
@[simp] theorem modLink_logging (s : State) (id : Nat) (f : Link → Link) : (modLink s id f).logging = s.logging := rfl
@[simp] theorem modLink_replies (s : State) (id : Nat) (f : Link → Link) : (modLink s id f).replies = s.replies := rfl
@[simp] theorem modLink_quads (s : State) (id : Nat) (f : Link → Link) : (modLink s id f).quads = s.quads := rfl
@[simp] theorem modLink_rails (s : State) (id : Nat) (f : Link → Link) : (modLink s id f).rails = s.rails := rfl
@[simp] theorem modLink_hbm (s : State) (id : Nat) (f : Link → Link) : (modLink s id f).hbm = s.hbm := rfl
@[simp] theorem modLink_partitions (s : State) (id : Nat) (f : Link → Link) : (modLink s id f).partitions = s.partitions := rfl
@[simp] theorem modLink_fw (s : State) (id : Nat) (f : Link → Link) : (modLink s id f).fw = s.fw := rfl

/-! ## modFw -/

@[simp] theorem modFw_fresh (s : State) (f : Firmware → Firmware) : (modFw s f).fresh = s.fresh := rfl
@[simp] theorem modFw_agenda (s : State) (f : Firmware → Firmware) : (modFw s f).agenda = s.agenda := rfl
@[simp] theorem modFw_turn (s : State) (f : Firmware → Firmware) : (modFw s f).turn = s.turn := rfl
@[simp] theorem modFw_packed (s : State) (f : Firmware → Firmware) : (modFw s f).packed = s.packed := rfl
@[simp] theorem modFw_passed (s : State) (f : Firmware → Firmware) : (modFw s f).passed = s.passed := rfl
@[simp] theorem modFw_stamps (s : State) (f : Firmware → Firmware) : (modFw s f).stamps = s.stamps := rfl
@[simp] theorem modFw_opp (s : State) (f : Firmware → Firmware) : (modFw s f).opp = s.opp := rfl
@[simp] theorem modFw_now (s : State) (f : Firmware → Firmware) : (modFw s f).now = s.now := rfl
@[simp] theorem modFw_mem (s : State) (f : Firmware → Firmware) : (modFw s f).mem = s.mem := rfl
@[simp] theorem modFw_attached (s : State) (f : Firmware → Firmware) : (modFw s f).attached = s.attached := rfl
@[simp] theorem modFw_writes (s : State) (f : Firmware → Firmware) : (modFw s f).writes = s.writes := rfl
@[simp] theorem modFw_cores (s : State) (f : Firmware → Firmware) : (modFw s f).cores = s.cores := rfl
@[simp] theorem modFw_dieStacks (s : State) (f : Firmware → Firmware) : (modFw s f).dieStacks = s.dieStacks := rfl
@[simp] theorem modFw_ctxs (s : State) (f : Firmware → Firmware) : (modFw s f).ctxs = s.ctxs := rfl
@[simp] theorem modFw_queues (s : State) (f : Firmware → Firmware) : (modFw s f).queues = s.queues := rfl
@[simp] theorem modFw_kernels (s : State) (f : Firmware → Firmware) : (modFw s f).kernels = s.kernels := rfl
@[simp] theorem modFw_nextKernel (s : State) (f : Firmware → Firmware) : (modFw s f).nextKernel = s.nextKernel := rfl
@[simp] theorem modFw_barriers (s : State) (f : Firmware → Firmware) : (modFw s f).barriers = s.barriers := rfl
@[simp] theorem modFw_saved (s : State) (f : Firmware → Firmware) : (modFw s f).saved = s.saved := rfl
@[simp] theorem modFw_nextSaved (s : State) (f : Firmware → Firmware) : (modFw s f).nextSaved = s.nextSaved := rfl
@[simp] theorem modFw_dies (s : State) (f : Firmware → Firmware) : (modFw s f).dies = s.dies := rfl
@[simp] theorem modFw_skerries (s : State) (f : Firmware → Firmware) : (modFw s f).skerries = s.skerries := rfl
@[simp] theorem modFw_links (s : State) (f : Firmware → Firmware) : (modFw s f).links = s.links := rfl
@[simp] theorem modFw_apertures (s : State) (f : Firmware → Firmware) : (modFw s f).apertures = s.apertures := rfl
@[simp] theorem modFw_outgoing (s : State) (f : Firmware → Firmware) : (modFw s f).outgoing = s.outgoing := rfl
@[simp] theorem modFw_rma (s : State) (f : Firmware → Firmware) : (modFw s f).rma = s.rma := rfl
@[simp] theorem modFw_logging (s : State) (f : Firmware → Firmware) : (modFw s f).logging = s.logging := rfl
@[simp] theorem modFw_replies (s : State) (f : Firmware → Firmware) : (modFw s f).replies = s.replies := rfl
@[simp] theorem modFw_quads (s : State) (f : Firmware → Firmware) : (modFw s f).quads = s.quads := rfl
@[simp] theorem modFw_rails (s : State) (f : Firmware → Firmware) : (modFw s f).rails = s.rails := rfl
@[simp] theorem modFw_hbm (s : State) (f : Firmware → Firmware) : (modFw s f).hbm = s.hbm := rfl
@[simp] theorem modFw_partitions (s : State) (f : Firmware → Firmware) : (modFw s f).partitions = s.partitions := rfl
@[simp] theorem modFw_fw (s : State) (f : Firmware → Firmware) : (modFw s f).fw = f s.fw := rfl

/-! ## epWrite -/

@[simp] theorem epWrite_fresh (s : State) (off : Nat) (bs : List Byte) : (epWrite s off bs).fresh = s.fresh := rfl
@[simp] theorem epWrite_agenda (s : State) (off : Nat) (bs : List Byte) : (epWrite s off bs).agenda = s.agenda := rfl
@[simp] theorem epWrite_turn (s : State) (off : Nat) (bs : List Byte) : (epWrite s off bs).turn = s.turn := rfl
@[simp] theorem epWrite_packed (s : State) (off : Nat) (bs : List Byte) : (epWrite s off bs).packed = s.packed := rfl
@[simp] theorem epWrite_passed (s : State) (off : Nat) (bs : List Byte) : (epWrite s off bs).passed = s.passed := rfl
@[simp] theorem epWrite_stamps (s : State) (off : Nat) (bs : List Byte) : (epWrite s off bs).stamps = s.stamps := rfl
@[simp] theorem epWrite_opp (s : State) (off : Nat) (bs : List Byte) : (epWrite s off bs).opp = s.opp := rfl
@[simp] theorem epWrite_now (s : State) (off : Nat) (bs : List Byte) : (epWrite s off bs).now = s.now := rfl
@[simp] theorem epWrite_mem (s : State) (off : Nat) (bs : List Byte) : (epWrite s off bs).mem = s.mem := rfl
@[simp] theorem epWrite_attached (s : State) (off : Nat) (bs : List Byte) : (epWrite s off bs).attached = s.attached := rfl
@[simp] theorem epWrite_writes (s : State) (off : Nat) (bs : List Byte) : (epWrite s off bs).writes = s.writes := rfl
@[simp] theorem epWrite_cores (s : State) (off : Nat) (bs : List Byte) : (epWrite s off bs).cores = s.cores := rfl
@[simp] theorem epWrite_dieStacks (s : State) (off : Nat) (bs : List Byte) : (epWrite s off bs).dieStacks = s.dieStacks := rfl
@[simp] theorem epWrite_ctxs (s : State) (off : Nat) (bs : List Byte) : (epWrite s off bs).ctxs = s.ctxs := rfl
@[simp] theorem epWrite_queues (s : State) (off : Nat) (bs : List Byte) : (epWrite s off bs).queues = s.queues := rfl
@[simp] theorem epWrite_kernels (s : State) (off : Nat) (bs : List Byte) : (epWrite s off bs).kernels = s.kernels := rfl
@[simp] theorem epWrite_nextKernel (s : State) (off : Nat) (bs : List Byte) : (epWrite s off bs).nextKernel = s.nextKernel := rfl
@[simp] theorem epWrite_barriers (s : State) (off : Nat) (bs : List Byte) : (epWrite s off bs).barriers = s.barriers := rfl
@[simp] theorem epWrite_saved (s : State) (off : Nat) (bs : List Byte) : (epWrite s off bs).saved = s.saved := rfl
@[simp] theorem epWrite_nextSaved (s : State) (off : Nat) (bs : List Byte) : (epWrite s off bs).nextSaved = s.nextSaved := rfl
@[simp] theorem epWrite_dies (s : State) (off : Nat) (bs : List Byte) : (epWrite s off bs).dies = s.dies := rfl
@[simp] theorem epWrite_skerries (s : State) (off : Nat) (bs : List Byte) : (epWrite s off bs).skerries = s.skerries := rfl
@[simp] theorem epWrite_links (s : State) (off : Nat) (bs : List Byte) : (epWrite s off bs).links = s.links := rfl
@[simp] theorem epWrite_apertures (s : State) (off : Nat) (bs : List Byte) : (epWrite s off bs).apertures = s.apertures := rfl
@[simp] theorem epWrite_outgoing (s : State) (off : Nat) (bs : List Byte) : (epWrite s off bs).outgoing = s.outgoing := rfl
@[simp] theorem epWrite_rma (s : State) (off : Nat) (bs : List Byte) : (epWrite s off bs).rma = s.rma := rfl
@[simp] theorem epWrite_logging (s : State) (off : Nat) (bs : List Byte) : (epWrite s off bs).logging = s.logging := rfl
@[simp] theorem epWrite_replies (s : State) (off : Nat) (bs : List Byte) : (epWrite s off bs).replies = s.replies := rfl
@[simp] theorem epWrite_quads (s : State) (off : Nat) (bs : List Byte) : (epWrite s off bs).quads = s.quads := rfl
@[simp] theorem epWrite_rails (s : State) (off : Nat) (bs : List Byte) : (epWrite s off bs).rails = s.rails := rfl
@[simp] theorem epWrite_hbm (s : State) (off : Nat) (bs : List Byte) : (epWrite s off bs).hbm = s.hbm := rfl
@[simp] theorem epWrite_partitions (s : State) (off : Nat) (bs : List Byte) : (epWrite s off bs).partitions = s.partitions := rfl

end Sys2Proof.Laws
end

