-- ==== Sys2Proof/Laws/Cores.lean ====
section
/-!
SUPPORT. Cores and groups after updates of the package.
-/
namespace Sys2Proof.Laws

open Sys2Proof Sys2Proof.Machine

/-! ## Cores -/

@[simp] theorem coreOf_setCore (s : State) (c : Nat) (k : Core) : coreOf (setCore s c k) c = k := by simp [coreOf]

theorem coreOf_setCore_other (s : State) (c d : Nat) (k : Core) (h : d ≠ c) : coreOf (setCore s c k) d = coreOf s d := by
  simp [coreOf, mget_mset_other _ _ _ _ _ h]

@[simp] theorem coreOf_modCore (s : State) (c : Nat) (f : Core → Core) : coreOf (modCore s c f) c = f (coreOf s c) := by
  simp [modCore]

theorem coreOf_modCore_other (s : State) (c d : Nat) (f : Core → Core) (h : d ≠ c) :
    coreOf (modCore s c f) d = coreOf s d := coreOf_setCore_other s c d _ h

@[simp] theorem setCore_setCore (s : State) (c : Nat) (k l : Core) : setCore (setCore s c k) c l = setCore s c l := by
  simp [setCore]

@[simp] theorem modCore_modCore (s : State) (c : Nat) (f g : Core → Core) :
    modCore (modCore s c f) c g = modCore s c (fun k => g (f k)) := by simp [modCore]

/-! ## Groups -/

@[simp] theorem groupOf_setGroup (s : State) (c g : Nat) (x : Group) : groupOf (setGroup s c g x) c g = some x := by
  simp [groupOf, setGroup]

theorem groupOf_setGroup_other (s : State) (c g h : Nat) (x : Group) (e : h ≠ g) :
    groupOf (setGroup s c g x) c h = groupOf s c h := by simp [groupOf, setGroup, mget?_mset_other _ _ _ _ e]

theorem groupOf_setGroup_core (s : State) (c d g h : Nat) (x : Group) (e : d ≠ c) :
    groupOf (setGroup s c g x) d h = groupOf s d h := by simp [groupOf, setGroup, coreOf_modCore_other _ _ _ _ e]

@[simp] theorem setGroup_setGroup (s : State) (c g : Nat) (x y : Group) :
    setGroup (setGroup s c g x) c g y = setGroup s c g y := by simp [setGroup]

theorem modGroup_some (s : State) (c g : Nat) (f : Group → Group) (x : Group) (h : groupOf s c g = some x) :
    modGroup s c g f = setGroup s c g (f x) := by simp [modGroup, h]

@[simp] theorem groupOf_modGroup (s : State) (c g : Nat) (f : Group → Group) :
    groupOf (modGroup s c g f) c g = (groupOf s c g).map f := by
  cases h : groupOf s c g with
  | none => simp [modGroup, h]
  | some x => simp [modGroup_some s c g f x h]

theorem modScalar_some (s : State) (c g : Nat) (f : Scalar → Scalar) (x : Group) (h : groupOf s c g = some x) :
    modScalar s c g f = setGroup s c g { x with sc := f x.sc } := by rw [modScalar, modGroup_some s c g _ x h]

theorem modLane_some (s : State) (c g : Nat) (f : Lane → Lane) (x : Group) (h : groupOf s c g = some x) :
    modLane s c g f = setGroup s c g { x with ln := f x.ln } := by rw [modLane, modGroup_some s c g _ x h]

/-- The other fields of a core after one of its groups is replaced. -/
theorem coreOf_setGroup (s : State) (c g : Nat) (x : Group) :
    coreOf (setGroup s c g x) c = { coreOf s c with groups := mset (coreOf s c).groups g x } := by simp [setGroup]

/-- The other fields of a core after one of its groups has changed. -/
theorem coreOf_modGroup (s : State) (c g : Nat) (f : Group → Group) :
    { coreOf (modGroup s c g f) c with groups := (coreOf s c).groups } = coreOf s c := by
  unfold modGroup
  split
  · rw [coreOf_setGroup]
  · rfl

end Sys2Proof.Laws
end

