-- ==== Sys2Proof/Laws/Writes.lean ====
section
/-!
SUPPORT. Writes of v and o names: what a name holds after them, and how many registers they take.
-/
namespace Sys2Proof.Laws

open Sys2Proof Sys2Proof.Machine Sys2Proof.Safety

/-- The word that a v or o name holds. -/
def word (l : Lane) (n lane : Nat) : Word := if isV n then vWord l n lane else oWord l n lane

/-! ## One quarter after another -/

theorem liveQuarters_lt {g : Group} {q : Nat} (h : q ∈ liveQuarters g) : q < 8 := by
  simp [liveQuarters, quartersOf] at h; exact h.1

theorem liveQuarters_nodup (g : Group) : (liveQuarters g).Nodup := by
  unfold liveQuarters quartersOf
  exact List.Pairwise.filter _ List.nodup_range

/-- One step of a write of a v name. -/
def putQuarter (n : Nat) (mask : Mask) (vals : List Word) (m : Map (List Word)) (q : Nat) : Map (List Word) :=
  mset m (n * 8 + q) (mergeQuarter (mget m (n * 8 + q) []) q mask vals)

theorem writeV_eq (g : Group) (n : Nat) (mask : Mask) (vals : List Word) :
    writeV g n mask vals = (liveQuarters g).foldl (putQuarter n mask vals) g.ln.regs := rfl

theorem fold_other (Q : List Nat) (n : Nat) (mask : Mask) (vals : List Word) (m : Map (List Word)) (k : Nat)
    (h : ∀ q ∈ Q, k ≠ n * 8 + q) : mget (Q.foldl (putQuarter n mask vals) m) k [] = mget m k [] := by
  induction Q generalizing m with
  | nil => rfl
  | cons q Q ih =>
    rw [List.foldl_cons, ih _ (fun x hx => h x (by simp [hx]))]
    exact mget_mset_other _ _ _ _ _ (h q (by simp))

theorem fold_same (Q : List Nat) (n : Nat) (mask : Mask) (vals : List Word) (m : Map (List Word)) (q : Nat)
    (hq : q ∈ Q) (hd : Q.Nodup) :
    mget (Q.foldl (putQuarter n mask vals) m) (n * 8 + q) [] = mergeQuarter (mget m (n * 8 + q) []) q mask vals := by
  induction Q generalizing m with
  | nil => simp at hq
  | cons p Q ih =>
    rw [List.foldl_cons]
    rw [List.nodup_cons] at hd
    by_cases hp : q = p
    · subst hp
      rw [fold_other _ _ _ _ _ _ (fun x hx => by have : x ≠ q := fun e => hd.1 (e ▸ hx); omega)]
      exact mget_mset_same _ _ _ _
    · rw [ih _ (by simpa [hp] using hq) hd.2]
      congr 1
      exact mget_mset_other _ _ _ _ _ (by omega)

theorem mergeQuarter_get (old : List Word) (q j : Nat) (mask : Mask) (vals : List Word) (hj : j < 8) :
    (mergeQuarter old q mask vals).getD j 0 =
      if mask.getLsbD (8 * q + j) then vals.getD (8 * q + j) 0 else old.getD j 0 := by
  simp [mergeQuarter, List.getD_eq_getElem?_getD, hj]

theorem vWord_writeV_other (g : Group) (n : Nat) (mask : Mask) (vals : List Word) (k lane : Nat) (hl : lane < 64)
    (h : n ≠ k ∨ mask.getLsbD lane = false) :
    vWord { g.ln with regs := writeV g n mask vals } k lane = vWord g.ln k lane := by
  simp only [vWord, writeV_eq]
  by_cases hk : ∃ q ∈ liveQuarters g, k * 8 + lane / 8 = n * 8 + q
  · obtain ⟨q, hq, he⟩ := hk
    have h8 := liveQuarters_lt hq
    have hkn : k = n := by omega
    have hql : q = lane / 8 := by omega
    subst hkn; subst hql
    rw [fold_same _ _ _ _ _ _ hq (liveQuarters_nodup g), mergeQuarter_get _ _ _ _ _ (by omega)]
    have hm : mask.getLsbD lane = false := by simpa using h
    have : 8 * (lane / 8) + lane % 8 = lane := by omega
    simp [this, hm]
  · have : ∀ q ∈ liveQuarters g, k * 8 + lane / 8 ≠ n * 8 + q := fun q hq he => hk ⟨q, hq, he⟩
    rw [fold_other _ _ _ _ _ _ this]

theorem vWord_writeV_same (g : Group) (n : Nat) (mask : Mask) (vals : List Word) (lane : Nat)
    (hq : lane / 8 ∈ liveQuarters g) (hm : mask.getLsbD lane = true) :
    vWord { g.ln with regs := writeV g n mask vals } n lane = vals.getD lane 0 := by
  simp only [vWord, writeV_eq]
  rw [fold_same _ _ _ _ _ _ hq (liveQuarters_nodup g), mergeQuarter_get _ _ _ _ _ (by omega)]
  have : 8 * (lane / 8) + lane % 8 = lane := by omega
  simp [this, hm]

theorem oWord_writeO (l : Lane) (n : Nat) (mask : Mask) (vals : List Word) (k lane : Nat) (hl : lane < 64)
    (hn : 128 ≤ n) (hk : 128 ≤ k) :
    oWord { l with ofile := writeO l n mask vals } k lane =
      if n = k ∧ mask.getLsbD lane = true then vals.getD lane 0 else oWord l k lane := by
  simp only [oWord, writeO]
  by_cases h : n = k
  · subst h
    rw [mget_mset_same]
    simp [List.getD_eq_getElem?_getD, hl]
  · rw [mget_mset_other _ _ _ _ _ (by omega)]
    simp [h]

/-! ## One write -/

/-- A write touches registers only. -/
theorem writeName_rest (s : State) (g : Group) (w : RegWrite) :
    ∃ r o, writeName s g w = { g with ln := { g.ln with regs := r, ofile := o } } := by
  unfold writeName
  simp only
  split
  · exact ⟨_, _, rfl⟩
  · split
    · exact ⟨_, _, rfl⟩
    · exact ⟨g.ln.regs, g.ln.ofile, rfl⟩

theorem settled_false {s : State} {l : Lane} {n : Nat} {m : Mask} {lane : Nat} (h : m.getLsbD lane = false) :
    (settled s l n m).getLsbD lane = false := by
  unfold settled; split <;> simp [h]

/-- A name that a write does not name, and a lane it does not write, keep their word. -/
theorem word_writeName_other (s : State) (g : Group) (w : RegWrite) (n lane : Nat) (hl : lane < 64)
    (hn : n < 136) (h : w.spec ≠ n ∨ w.mask.getLsbD lane = false) :
    word (writeName s g w).ln n lane = word g.ln n lane := by
  have h' : w.spec ≠ n ∨ (settled s g.ln w.spec w.mask).getLsbD lane = false := h.imp id settled_false
  unfold writeName
  simp only
  split
  · rename_i hv
    simp only [word]
    split
    · exact vWord_writeV_other g _ _ _ n lane hl h'
    · rfl
  · split
    · rename_i hv ho
      simp only [word]
      split
      · rfl
      · rename_i h1
        simp only [isV, isO, decide_eq_true_eq, Bool.and_eq_true] at ho h1
        rw [oWord_writeO g.ln w.spec _ _ n lane hl ho.1 (by omega)]
        split
        · rename_i h2; rcases h' with h' | h'
          · exact absurd h2.1 h'
          · simp [h'] at h2
        · rfl
    · rfl

/-- A lane that a write of a settled name writes holds the written word. -/
theorem word_writeName_same (s : State) (g : Group) (w : RegWrite) (lane : Nat) (hl : lane < 64)
    (hn : w.spec < 136) (hq : lane / 8 ∈ liveQuarters g) (hm : w.mask.getLsbD lane = true)
    (hs : landsAt g.ln w.spec ≤ g.ln.clock) : word (writeName s g w).ln w.spec lane = w.vals.getD lane 0 := by
  have h1 : settled s g.ln w.spec w.mask = w.mask := by unfold settled; rw [if_neg (by omega)]
  unfold writeName
  simp only [h1]
  split
  · rename_i hv
    simp only [word, hv, if_true]
    exact vWord_writeV_same g _ _ _ lane hq hm
  · rename_i hv
    have ho : isO w.spec = true := by simp [isV, isO] at *; omega
    simp only [word, ho, hv, if_true]
    simp only [isO, decide_eq_true_eq, Bool.and_eq_true] at ho
    rw [oWord_writeO g.ln w.spec _ _ w.spec lane hl ho.1 ho.1]
    simp [hm]

/-! ## Writes one after another -/

theorem writes_rest (s : State) (ws : List RegWrite) (g : Group) :
    ∃ r o, ws.foldl (writeName s) g = { g with ln := { g.ln with regs := r, ofile := o } } := by
  induction ws generalizing g with
  | nil => exact ⟨_, _, rfl⟩
  | cons w ws ih =>
    obtain ⟨r, o, h⟩ := writeName_rest s g w
    obtain ⟨r', o', h'⟩ := ih (writeName s g w)
    exact ⟨r', o', by rw [List.foldl_cons, h', h]⟩

theorem word_writes_other (s : State) (ws : List RegWrite) (g : Group) (n lane : Nat) (hl : lane < 64) (hn : n < 136)
    (h : ∀ w ∈ ws, w.spec ≠ n ∨ w.mask.getLsbD lane = false) :
    word (ws.foldl (writeName s) g).ln n lane = word g.ln n lane := by
  induction ws generalizing g with
  | nil => rfl
  | cons w ws ih =>
    rw [List.foldl_cons, ih _ (fun x hx => h x (by simp [hx])),
      word_writeName_other s g w n lane hl hn (h w (by simp))]

/-- A lane reads what the writes of a settled name give it, where they agree. -/
theorem word_writes_same (s : State) (ws : List RegWrite) (g : Group) (n lane : Nat) (v : Word) (hl : lane < 64)
    (hn : n < 136) (hq : lane / 8 ∈ liveQuarters g) (hs : landsAt g.ln n ≤ g.ln.clock)
    (he : ∃ w ∈ ws, w.spec = n ∧ w.mask.getLsbD lane = true)
    (ha : ∀ w ∈ ws, w.spec = n → w.mask.getLsbD lane = true → w.vals.getD lane 0 = v) :
    word (ws.foldl (writeName s) g).ln n lane = v := by
  induction ws generalizing g with
  | nil => simp at he
  | cons w ws ih =>
    rw [List.foldl_cons]
    obtain ⟨r, o, hr⟩ := writeName_rest s g w
    by_cases hx : ∃ w ∈ ws, w.spec = n ∧ w.mask.getLsbD lane = true
    · refine ih _ ?_ ?_ hx (fun x hx => ha x (by simp [hx]))
      · rw [hr]; exact hq
      · rw [hr]; exact hs
    · obtain ⟨x, hx1, hx2, hx3⟩ := he
      have hxw : x = w := by
        rcases List.mem_cons.mp hx1 with h | h
        · exact h
        · exact absurd ⟨x, h, hx2, hx3⟩ hx
      subst hxw
      rw [word_writes_other s ws _ n lane hl hn]
      · subst hx2
        rw [word_writeName_same s g x lane hl hn hq hx3 hs]
        exact ha x (by simp) rfl hx3
      · intro y hy
        by_cases hyn : y.spec = n
        · right
          cases hb : y.mask.getLsbD lane
          · rfl
          · exact absurd ⟨y, hy, hyn, hb⟩ hx
        · exact .inl hyn

/-! ## Registers taken (R167) -/

theorem length_writeV (g : Group) (n : Nat) (mask : Mask) (vals : List Word) :
    (writeV g n mask vals).length ≤ g.ln.regs.length + 8 := by
  have h1 : (liveQuarters g).length ≤ 8 := by
    have : (liveQuarters g).length ≤ (List.range 8).length := by
      unfold liveQuarters quartersOf; exact List.length_filter_le _ _
    simpa using this
  have h2 : ∀ (Q : List Nat) (m : Map (List Word)), (Q.foldl (putQuarter n mask vals) m).length ≤ m.length + Q.length := by
    intro Q
    induction Q with
    | nil => intro m; simp
    | cons q Q ih =>
      intro m
      rw [List.foldl_cons]
      have := ih (putQuarter n mask vals m q)
      have h3 : (putQuarter n mask vals m q).length ≤ m.length + 1 := length_mset _ _ _
      simp; omega
  have := h2 (liveQuarters g) g.ln.regs
  rw [writeV_eq]; omega

theorem length_writes (s : State) (ws : List RegWrite) (g : Group) :
    (ws.foldl (writeName s) g).ln.regs.length ≤ g.ln.regs.length + 8 * ws.length := by
  induction ws generalizing g with
  | nil => simp
  | cons w ws ih =>
    rw [List.foldl_cons]
    have h1 := ih (writeName s g w)
    have h2 : (writeName s g w).ln.regs.length ≤ g.ln.regs.length + 8 := by
      unfold writeName
      simp only
      split
      · exact length_writeV _ _ _ _
      · split <;> simp
    simp; omega

end Sys2Proof.Laws
end

