-- ==== Sys2Proof/Laws/Landing.lean ====
section
/-!
SUPPORT. What a lane instruction does that issues and completes: one lemma for its outcome, one for its results in
registers, one for what it leaves.
-/
namespace Sys2Proof.Laws

open Sys2Proof Sys2Proof.Machine Sys2Proof.Safety

/-! ## Issue -/

theorem iss_eq {i : Instr} {s : State} {e : Iss} (h : Ready i s e) :
    issOf s e.core e.slot e.g e.x = { e with pops := [] } := by
  cases e
  simp [issOf, h.lanes.symm, h.cas.symm] at *

/-- An instruction that issues, whose effect is `d` and finds its registers, completes. -/
theorem runLane_completes {i : Instr} {s : State} {e : Iss} {qs : List Queue} {d : Done}
    {body : Iss → State → Res Done} (h : Issues i s e qs) (hb : body e (issued s e qs) = .ok d)
    (hm : missing i e d = 0) : runLane i s body = .next (landed i e d) := by
  obtain ⟨fs, hfs, hx⟩ : ∃ fs, fieldsOf i = some fs ∧ settleFields e.g.ln.fmt fs = e.x := by
    have := h.fields; revert this; cases fieldsOf i <;> simp
  have h1 : skips { e with pops := [] } = false := h.takes
  have h2 : sfuFull s i { e with pops := [] } = false := h.sfu
  simp only [runLane, h.turn, h.group, hfs, hx, h.can, h.access, if_true, attemptLane, iss_eq h.toReady, h.waits,
    h.collector, h.plane, h2, List.head?_nil, h.checks, h.offset, andThen, effectLane, h1, h.pops]
  simp only [issued] at hb
  simp [hb, finishLane, hm]

/-- An instruction that issues and whose effect stops is stopped. -/
theorem runLane_stops {i : Instr} {s : State} {e : Iss} {qs : List Queue} {r : Stop}
    {body : Iss → State → Res Done} (h : Issues i s e qs) (hb : body e (issued s e qs) = .error r) :
    runLane i s body = .next (stopLane s e.core e.slot (opensRegion i) e.lanes r) := by
  obtain ⟨fs, hfs, hx⟩ : ∃ fs, fieldsOf i = some fs ∧ settleFields e.g.ln.fmt fs = e.x := by
    have := h.fields; revert this; cases fieldsOf i <;> simp
  have h1 : skips { e with pops := [] } = false := h.takes
  have h2 : sfuFull s i { e with pops := [] } = false := h.sfu
  simp only [runLane, h.turn, h.group, hfs, hx, h.can, h.access, if_true, attemptLane, iss_eq h.toReady, h.waits,
    h.collector, h.plane, h2, List.head?_nil, h.checks, h.offset, andThen, effectLane, h1, h.pops]
  simp only [issued] at hb
  simp [hb, ← h.lanes]

/-- The completion of an instruction, from its effect. -/
theorem completes_of {i : Instr} {s : State} {e : Iss} {qs : List Queue} {d : Done} {body : Iss → State → Res Done}
    (hx : exec i s = runLane i s body) (hb : Issues i s e qs → body e (issued s e qs) = .ok d) : Completes i s e qs d :=
  fun h hm => hx.trans (runLane_completes h (hb h) hm)

/-- The trap of an instruction, from its effect. -/
theorem traps_of {i : Instr} {s : State} {e : Iss} {qs : List Queue} {t : Trap} {body : Iss → State → Res Done}
    (hx : exec i s = runLane i s body) (hb : Issues i s e qs → body e (issued s e qs) = .error (.trap t)) :
    Traps i s e qs t := fun h => hx.trans (runLane_stops h (hb h))

/-! ## Scalar instructions -/

/-- A scalar instruction that may issue, from its effect. -/
theorem scalarCompletes_of {i : Instr} {x : ScalarFields} {s t : State} {core slot : Nat} {g : Group}
    {pc : Option (BitVec 48)} {body : Nat → Nat → Group → State → Res SDone} (hx : exec i s = runScalar x s body)
    (hb : body core slot g s = .ok (t, pc)) : ScalarCompletes i x s core slot g t pc := by
  intro h
  have h1 : ¬(isScalarAlu x = true ∧ stepsFull g = true) := by
    have := h.steps; simp at this; intro c; simp [this c.1] at c
  rw [hx]
  simp only [runScalar, h.turn, h.group, h.can, if_true, attemptScalar, h1, if_false, hb]

/-- A trap of a scalar instruction, from its effect. -/
theorem scalarTraps_of {i : Instr} {x : ScalarFields} {s : State} {core slot : Nat} {g : Group} {t : Trap}
    {body : Nat → Nat → Group → State → Res SDone} (hx : exec i s = runScalar x s body)
    (hb : body core slot g s = .error (.trap t)) : ScalarTraps i x s core slot g t := by
  intro h
  have h1 : ¬(isScalarAlu x = true ∧ stepsFull g = true) := by
    have := h.steps; simp at this; intro c; simp [this c.1] at c
  rw [hx]
  simp only [runScalar, h.turn, h.group, h.can, if_true, attemptScalar, h1, if_false, hb, stopScalar]

/-! ## The package in which an effect takes place -/

theorem coreOf_noteWaits (s : State) (core : Nat) (g : Group) (x : Fields) :
    { coreOf (noteWaits s core g x) core with fills := (coreOf s core).fills } = coreOf s core := by
  unfold noteWaits seeFills
  split
  · rfl
  · rw [coreOf_modCore]

theorem groupOf_noteWaits (s : State) (core : Nat) (g : Group) (x : Fields) (slot : Nat) :
    groupOf (noteWaits s core g x) core slot = groupOf s core slot := by
  unfold noteWaits seeFills
  split
  · rfl
  · simp [groupOf]

theorem noteWaits_cores (s : State) (core : Nat) (g : Group) (x : Fields) :
    { noteWaits s core g x with cores := s.cores } = s := by
  unfold noteWaits seeFills
  split <;> rfl

theorem issued_eq {s : State} {e : Iss} (qs : List Queue) (h : groupOf s e.core e.slot = some e.g) :
    issued s e qs = setGroup (noteWaits s e.core e.g e.x) e.core e.slot { e.g with qs := qs } := by
  rw [issued, modGroup_some _ _ _ _ e.g (by rw [groupOf_noteWaits, h])]

/-- The group of the instruction in the package in which its effect takes place. -/
theorem groupOf_issued {s : State} {e : Iss} (qs : List Queue) (h : groupOf s e.core e.slot = some e.g) :
    groupOf (issued s e qs) e.core e.slot = some { e.g with qs := qs } := by simp [issued_eq qs h]

/-- Its core there, but for its groups and fills. -/
theorem coreOf_issued {s : State} {e : Iss} (qs : List Queue) (h : groupOf s e.core e.slot = some e.g) :
    { coreOf (issued s e qs) e.core with groups := (coreOf s e.core).groups, fills := (coreOf s e.core).fills } =
      coreOf s e.core := by
  rw [issued_eq qs h, coreOf_setGroup]
  have := coreOf_noteWaits s e.core e.g e.x
  rw [← this]

@[simp] theorem fresh_issued (s : State) (e : Iss) (qs : List Queue) : (issued s e qs).fresh = s.fresh := by
  unfold issued noteWaits seeFills; split <;> simp

/-! ## Results in registers -/

theorem resolve_length (l : Lane) (w : RegWrite) : (resolveWrite l w).length ≤ 2 := by
  unfold resolveWrite
  split
  · simp only [List.length_map, meldNames]
    exact List.length_filter_le _ _
  · simp

theorem charge_le (g g' : Group) (n : Nat) (h : g'.ln.regs.length ≤ g.ln.regs.length + n)
    (he : g'.ln.exited = g.ln.exited) (hw : g'.wcode = g.wcode) (hf : g'.floor = g.floor)
    (hr : g'.ln.grant ≤ g.ln.grant) : charge g' ≤ charge g + n := by
  have : liveQuarters g' = liveQuarters g := by simp [liveQuarters, widthG, he, hw]
  simp only [charge, this, hf]
  omega

/-- A group after an instruction: its registers and files written, the names freed without their bank sets, the lane stream
moved on, new registers in the core's bank set. -/
theorem groupAfter_rest (i : Instr) (e : Iss) (d : Done) (g : Group) :
    ∃ r o, (writesNow e d).foldl (writeName d.st) { g with ln := freeNames g.ln (freedNow e d) } =
        { g with ln := { (freeNames g.ln (freedNow e d)) with regs := r, ofile := o } } ∧
      groupAfter i e d g =
        { g with
          ln := markSets (coreOf d.st e.core).bankSet
            (laneAfter d.st e i d { (freeNames g.ln (freedNow e d)) with regs := r, ofile := o }) } := by
  obtain ⟨r, o, h⟩ := writes_rest d.st (writesNow e d) { g with ln := freeNames g.ln (freedNow e d) }
  refine ⟨r, o, ?_, ?_⟩
  · rw [h]
  · simp only [groupAfter, h]

theorem length_groupAfter (i : Instr) (e : Iss) (d : Done) (g : Group) :
    (groupAfter i e d g).ln.regs.length ≤ g.ln.regs.length + 8 * (writesNow e d).length := by
  obtain ⟨r, o, h1, h2⟩ := groupAfter_rest i e d g
  have h3 := length_writes d.st (writesNow e d) { g with ln := freeNames g.ln (freedNow e d) }
  have h4 : (freeNames g.ln (freedNow e d)).regs.length ≤ g.ln.regs.length := List.length_filter_le _ _
  have h5 : (groupAfter i e d g).ln.regs = r := by rw [h2]; rfl
  rw [h1] at h3
  rw [h5]
  simp only at h3
  omega

theorem charge_groupAfter (i : Instr) (e : Iss) (d : Done) (g : Group) :
    charge (groupAfter i e d g) ≤ charge g + 8 * (writesNow e d).length := by
  obtain ⟨r, o, h1, h2⟩ := groupAfter_rest i e d g
  exact charge_le _ _ _ (length_groupAfter i e d g) (by rw [h2]; rfl) (by rw [h2]) (by rw [h2])
    (by rw [h2]; exact Nat.zero_le _)

/-- Enough registers are free for an instruction that writes at most `words` words. -/
theorem missing_zero {i : Instr} {s : State} {e : Iss} {qs : List Queue} {d : Done} {words : Nat}
    (hg : groupOf s e.core e.slot = some e.g) (hd : d.st = issued s e qs) (hr : Room s e words)
    (hw : (writesNow e d).length ≤ 2 * words) : missing i e d = 0 := by
  have hp : (coreOf (issued s e qs) e.core).pool = (coreOf s e.core).pool :=
    (congrArg Core.pool (coreOf_issued qs hg) : _)
  have h := charge_groupAfter i e d { e.g with qs := qs }
  unfold missing
  rw [hd, groupOf_issued qs hg]
  unfold Room at hr
  simp only [hp]
  generalize charge { e.g with qs := qs } = x at *
  generalize charge (groupAfter i e d { e.g with qs := qs }) = y at *
  omega

/-- An instruction that raises no enabled flag leaves its core with its group after it. -/
theorem landed_eq {i : Instr} {s : State} {e : Iss} {qs : List Queue} {d : Done}
    (hg : groupOf s e.core e.slot = some e.g) (hd : d.st = issued s e qs)
    (hf : d.pend.isNone = true → laneFp e.g.ln.fpc d.flags = none) :
    landed i e d = setCore (issued s e qs) e.core (coreAfter i e d (issued s e qs).opp { e.g with qs := qs } (coreOf (issued s e qs) e.core)) := by
  unfold landed
  rw [hd, groupOf_issued qs hg]
  simp only
  split
  · rfl
  · rename_i t ht
    split at ht
    · rename_i hp; rw [hf hp] at ht; cases ht
    · cases ht

theorem groupIn_landed {i : Instr} {s : State} {e : Iss} {qs : List Queue} {d : Done}
    (hg : groupOf s e.core e.slot = some e.g) (hd : d.st = issued s e qs)
    (hf : d.pend.isNone = true → laneFp e.g.ln.fpc d.flags = none) :
    groupIn (landed i e d) e (groupAfter i e d { e.g with qs := qs }) := by
  rw [groupIn, landed_eq hg hd hf, groupOf, coreOf_setCore, coreAfter]
  simp

end Sys2Proof.Laws
end

