-- ==== Sys2Proof/Laws/Frames.lean ====
section
/-!
SUPPORT. What a lane instruction leaves that writes only registers, and what its results' names then hold.
-/
namespace Sys2Proof.Laws

open Sys2Proof Sys2Proof.Machine Sys2Proof.Safety

/-! ## Names freed -/

theorem mget?_filter {α : Type} (m : Map α) (p : Nat × α → Bool) (k : Nat) (h : ∀ x, p (k, x) = true) :
    mget? (m.filter p) k = mget? m k := by
  induction m with
  | nil => rfl
  | cons a m ih =>
    obtain ⟨j, x⟩ := a
    rw [List.filter_cons]
    split
    · simp only [mget?, ih]
    · rename_i hp
      have : j ≠ k := by intro e; subst e; exact hp (h x)
      simp only [mget?, this, if_false, ih]

theorem word_freeNames (l : Lane) (ns : List Nat) (n lane : Nat) (hl : lane < 64) (h : n ∉ ns) :
    word (freeNames l ns) n lane = word l n lane := by
  have hk : (n * 8 + lane / 8) / 8 = n := by omega
  unfold word vWord oWord freeNames
  simp only [mget]
  rw [mget?_filter _ _ _ (by intro x; simp [hk, h])]

theorem freedNow_sub (e : Iss) (d : Done) (n : Nat) (h : n ∈ freedNow e d) : declaredLast e n := by
  unfold freedNow at h
  split at h
  · exact h
  · exact (List.mem_filter.mp h).1

/-! ## Names written -/

theorem onPath_bit (l : Lane) (b : Bool) (lane : Nat) (hl : lane < 64) :
    (onPath l b).getLsbD lane = decide ((l.path.getD 0).getLsbD lane = b) := by
  unfold onPath
  generalize l.path.getD 0 = m
  cases b
  · simp only [Bool.false_eq_true, if_false, BitVec.getLsbD_not, hl, decide_true, Bool.true_and]
    cases m.getLsbD lane <;> rfl
  · simp only [if_true]
    cases m.getLsbD lane <;> rfl

theorem meldNames_mem {l : Lane} {n : Nat} {p : Bool × Nat} (h : p ∈ meldNames l n) :
    onPath l p.1 &&& l.em ≠ 0 ∧ p.2 = (meldTable l p.1).getD (n - 188) 0 := by
  unfold meldNames at h
  obtain ⟨b, hb, rfl⟩ := List.mem_map.mp h
  obtain ⟨-, hb⟩ := List.mem_filter.mp hb
  exact ⟨of_decide_eq_true hb, rfl⟩

/-- A resolved write names what its specifier stands for in some lane, and writes no other lanes. -/
theorem resolve_mem {l : Lane} {w x : RegWrite} (h : x ∈ resolveWrite l w) :
    (∃ lane, x.spec = laneName l w.spec lane) ∧ (∀ j, w.mask.getLsbD j = false → x.mask.getLsbD j = false) := by
  unfold resolveWrite at h
  split at h
  · rename_i hm
    obtain ⟨p, hp, rfl⟩ := List.mem_map.mp h
    refine ⟨?_, by intro j hj; simp [hj]⟩
    obtain ⟨hne, hp2⟩ := meldNames_mem hp
    have : ∃ j, j < 64 ∧ (onPath l p.1).getLsbD j = true := by
      refine Classical.byContradiction (fun hc => hne ?_)
      apply BitVec.eq_of_getLsbD_eq
      intro j hj
      have : (onPath l p.1).getLsbD j = false := by
        cases h : (onPath l p.1).getLsbD j
        · rfl
        · exact absurd ⟨j, hj, h⟩ hc
      simp [this]
    obtain ⟨j, hj, hb⟩ := this
    rw [onPath_bit _ _ _ hj] at hb
    refine ⟨j, ?_⟩
    rw [laneName, if_pos hm, of_decide_eq_true hb]
    exact hp2
  · simp only [List.mem_singleton] at h
    subst h
    rename_i hm
    exact ⟨⟨0, by rw [laneName, if_neg hm]⟩, fun j hj => hj⟩

/-- The write of a lane's path, where the lane is active. -/
theorem resolve_has {l : Lane} {w : RegWrite} {lane : Nat} (hl : lane < 64) (hm : w.mask.getLsbD lane = true)
    (he : l.em.getLsbD lane = true) :
    ∃ x ∈ resolveWrite l w, x.spec = laneName l w.spec lane ∧ x.mask.getLsbD lane = true ∧ x.vals = w.vals := by
  unfold resolveWrite
  by_cases h : isM w.spec = true
  · have hb : (onPath l ((l.path.getD 0).getLsbD lane)).getLsbD lane = true := by
      rw [onPath_bit _ _ _ hl]; exact decide_eq_true rfl
    rw [if_pos h]
    refine ⟨_, List.mem_map.mpr ⟨((l.path.getD 0).getLsbD lane,
      (meldTable l ((l.path.getD 0).getLsbD lane)).getD (w.spec - 188) 0), ?_, rfl⟩, ?_, ?_, rfl⟩
    · unfold meldNames
      refine List.mem_map.mpr ⟨(l.path.getD 0).getLsbD lane, List.mem_filter.mpr ⟨?_, decide_eq_true ?_⟩, rfl⟩
      · cases (l.path.getD 0).getLsbD lane <;> simp
      · intro h0
        have : (onPath l ((l.path.getD 0).getLsbD lane) &&& l.em).getLsbD lane = true := by
          rw [BitVec.getLsbD_and, hb, he]; rfl
        rw [h0] at this; simp at this
    · simp only [laneName, if_pos h]
    · simp only [BitVec.getLsbD_and, hb, hm, Bool.and_self]
  · rw [if_neg h]
    exact ⟨w, by simp, by rw [laneName, if_neg h], hm, rfl⟩

/-- A write of a lane's path that writes that lane names what the specifier stands for there. -/
theorem resolve_lane {l : Lane} {w x : RegWrite} {lane : Nat} (hl : lane < 64) (h : x ∈ resolveWrite l w)
    (hx : x.mask.getLsbD lane = true) : x.spec = laneName l w.spec lane ∧ x.vals = w.vals := by
  unfold resolveWrite at h
  split at h
  · rename_i hm
    obtain ⟨p, hp, rfl⟩ := List.mem_map.mp h
    obtain ⟨-, hp2⟩ := meldNames_mem hp
    simp only [BitVec.getLsbD_and, Bool.and_eq_true, onPath_bit _ _ _ hl, decide_eq_true_eq] at hx
    refine ⟨?_, rfl⟩
    rw [laneName, if_pos hm, hx.2]
    exact hp2
  · rename_i hm
    simp only [List.mem_singleton] at h
    subst h
    exact ⟨by rw [laneName, if_neg hm], rfl⟩

/-! ## Effects that write registers -/

/-- An effect of fixed latency on registers that raises no enabled flag. -/
structure Plain (s : State) (e : Iss) (qs : List Queue) (d : Done) : Prop where
  st : d.st = issued s e qs
  pend : d.pend = none
  quiet : laneFp e.g.ln.fpc d.flags = none

theorem writesNow_mem {e : Iss} {d : Done} {x : RegWrite} (h : x ∈ writesNow e d) :
    ∃ w ∈ d.writes, x ∈ resolveWrite e.g.ln w := by
  unfold writesNow at h
  obtain ⟨l, hl, hx⟩ := List.mem_flatten.mp h
  obtain ⟨w, hw, rfl⟩ := List.mem_map.mp hl
  exact ⟨w, hw, hx⟩

/-- The frame of such an effect. -/
theorem frame_landed {i : Instr} {s : State} {e : Iss} {qs : List Queue} {d : Done} {names : Nat → Prop}
    (hg : groupOf s e.core e.slot = some e.g) (hd : Plain s e qs d)
    (hw : ∀ w ∈ d.writes, (∀ lane, names (laneName e.g.ln w.spec lane)) ∧
      ∀ j, e.lanes.getLsbD j = false → w.mask.getLsbD j = false) :
    LaneFrame s (landed i e d) e names := by
  have hf : d.pend.isNone = true → laneFp e.g.ln.fpc d.flags = none := fun _ => hd.quiet
  have hgi := groupIn_landed (i := i) hg hd.st hf
  have hgt : ∀ g, groupIn (landed i e d) e g → g = groupAfter i e d { e.g with qs := qs } := by
    intro g h
    unfold groupIn at h hgi
    rw [hgi] at h
    exact (Option.some.inj h).symm
  obtain ⟨r, o, h1, h2⟩ := groupAfter_rest i e d { e.g with qs := qs }
  have hl := landed_eq (i := i) hg hd.st hf
  refine ⟨?_, ?_, ?_, ?_, ?_, ?_, ?_⟩
  · rw [hl, issued_eq qs hg]
    have := noteWaits_cores s e.core e.g e.x
    simpa [setCore, setGroup, modCore] using this
  · intro c hc
    rw [hl, coreOf_setCore_other _ _ _ _ hc, issued_eq qs hg, setGroup, coreOf_modCore_other _ _ _ _ hc]
    unfold noteWaits seeFills
    split
    · rfl
    · rw [coreOf_modCore_other _ _ _ _ hc]
  · intro slot hs
    rw [hl, groupOf, coreOf_setCore, coreAfter]
    simp only
    rw [mget?_mset_other _ _ _ _ hs]
    have := groupOf_setGroup_other (noteWaits s e.core e.g e.x) e.core e.slot slot { e.g with qs := qs } hs
    rw [groupOf_noteWaits, ← issued_eq qs hg] at this
    exact this
  · rw [hl, coreOf_setCore, coreAfter]
    simp only
    have := coreOf_issued qs hg
    rw [← this]
  · intro g h
    rw [hgt g h, h2]
  · intro g h
    rw [hgt g h, h2]
    simp only [laneAfter, markSets, freeNames]
  · intro g h n lane hl hn hlast
    have hwd : isV n = true ∨ isO n = true → word g.ln n lane = word e.g.ln n lane := by
      intro hvo
      have hn136 : n < 136 := by simp [isV, isO] at hvo; omega
      have h3 : word g.ln n lane = word (groupAfter i e d { e.g with qs := qs }).ln n lane := by rw [hgt g h]
      rw [h3, h2]
      have h4 : ∀ (b : Bool) (L : Lane), word (markSets b (laneAfter d.st e i d L)) n lane = word L n lane := by
        intro b L; unfold word vWord oWord markSets laneAfter; rfl
      simp only
      rw [h4]
      have h5 := word_writes_other d.st (writesNow e d)
        { ({ e.g with qs := qs } : Group) with ln := freeNames e.g.ln (freedNow e d) } n lane hl hn136 (by
          intro w hwm
          obtain ⟨w', hw', hx⟩ := writesNow_mem hwm
          obtain ⟨hna, hma⟩ := hw w' hw'
          obtain ⟨⟨j, hj⟩, hmk⟩ := resolve_mem hx
          rcases hn with hn | hn
          · left; intro he; exact hn (he ▸ hj ▸ hna j)
          · right; exact hmk _ (hma _ hn))
      rw [h1] at h5
      simp only at h5
      rw [h5]
      exact word_freeNames _ _ _ _ hl (fun hc => hlast (freedNow_sub e d n hc))
    constructor
    · intro hv; have := hwd (.inl hv); simpa [word, hv] using this
    · intro ho
      have hv : isV n = false := by simp [isV, isO] at *; omega
      have := hwd (.inr ho); simpa [word, hv] using this

/-- The lane stream after it. -/
theorem goesOn_landed {i : Instr} {s : State} {e : Iss} {qs : List Queue} {d : Done} (hd : Plain s e qs d)
    (hp : d.preds = []) (hf : d.flow = .fall) :
    GoesOn i e (groupAfter i e d { e.g with qs := qs }) d.flags d.steps := by
  obtain ⟨r, o, h1, h2⟩ := groupAfter_rest i e d { e.g with qs := qs }
  rw [h2]
  refine ⟨?_, ?_, ?_, ?_, ?_⟩ <;> simp [laneAfter, pcAfter, markSets, freeNames, hd.pend, hp, hf, writePreds]

theorem getD_range {α : Type} (f : Nat → α) (n k : Nat) (d : α) (h : k < n) :
    ((List.range n).map f).getD k d = f k := by simp [List.getD_eq_getElem?_getD, h]

/-- A name written once in a lane holds the value. -/
theorem word_landed {i : Instr} {e : Iss} {qs : List Queue} {d : Done} {w : RegWrite} {lane : Nat}
    (hw : w ∈ d.writes) (hm : w.mask.getLsbD lane = true) (he : e.g.ln.em.getLsbD lane = true) (hc : counts e lane)
    (hn : laneName e.g.ln w.spec lane < 136) (hq : landsAt e.g.ln (laneName e.g.ln w.spec lane) ≤ e.g.ln.clock)
    (hl : lane < 64)
    (ha : ∀ x ∈ d.writes, x.mask.getLsbD lane = true → laneName e.g.ln x.spec lane = laneName e.g.ln w.spec lane →
      x.vals.getD lane 0 = w.vals.getD lane 0) :
    nameWord e (groupAfter i e d { e.g with qs := qs }) w.spec lane = w.vals.getD lane 0 := by
  obtain ⟨r, o, h1, h2⟩ := groupAfter_rest i e d { e.g with qs := qs }
  have h4 : ∀ (b : Bool) (L : Lane), ∀ n, word (markSets b (laneAfter d.st e i d L)) n lane = word L n lane := by
    intro b L n; unfold word vWord oWord markSets laneAfter; rfl
  have h6 : nameWord e (groupAfter i e d { e.g with qs := qs }) w.spec lane =
      word (groupAfter i e d { e.g with qs := qs }).ln (laneName e.g.ln w.spec lane) lane := rfl
  rw [h6, h2]
  simp only
  rw [h4]
  have h5 := word_writes_same d.st (writesNow e d)
    { ({ e.g with qs := qs } : Group) with ln := freeNames e.g.ln (freedNow e d) } (laneName e.g.ln w.spec lane) lane
    (w.vals.getD lane 0) hl hn hc.2 hq
    (by
      obtain ⟨x, hx, h7, h8, -⟩ := resolve_has (l := e.g.ln) hl hm he
      refine ⟨x, ?_, h7, h8⟩
      unfold writesNow
      simp only [List.mem_flatten, List.mem_map]
      exact ⟨_, ⟨w, hw, rfl⟩, hx⟩)
    (by
      intro x hx hxn hxm
      obtain ⟨w', hw', hx'⟩ := writesNow_mem hx
      obtain ⟨h7, h8⟩ := resolve_lane hl hx' hxm
      rw [h8]
      refine ha w' hw' ?_ (h7 ▸ hxn)
      cases hb : w'.mask.getLsbD lane
      · have := (resolve_mem hx').2 lane hb; rw [this] at hxm; cases hxm
      · rfl)
  rw [h1] at h5
  exact h5

theorem taking_em {s : State} {l : Lane} {x : Fields} {lane : Nat} (h : (takingPart s l x).getLsbD lane = true) :
    l.em.getLsbD lane = true := by
  unfold takingPart at h
  split at h
  · exact h
  · simp at h; exact h.1

theorem wrote32_landed {i : Instr} {s : State} {e : Iss} {qs : List Queue} {d : Done} {dst : Nat} {f : Nat → Nat}
    (hr : Ready i s e) (hw : d.writes = write32 dst e.lanes f) (hq : Quiet e dst) :
    Wrote32 e (groupAfter i e d { e.g with qs := qs }) dst (fun lane => BitVec.ofNat 32 (f lane)) := by
  intro lane hc hn
  have hl : lane < 64 := BitVec.lt_of_getLsbD hc.1
  have he : e.g.ln.em.getLsbD lane = true := taking_em (hr.lanes ▸ hc.1)
  have := word_landed (i := i) (qs := qs) (d := d) (w := ⟨dst, e.lanes, laneVals f⟩) (lane := lane) (by rw [hw]; simp [write32])
    hc.1 he hc hn (hq lane hc) hl (by rw [hw]; simp [write32])
  rw [this]
  simp only [laneVals]
  rw [getD_range _ _ _ _ hl]

theorem wrote64_landed {i : Instr} {s : State} {e : Iss} {qs : List Queue} {d : Done} {dst : Nat} {f : Nat → Nat}
    (hr : Ready i s e) (hw : d.writes = write64 dst e.lanes f) (hq : Quiet e dst) (hq2 : Quiet e (dst + 1))
    (hd : dst ≠ 153) :
    Wrote64 e (groupAfter i e d { e.g with qs := qs }) dst (fun lane => BitVec.ofNat 64 (f lane)) := by
  intro lane hc hn1 hn2
  have hl : lane < 64 := BitVec.lt_of_getLsbD hc.1
  have he : e.g.ln.em.getLsbD lane = true := taking_em (hr.lanes ▸ hc.1)
  have hv1 : ((List.range 64).map f |>.map (BitVec.ofNat 32)).getD lane 0 = BitVec.ofNat 32 (f lane) := by
    rw [List.map_map, getD_range _ _ _ _ hl]; rfl
  have hv2 : ((List.range 64).map f |>.map (fun v => BitVec.ofNat 32 (v / 2 ^ 32))).getD lane 0 =
      BitVec.ofNat 32 (f lane / 2 ^ 32) := by
    rw [List.map_map, getD_range _ _ _ _ hl]; rfl
  constructor
  · have := word_landed (i := i) (qs := qs) (d := d) (w := ⟨dst, e.lanes, ((List.range 64).map f).map (BitVec.ofNat 32)⟩)
      (lane := lane) (by rw [hw]; simp [write64]) hc.1 he hc (by simp only; omega) (hq lane hc) hl (by
        rw [hw]; simp only [write64, hd, if_false]; intro x hx _ hxn
        simp only [List.mem_cons, List.not_mem_nil, or_false] at hx
        rcases hx with rfl | rfl
        · rfl
        · simp only at hxn; omega)
    rw [this, hv1]
    apply BitVec.eq_of_toNat_eq
    simp
  · have := word_landed (i := i) (qs := qs) (d := d)
      (w := ⟨dst + 1, e.lanes, ((List.range 64).map f).map (fun v => BitVec.ofNat 32 (v / 2 ^ 32))⟩)
      (lane := lane) (by rw [hw]; simp [write64, hd]) hc.1 he hc (by simp only; omega) (hq2 lane hc) hl (by
        rw [hw]; simp only [write64, hd, if_false]; intro x hx _ hxn
        simp only [List.mem_cons, List.not_mem_nil, or_false] at hx
        rcases hx with rfl | rfl
        · simp only at hxn; omega
        · rfl)
    rw [this, hv2]
    apply BitVec.eq_of_toNat_eq
    simp only [BitVec.toNat_ofNat, BitVec.toNat_setWidth, BitVec.toNat_ushiftRight, Nat.shiftRight_eq_div_pow]
    omega

/-! ## Instructions that write registers or predicates at a fixed latency -/

theorem writesNow_two {e : Iss} {d : Done} {n : Nat} (h : d.writes.length ≤ n) : (writesNow e d).length ≤ 2 * n := by
  unfold writesNow
  generalize hws : d.writes = ws at h
  clear hws
  induction ws generalizing n with
  | nil => simp
  | cons w ws ih =>
    have h1 := resolve_length e.g.ln w
    have h2 := @ih (n - 1) (by simp at h; omega)
    simp at h ⊢
    simp at h2
    omega

/-- An instruction whose effect writes one word to each lane taking part. -/
theorem puts32 {i : Instr} {s : State} {e : Iss} {qs : List Queue} {body : Iss → State → Res Done} {d : Done} {dst : Nat}
    {val : Nat → Word} {f : Nat → Nat} (hx : exec i s = runLane i s body)
    (hb : Issues i s e qs → body e (issued s e qs) = .ok d)
    (hs : d.st = issued s e qs) (hpd : d.pend = none) (hw : d.writes = write32 dst e.lanes f) (hp : d.preds = [])
    (hf : d.flow = .fall) (hv : ∀ lane, lane < 64 → BitVec.ofNat 32 (f lane) = val lane) :
    Puts32 i s e qs dst val d.flags d.steps := by
  intro h hq hr hl
  have hd : Plain s e qs d := ⟨hs, hpd, hl⟩
  have hm : missing i e d = 0 := missing_zero h.group hs hr (writesNow_two (by rw [hw]; simp [write32]))
  refine ⟨landed i e d, groupAfter i e d { e.g with qs := qs }, ?_, groupIn_landed h.group hs (fun _ => hl), ?_, ?_,
    goesOn_landed hd hp hf⟩
  · rw [hx, runLane_completes h (hb h) hm]
  · intro lane hc hn
    exact (wrote32_landed h.toReady hw hq lane hc hn).trans (hv lane (BitVec.lt_of_getLsbD hc.1))
  · refine frame_landed h.group hd ?_
    intro w hwm
    rw [hw] at hwm
    simp only [write32, List.mem_singleton] at hwm
    subst hwm
    exact ⟨fun lane => ⟨lane, 0, by decide, rfl⟩, fun j hj => hj⟩

/-- An instruction whose effect writes two words to each lane taking part. -/
theorem puts64 {i : Instr} {s : State} {e : Iss} {qs : List Queue} {body : Iss → State → Res Done} {d : Done} {dst : Nat}
    {val : Nat → DWord} {f : Nat → Nat} (hx : exec i s = runLane i s body)
    (hb : Issues i s e qs → body e (issued s e qs) = .ok d)
    (hs : d.st = issued s e qs) (hpd : d.pend = none) (hw : d.writes = write64 dst e.lanes f) (hp : d.preds = [])
    (hf : d.flow = .fall) (hv : ∀ lane, lane < 64 → BitVec.ofNat 64 (f lane) = val lane) :
    Puts64 i s e qs dst val d.flags d.steps := by
  intro h hq hq2 hr hl
  have hd : Plain s e qs d := ⟨hs, hpd, hl⟩
  have hm : missing i e d = 0 := missing_zero h.group hs hr (writesNow_two (by rw [hw]; simp [write64]))
  refine ⟨landed i e d, groupAfter i e d { e.g with qs := qs }, ?_, groupIn_landed h.group hs (fun _ => hl), ?_, ?_,
    goesOn_landed hd hp hf⟩
  · rw [hx, runLane_completes h (hb h) hm]
  · intro hne lane hc hn1 hn2
    have := wrote64_landed (i := i) (qs := qs) h.toReady hw hq hq2 hne lane hc hn1 hn2
    simp only [hv lane (BitVec.lt_of_getLsbD hc.1)] at this
    exact this
  · refine frame_landed h.group hd ?_
    intro w hwm
    rw [hw] at hwm
    simp only [write64, List.mem_cons, List.not_mem_nil, or_false] at hwm
    rcases hwm with rfl | rfl
    · exact ⟨fun lane => ⟨lane, 0, by decide, rfl⟩, fun j hj => hj⟩
    · refine ⟨fun lane => ?_, fun j hj => hj⟩
      simp only
      split
      · rename_i h153; subst h153; exact ⟨lane, 0, by decide, rfl⟩
      · exact ⟨lane, 1, by decide, rfl⟩

theorem lset_getD {α : Type} (d : α) (l : List α) (n k : Nat) (x : α) :
    (lset d l n x).getD k d = if k = n then x else l.getD k d := by
  induction l generalizing n k with
  | nil =>
    induction n generalizing k with
    | zero => cases k <;> simp [lset]
    | succ n ih => cases k <;> simp [lset]; simpa using ih _
  | cons a l ih =>
    cases n with
    | zero => cases k <;> simp [lset]
    | succ n => cases k <;> simp [lset]; simpa using ih _ _

/-- Predicate writes with nothing older on its way. -/
theorem writePreds_get (s : State) (l : Lane) (ps : List (Nat × Mask × Mask)) (p lane : Nat)
    (hq : ∀ x ∈ ps, landsAt l (predName x.1) ≤ l.clock) (acc : List Mask) :
    ((ps.foldl (fun acc x =>
      if x.1 = 7 then acc
      else
        let m := settled s l (predName x.1) x.2.1
        lset 0 acc x.1 ((acc.getD x.1 0 &&& ~~~ m) ||| (x.2.2 &&& m))) acc).getD p 0).getLsbD lane =
      ps.foldl (fun b x => if x.1 = p ∧ p ≠ 7 ∧ x.2.1.getLsbD lane = true then x.2.2.getLsbD lane else b)
        ((acc.getD p 0).getLsbD lane) := by
  induction ps generalizing acc with
  | nil => rfl
  | cons x ps ih =>
    rw [List.foldl_cons, List.foldl_cons, ih (fun y hy => hq y (by simp [hy]))]
    congr 1
    have h1 : settled s l (predName x.1) x.2.1 = x.2.1 := by
      unfold settled; rw [if_neg (by have := hq x (by simp); omega)]
    simp only [h1]
    by_cases h7 : x.1 = 7
    · rw [if_pos h7]
      have : ¬ (x.1 = p ∧ p ≠ 7 ∧ x.2.1.getLsbD lane = true) := by omega
      rw [if_neg this]
    · rw [if_neg h7, lset_getD]
      by_cases hp : p = x.1
      · subst hp
        simp only [if_true, BitVec.getLsbD_or, BitVec.getLsbD_and, BitVec.getLsbD_not, true_and]
        by_cases hm : x.2.1.getLsbD lane = true
        · rw [if_pos ⟨h7, hm⟩, hm]
          simp only [Bool.not_true, Bool.and_false, Bool.false_or, Bool.and_true]
        · rw [if_neg (fun hc => hm hc.2)]
          simp only [Bool.not_eq_true] at hm
          rw [hm]
          by_cases hl : lane < 64
          · simp only [hl, decide_true, Bool.not_false, Bool.and_true, Bool.and_false, Bool.or_false]
          · rw [BitVec.getLsbD_of_ge _ _ (by omega : 64 ≤ lane)]
            simp only [Bool.false_and, Bool.and_false, Bool.or_false]
      · rw [if_neg hp]
        have : ¬ (x.1 = p ∧ p ≠ 7 ∧ x.2.1.getLsbD lane = true) := by intro h; exact hp h.1.symm
        rw [if_neg this]

theorem fold_preds (ps : List Nat) (lanes : Mask) (val : Nat → Mask) (p lane : Nat) (b : Bool) :
    (ps.map (fun q => (q, lanes, val q))).foldl
      (fun b (x : Nat × Mask × Mask) => if x.1 = p ∧ p ≠ 7 ∧ x.2.1.getLsbD lane = true then x.2.2.getLsbD lane else b) b =
      if p ∈ ps ∧ p ≠ 7 ∧ lanes.getLsbD lane = true then (val p).getLsbD lane else b := by
  induction ps generalizing b with
  | nil => simp
  | cons q ps ih =>
    simp only [List.map_cons, List.foldl_cons]
    rw [ih]
    by_cases h : p ∈ ps
    · simp only [h, true_and, List.mem_cons, or_true]
      split
      · rfl
      · rename_i hn
        have : ¬ (q = p ∧ p ≠ 7 ∧ lanes.getLsbD lane = true) := fun hc => hn hc.2
        rw [if_neg this]
    · simp only [h, false_and, if_false, List.mem_cons, or_false]
      by_cases hq : q = p
      · subst hq; simp
      · have hq' : p ≠ q := fun hc => hq hc.symm
        simp [hq, hq']

/-- An instruction whose effect writes predicates. -/
theorem putsPreds {i : Instr} {s : State} {e : Iss} {qs : List Queue} {body : Iss → State → Res Done} {d : Done}
    {ps : List Nat} {val : Nat → Nat → Bool} {m : Nat → Mask} (hx : exec i s = runLane i s body)
    (hb : Issues i s e qs → body e (issued s e qs) = .ok d)
    (hs : d.st = issued s e qs) (hpd : d.pend = none) (hw : d.writes = [])
    (hp : d.preds = ps.map (fun p => (p, e.lanes, m p)))
    (hf : d.flow = .fall)
    (hv : ∀ p ∈ ps, ∀ lane, e.lanes.getLsbD lane = true → (m p).getLsbD lane = val p lane) :
    PutsPreds i s e qs ps val d.flags := by
  intro h hq hl
  have hd : Plain s e qs d := ⟨hs, hpd, hl⟩
  have hm : missing i e d = 0 := by
    have hwn : writesNow e d = [] := by simp [writesNow, hw]
    have h1 := charge_groupAfter i e d { e.g with qs := qs }
    unfold missing
    rw [hs, groupOf_issued qs h.group]
    simp only [hwn, List.length_nil] at h1 ⊢
    omega
  obtain ⟨r, o, h1, h2⟩ := groupAfter_rest i e d { e.g with qs := qs }
  refine ⟨landed i e d, groupAfter i e d { e.g with qs := qs }, ?_, groupIn_landed h.group hs (fun _ => hl), ?_, ?_, ?_, ?_⟩
  · rw [hx, runLane_completes h (hb h) hm]
  · intro p lane hlane
    have h3 := writePreds_get d.st { e.g.ln with regs := r, ofile := o } d.preds p lane
      (by
        intro x hxm
        rw [hp] at hxm
        obtain ⟨q, hqm, rfl⟩ := List.mem_map.mp hxm
        exact hq q hqm) e.g.ln.preds
    have h4 : (groupAfter i e d { e.g with qs := qs }).ln.preds =
        writePreds d.st { e.g.ln with regs := r, ofile := o } d.preds := by rw [h2]; rfl
    rw [h4, writePreds, h3, hp, fold_preds]
    split
    · rename_i hc; exact hv p hc.1 lane hc.2.2
    · rfl
  · refine frame_landed h.group hd ?_
    intro w hwm
    rw [hw] at hwm
    cases hwm
  · rw [h2]; simp [laneAfter, pcAfter, markSets, freeNames, hd.pend]
  · rw [h2]; simp [laneAfter, pcAfter, markSets, freeNames, hf]

end Sys2Proof.Laws
end

