-- ==== Sys2Proof/Laws/PerInstr.lean ====
section
/-!
SUPPORT. A fact about every instruction as syntax: the bits of its encoding fit the length that its own first bits
announce (R30, R34 to R40).
-/
namespace Sys2Proof.Laws.Enc

open Sys2Proof

/-- The encoding of an instruction is no longer than the length its lowest bits give (R30). -/
def Statement (i : Instr) : Prop :=
  ∀ st n w, encode i = some (st, n, w) → w < 2 ^ n ∧ lengthOf w = n

/-! ## The layouts -/

/-- A field of m bits above k bits. -/
theorem add_field {a x k m n : Nat} (ha : a < 2 ^ k) (hx : x < 2 ^ m) (hn : n = k + m) : a + x * 2 ^ k < 2 ^ n := by
  subst hn
  rw [Nat.pow_add, Nat.mul_comm (2 ^ k)]
  calc a + x * 2 ^ k < (x + 1) * 2 ^ k := by rw [Nat.add_mul]; omega
    _ ≤ 2 ^ m * 2 ^ k := Nat.mul_le_mul_right _ hx

/-- A field above the lowest two bits leaves them. -/
theorem mod_field (a x k : Nat) (hk : 2 ≤ k) : (a + x * 2 ^ k) % 4 = a % 4 := by
  obtain ⟨j, rfl⟩ := Nat.exists_eq_add_of_le hk
  rw [Nat.pow_add, ← Nat.mul_assoc, Nat.mul_right_comm, Nat.add_mul_mod_self_right]

theorem bool_lt (b : Bool) : b.toNat < 2 ^ 1 := by cases b <;> decide

theorem lane_base (op : Nat) (f : LaneForm) (h : op < 1024) (n : Nat) (hn : n < 2 ^ 2) :
    n + op * 2 ^ 2 + f.dst.toNat * 2 ^ 12 + f.src1.toNat * 2 ^ 20 + f.src2.toNat * 2 ^ 28 +
      f.src3.toNat * 2 ^ 36 + f.ctl.stall.toNat * 2 ^ 44 + f.ctl.wait.toNat * 2 ^ 47 + f.ctl.set.toNat * 2 ^ 53 +
      f.ctl.last.toNat * 2 ^ 56 + f.ctl.gpred.toNat * 2 ^ 59 + f.ctl.gneg.toNat * 2 ^ 62 + f.ctl.gen.toNat * 2 ^ 63 < 2 ^ 64 :=
  add_field (add_field (add_field (add_field (add_field (add_field (add_field (add_field (add_field (add_field (add_field (add_field
    hn (m := 10) h rfl) f.dst.isLt rfl) f.src1.isLt rfl) f.src2.isLt rfl) f.src3.isLt rfl) f.ctl.stall.isLt rfl) f.ctl.wait.isLt rfl)
    f.ctl.set.isLt rfl) f.ctl.last.isLt rfl) f.ctl.gpred.isLt rfl) (bool_lt _) rfl) (bool_lt _) rfl

theorem lane_none (op : Nat) (f : LaneForm) (h : op < 1024) (hl : f.lit = none) : laneWord op f < 2 ^ 64 := by
  have e : laneWord op f = 2 + op * 2 ^ 2 + f.dst.toNat * 2 ^ 12 + f.src1.toNat * 2 ^ 20 + f.src2.toNat * 2 ^ 28 +
      f.src3.toNat * 2 ^ 36 + f.ctl.stall.toNat * 2 ^ 44 + f.ctl.wait.toNat * 2 ^ 47 + f.ctl.set.toNat * 2 ^ 53 +
      f.ctl.last.toNat * 2 ^ 56 + f.ctl.gpred.toNat * 2 ^ 59 + f.ctl.gneg.toNat * 2 ^ 62 + f.ctl.gen.toNat * 2 ^ 63 + 0 * 2 ^ 64 := by
    unfold laneWord
    rw [hl]
    rfl
  rw [e, Nat.zero_mul, Nat.add_zero]
  exact lane_base op f h 2 (by decide)

theorem lane_some (op : Nat) (f : LaneForm) (h : op < 1024) (v : BitVec 32) (hl : f.lit = some v) : laneWord op f < 2 ^ 96 := by
  have e : laneWord op f = 3 + op * 2 ^ 2 + f.dst.toNat * 2 ^ 12 + f.src1.toNat * 2 ^ 20 + f.src2.toNat * 2 ^ 28 +
      f.src3.toNat * 2 ^ 36 + f.ctl.stall.toNat * 2 ^ 44 + f.ctl.wait.toNat * 2 ^ 47 + f.ctl.set.toNat * 2 ^ 53 +
      f.ctl.last.toNat * 2 ^ 56 + f.ctl.gpred.toNat * 2 ^ 59 + f.ctl.gneg.toNat * 2 ^ 62 + f.ctl.gen.toNat * 2 ^ 63 + v.toNat * 2 ^ 64 := by
    unfold laneWord
    rw [hl]
    rfl
  rw [e]
  exact add_field (lane_base op f h 3 (by decide)) v.isLt rfl

theorem lane_low (op : Nat) (f : LaneForm) : laneWord op f % 4 = if f.lit.isSome then 3 else 2 := by
  unfold laneWord
  rw [mod_field _ _ 64 (by decide), mod_field _ _ 63 (by decide), mod_field _ _ 62 (by decide), mod_field _ _ 59 (by decide),
    mod_field _ _ 56 (by decide), mod_field _ _ 53 (by decide), mod_field _ _ 47 (by decide), mod_field _ _ 44 (by decide),
    mod_field _ _ 36 (by decide), mod_field _ _ 28 (by decide), mod_field _ _ 20 (by decide), mod_field _ _ 12 (by decide),
    mod_field _ _ 2 (by decide)]
  split <;> rfl

theorem laneWord_lt (op : Nat) (f : LaneForm) (h : op < 1024) :
    laneWord op f < 2 ^ (if f.lit.isSome then 96 else 64) ∧ lengthOf (laneWord op f) = if f.lit.isSome then 96 else 64 := by
  have low := lane_low op f
  cases hl : f.lit with
  | none =>
    rw [hl] at low
    exact ⟨lane_none op f h hl, by simp [lengthOf, low]⟩
  | some v =>
    rw [hl] at low
    exact ⟨lane_some op f h v hl, by simp [lengthOf, low]⟩

theorem scalar_base (f : ScalarFields) (h : f.op < 256) (n : Nat) (hn : n < 2 ^ 2) :
    n + f.op * 2 ^ 2 + f.sd.toNat * 2 ^ 10 + f.sa.toNat * 2 ^ 16 + f.sb.toNat * 2 ^ 22 + f.imm4.toNat * 2 ^ 28 < 2 ^ 32 :=
  add_field (add_field (add_field (add_field (add_field hn (m := 8) h rfl) f.sd.isLt rfl) f.sa.isLt rfl) f.sb.isLt rfl) f.imm4.isLt rfl

theorem scalar_none (f : ScalarFields) (h : f.op < 256) (hl : f.lit = none) : scalarWord f < 2 ^ 32 := by
  have e : scalarWord f = 0 + f.op * 2 ^ 2 + f.sd.toNat * 2 ^ 10 + f.sa.toNat * 2 ^ 16 + f.sb.toNat * 2 ^ 22 + f.imm4.toNat * 2 ^ 28 + 0 * 2 ^ 32 := by
    unfold scalarWord
    rw [hl]
    rfl
  rw [e, Nat.zero_mul, Nat.add_zero]
  exact scalar_base f h 0 (by decide)

theorem scalar_some (f : ScalarFields) (h : f.op < 256) (v : BitVec 32) (hl : f.lit = some v) : scalarWord f < 2 ^ 64 := by
  have e : scalarWord f = 2 + f.op * 2 ^ 2 + f.sd.toNat * 2 ^ 10 + f.sa.toNat * 2 ^ 16 + f.sb.toNat * 2 ^ 22 + f.imm4.toNat * 2 ^ 28 + v.toNat * 2 ^ 32 := by
    unfold scalarWord
    rw [hl]
    rfl
  rw [e]
  exact add_field (scalar_base f h 2 (by decide)) v.isLt rfl

theorem scalar_low (f : ScalarFields) : scalarWord f % 4 = if f.lit.isSome then 2 else 0 := by
  unfold scalarWord
  rw [mod_field _ _ 32 (by decide), mod_field _ _ 28 (by decide), mod_field _ _ 22 (by decide), mod_field _ _ 16 (by decide),
    mod_field _ _ 10 (by decide), mod_field _ _ 2 (by decide)]
  split <;> rfl

theorem scalarWord_lt (f : ScalarFields) (h : f.op < 256) :
    scalarWord f < 2 ^ (if f.lit.isSome then 64 else 32) ∧ lengthOf (scalarWord f) = if f.lit.isSome then 64 else 32 := by
  have low := scalar_low f
  cases hl : f.lit with
  | none =>
    rw [hl] at low
    exact ⟨scalar_none f h hl, by simp [lengthOf, low]⟩
  | some v =>
    rw [hl] at low
    exact ⟨scalar_some f h v hl, by simp [lengthOf, low]⟩

theorem shortWord_lt (slot : Nat) (f : ShortForm) (h : slot < 128) : shortWord slot f < 2 ^ 32 ∧ lengthOf (shortWord slot f) = 32 := by
  have hs : slot / 64 < 2 ^ 2 := by omega
  have hr : slot % 64 < 2 ^ 6 := by omega
  have hb : shortWord slot f < 2 ^ 32 := Nat.lt_of_lt_of_le
    (add_field (n := 30) (add_field (add_field (add_field (add_field (add_field (add_field hs hr rfl) f.dst.isLt rfl) f.src.isLt rfl)
      f.stall.isLt rfl) (bool_lt _) rfl) (bool_lt _) rfl) (bool_lt f.waitAll) rfl) (by decide)
  have low : shortWord slot f % 4 = slot / 64 % 4 := by
    unfold shortWord
    rw [mod_field _ _ 29 (by decide), mod_field _ _ 28 (by decide), mod_field _ _ 27 (by decide), mod_field _ _ 24 (by decide),
      mod_field _ _ 16 (by decide), mod_field _ _ 8 (by decide), mod_field _ _ 2 (by decide)]
  have h3 : shortWord slot f % 4 ≠ 3 := by omega
  have h2 : shortWord slot f % 4 ≠ 2 := by omega
  exact ⟨hb, by simp [lengthOf, h3, h2]⟩

theorem chainWord_lt (f : ChainForm) : chainWord f < 2 ^ 96 ∧ lengthOf (chainWord f) = 96 := by
  have hb : chainWord f < 2 ^ 96 :=
    add_field (add_field (k := 52) (m := 2) (add_field (add_field (add_field (add_field (add_field (add_field (k := 2) (m := 10)
      (show 3 < 2 ^ 2 by decide) (show 0x1F0 < 2 ^ 10 by decide) rfl) f.dst.isLt rfl) f.in0.isLt rfl) f.in1.isLt rfl) f.in2.isLt rfl) f.in3.isLt rfl)
      (Nat.lt_of_lt_of_le (bool_lt f.waitAll) (by decide)) rfl) f.slots.isLt rfl
  have low : chainWord f % 4 = 3 := by
    unfold chainWord
    rw [mod_field _ _ 54 (by decide), mod_field _ _ 52 (by decide), mod_field _ _ 44 (by decide), mod_field _ _ 36 (by decide),
      mod_field _ _ 28 (by decide), mod_field _ _ 20 (by decide), mod_field _ _ 12 (by decide), mod_field _ _ 2 (by decide)]
  exact ⟨hb, by simp [lengthOf, low]⟩

theorem ckptxWord_lt (f : CkptxForm) : ckptxWord f < 2 ^ 96 ∧ lengthOf (ckptxWord f) = 96 := by
  have hb : ckptxWord f < 2 ^ 96 := Nat.lt_of_lt_of_le
    (add_field (n := 63) (add_field (add_field (k := 2) (m := 10) (show 3 < 2 ^ 2 by decide) (show 0x255 < 2 ^ 10 by decide) rfl) f.pairs.isLt rfl)
      f.stall.isLt rfl) (by decide)
  have low : ckptxWord f % 4 = 3 := by
    unfold ckptxWord
    rw [mod_field _ _ 60 (by decide), mod_field _ _ 12 (by decide), mod_field _ _ 2 (by decide)]
  exact ⟨hb, by simp [lengthOf, low]⟩

/-! ## One shape of instruction each -/

theorem lane {i : Instr} {x : LaneInfo} (h : laneInfo i = some x) (ho : x.op < 1024) : Statement i := by
  intro st n w he
  simp only [encode, h, Option.some.injEq, Prod.mk.injEq] at he
  obtain ⟨-, rfl, rfl⟩ := he
  exact laneWord_lt x.op x.form ho

theorem short {i : Instr} {slot : Nat} {f : ShortForm} (h0 : laneInfo i = none) (h : shortInfo i = some (slot, f)) (ho : slot < 128) :
    Statement i := by
  intro st n w he
  simp only [encode, h0, h, Option.some.injEq, Prod.mk.injEq] at he
  obtain ⟨-, rfl, rfl⟩ := he
  exact shortWord_lt slot f ho

theorem scalar {i : Instr} {f : ScalarFields} (h0 : laneInfo i = none) (h1 : shortInfo i = none) (h : scalarFields i = some f)
    (ho : f.op < 256) : Statement i := by
  intro st n w he
  simp only [encode, h0, h1, h, Option.some.injEq, Prod.mk.injEq] at he
  obtain ⟨-, rfl, rfl⟩ := he
  exact scalarWord_lt f ho

theorem wide {i : Instr} {st : Stream} {n w : Nat} (h : encode i = some (st, n, w)) (hw : w < 2 ^ n ∧ lengthOf w = n) : Statement i := by
  intro st' n' w' he
  rw [h] at he
  simp only [Option.some.injEq, Prod.mk.injEq] at he
  obtain ⟨-, rfl, rfl⟩ := he
  exact hw

theorem absent {i : Instr} (h : encode i = none) : Statement i := by
  intro st n w he
  rw [h] at he
  cases he

/-! ## Every constructor -/

theorem iadd (f : LaneForm) : Statement (.iadd f) := lane rfl (show 0x0 < 1024 by decide)
theorem iaddShort (f : ShortForm) : Statement (.iaddShort f) := short rfl rfl (by decide)
theorem isub (f : LaneForm) : Statement (.isub f) := lane rfl (show 0x1 < 1024 by decide)
theorem isubShort (f : ShortForm) : Statement (.isubShort f) := short rfl rfl (by decide)
theorem imul (f : LaneForm) : Statement (.imul f) := lane rfl (show 0x2 < 1024 by decide)
theorem imulShort (f : ShortForm) : Statement (.imulShort f) := short rfl rfl (by decide)
theorem imulh (v : SU) (f : LaneForm) : Statement (.imulh v f) := lane rfl (show 0x003 + suCode v < 1024 by cases v <;> decide)
theorem imad (f : LaneForm) : Statement (.imad f) := lane rfl (show 0x005 < 1024 by decide)
theorem iabs (f : LaneForm) : Statement (.iabs f) := lane rfl (show 0x006 < 1024 by decide)
theorem iabsShort (f : ShortForm) : Statement (.iabsShort f) := short rfl rfl (by decide)
theorem imin (v : SU) (f : LaneForm) : Statement (.imin v f) := lane rfl (show 0x007 + suCode v < 1024 by cases v <;> decide)
theorem imax (v : SU) (f : LaneForm) : Statement (.imax v f) := lane rfl (show 0x009 + suCode v < 1024 by cases v <;> decide)
theorem iminI32Short (f : ShortForm) : Statement (.iminI32Short f) := short rfl rfl (by decide)
theorem imaxI32Short (f : ShortForm) : Statement (.imaxI32Short f) := short rfl rfl (by decide)
theorem iminN32Short (f : ShortForm) : Statement (.iminN32Short f) := short rfl rfl (by decide)
theorem imaxN32Short (f : ShortForm) : Statement (.imaxN32Short f) := short rfl rfl (by decide)
theorem add64 (f : LaneForm) : Statement (.add64 f) := lane rfl (show 0x00B < 1024 by decide)
theorem sub64 (f : LaneForm) : Statement (.sub64 f) := lane rfl (show 0x00C < 1024 by decide)
theorem iaddSat (v : SU) (f : LaneForm) : Statement (.iaddSat v f) := lane rfl (show 0x010 + suCode v < 1024 by cases v <;> decide)
theorem isubSat (v : SU) (f : LaneForm) : Statement (.isubSat v f) := lane rfl (show 0x012 + suCode v < 1024 by cases v <;> decide)
theorem and (f : LaneForm) : Statement (.and f) := lane rfl (show 0x20 < 1024 by decide)
theorem andShort (f : ShortForm) : Statement (.andShort f) := short rfl rfl (by decide)
theorem or (f : LaneForm) : Statement (.or f) := lane rfl (show 0x21 < 1024 by decide)
theorem orShort (f : ShortForm) : Statement (.orShort f) := short rfl rfl (by decide)
theorem xor (f : LaneForm) : Statement (.xor f) := lane rfl (show 0x22 < 1024 by decide)
theorem xorShort (f : ShortForm) : Statement (.xorShort f) := short rfl rfl (by decide)
theorem andn (f : LaneForm) : Statement (.andn f) := lane rfl (show 0x23 < 1024 by decide)
theorem andnShort (f : ShortForm) : Statement (.andnShort f) := short rfl rfl (by decide)
theorem not (f : LaneForm) : Statement (.not f) := lane rfl (show 0x024 < 1024 by decide)
theorem notShort (f : ShortForm) : Statement (.notShort f) := short rfl rfl (by decide)
theorem mov (f : LaneForm) : Statement (.mov f) := lane rfl (show 0x025 < 1024 by decide)
theorem movShort (f : ShortForm) : Statement (.movShort f) := short rfl rfl (by decide)
theorem sel (f : LaneForm) : Statement (.sel f) := lane rfl (show 0x026 < 1024 by decide)
theorem shl (f : LaneForm) : Statement (.shl f) := lane rfl (show 0x30 < 1024 by decide)
theorem shlShort (f : ShortForm) : Statement (.shlShort f) := short rfl rfl (by decide)
theorem shr (f : LaneForm) : Statement (.shr f) := lane rfl (show 0x31 < 1024 by decide)
theorem shrShort (f : ShortForm) : Statement (.shrShort f) := short rfl rfl (by decide)
theorem sar (f : LaneForm) : Statement (.sar f) := lane rfl (show 0x32 < 1024 by decide)
theorem sarShort (f : ShortForm) : Statement (.sarShort f) := short rfl rfl (by decide)
theorem rot (f : LaneForm) : Statement (.rot f) := lane rfl (show 0x33 < 1024 by decide)
theorem rotShort (f : ShortForm) : Statement (.rotShort f) := short rfl rfl (by decide)
theorem popc (f : LaneForm) : Statement (.popc f) := lane rfl (show 0x38 < 1024 by decide)
theorem popcShort (f : ShortForm) : Statement (.popcShort f) := short rfl rfl (by decide)
theorem clz (f : LaneForm) : Statement (.clz f) := lane rfl (show 0x39 < 1024 by decide)
theorem clzShort (f : ShortForm) : Statement (.clzShort f) := short rfl rfl (by decide)
theorem ctz (f : LaneForm) : Statement (.ctz f) := lane rfl (show 0x3a < 1024 by decide)
theorem ctzShort (f : ShortForm) : Statement (.ctzShort f) := short rfl rfl (by decide)
theorem brev (f : LaneForm) : Statement (.brev f) := lane rfl (show 0x3b < 1024 by decide)
theorem brevShort (f : ShortForm) : Statement (.brevShort f) := short rfl rfl (by decide)
theorem bfx (v : SU) (f : LaneForm) : Statement (.bfx v f) := lane rfl (show 0x03C + suCode v < 1024 by cases v <;> decide)
theorem bfi (f : LaneForm) : Statement (.bfi f) := lane rfl (show 0x03E < 1024 by decide)
theorem icmp (c : ICond) (f : LaneForm) : Statement (.icmp c f) := lane rfl (show 0x040 + icondCode c < 1024 by cases c <;> decide)
theorem fadd (rm : RM) (f : LaneForm) : Statement (.fadd rm f) := lane rfl (show 0x100 + rmCode rm < 1024 by cases rm <;> decide)
theorem faddShort (f : ShortForm) : Statement (.faddShort f) := short rfl rfl (by decide)
theorem fsub (rm : RM) (f : LaneForm) : Statement (.fsub rm f) := lane rfl (show 0x108 + rmCode rm < 1024 by cases rm <;> decide)
theorem fsubShort (f : ShortForm) : Statement (.fsubShort f) := short rfl rfl (by decide)
theorem fmul (rm : RM) (f : LaneForm) : Statement (.fmul rm f) := lane rfl (show 0x110 + rmCode rm < 1024 by cases rm <;> decide)
theorem fmulShort (f : ShortForm) : Statement (.fmulShort f) := short rfl rfl (by decide)
theorem ffma (rm : RM) (f : LaneForm) : Statement (.ffma rm f) := lane rfl (show 0x118 + rmCode rm < 1024 by cases rm <;> decide)
theorem fmin (f : LaneForm) : Statement (.fmin f) := lane rfl (show 0x120 < 1024 by decide)
theorem fminShort (f : ShortForm) : Statement (.fminShort f) := short rfl rfl (by decide)
theorem fmax (f : LaneForm) : Statement (.fmax f) := lane rfl (show 0x121 < 1024 by decide)
theorem fmaxShort (f : ShortForm) : Statement (.fmaxShort f) := short rfl rfl (by decide)
theorem fabs (f : LaneForm) : Statement (.fabs f) := lane rfl (show 0x122 < 1024 by decide)
theorem fabsShort (f : ShortForm) : Statement (.fabsShort f) := short rfl rfl (by decide)
theorem fneg (f : LaneForm) : Statement (.fneg f) := lane rfl (show 0x123 < 1024 by decide)
theorem fnegShort (f : ShortForm) : Statement (.fnegShort f) := short rfl rfl (by decide)
theorem frnd (rm : RM) (f : LaneForm) : Statement (.frnd rm f) := lane rfl (show 0x128 + rmCode rm < 1024 by cases rm <;> decide)
theorem fcmp (c : FCond) (f : LaneForm) : Statement (.fcmp c f) := lane rfl (show 0x130 + fcondCode c < 1024 by cases c <;> decide)
theorem fclass (f : LaneForm) : Statement (.fclass f) := lane rfl (show 0x138 < 1024 by decide)
theorem setfpc (f : LaneForm) : Statement (.setfpc f) := lane rfl (show 0x13C < 1024 by decide)
theorem hadd2 (h : Half) (f : LaneForm) : Statement (.hadd2 h f) := lane rfl (show 0x180 + halfCode h < 1024 by cases h <;> decide)
theorem hadd2F16Short (f : ShortForm) : Statement (.hadd2F16Short f) := short rfl rfl (by decide)
theorem hadd2Bf16Short (f : ShortForm) : Statement (.hadd2Bf16Short f) := short rfl rfl (by decide)
theorem hsub2 (h : Half) (f : LaneForm) : Statement (.hsub2 h f) := lane rfl (show 0x182 + halfCode h < 1024 by cases h <;> decide)
theorem hmul2 (h : Half) (f : LaneForm) : Statement (.hmul2 h f) := lane rfl (show 0x184 + halfCode h < 1024 by cases h <;> decide)
theorem hmul2F16Short (f : ShortForm) : Statement (.hmul2F16Short f) := short rfl rfl (by decide)
theorem hmul2Bf16Short (f : ShortForm) : Statement (.hmul2Bf16Short f) := short rfl rfl (by decide)
theorem hfma2 (h : Half) (f : LaneForm) : Statement (.hfma2 h f) := lane rfl (show 0x186 + halfCode h < 1024 by cases h <;> decide)
theorem hmin2 (h : Half) (f : LaneForm) : Statement (.hmin2 h f) := lane rfl (show 0x188 + halfCode h < 1024 by cases h <;> decide)
theorem hmax2 (h : Half) (f : LaneForm) : Statement (.hmax2 h f) := lane rfl (show 0x18A + halfCode h < 1024 by cases h <;> decide)
theorem cvt (rm : RM) (f : LaneForm) : Statement (.cvt rm f) := lane rfl (show 0x1C0 + rmCode rm < 1024 by cases rm <;> decide)
theorem cvtSr (f : LaneForm) : Statement (.cvtSr f) := lane rfl (show 0x1C5 < 1024 by decide)
theorem pk2 (h : Half) (f : LaneForm) : Statement (.pk2 h f) := lane rfl (show 0x1C8 + halfCode h < 1024 by cases h <;> decide)
theorem pk2Sr (h : Half) (f : LaneForm) : Statement (.pk2Sr h f) := lane rfl (show 0x1CA + halfCode h < 1024 by cases h <;> decide)
theorem upk2 (h : Half) (f : LaneForm) : Statement (.upk2 h f) := lane rfl (show 0x1CC + halfCode h < 1024 by cases h <;> decide)
theorem rngseed (f : LaneForm) : Statement (.rngseed f) := lane rfl (show 0x1D0 < 1024 by decide)
theorem rcp (f : LaneForm) : Statement (.rcp f) := lane rfl (show 0x1e0 < 1024 by decide)
theorem rsq (f : LaneForm) : Statement (.rsq f) := lane rfl (show 0x1e1 < 1024 by decide)
theorem sqt (f : LaneForm) : Statement (.sqt f) := lane rfl (show 0x1e2 < 1024 by decide)
theorem ex2 (f : LaneForm) : Statement (.ex2 f) := lane rfl (show 0x1e3 < 1024 by decide)
theorem lg2 (f : LaneForm) : Statement (.lg2 f) := lane rfl (show 0x1e4 < 1024 by decide)
theorem sinr (f : LaneForm) : Statement (.sinr f) := lane rfl (show 0x1e5 < 1024 by decide)
theorem cosr (f : LaneForm) : Statement (.cosr f) := lane rfl (show 0x1e6 < 1024 by decide)
theorem tnh (f : LaneForm) : Statement (.tnh f) := lane rfl (show 0x1e7 < 1024 by decide)
theorem chain (f : ChainForm) : Statement (.chain f) := wide (n := 96) rfl (chainWord_lt f)
theorem shfl (k : ShflKind) (f : LaneForm) : Statement (.shfl k f) := lane rfl (show 0x200 + shflCode k < 1024 by cases k <;> decide)
theorem swp (f : LaneForm) : Statement (.swp f) := lane rfl (show 0x204 < 1024 by decide)
theorem voteAny (f : LaneForm) : Statement (.voteAny f) := lane rfl (show 0x208 < 1024 by decide)
theorem voteAll (f : LaneForm) : Statement (.voteAll f) := lane rfl (show 0x209 < 1024 by decide)
theorem voteBal (f : LaneForm) : Statement (.voteBal f) := lane rfl (show 0x20A < 1024 by decide)
theorem red (op : RedOp) (f : LaneForm) : Statement (.red op f) := lane rfl (show 0x210 + redCode op < 1024 by cases op <;> decide)
theorem scan (op : RedOp) (f : LaneForm) : Statement (.scan op f) := lane rfl (show 0x220 + redCode op < 1024 by cases op <;> decide)
theorem pand (f : LaneForm) : Statement (.pand f) := lane rfl (show 0x230 < 1024 by decide)
theorem por (f : LaneForm) : Statement (.por f) := lane rfl (show 0x231 < 1024 by decide)
theorem pxor (f : LaneForm) : Statement (.pxor f) := lane rfl (show 0x232 < 1024 by decide)
theorem pnot (f : LaneForm) : Statement (.pnot f) := lane rfl (show 0x233 < 1024 by decide)
theorem pcat (f : LaneForm) : Statement (.pcat f) := lane rfl (show 0x234 < 1024 by decide)
theorem psplit (f : LaneForm) : Statement (.psplit f) := lane rfl (show 0x235 < 1024 by decide)
theorem pmov (f : LaneForm) : Statement (.pmov f) := lane rfl (show 0x236 < 1024 by decide)
theorem bra (f : LaneForm) : Statement (.bra f) := lane rfl (show 0x240 < 1024 by decide)
theorem brau (f : LaneForm) : Statement (.brau f) := lane rfl (show 0x241 < 1024 by decide)
theorem jmpi (f : LaneForm) : Statement (.jmpi f) := lane rfl (show 0x242 < 1024 by decide)
theorem call (f : LaneForm) : Statement (.call f) := lane rfl (show 0x243 < 1024 by decide)
theorem ret (f : LaneForm) : Statement (.ret f) := lane rfl (show 0x244 < 1024 by decide)
theorem meld (f : LaneForm) : Statement (.meld f) := lane rfl (show 0x248 < 1024 by decide)
theorem mtab (f : LaneForm) : Statement (.mtab f) := lane rfl (show 0x249 < 1024 by decide)
theorem lend (f : LaneForm) : Statement (.lend f) := lane rfl (show 0x250 < 1024 by decide)
theorem exit (f : LaneForm) : Statement (.exit f) := lane rfl (show 0x251 < 1024 by decide)
theorem ckpt (f : LaneForm) : Statement (.ckpt f) := lane rfl (show 0x254 < 1024 by decide)
theorem ckptx (f : CkptxForm) : Statement (.ckptx f) := wide (n := 96) rfl (ckptxWord_lt f)
theorem wait (f : LaneForm) : Statement (.wait f) := lane rfl (show 0x258 < 1024 by decide)
theorem nop (f : LaneForm) : Statement (.nop f) := lane rfl (show 0x259 < 1024 by decide)
theorem nopShort (f : ShortForm) : Statement (.nopShort f) := short rfl rfl (by decide)
theorem yield (f : LaneForm) : Statement (.yield f) := lane rfl (show 0x25A < 1024 by decide)
theorem emrd (f : LaneForm) : Statement (.emrd f) := lane rfl (show 0x25C < 1024 by decide)
theorem emwr (f : LaneForm) : Statement (.emwr f) := lane rfl (show 0x25D < 1024 by decide)
theorem salloc (f : LaneForm) : Statement (.salloc f) := lane rfl (show 0x260 < 1024 by decide)
theorem sfree (f : LaneForm) : Statement (.sfree f) := lane rfl (show 0x261 < 1024 by decide)
theorem trap (f : LaneForm) : Statement (.trap f) := lane rfl (show 0x268 < 1024 by decide)
theorem tret (f : LaneForm) : Statement (.tret f) := lane rfl (show 0x269 < 1024 by decide)
theorem brk (f : LaneForm) : Statement (.brk f) := lane rfl (show 0x26A < 1024 by decide)
theorem ld (f : LaneForm) : Statement (.ld f) := lane rfl (show 0x280 < 1024 by decide)
theorem ldAcq (f : LaneForm) : Statement (.ldAcq f) := lane rfl (show 0x281 < 1024 by decide)
theorem st (f : LaneForm) : Statement (.st f) := lane rfl (show 0x282 < 1024 by decide)
theorem stRel (f : LaneForm) : Statement (.stRel f) := lane rfl (show 0x283 < 1024 by decide)
theorem lds (f : LaneForm) : Statement (.lds f) := lane rfl (show 0x284 < 1024 by decide)
theorem sts (f : LaneForm) : Statement (.sts f) := lane rfl (show 0x285 < 1024 by decide)
theorem atom (op : AtomOp) (f : LaneForm) : Statement (.atom op f) := lane rfl (show 0x288 + atomCode op < 1024 by cases op <;> decide)
theorem ared (op : AredOp) (f : LaneForm) : Statement (.ared op f) := lane rfl (show 0x290 + aredCode op < 1024 by cases op <;> decide)
theorem fence (f : LaneForm) : Statement (.fence f) := lane rfl (show 0x298 < 1024 by decide)
theorem waitw (f : LaneForm) : Statement (.waitw f) := lane rfl (show 0x299 < 1024 by decide)
theorem cpy (f : LaneForm) : Statement (.cpy f) := lane rfl (show 0x2A0 < 1024 by decide)
theorem cpyw (f : LaneForm) : Statement (.cpyw f) := lane rfl (show 0x2A1 < 1024 by decide)
theorem kick (f : LaneForm) : Statement (.kick f) := lane rfl (show 0x2A2 < 1024 by decide)
theorem kcfg (f : LaneForm) : Statement (.kcfg f) := lane rfl (show 0x2A3 < 1024 by decide)
theorem rld (f : LaneForm) : Statement (.rld f) := lane rfl (show 0x2A4 < 1024 by decide)
theorem vfput (f : LaneForm) : Statement (.vfput f) := lane rfl (show 0x2A8 < 1024 by decide)
theorem vfcfg (f : LaneForm) : Statement (.vfcfg f) := lane rfl (show 0x2A9 < 1024 by decide)
theorem tsmp (f : LaneForm) : Statement (.tsmp f) := lane rfl (show 0x2B0 < 1024 by decide)
theorem tfet (f : LaneForm) : Statement (.tfet f) := lane rfl (show 0x2B1 < 1024 by decide)
theorem tsiz (f : LaneForm) : Statement (.tsiz f) := lane rfl (show 0x2B2 < 1024 by decide)
theorem pref (f : LaneForm) : Statement (.pref f) := lane rfl (show 0x2B8 < 1024 by decide)
theorem cwb (f : LaneForm) : Statement (.cwb f) := lane rfl (show 0x2B9 < 1024 by decide)
theorem cinv (f : LaneForm) : Statement (.cinv f) := lane rfl (show 0x2BA < 1024 by decide)
theorem mma (f : LaneForm) : Statement (.mma f) := lane rfl (show 0x300 < 1024 by decide)
theorem mmz (f : LaneForm) : Statement (.mmz f) := lane rfl (show 0x301 < 1024 by decide)
theorem mmrd (f : LaneForm) : Statement (.mmrd f) := lane rfl (show 0x302 < 1024 by decide)
theorem mmwr (f : LaneForm) : Statement (.mmwr f) := lane rfl (show 0x303 < 1024 by decide)
theorem bfill (f : LaneForm) : Statement (.bfill f) := lane rfl (show 0x304 < 1024 by decide)
theorem msync (f : LaneForm) : Statement (.msync f) := lane rfl (show 0x305 < 1024 by decide)
theorem setfmt (f : LaneForm) : Statement (.setfmt f) := lane rfl (show 0x306 < 1024 by decide)
theorem phint (f : LaneForm) : Statement (.phint f) := lane rfl (show 0x308 < 1024 by decide)
theorem placq (f : LaneForm) : Statement (.placq f) := lane rfl (show 0x340 < 1024 by decide)
theorem plrel (f : LaneForm) : Statement (.plrel f) := lane rfl (show 0x341 < 1024 by decide)
theorem plorg (f : LaneForm) : Statement (.plorg f) := lane rfl (show 0x342 < 1024 by decide)
theorem plin (f : LaneForm) : Statement (.plin f) := lane rfl (show 0x344 < 1024 by decide)
theorem plquad (f : LaneForm) : Statement (.plquad f) := lane rfl (show 0x345 < 1024 by decide)
theorem plexq (f : LaneForm) : Statement (.plexq f) := lane rfl (show 0x346 < 1024 by decide)
theorem pladd (f : LaneForm) : Statement (.pladd f) := lane rfl (show 0x348 < 1024 by decide)
theorem plsub (f : LaneForm) : Statement (.plsub f) := lane rfl (show 0x349 < 1024 by decide)
theorem plmul (f : LaneForm) : Statement (.plmul f) := lane rfl (show 0x34a < 1024 by decide)
theorem plfma (f : LaneForm) : Statement (.plfma f) := lane rfl (show 0x34B < 1024 by decide)
theorem plmin (f : LaneForm) : Statement (.plmin f) := lane rfl (show 0x34C < 1024 by decide)
theorem plmax (f : LaneForm) : Statement (.plmax f) := lane rfl (show 0x34D < 1024 by decide)
theorem plmov (f : LaneForm) : Statement (.plmov f) := lane rfl (show 0x34E < 1024 by decide)
theorem plsel (f : LaneForm) : Statement (.plsel f) := lane rfl (show 0x34F < 1024 by decide)
theorem plcmp (c : FCond) (f : LaneForm) : Statement (.plcmp c f) := lane rfl (show 0x350 + fcondCode c < 1024 by cases c <;> decide)
theorem plen (f : LaneForm) : Statement (.plen f) := lane rfl (show 0x358 < 1024 by decide)
theorem plels (f : LaneForm) : Statement (.plels f) := lane rfl (show 0x359 < 1024 by decide)
theorem plpop (f : LaneForm) : Statement (.plpop f) := lane rfl (show 0x35A < 1024 by decide)
theorem plclr (f : LaneForm) : Statement (.plclr f) := lane rfl (show 0x35B < 1024 by decide)
theorem plflag (f : LaneForm) : Statement (.plflag f) := lane rfl (show 0x35C < 1024 by decide)
theorem pltrap (f : LaneForm) : Statement (.pltrap f) := lane rfl (show 0x35D < 1024 by decide)
theorem plrd (f : LaneForm) : Statement (.plrd f) := lane rfl (show 0x360 < 1024 by decide)
theorem plwr (f : LaneForm) : Statement (.plwr f) := lane rfl (show 0x361 < 1024 by decide)
theorem plcov (f : LaneForm) : Statement (.plcov f) := lane rfl (show 0x362 < 1024 by decide)
theorem barv (f : LaneForm) : Statement (.barv f) := lane rfl (show 0x380 < 1024 by decide)
theorem barw (f : LaneForm) : Statement (.barw f) := lane rfl (show 0x381 < 1024 by decide)
theorem bars (f : LaneForm) : Statement (.bars f) := lane rfl (show 0x382 < 1024 by decide)
theorem bari (f : LaneForm) : Statement (.bari f) := lane rfl (show 0x383 < 1024 by decide)
theorem klaunch (f : LaneForm) : Statement (.klaunch f) := lane rfl (show 0x388 < 1024 by decide)
theorem kwait (f : LaneForm) : Statement (.kwait f) := lane rfl (show 0x389 < 1024 by decide)
theorem xinv (f : LaneForm) : Statement (.xinv f) := lane rfl (show 0x38C < 1024 by decide)
theorem pgq (f : LaneForm) : Statement (.pgq f) := lane rfl (show 0x38D < 1024 by decide)
theorem nmload (f : LaneForm) : Statement (.nmload f) := lane rfl (show 0x390 < 1024 by decide)
theorem nmcmd (f : LaneForm) : Statement (.nmcmd f) := lane rfl (show 0x391 < 1024 by decide)
theorem nmlease (f : LaneForm) : Statement (.nmlease f) := lane rfl (show 0x392 < 1024 by decide)
theorem nmrel (f : LaneForm) : Statement (.nmrel f) := lane rfl (show 0x393 < 1024 by decide)
theorem unassignedOpcode (stream : Stream) (word : BitVec 64) : Statement (.unassignedOpcode stream word) := absent rfl
theorem legacyWord (kind : LegacyKind) (word : BitVec 64) (ctl : Ctl) : Statement (.legacyWord kind word ctl) := absent rfl
theorem sfuResult (core slot : Nat) : Statement (.sfuResult core slot) := absent rfl
theorem srResult (core slot idx : Nat) : Statement (.srResult core slot idx) := absent rfl
theorem waitExpire (core slot : Nat) : Statement (.waitExpire core slot) := absent rfl
theorem memoryAccessComplete (core slot idx : Nat) : Statement (.memoryAccessComplete core slot idx) := absent rfl
theorem waitwWake (core slot : Nat) (timeout : Bool) : Statement (.waitwWake core slot timeout) := absent rfl
theorem copyComplete (core : Nat) : Statement (.copyComplete core) := absent rfl
theorem engineAccessFault (core : Nat) : Statement (.engineAccessFault core) := absent rfl
theorem enginePageFault (core : Nat) : Statement (.enginePageFault core) := absent rfl
theorem pullStart (core : Nat) : Statement (.pullStart core) := absent rfl
theorem pullLanded (core : Nat) : Statement (.pullLanded core) := absent rfl
theorem rldResponse (core slot idx : Nat) : Statement (.rldResponse core slot idx) := absent rfl
theorem narrowsDeliver (core : Nat) : Statement (.narrowsDeliver core) := absent rfl
theorem bfillComplete (core : Nat) : Statement (.bfillComplete core) := absent rfl
theorem mmaPass (core : Nat) : Statement (.mmaPass core) := absent rfl
theorem accumulatorWrite (core : Nat) : Statement (.accumulatorWrite core) := absent rfl
theorem arrayEntry (core : Nat) : Statement (.arrayEntry core) := absent rfl
theorem planeEntry (core : Nat) : Statement (.planeEntry core) := absent rfl
theorem acquisitionClear (core : Nat) : Statement (.acquisitionClear core) := absent rfl
theorem planeUpkeep (core : Nat) : Statement (.planeUpkeep core) := absent rfl
theorem plcovPush (core slot q : Nat) : Statement (.plcovPush core slot q) := absent rfl
theorem barrierPhaseComplete (b : BarrierId) : Statement (.barrierPhaseComplete b) := absent rfl
theorem barrierRelease (core slot : Nat) : Statement (.barrierRelease core slot) := absent rfl
theorem kwaitWake (core slot : Nat) : Statement (.kwaitWake core slot) := absent rfl
theorem invalidationComplete (core slot idx : Nat) : Statement (.invalidationComplete core slot idx) := absent rfl
theorem sadd (f : SReg) : Statement (.sadd f) := scalar rfl rfl rfl (show 0x00 < 256 by decide)
theorem ssub (f : SReg) : Statement (.ssub f) := scalar rfl rfl rfl (show 0x01 < 256 by decide)
theorem smul (f : SReg) : Statement (.smul f) := scalar rfl rfl rfl (show 0x02 < 256 by decide)
theorem smulhI64 (f : SReg) : Statement (.smulhI64 f) := scalar rfl rfl rfl (show 0x03 < 256 by decide)
theorem smulhN64 (f : SReg) : Statement (.smulhN64 f) := scalar rfl rfl rfl (show 0x04 < 256 by decide)
theorem sand (f : SReg) : Statement (.sand f) := scalar rfl rfl rfl (show 0x08 < 256 by decide)
theorem sor (f : SReg) : Statement (.sor f) := scalar rfl rfl rfl (show 0x09 < 256 by decide)
theorem sxor (f : SReg) : Statement (.sxor f) := scalar rfl rfl rfl (show 0x0A < 256 by decide)
theorem sshl (f : SReg) : Statement (.sshl f) := scalar rfl rfl rfl (show 0x0C < 256 by decide)
theorem sshr (f : SReg) : Statement (.sshr f) := scalar rfl rfl rfl (show 0x0D < 256 by decide)
theorem ssar (f : SReg) : Statement (.ssar f) := scalar rfl rfl rfl (show 0x0E < 256 by decide)
theorem sminI64 (f : SReg) : Statement (.sminI64 f) := scalar rfl rfl rfl (show 0x10 < 256 by decide)
theorem sminN64 (f : SReg) : Statement (.sminN64 f) := scalar rfl rfl rfl (show 0x11 < 256 by decide)
theorem smaxI64 (f : SReg) : Statement (.smaxI64 f) := scalar rfl rfl rfl (show 0x12 < 256 by decide)
theorem smaxN64 (f : SReg) : Statement (.smaxN64 f) := scalar rfl rfl rfl (show 0x13 < 256 by decide)
theorem saddImm (f : SImm) : Statement (.saddImm f) := scalar rfl rfl rfl (show 0x20 < 256 by decide)
theorem ssubImm (f : SImm) : Statement (.ssubImm f) := scalar rfl rfl rfl (show 0x21 < 256 by decide)
theorem smulImm (f : SImm) : Statement (.smulImm f) := scalar rfl rfl rfl (show 0x22 < 256 by decide)
theorem smulhI64Imm (f : SImm) : Statement (.smulhI64Imm f) := scalar rfl rfl rfl (show 0x23 < 256 by decide)
theorem smulhN64Imm (f : SImm) : Statement (.smulhN64Imm f) := scalar rfl rfl rfl (show 0x24 < 256 by decide)
theorem sandImm (f : SImm) : Statement (.sandImm f) := scalar rfl rfl rfl (show 0x28 < 256 by decide)
theorem sorImm (f : SImm) : Statement (.sorImm f) := scalar rfl rfl rfl (show 0x29 < 256 by decide)
theorem sxorImm (f : SImm) : Statement (.sxorImm f) := scalar rfl rfl rfl (show 0x2A < 256 by decide)
theorem sshlImm (f : SImm) : Statement (.sshlImm f) := scalar rfl rfl rfl (show 0x2C < 256 by decide)
theorem sshrImm (f : SImm) : Statement (.sshrImm f) := scalar rfl rfl rfl (show 0x2D < 256 by decide)
theorem ssarImm (f : SImm) : Statement (.ssarImm f) := scalar rfl rfl rfl (show 0x2E < 256 by decide)
theorem sminI64Imm (f : SImm) : Statement (.sminI64Imm f) := scalar rfl rfl rfl (show 0x30 < 256 by decide)
theorem sminN64Imm (f : SImm) : Statement (.sminN64Imm f) := scalar rfl rfl rfl (show 0x31 < 256 by decide)
theorem smaxI64Imm (f : SImm) : Statement (.smaxI64Imm f) := scalar rfl rfl rfl (show 0x32 < 256 by decide)
theorem smaxN64Imm (f : SImm) : Statement (.smaxN64Imm f) := scalar rfl rfl rfl (show 0x33 < 256 by decide)
theorem saddImmS64 (f : SLit) : Statement (.saddImmS64 f) := scalar rfl rfl rfl (show 0x20 < 256 by decide)
theorem ssubImmS64 (f : SLit) : Statement (.ssubImmS64 f) := scalar rfl rfl rfl (show 0x21 < 256 by decide)
theorem smulImmS64 (f : SLit) : Statement (.smulImmS64 f) := scalar rfl rfl rfl (show 0x22 < 256 by decide)
theorem smulhI64ImmS64 (f : SLit) : Statement (.smulhI64ImmS64 f) := scalar rfl rfl rfl (show 0x23 < 256 by decide)
theorem smulhN64ImmS64 (f : SLit) : Statement (.smulhN64ImmS64 f) := scalar rfl rfl rfl (show 0x24 < 256 by decide)
theorem sandImmS64 (f : SLit) : Statement (.sandImmS64 f) := scalar rfl rfl rfl (show 0x28 < 256 by decide)
theorem sorImmS64 (f : SLit) : Statement (.sorImmS64 f) := scalar rfl rfl rfl (show 0x29 < 256 by decide)
theorem sxorImmS64 (f : SLit) : Statement (.sxorImmS64 f) := scalar rfl rfl rfl (show 0x2A < 256 by decide)
theorem sshlImmS64 (f : SLit) : Statement (.sshlImmS64 f) := scalar rfl rfl rfl (show 0x2C < 256 by decide)
theorem sshrImmS64 (f : SLit) : Statement (.sshrImmS64 f) := scalar rfl rfl rfl (show 0x2D < 256 by decide)
theorem ssarImmS64 (f : SLit) : Statement (.ssarImmS64 f) := scalar rfl rfl rfl (show 0x2E < 256 by decide)
theorem sminI64ImmS64 (f : SLit) : Statement (.sminI64ImmS64 f) := scalar rfl rfl rfl (show 0x30 < 256 by decide)
theorem sminN64ImmS64 (f : SLit) : Statement (.sminN64ImmS64 f) := scalar rfl rfl rfl (show 0x31 < 256 by decide)
theorem smaxI64ImmS64 (f : SLit) : Statement (.smaxI64ImmS64 f) := scalar rfl rfl rfl (show 0x32 < 256 by decide)
theorem smaxN64ImmS64 (f : SLit) : Statement (.smaxN64ImmS64 f) := scalar rfl rfl rfl (show 0x33 < 256 by decide)
theorem smov (sd sa : SName) : Statement (.smov sd sa) := scalar rfl rfl rfl (show 0x18 < 256 by decide)
theorem sli (sd : SName) (imm : BitVec 10) : Statement (.sli sd imm) := scalar rfl rfl rfl (show 0x38 < 256 by decide)
theorem sliS64 (sd : SName) (lit : BitVec 32) : Statement (.sliS64 sd lit) := scalar rfl rfl rfl (show 0x38 < 256 by decide)
theorem sbeq (sa sb : SName) (off : BitVec 10) : Statement (.sbeq sa sb off) := scalar rfl rfl rfl (show 0x40 < 256 by decide)
theorem sbne (sa sb : SName) (off : BitVec 10) : Statement (.sbne sa sb off) := scalar rfl rfl rfl (show 0x41 < 256 by decide)
theorem sblt (sa sb : SName) (off : BitVec 10) : Statement (.sblt sa sb off) := scalar rfl rfl rfl (show 0x42 < 256 by decide)
theorem sbge (sa sb : SName) (off : BitVec 10) : Statement (.sbge sa sb off) := scalar rfl rfl rfl (show 0x43 < 256 by decide)
theorem sbltn (sa sb : SName) (off : BitVec 10) : Statement (.sbltn sa sb off) := scalar rfl rfl rfl (show 0x44 < 256 by decide)
theorem sbgen (sa sb : SName) (off : BitVec 10) : Statement (.sbgen sa sb off) := scalar rfl rfl rfl (show 0x45 < 256 by decide)
theorem sbeqS64 (sa sb : SName) (lit : BitVec 32) : Statement (.sbeqS64 sa sb lit) := scalar rfl rfl rfl (show 0x40 < 256 by decide)
theorem sbneS64 (sa sb : SName) (lit : BitVec 32) : Statement (.sbneS64 sa sb lit) := scalar rfl rfl rfl (show 0x41 < 256 by decide)
theorem sbltS64 (sa sb : SName) (lit : BitVec 32) : Statement (.sbltS64 sa sb lit) := scalar rfl rfl rfl (show 0x42 < 256 by decide)
theorem sbgeS64 (sa sb : SName) (lit : BitVec 32) : Statement (.sbgeS64 sa sb lit) := scalar rfl rfl rfl (show 0x43 < 256 by decide)
theorem sbltnS64 (sa sb : SName) (lit : BitVec 32) : Statement (.sbltnS64 sa sb lit) := scalar rfl rfl rfl (show 0x44 < 256 by decide)
theorem sbgenS64 (sa sb : SName) (lit : BitVec 32) : Statement (.sbgenS64 sa sb lit) := scalar rfl rfl rfl (show 0x45 < 256 by decide)
theorem sjmp (off : BitVec 10) : Statement (.sjmp off) := scalar rfl rfl rfl (show 0x48 < 256 by decide)
theorem sjmpS64 (lit : BitVec 32) : Statement (.sjmpS64 lit) := scalar rfl rfl rfl (show 0x48 < 256 by decide)
theorem scall (off : BitVec 10) : Statement (.scall off) := scalar rfl rfl rfl (show 0x49 < 256 by decide)
theorem scallS64 (lit : BitVec 32) : Statement (.scallS64 lit) := scalar rfl rfl rfl (show 0x49 < 256 by decide)
theorem sret : Statement .sret := scalar rfl rfl rfl (show 0x4A < 256 by decide)
theorem sld (sd sa : SName) (mode : BitVec 6) : Statement (.sld sd sa mode) := scalar rfl rfl rfl (show 0x60 < 256 by decide)
theorem sldS64 (sd sa : SName) (mode : BitVec 6) (lit : BitVec 32) : Statement (.sldS64 sd sa mode lit) := scalar rfl rfl rfl (show 0x60 < 256 by decide)
theorem sst (sd sa : SName) (mode : BitVec 6) : Statement (.sst sd sa mode) := scalar rfl rfl rfl (show 0x61 < 256 by decide)
theorem sstS64 (sd sa : SName) (mode : BitVec 6) (lit : BitVec 32) : Statement (.sstS64 sd sa mode lit) := scalar rfl rfl rfl (show 0x61 < 256 by decide)
theorem aff (qn : BitVec 6) (sa : SName) : Statement (.aff qn sa) := scalar rfl rfl rfl (show 0x68 < 256 by decide)
theorem affPush (core slot q : Nat) : Statement (.affPush core slot q) := absent rfl
theorem affStreamFault (core slot q : Nat) : Statement (.affStreamFault core slot q) := absent rfl
theorem sqld (qn : BitVec 6) (sa sb : SName) (wide : Bool) : Statement (.sqld qn sa sb wide) := scalar rfl rfl rfl (show 0x70 < 256 by decide)
theorem queueEntryFill (core slot q : Nat) : Statement (.queueEntryFill core slot q) := absent rfl
theorem sqend (qn : BitVec 6) : Statement (.sqend qn) := scalar rfl rfl rfl (show 0x71 < 256 by decide)
theorem queueEndEffect (core slot q : Nat) : Statement (.queueEndEffect core slot q) := absent rfl
theorem lrun (first : SName) (count : BitVec 6) : Statement (.lrun first count) := scalar rfl rfl rfl (show 0x80 < 256 by decide)
theorem lrunS64 (first : SName) (count : BitVec 6) (lit : BitVec 32) : Statement (.lrunS64 first count lit) := scalar rfl rfl rfl (show 0x80 < 256 by decide)
theorem lsync : Statement .lsync := scalar rfl rfl rfl (show 0x81 < 256 by decide)
theorem srd (sd : SName) (number : BitVec 10) : Statement (.srd sd number) := scalar rfl rfl rfl (show 0xA0 < 256 by decide)
theorem swr (number : BitVec 10) (sa : SName) : Statement (.swr number sa) := scalar rfl rfl rfl (show 0xA1 < 256 by decide)
theorem grSp (sa : SName) : Statement (.grSp sa) := scalar rfl rfl rfl (show 0xA1 < 256 by decide)
theorem grStklim (sa : SName) : Statement (.grStklim sa) := scalar rfl rfl rfl (show 0xA1 < 256 by decide)
theorem swaitw (sd sa sb : SName) : Statement (.swaitw sd sa sb) := scalar rfl rfl rfl (show 0xA2 < 256 by decide)
theorem swaitwS64 (sd sa sb : SName) (lit : BitVec 32) : Statement (.swaitwS64 sd sa sb lit) := scalar rfl rfl rfl (show 0xA2 < 256 by decide)
theorem swaitwWake (core slot : Nat) (timeout : Bool) : Statement (.swaitwWake core slot timeout) := absent rfl
theorem skick (sa sb : SName) : Statement (.skick sa sb) := scalar rfl rfl rfl (show 0xA3 < 256 by decide)
theorem sexit : Statement .sexit := scalar rfl rfl rfl (show 0xA4 < 256 by decide)
theorem scalarStepLimit (word : BitVec 64) : Statement (.scalarStepLimit word) := absent rfl
theorem laneIssueOpportunity (core : Nat) : Statement (.laneIssueOpportunity core) := absent rfl
theorem operandGrant (core : Nat) : Statement (.operandGrant core) := absent rfl
theorem deferredTrap (core slot : Nat) : Statement (.deferredTrap core slot) := absent rfl
theorem groupFormed (core slot : Nat) : Statement (.groupFormed core slot) := absent rfl
theorem allocationReserve (core : Nat) : Statement (.allocationReserve core) := absent rfl
theorem cohortPreempt (core first : Nat) : Statement (.cohortPreempt core first) := absent rfl
theorem cohortRestore (saved core : Nat) : Statement (.cohortRestore saved core) := absent rfl
theorem queueTailWrite (q : Nat) : Statement (.queueTailWrite q) := absent rfl
theorem recordRead (die : Nat) : Statement (.recordRead die) := absent rfl
theorem kernelDeclare (kernel : Nat) : Statement (.kernelDeclare kernel) := absent rfl
theorem placementStep (die : Nat) : Statement (.placementStep die) := absent rfl
theorem placementAging (kernel : Nat) : Statement (.placementAging kernel) := absent rfl
theorem kernelComplete (kernel : Nat) : Statement (.kernelComplete kernel) := absent rfl
theorem cxTeardownDone (ctx : Nat) : Statement (.cxTeardownDone ctx) := absent rfl
theorem tableWalk (core ctx va : Nat) : Statement (.tableWalk core ctx va) := absent rfl
theorem uncorrectableError (pa : Nat) (reader : Reader) : Statement (.uncorrectableError pa reader) := absent rfl
theorem copyExpiry (core line : Nat) : Statement (.copyExpiry core line) := absent rfl
theorem signatureExpiry (line : Nat) : Statement (.signatureExpiry line) := absent rfl
theorem cacheEviction (core line : Nat) (l2 : Bool) : Statement (.cacheEviction core line l2) := absent rfl
theorem casnisFill (core ctx va : Nat) : Statement (.casnisFill core ctx va) := absent rfl
theorem skerryAccept (chan : Nat) : Statement (.skerryAccept chan) := absent rfl
theorem nmloadApply (chan : Nat) : Statement (.nmloadApply chan) := absent rfl
theorem skerryCommandStart (chan : Nat) : Statement (.skerryCommandStart chan) := absent rfl
theorem skerryWord (chan : Nat) : Statement (.skerryWord chan) := absent rfl
theorem bankRefresh (chan bank : Nat) (starts : Bool) : Statement (.bankRefresh chan bank starts) := absent rfl
theorem catchupReplay (chan bank : Nat) : Statement (.catchupReplay chan bank) := absent rfl
theorem transferColumn (chan : Nat) : Statement (.transferColumn chan) := absent rfl
theorem skerryCommandFinish (chan : Nat) : Statement (.skerryCommandFinish chan) := absent rfl
theorem linkTrained (link : Nat) (full : Bool) : Statement (.linkTrained link full) := absent rfl
theorem linkTrainingFailed (link : Nat) : Statement (.linkTrainingFailed link) := absent rfl
theorem linkErrorsOverLimit (link : Nat) : Statement (.linkErrorsOverLimit link) := absent rfl
theorem linkDrained (link : Nat) : Statement (.linkDrained link) := absent rfl
theorem flitReplay (link : Nat) : Statement (.flitReplay link) := absent rfl
theorem rmaWrite (ep : RmaTarget) (port addr : Nat) (bytes : List Byte) : Statement (.rmaWrite ep port addr bytes) := absent rfl
theorem rmaRead (ep : RmaTarget) (port addr len : Nat) : Statement (.rmaRead ep port addr len) := absent rfl
theorem rmaAtomic (ctx port addr : Nat) (cas : Bool) (operand compare : BitVec 64) : Statement (.rmaAtomic ctx port addr cas operand compare) := absent rfl
theorem unsupportedDelivery (port : Nat) : Statement (.unsupportedDelivery port) := absent rfl
theorem holmBalance (holm : Nat) (moving : BitVec 8) (energy : BitVec 64) : Statement (.holmBalance holm moving energy) := absent rfl
theorem undeclaredBurst (core : Nat) : Statement (.undeclaredBurst core) := absent rfl
theorem passDemandExpiry (quad : Nat) (which : PassDemand) : Statement (.passDemandExpiry quad which) := absent rfl
theorem hintOnset (core slot : Nat) : Statement (.hintOnset core slot) := absent rfl
theorem hintEnd (core slot : Nat) : Statement (.hintEnd core slot) := absent rfl
theorem railStep (rail : Nat) (upper : Bool) : Statement (.railStep rail upper) := absent rfl
theorem railHoldExpiry (rail : Nat) (upper : Bool) : Statement (.railHoldExpiry rail upper) := absent rfl
theorem bankTempCompare (core : Nat) (t0 t1 : BitVec 8) : Statement (.bankTempCompare core t0 t1) := absent rfl
theorem energyUpdate (ctx : Nat) (nj : BitVec 64) : Statement (.energyUpdate ctx nj) := absent rfl
theorem thermalLevelChange (stack : Nat) (temp : BitVec 8) : Statement (.thermalLevelChange stack temp) := absent rfl
theorem stackThermalDemand (stack : Nat) (temp : BitVec 8) : Statement (.stackThermalDemand stack temp) := absent rfl
theorem quadGateClose (quad : Nat) : Statement (.quadGateClose quad) := absent rfl
theorem quadWakeDone (quad : Nat) : Statement (.quadWakeDone quad) := absent rfl
theorem powerOn : Statement .powerOn := absent rfl
theorem startStepDone (failure : Option BootFailure) : Statement (.startStepDone failure) := absent rfl
theorem imageFetch (img : Image) : Statement (.imageFetch img) := absent rfl
theorem portRetry (port : Nat) (trained : Bool) : Statement (.portRetry port trained) := absent rfl
theorem recoveryImage (img : Image) : Statement (.recoveryImage img) := absent rfl
theorem quoteSigned : Statement .quoteSigned := absent rfl
theorem eventSinkUpdate : Statement .eventSinkUpdate := absent rfl
theorem eventConsumedWrite (count : BitVec 64) : Statement (.eventConsumedWrite count) := absent rfl
theorem badCmd (m : Mbox) : Statement (.badCmd m) := absent rfl
theorem cxCreate (m : Mbox) : Statement (.cxCreate m) := absent rfl
theorem cxBind (m : Mbox) : Statement (.cxBind m) := absent rfl
theorem cxStart (m : Mbox) : Statement (.cxStart m) := absent rfl
theorem cxSuspend (m : Mbox) : Statement (.cxSuspend m) := absent rfl
theorem cxResume (m : Mbox) : Statement (.cxResume m) := absent rfl
theorem cxTeardown (m : Mbox) : Statement (.cxTeardown m) := absent rfl
theorem cxSet (m : Mbox) : Statement (.cxSet m) := absent rfl
theorem cxClear (m : Mbox) : Statement (.cxClear m) := absent rfl
theorem cxRead (m : Mbox) : Statement (.cxRead m) := absent rfl
theorem qCreate (m : Mbox) : Statement (.qCreate m) := absent rfl
theorem qStart (m : Mbox) : Statement (.qStart m) := absent rfl
theorem qHalt (m : Mbox) : Statement (.qHalt m) := absent rfl
theorem qDrain (m : Mbox) : Statement (.qDrain m) := absent rfl
theorem qTeardown (m : Mbox) : Statement (.qTeardown m) := absent rfl
theorem qPrio (m : Mbox) : Statement (.qPrio m) := absent rfl
theorem qRead (m : Mbox) : Statement (.qRead m) := absent rfl
theorem pfReply (m : Mbox) : Statement (.pfReply m) := absent rfl
theorem invalidate (m : Mbox) : Statement (.invalidate m) := absent rfl
theorem unpoison (m : Mbox) : Statement (.unpoison m) := absent rfl
theorem poisonRead (m : Mbox) : Statement (.poisonRead m) := absent rfl
theorem linkEnable (m : Mbox) : Statement (.linkEnable m) := absent rfl
theorem linkDrain (m : Mbox) : Statement (.linkDrain m) := absent rfl
theorem linkDisable (m : Mbox) : Statement (.linkDisable m) := absent rfl
theorem linkRead (m : Mbox) : Statement (.linkRead m) := absent rfl
theorem epBind (m : Mbox) : Statement (.epBind m) := absent rfl
theorem aperture (m : Mbox) : Statement (.aperture m) := absent rfl
theorem podSet (m : Mbox) : Statement (.podSet m) := absent rfl
theorem gate (m : Mbox) : Statement (.gate m) := absent rfl
theorem ungate (m : Mbox) : Statement (.ungate m) := absent rfl
theorem passfloor (m : Mbox) : Statement (.passfloor m) := absent rfl
theorem vote (m : Mbox) : Statement (.vote m) := absent rfl
theorem share (m : Mbox) : Statement (.share m) := absent rfl
theorem coreset (m : Mbox) : Statement (.coreset m) := absent rfl
theorem partition (m : Mbox) : Statement (.partition m) := absent rfl
theorem warm (m : Mbox) : Statement (.warm m) := absent rfl
theorem cold (m : Mbox) : Statement (.cold m) := absent rfl
theorem quote (m : Mbox) : Statement (.quote m) := absent rfl
theorem idkey (m : Mbox) : Statement (.idkey m) := absent rfl
theorem image (m : Mbox) : Statement (.image m) := absent rfl
theorem evsink (m : Mbox) : Statement (.evsink m) := absent rfl
theorem helpers (m : Mbox) : Statement (.helpers m) := absent rfl
theorem noticeAccepted (core slot : Nat) : Statement (.noticeAccepted core slot) := absent rfl
theorem releaseComplete (core slot idx : Nat) : Statement (.releaseComplete core slot idx) := absent rfl

end Sys2Proof.Laws.Enc
end

