-- ==== Sys2Proof/Laws/Results.lean ====
section
/-!
SUPPORT. The shared shapes of the lane stream's register instructions: what an instruction of each shape puts.
-/
namespace Sys2Proof.Laws

open Sys2Proof Sys2Proof.Machine Sys2Proof.Safety

/-- One word to each lane. -/
theorem regs32_puts {i : Instr} {s : State} {e : Iss} {qs : List Queue} {lat : Nat} {w : Iss → Nat}
    {f : Iss → State → Nat → Nat} {fl : Iss → State → Flags}
    (hx : exec i s = runLane i s (fun e s => .ok (Done.regs s lat (write32 (w e) e.lanes (f e s)) (fl e s)))) :
    Puts32 i s e qs (w e) (fun l => BitVec.ofNat 32 (f e (issued s e qs) l)) (fl e (issued s e qs)) 0 :=
  puts32 (d := Done.regs (issued s e qs) lat (write32 (w e) e.lanes (f e (issued s e qs))) (fl e (issued s e qs)))
    hx (fun _ => rfl) rfl rfl rfl rfl rfl (fun _ _ => rfl)

/-- Two words to each lane. -/
theorem regs64_puts {i : Instr} {s : State} {e : Iss} {qs : List Queue} {lat : Nat} {w : Iss → Nat}
    {f : Iss → State → Nat → Nat} {fl : Iss → State → Flags}
    (hx : exec i s = runLane i s (fun e s => .ok (Done.regs s lat (write64 (w e) e.lanes (f e s)) (fl e s)))) :
    Puts64 i s e qs (w e) (fun l => BitVec.ofNat 64 (f e (issued s e qs) l)) (fl e (issued s e qs)) 0 :=
  puts64 (d := Done.regs (issued s e qs) lat (write64 (w e) e.lanes (f e (issued s e qs))) (fl e (issued s e qs)))
    hx (fun _ => rfl) rfl rfl rfl rfl rfl (fun _ _ => rfl)

/-- A floating result to each lane. -/
theorem float_puts {i : Instr} {s : State} {e : Iss} {qs : List Queue} {lat : Nat} {r : Iss → State → Nat → FRes}
    (hx : exec i s = runLane i s (fun e s => .ok (floatDone s e lat (r e s)))) :
    Puts32 i s e qs (fieldAt e.x 0).spec (fun l => BitVec.ofNat 32 (r e (issued s e qs) l).code)
      (laneFlags e (r e (issued s e qs))) 0 := regs32_puts (w := fun e => (fieldAt e.x 0).spec) hx

/-- One predicate. -/
theorem pred_puts {i : Instr} {s : State} {e : Iss} {qs : List Queue} {p : Nat} {m : Iss → State → Mask}
    {fl : Iss → State → Flags}
    (hx : exec i s = runLane i s (fun e s => .ok (Done.pred s p e.lanes (m e s) (fl e s)))) :
    PutsPreds i s e qs [p] (fun _ l => (m e (issued s e qs)).getLsbD l) (fl e (issued s e qs)) :=
  putsPreds (d := Done.pred (issued s e qs) p e.lanes (m e (issued s e qs)) (fl e (issued s e qs)))
    (m := fun _ => m e (issued s e qs)) hx (fun _ => rfl) rfl rfl rfl rfl rfl (fun _ _ _ _ => rfl)

end Sys2Proof.Laws
end

