-- ==== Sys2Proof/Tests/Slice0.lean ====
section
/-!
SUPPORT. Small checks of the model: what well-formedness refuses, words decoded by hand, and for each statement a state and
operands that meet its hypotheses.
-/
namespace Sys2Proof.Tests

open Sys2Proof Sys2Proof.Machine Sys2Proof.Safety

set_option maxRecDepth 100000
set_option Elab.async false

/-! ## Forms and states to work on -/

/-- A form without a literal, schedule or guard. -/
def fm (d a b c : BitVec 8) : LaneForm := ⟨d, a, b, c, ⟨0, 0, 7, 0, 0, false, false⟩, none⟩

/-- The same with a literal. -/
def fl (d a b c : BitVec 8) (v : BitVec 32) : LaneForm := { fm d a b c with lit := some v }

/-- The same with a scoreboard to set. -/
def fs (d a b c : BitVec 8) (n : BitVec 3) : LaneForm := { fm d a b c with ctl := { (fm 0 0 0 0).ctl with set := n } }

/-- A short form. -/
def sm (d a : BitVec 8) : ShortForm := ⟨d, a, 0, false, false, false⟩

/-- A register of a 32-lane group set, one word per lane. -/
def setV (l : Lane) (n : Nat) (f : Nat → Nat) : Lane :=
  { l with regs := (List.range 4).foldl (fun r q =>
      mset r (n * 8 + q) ((List.range 8).map (fun j => BitVec.ofNat 32 (f (8 * q + j))))) l.regs }

/-- The package of the fixture at a turn (log 10). -/
def placed (t : Turn) : State :=
  let s := State.reset
  let s := { s with
    mem := fixtureTables s.mem,
    cores := mset s.cores 0 Core.reset, dieStacks := mset s.dieStacks 0 Stack.reset, ctxs := mset s.ctxs 0 fixtureContext,
    kernels := mset s.kernels 0 fixtureKernel, quads := mset s.quads 0 Quad.reset, turn := t }
  modGroup (placeCohort s 0 0 fixtureKernel) 0 0 readyFixture

/-- The lane stream's turn: v0 holds lane numbers, v8 data addresses, v10 scratchpad offsets, v12 and v14 the FP32 words of
1 and 3; k0 holds a data address, k1 a scratchpad offset, k2 is 1. -/
def laneTurn : State :=
  modLane (placed (.lane 0 0)) 0 0 (fun l =>
    let l := setV l 0 (fun j => j)
    let l := setV l 8 (fun j => 0x2000 + 8 * j)
    let l := setV l 10 (fun j => 64 + 8 * j)
    let l := setV l 12 (fun _ => 0x3F800000)
    let l := setV l 14 (fun _ => 0x40400000)
    { l with ks := [0x2000, 64, 1, 0, 0, 0, 0, 0] })

/-- The same with 64 lanes. -/
def wideTurn : State :=
  modGroup laneTurn 0 0 (fun g => { g with wcode := 3, ln := { g.ln with em := BitVec.allOnes 64 } })

/-- The same with one lane left in `em`. -/
def oneLane (s : State) : State := modLane s 0 0 (fun l => { l with em := 1 })

/-- The scalar stream's turn: s1 is 7, s2 the address 0x2000, s3 the scratchpad offset 64. -/
def scalarTurn : State :=
  modScalar (placed (.scalar 0 0)) 0 0 (fun z => { z with s := [0, 7, 0x2000, 64] })

/-- What a lane instruction issues with at the turn of a state, where it does, and the queues after its pops. -/
def issueOf (i : Instr) (s : State) : Option (Iss × List Queue) :=
  match s.turn with
  | .lane core slot =>
    match groupOf s core slot, fieldsOf i with
    | some g, some x0 =>
      let x := settleFields g.ln.fmt x0
      let e := issOf s core slot g x
      if canIssue s g = true ∧ g.deferredAccess = [] ∧ waitsMet g.ln i x = true ∧ collectorFree (coreOf s core) slot = true ∧
          planeHolds (coreOf s core) slot = false ∧ sfuFull s i e = false ∧ (issueChecks g (cohortOf (coreOf s core) g) i x).toBool = true ∧
          (checkOffset g i).toBool = true ∧ skips e = false then
        match popFields g.ln.fmt (x.fields.drop 1) g.qs with
        | .ok (pops, qs) => some ({ e with pops := pops }, qs)
        | .error _ => none
      else none
    | _, _ => none
  | _ => none

/-- An instruction issues in a state, and what it issues with has a property. -/
def given (i : Instr) (s : State) (p : Iss → List Queue → Bool) : Bool :=
  match issueOf i s with
  | some (e, qs) => p e qs
  | none => false

/-! ## What well-formedness refuses, one term for each check -/

/-- R37: a literal that no field may read, and a literal that must be there. -/
theorem test_illformed_literal : wellFormed (.nop (fl 0 0 0 0 1)) = false ∧ wellFormed (.bra (fm 0 0 0 0)) = false := by decide +kernel

/-- R36: set = 6 anywhere, no scoreboard on a variable latency, a scoreboard on a control instruction. -/
theorem test_illformed_set :
    wellFormed (.iadd (fs 1 2 3 0 6)) = false ∧ wellFormed (.ld (fm 2 8 0 0)) = false ∧ wellFormed (.exit (fs 0 0 0 0 1)) = false := by
  decide +kernel

/-- R36, R56: guard bits without a guard, and a guard on a uniform instruction. -/
theorem test_illformed_guard :
    wellFormed (.iadd { fm 1 2 3 0 with ctl := ⟨0, 0, 7, 0, 1, false, false⟩ }) = false ∧
    wellFormed (.msync { fm 1 0 0 0 with ctl := ⟨0, 0, 7, 0, 1, false, true⟩ }) = false := by decide +kernel

/-- R136: `kwait` with a last-read bit. -/
theorem test_illformed_kwait : wellFormed (.kwait { fm 0 0 0 0 with ctl := ⟨0, 0, 7, 1, 0, false, false⟩ }) = false := by decide +kernel

/-- R38, R215: slot 0 not LDA, an operator 14, a unary operator with a select, a slot after END. -/
theorem test_illformed_chain :
    wellFormed (.chain ⟨4, 1, 2, 0, 0, false, 0⟩) = false ∧ wellFormed (.chain ⟨4, 1, 2, 0, 0, false, 0xE04⟩) = false ∧
    wellFormed (.chain ⟨4, 1, 2, 0, 0, false, 0xA44⟩) = false ∧ wellFormed (.chain ⟨4, 1, 2, 0, 0, false, 0x8004⟩) = false := by
  decide +kernel

/-- R234, R243, R152: a sign-extending store, nine parameters, a range past s63, and a register with its own name. -/
theorem test_illformed_scalar :
    wellFormed (.sst 1 2 0x20) = false ∧ wellFormed (.sstS64 1 2 0x20 0) = false ∧ wellFormed (.lrun 1 9) = false ∧
    wellFormed (.lrunS64 60 5 0) = false ∧ wellFormed (.swr 0x050 1) = false := by decide +kernel

/-- A hardware step of a unit that the package does not have. -/
theorem test_illformed_steps :
    wellFormed (.operandGrant 1024) = false ∧ wellFormed (.sfuResult 0 32) = false ∧ wellFormed (.skerryWord 384) = false ∧
    wellFormed (.quadGateClose 256) = false ∧ wellFormed (.thermalLevelChange 12 0) = false ∧ wellFormed (.queueTailWrite 4096) = false ∧
    wellFormed (.railStep 16 true) = false ∧ wellFormed (.portRetry 8 true) = false := by decide +kernel

/-- R30, R34: words that no encoding names. -/
theorem test_undecoded :
    decodeWord .lane 0x40000308 = none ∧ decodeWord .lane 0x0000000000000FFE = none ∧ decodeWord .scalar 0x00000001 = none ∧
    decodeWord .scalar 0x10C20400 = none := by decide +kernel

/-! ## Words written out by hand from R34 to R41 and the maps of R63 to R65 -/

theorem test_decode_integer :
    decodeWord .lane 0xE0000990A04006 = some (.isub (fm 4 10 153 0)) ∧
    decodeWord .lane 0xFFFFFFFB00E00000CFF0204F = some (.isubSat .n32 (fl 2 255 12 0 0xFFFFFFFB)) ∧
    decodeWord .lane 0xD8E000003020108E = some (.andn { fm 1 2 3 0 with ctl := ⟨0, 0, 7, 0, 3, true, true⟩ }) ∧
    decodeWord .lane 0xE0000000A040CA = some (.sar (fm 4 10 0 0)) ∧
    decodeWord .lane 0x510D000706050F6 = some (.bfx .n32 { fm 5 6 7 0 with ctl := ⟨5, 0x21, 0, 5, 0, false, false⟩ }) ∧
    decodeWord .lane 0xE000009080611E = some (.icmp .leN (fm 6 8 9 0)) ∧
    decodeWord .lane 0x3F7F0F38 = some (.imaxI32Short ⟨0x0F, 0x7F, 7, true, true, true⟩) := by
  decide +kernel

theorem test_decode_float :
    decodeWord .lane 0xE000003020142A = some (.fsub .rtz (fm 1 2 3 0)) ∧
    decodeWord .lane 0xE0004030201472 = some (.ffma .rdn (fm 1 2 3 4)) ∧
    decodeWord .lane 0xE00000908034DE = some (.fcmp .uno (fm 3 8 9 0)) ∧
    decodeWord .lane 0xE00000605044F2 = some (.setfpc (fm 4 5 6 0)) ∧
    decodeWord .lane 0xE0000060504616 = some (.hmul2 .bf16 (fm 4 5 6 0)) ∧
    decodeWord .lane 0xE000706050470E = some (.cvt .rup (fm 4 5 6 7)) ∧
    decodeWord .lane 0xE0000000504732 = some (.upk2 .f16 (fm 4 5 0 0)) ∧
    decodeWord .lane 0x40000000504786 = some (.rsq (fs 4 5 0 0 2)) ∧
    decodeWord .lane 0x503AC = some (.hmul2Bf16Short (sm 3 5)) := by
  decide +kernel

theorem test_decode_exchange :
    decodeWord .lane 0xE0005060504806 = some (.shfl .up (fm 4 5 6 5)) ∧
    decodeWord .lane 0xE000000030482A = some (.voteBal (fm 4 3 0 0)) ∧
    decodeWord .lane 0xE0005000504852 = some (.red .maxI (fm 4 5 0 5)) ∧
    decodeWord .lane 0xE00020005048AA = some (.scan .xor (fm 4 5 0 2)) ∧
    decodeWord .lane 0xE00000005008D6 = some (.psplit (fm 0 5 0 0)) := by
  decide +kernel

theorem test_decode_control :
    decodeWord .lane 0xFFFFFFC0D8E0001070000903 = some (.bra { fl 0 0 7 1 0xFFFFFFC0 with ctl := ⟨0, 0, 7, 0, 3, true, true⟩ }) ∧
    decodeWord .lane 0xE000000040090A = some (.jmpi (fm 0 4 0 0)) ∧
    decodeWord .lane 0x706050400E0000000301927 = some (.mtab (fl 1 3 0 0 0x07060504)) ∧
    decodeWord .lane 0xE0080000FFF952 = some (.ckpt (fm 0xFF 0x0F 0 0x80)) ∧
    decodeWord .lane 0xE0012340000962 = some (.wait (fm 0 0 0x34 0x12)) ∧
    decodeWord .lane 0xE0000009200976 = some (.emwr (fm 0 146 0 0)) ∧
    decodeWord .lane 0x4000E0000000000983 = some (.salloc (fl 0 0 0 0 64)) ∧
    decodeWord .lane 0xE00ABCD00009A2 = some (.trap (fm 0 0 0xCD 0xAB)) ∧
    decodeWord .lane 0x4 = some (.nopShort (sm 0 0)) := by
  decide +kernel

theorem test_decode_memory :
    decodeWord .lane 0x60000020A04A12 = some (.lds (fs 4 10 2 0 3)) ∧
    decodeWord .lane 0xE000C020800A0A = some (.st (fm 0 8 2 12)) ∧
    decodeWord .lane 0x200310C0804A3E = some (.atom .cas (fs 4 8 12 0x31 1)) ∧
    decodeWord .lane 0xE00210C0800A56 = some (.ared .xor (fm 0 8 12 0x21)) ∧
    decodeWord .lane 0xE0000000B00A62 = some (.fence (fm 0 0x0B 0 0)) ∧
    decodeWord .lane 0xE0000009100A8E = some (.kcfg (fm 0 145 0 0)) ∧
    decodeWord .lane 0xE0000919000A92 = some (.rld (fm 0 144 145 0)) ∧
    decodeWord .lane 0xE0000000100AA6 = some (.vfcfg (fm 0 1 0 0)) ∧
    decodeWord .lane 0x80001900804AC6 = some (.tfet (fs 4 8 144 1 4)) ∧
    decodeWord .lane 0xE0000040800AEA = some (.cinv (fm 0 8 4 0)) := by
  decide +kernel

theorem test_decode_arrays :
    decodeWord .lane 0x40006050403C02 = some (.mma (fs 3 4 5 6 2)) ∧
    decodeWord .lane 0xE003F0D0403C0E = some (.mmwr (fm 3 4 13 63)) ∧
    decodeWord .lane 0x3E800E0000021000C23 = some (.phint (fl 0 16 2 0 1000)) ∧
    decodeWord .lane 0xE0000009103D02 = some (.placq (fm 3 145 0 0)) ∧
    decodeWord .lane 0xE00000090ACD1A = some (.plexq (fm 172 144 0 0)) ∧
    decodeWord .lane 0xE00AFAEADACD3E = some (.plsel (fm 172 173 174 175)) ∧
    decodeWord .lane 0xE0000AEADACD5E = some (.plcmp .uno (fm 172 173 174 0)) ∧
    decodeWord .lane 0xA0000000704D8A = some (.plcov (fs 4 7 0 0 5)) := by
  decide +kernel

theorem test_decode_package :
    decodeWord .lane 0xE0000920B00E0E = some (.bari (fm 0 0x0B 146 0)) ∧
    decodeWord .lane 0x20000000804E22 = some (.klaunch (fs 4 8 0 0 1)) ∧
    decodeWord .lane 0xE0004919000E32 = some (.xinv (fm 0 144 145 4)) ∧
    decodeWord .lane 0x20000009004E4A = some (.nmlease (fs 4 144 0 0 1)) := by
  decide +kernel

theorem test_decode_scalar_alu :
    decodeWord .scalar 0xFFFFFFFE00040C92 = some (.smulhN64ImmS64 ⟨3, 4, 0xFFFFFFFE⟩) ∧
    decodeWord .scalar 0xFFC20480 = some (.saddImm ⟨1, 2, 0x3FF⟩) ∧
    decodeWord .scalar 0xC20438 = some (.ssar ⟨1, 2, 3⟩) ∧
    decodeWord .scalar 0x20460 = some (.smov 1 2) ∧
    decodeWord .scalar 0x814004E0 = some (.sli 1 0x205) := by
  decide +kernel

theorem test_decode_scalar_branch :
    decodeWord .scalar 0xF081F914 = some (.sbgen 1 2 0x3FE) ∧
    decodeWord .scalar 0x400081010E = some (.sbgeS64 1 2 64) ∧
    decodeWord .scalar 0x1400120 = some (.sjmp 5) ∧
    decodeWord .scalar 0x10000000126 = some (.scallS64 256) ∧
    decodeWord .scalar 0x128 = some (.sret) := by
  decide +kernel

theorem test_decode_scalar_memory :
    decodeWord .scalar 0x6420580 = some (.sld 1 2 0x19) ∧
    decodeWord .scalar 0x806820586 = some (.sstS64 1 2 0x1A 8) ∧
    decodeWord .scalar 0x20DA0 = some (.aff 3 2) ∧
    decodeWord .scalar 0x11020DC0 = some (.sqld 3 2 4 true) ∧
    decodeWord .scalar 0xDC4 = some (.sqend 3) := by
  decide +kernel

theorem test_decode_scalar_system :
    decodeWord .scalar 0x4001080202 = some (.lrunS64 8 4 64) ∧
    decodeWord .scalar 0x204 = some (.lsync) ∧
    decodeWord .scalar 0x10400680 = some (.srd 1 0x041) ∧
    decodeWord .scalar 0x14020284 = some (.grSp 2) ∧
    decodeWord .scalar 0xC2028C = some (.skick 2 3) ∧
    decodeWord .scalar 0x290 = some (.sexit) := by
  decide +kernel

theorem ok_of_toBool {r : Res Unit} (h : r.toBool = true) : r = .ok () := by
  cases r
  · cases h
  · rfl

/-- What `issueOf` finds is what the instruction issues with. -/
theorem issues_of {i s e qs} (h : issueOf i s = some (e, qs)) : Issues i s e qs := by
  unfold issueOf at h
  split at h <;> try contradiction
  rename_i core slot ht
  split at h <;> try contradiction
  rename_i g x0 hg hx
  dsimp only at h
  split at h <;> try contradiction
  rename_i hc
  split at h <;> try contradiction
  rename_i pops qs' hp
  simp only [Option.some.injEq, Prod.mk.injEq] at h
  obtain ⟨rfl, rfl⟩ := h
  obtain ⟨h1, h2, h3, h4, h5, h9, h6, h7, h8⟩ := hc
  exact { turn := ht, group := hg, fields := by rw [hx]; rfl, lanes := rfl, cas := rfl, can := h1, access := h2, waits := h3,
          collector := h4, plane := h5, sfu := h9, checks := ok_of_toBool h6, offset := ok_of_toBool h7, takes := h8, pops := hp }

/-- A witness for the hypotheses of a statement about an instruction that issues. -/
theorem given_holds {i s p} (h : given i s p = true) : ∃ e qs, Issues i s e qs ∧ p e qs = true := by
  unfold given at h
  split at h
  · rename_i e qs he
    exact ⟨e, qs, issues_of he, h⟩
  · cases h

/-- It issues, and goes on without a stall or a trap. -/
def runs (i : Instr) (s : State) : Bool := given i s (fun e _ =>
  match exec i s with
  | .next t => match groupOf t e.core e.slot with
    | some g => g.ln.handler.isNone && !g.faulting && (match g.ln.state with
      | .stalled .queueEmpty => !g.ln.inBlock
      | .stalled _ => false
      | _ => true)
    | none => true
  | _ => false)

/-- It issues and traps, with a code in the record of its group's slot. -/
def traps (i : Instr) (s : State) (code : Nat) : Bool := given i s (fun e _ =>
  match exec i s with
  | .next t => decide ((Memory.read (coreOf t e.core).scratch (trapSlot e.slot)).toNat = code)
  | _ => false)

/-- Its destinations have no older write on their way, registers are free, no flag is enabled. -/
def puts (i : Instr) (s : State) : Bool := accepts i && given i s (fun e _ =>
  let d := (fieldAt e.x 0).spec
  ([d, d + 1].all fun n => (List.range 64).all fun l => decide (landsAt e.g.ln (laneName e.g.ln n l) ≤ e.g.ln.clock)) &&
    decide (16 * 2 ≤ (coreOf s e.core).pool) && (laneFp e.g.ln.fpc (BitVec.allOnes 5)).isNone)


/-! ## The formal link from these checks to the hypotheses of the statements -/

/-- What `puts` finds are the hypotheses of `Puts32` and `Puts64`, whatever flags the result raises. -/
theorem puts_holds {i s} (h : puts i s = true) : ∃ e qs, Issues i s e qs ∧
    (∀ n, n = (fieldAt e.x 0).spec ∨ n = (fieldAt e.x 0).spec + 1 → Quiet e n) ∧ Room s e 2 ∧
    ∀ fl, laneFp e.g.ln.fpc fl = none := by
  unfold puts at h
  simp only [Bool.and_eq_true] at h
  obtain ⟨e, qs, hi, hp⟩ := given_holds h.2
  simp only [Bool.and_eq_true, List.all_cons, List.all_nil, Bool.and_true, List.all_eq_true, List.mem_range,
    decide_eq_true_eq] at hp
  obtain ⟨⟨⟨h0, h1⟩, hr⟩, hf⟩ := hp
  refine ⟨e, qs, hi, ?_, hr, fun fl => ?_⟩
  · rintro n (rfl | rfl) lane ⟨hl, -⟩
    · exact h0 lane (by have := BitVec.lt_of_getLsbD hl; omega)
    · exact h1 lane (by have := BitVec.lt_of_getLsbD hl; omega)
  · have hz : enabledFlags e.g.ln.fpc (BitVec.allOnes 5) = 0 := by
      unfold laneFp at hf
      split at hf
      · assumption
      · cases hf
    have : enabledFlags e.g.ln.fpc fl = 0 := by
      unfold enabledFlags at hz ⊢
      rw [BitVec.allOnes_and] at hz
      rw [hz]; simp
    simp [laneFp, this]

/-- A witness for all hypotheses of the statement on integer results together. -/
theorem witness_IntegerResults : ∃ i s e qs, ∃ val : Nat → Word,
    (∀ lane, Rules.integer e.g.ln.fpc (fun k => Rules.src s e qs k lane) i = some (val lane)) ∧ Issues i s e qs ∧
      Quiet e (Rules.dst e) ∧ Room s e 1 ∧ laneFp e.g.ln.fpc 0 = none := by
  obtain ⟨e, qs, hi, hq, hr, hf⟩ := puts_holds (i := .iadd (fm 4 10 12 0)) (s := laneTurn) (by decide +kernel)
  exact ⟨_, _, e, qs, _, fun _ => rfl, hi, hq _ (.inl rfl), Nat.le_trans (by decide) hr, hf 0⟩

/-! ## Results: an instruction of each statement issues, with its destination free -/

/-- R196 to R198: the long forms; a literal, `zero` as destination, an o name, a scoreboard. -/
theorem witness_integer_forms :
    [Instr.iadd (fl 4 10 255 0 5),
      .isub (fm 153 10 12 0),
      .imul (fs 4 10 12 0 5),
      .imulh .i32 (fm 4 10 12 0),
      .imulh .n32 (fm 4 10 144 0),
      .imad (fm 135 10 12 13),
      .iabs (fm 4 10 0 0),
      .imin .i32 (fm 4 10 12 0),
      .imin .n32 (fm 4 10 12 0),
      .imax .i32 (fm 4 10 12 0),
      .imax .n32 (fm 4 10 12 0),
      .iaddSat .i32 (fm 4 10 12 0),
      .iaddSat .n32 (fm 4 10 12 0),
      .isubSat .i32 (fm 4 10 12 0),
      .isubSat .n32 (fm 4 10 12 0),
      .and (fm 4 10 12 0),
      .or (fm 4 10 12 0),
      .xor (fm 4 10 12 0),
      .andn (fm 4 10 12 0),
      .not (fm 4 10 0 0),
      .mov (fl 4 255 0 0 0xFFFFFFFF),
      .popc (fm 4 10 0 0),
      .clz (fm 4 10 0 0),
      .ctz (fm 4 10 0 0),
      .brev (fm 4 10 0 0),
      .shl (fm 4 10 12 0),
      .shr (fm 4 10 12 0),
      .sar (fm 4 10 12 0),
      .rot (fm 4 10 12 0),
      .bfx .i32 (fm 4 10 12 0),
      .bfx .n32 (fm 4 10 12 0),
      .bfi (fm 4 10 12 14)].all
      (puts · laneTurn) = true := by decide +kernel

/-- The short ones, whose sources are field 0 and field 4 (R64). -/
theorem witness_integer_short_forms :
    [Instr.iaddShort (sm 2 8),
      .isubShort (sm 2 8),
      .imulShort (sm 2 8),
      .andShort (sm 2 8),
      .orShort (sm 2 8),
      .xorShort (sm 2 8),
      .andnShort (sm 2 8),
      .shlShort (sm 2 8),
      .shrShort (sm 2 8),
      .sarShort (sm 2 8),
      .rotShort (sm 2 8),
      .iminI32Short (sm 2 8),
      .imaxI32Short (sm 2 8),
      .iminN32Short (sm 2 8),
      .imaxN32Short (sm 2 8),
      .movShort (sm 2 8),
      .notShort (sm 2 8),
      .iabsShort (sm 2 8),
      .popcShort (sm 2 8),
      .clzShort (sm 2 8),
      .ctzShort (sm 2 8),
      .brevShort (sm 2 8)].all
      (puts · laneTurn) = true := by decide +kernel

/-- R219, R220: sub-groups of 2 and of 32 lanes, swaps by 1 and by 16. -/
theorem witness_MoveResults :
    [Instr.shfl .idx (fm 4 10 12 1),
      .shfl .xor (fm 4 10 12 5),
      .shfl .up (fm 4 10 12 5),
      .shfl .dn (fm 4 10 12 5),
      .swp (fm 4 10 0 0),
      .swp (fm 4 10 4 0),
      .sel (fm 4 10 12 6),
      .sel (fm 4 10 12 7),
      .pcat (fm 4 0 0 0)].all
      (puts · laneTurn) = true := by decide +kernel

theorem witness_PairResults :
    [Instr.add64 (fm 4 10 12 0),
      .sub64 (fm 134 10 12 0),
      .emrd (fm 4 0 0 0),
      .voteBal (fm 153 7 0 0),
      .upk2 .f16 (fm 4 10 0 0),
      .upk2 .bf16 (fm 4 10 0 0)].all
      (puts · laneTurn) = true := by decide +kernel

theorem witness_FloatResults :
    [Instr.fadd .rne (fm 4 12 14 0),
      .fsub .rtz (fm 4 12 14 0),
      .fmul .rup (fm 4 12 14 0),
      .ffma .rdn (fm 4 12 14 12),
      .ffma .dflt (fm 4 12 14 12),
      .fmin (fm 4 12 14 0),
      .fmax (fm 4 12 14 0),
      .frnd .rne (fm 4 12 0 0),
      .fclass (fm 4 12 0 0),
      .faddShort (sm 12 14),
      .fsubShort (sm 12 14),
      .fmulShort (sm 12 14),
      .fminShort (sm 12 14),
      .fmaxShort (sm 12 14)].all
      (puts · laneTurn) = true := by decide +kernel

theorem witness_SignBits :
    [Instr.fabs (fm 4 12 0 0),
      .fneg (fm 4 12 0 0),
      .fabsShort (sm 4 12),
      .fnegShort (sm 4 12)].all
      (puts · laneTurn) = true := by decide +kernel

theorem witness_PackedResults :
    [Instr.hadd2 .f16 (fm 4 12 14 0),
      .hsub2 .bf16 (fm 4 12 14 0),
      .hmul2 .f16 (fm 4 12 14 0),
      .hmin2 .bf16 (fm 4 12 14 0),
      .hmax2 .f16 (fm 4 12 14 0),
      .hfma2 .bf16 (fm 4 12 14 12),
      .pk2 .f16 (fm 4 12 14 0),
      .hadd2F16Short (sm 4 12),
      .hadd2Bf16Short (sm 4 12),
      .hmul2F16Short (sm 4 12),
      .hmul2Bf16Short (sm 4 12),
      .cvt .rne (fm 4 12 2 10)].all
      (puts · laneTurn) = true := by decide +kernel

theorem witness_WideConversion :
    [Instr.cvt .rne (fm 4 12 3 10),
      .cvt .rtz (fm 4 12 10 3), .cvt .rup (fm 4 12 13 7), .cvt .rne (fm 4 12 10 10)].all
      (puts · laneTurn) = true := by decide +kernel

theorem witness_CombinedResults :
    [Instr.chain ⟨4, 12, 14, 0, 0, false, 0xC19706⟩,
      .red .addI (fm 4 12 0 1),
      .red .maxF (fm 4 12 0 5),
      .red .and (fm 4 12 0 5),
      .scan .addF (fm 4 12 0 1),
      .scan .minI (fm 4 12 0 5),
      .scan .xor (fm 4 12 0 5)].all
      (puts · laneTurn) = true := by decide +kernel

/-- An instruction that writes predicates issues, with no older write to them on its way. -/
def putsPreds (i : Instr) (s : State) : Bool := accepts i && given i s (fun e _ =>
  ((List.range 8).all fun p => decide (landsAt e.g.ln (predName p) ≤ e.g.ln.clock)) &&
    (laneFp e.g.ln.fpc (BitVec.allOnes 5)).isNone)

theorem witness_PredicateResults :
    ([ICond.eq, .ne, .ltI, .leI, .gtI, .geI, .ltN, .leN, .gtN, .geN].all (fun c => putsPreds (.icmp c (fm 6 10 12 0)) laneTurn)) = true ∧
    [Instr.icmp .eq (fm 7 10 12 0), .fcmp .lt (fm 0 12 14 0), .fcmp .uno (fm 6 12 14 0), .voteAny (fm 1 7 0 0), .voteAll (fm 1 0 0 0),
      .pand (fm 1 2 7 0), .por (fm 1 2 3 0), .pxor (fm 1 2 3 0), .pnot (fm 1 2 0 0), .pmov (fm 1 10 0 0), .psplit (fm 0 10 0 0)].all
      (putsPreds · laneTurn) = true := by
  constructor <;> decide +kernel

/-- Sub-groups of 64 lanes and swaps by 32, in a 64-lane group. -/
theorem witness_wide_groups :
    [Instr.shfl .idx (fm 4 10 12 6), .swp (fm 4 10 5 0), .red .addI (fm 4 12 0 6), .scan .addF (fm 4 12 0 6)].all
      (puts · wideTurn) = true := by decide +kernel

/-! ## Encoding, reset and steps -/

/-- Decoding and encoding agree on an instruction of each layout, with every field at its highest admitted value. -/
noncomputable def agrees (i : Instr) (st : Stream) : Bool :=
  match encode i with
  | some (s, n, w) => accepts i && decide (s = st) && decide (w < 2 ^ n) && decide (decodeWord st w = some i) &&
      decide (decode st (bytesOfWord (n / 8) w ++ [0xFF]) = some (i, n / 8))
  | none => false

theorem witness_DecodeEncode_EncodeDecode :
    agrees (.iadd ⟨0xFF, 0xFF, 0xFF, 0xFF, ⟨7, 0x3F, 7, 7, 7, true, true⟩, some 0xFFFFFFFF⟩) .lane = true ∧
    agrees (.iaddShort ⟨0xFF, 0xFF, 7, true, true, true⟩) .lane = true ∧
    agrees (.chain ⟨0xFF, 0xFF, 0xFF, 0xFF, 0xFF, true, 0xC19706⟩) .lane = true ∧
    agrees (.ckptx ⟨0xFFFFFFFFFFFF, 7⟩) .lane = true ∧ agrees (.kwait (fm 7 0 0 0)) .lane = true ∧
    agrees (.sadd ⟨0x3F, 0x3F, 0x3F⟩) .scalar = true ∧ agrees (.saddImmS64 ⟨0x3F, 0x3F, 0xFFFFFFFF⟩) .scalar = true ∧
    agrees (.sbgen 0x3F 0x3F 0x3FF) .scalar = true ∧ agrees (.sst 0x3F 0x3F 0x1F) .scalar = true := by
  decide +kernel

/-- A scalar stream that may issue, with no step limit. -/
def scalarCan (i : Instr) (s : State) (p : Group → ScalarFields → Bool) : Bool :=
  match s.turn, scalarFields i with
  | .scalar core slot, some x =>
    match groupOf s core slot with
    | some g => canScalar s g && !(isScalarAlu x && stepsFull g) && p g x
    | none => false
  | _, _ => false

/-- What `scalarCan` finds are the hypotheses of a statement about a scalar instruction. -/
theorem scalarCan_holds {i s p} (h : scalarCan i s p = true) :
    ∃ x core slot g, scalarFields i = some x ∧ ScalarReady x s core slot g ∧ p g x = true := by
  unfold scalarCan at h
  split at h <;> try contradiction
  rename_i core slot x ht hx
  split at h <;> try contradiction
  rename_i g hg
  simp only [Bool.and_eq_true, Bool.not_eq_true'] at h
  exact ⟨x, core, slot, g, hx, ⟨ht, hg, h.1.1, h.1.2⟩, h.2⟩

theorem witness_LengthCodes : scalarCan (.sadd ⟨1, 1, 1⟩) scalarTurn (fun _ _ => true) = true := by decide +kernel

theorem witness_ResetMemoryForm : Memory.wf State.reset.mem = true ∧ Memory.wf (coreOf State.reset 0).scratch = true := by
  decide +kernel

/-- The canonical form holds in a package that runs, and a step of it goes on. -/
theorem witness_StepKeepsMemoryForm :
    let s := State.reset.withFetchWord 32 4
    Memory.wf s.mem = true ∧ (s.cores.all fun p => Memory.wf p.2.scratch) = true ∧
      (match step s with
       | .next _ => true
       | _ => false) = true := by
  decide +kernel

/-- The words at an address are fetched as these bytes, from a page with or without c. -/
def codeIs (s : State) (core ctx va : Nat) (c : Nat) (bs : List Byte) : Bool :=
  (List.range (bs.length / 4)).all (fun j =>
    match checkOne s core ctx (va + 4 * j) 4 .fetch with
    | .ok x => decide (codeBytes s core x 4 = (bs.drop (4 * j)).take 4) && decide (x.leaf / 32 % 2 = c)
    | .error _ => false)

/-- A lane stream's turn without inputs, commands or anything before its instruction. -/
noncomputable def laneOwn (s : State) (p : Group → Bool) : Bool :=
  let s0 := tick s
  match s.turn, groupOf s0 0 0 with
  | .lane 0 0, some g => s.agenda.isEmpty && (nextWaiting s0).isNone && (nextCommand s0).isNone && (beforeLane s0 0 0).isNone &&
      !dueLane s0 g && canIssue s0 g && !ungranted s0 0 0 && (helperStep s0 0 0 g).isNone && p g
  | _, _ => false

/-- The same for a scalar stream. -/
noncomputable def scalarOwn (s : State) (p : Group → Bool) : Bool :=
  let s0 := tick s
  match s.turn, groupOf s0 0 0 with
  | .scalar 0 0, some g => s.agenda.isEmpty && (nextWaiting s0).isNone && (nextCommand s0).isNone && !dueScalar s0 g && canScalar s0 g && p g
  | _, _ => false

theorem witness_StepRuns_lane :
    let bs := bytesOfWord 12 0x00000064D8E0000FF0201003
    let s := State.reset.withFetchWord 96 0x00000064D8E0000FF0201003
    laneOwn s (fun g => codeIs (tick s) 0 g.ctx g.ln.pc.addr.toNat 0 bs && decide ((decode .lane bs).map (·.2) = some 12)) = true := by
  decide +kernel

theorem witness_StepRuns_translated :
    let s := { laneTurn with mem := Memory.writeBytes laneTurn.mem 0x20000 (natToBytes 8 0x1000003F) }
    let s := modCore s 0 (fun k => { k with icache := [(0x1000, [.nop (fm 0 0 0 0)])] })
    laneOwn s (fun g => match fetchLane (tick s) 0 g with
      | .ok (.translated i) => decide (i = .nop (fm 0 0 0 0))
      | _ => false) = true := by
  decide +kernel

theorem witness_StepRuns_scalar :
    let bs := bytesOfWord 4 0x00C20400
    let s := State.reset.withFetchWord 32 0x00C20400
    scalarOwn s (fun g => codeIs (tick s) 0 g.ctx g.sc.pc.toNat 0 bs && decide ((decode .scalar bs).map (·.2) = some 4)) = true := by
  decide +kernel

/-- Bits that are no instruction of the scalar stream, at its address. -/
theorem witness_StepRuns_undecoded :
    let bs := bytesOfWord 4 0x000000FC
    let s0 := State.reset.withFetchWord 32 0x000000FC
    let s := { s0 with turn := .scalar 0 0 }
    (scalarOwn s (fun g => codeIs (tick s) 0 g.ctx g.sc.pc.toNat 0 bs) &&
      decide (8 * bs.length = lengthOf (wordOfBytes (bs.take 4))) && (decodeWord .scalar (wordOfBytes bs)).isNone) = true := by
  decide +kernel

/-- Bits that are no instruction of the lane stream, at its address. -/
theorem witness_StepRuns_undecoded_lane :
    let bs := bytesOfWord 4 0x40000308
    let s0 := State.reset.withFetchWord 32 0x40000308
    let s := { s0 with turn := .lane 0 0 }
    (laneOwn s (fun g => codeIs (tick s) 0 g.ctx g.ln.pc.addr.toNat 0 bs && decide (g.ln.pc.sub = 0)) &&
      decide (8 * bs.length = lengthOf (wordOfBytes (bs.take 4))) && (decodeWord .lane (wordOfBytes bs)).isNone) = true := by
  decide +kernel

/-- An input that comes at once, and two that wait for the streams of a core. -/
theorem witness_StepRuns_input :
    arrives laneTurn (.operandGrant 1023) = true ∧ waitsFor laneTurn (.operandGrant 1023) = none ∧
    waitsFor laneTurn (.operandGrant 0) = some 0 ∧ waitsFor laneTurn (.holmBalance 0 0 0) = some 0 := by decide +kernel

/-- A trap record whose way has opened comes before the turn. -/
theorem witness_StepRuns_waiting :
    nextWaiting (tick laneTurn) = none ∧
    (nextWaiting (tick { laneTurn with rma := [⟨0, 0, 0x2000, .read 8⟩] })).isSome = true := by decide +kernel

/-- A package whose mailbox holds a command. -/
def mailTurn (code : Nat) (args : List Nat) : State :=
  let s := epWrite { laneTurn with fw := { laneTurn.fw with boot := .running } } 0x2000 (natToBytes 8 1)
  epWrite s 0 (natToBytes 8 (code + 0x50000) ++ (args.map (natToBytes 8)).flatten)

theorem witness_StepRuns_command : (nextCommand (tick (mailTurn 0x0108 []))).isSome = true := by decide +kernel

/-- A stream at the rpc of its top entry. -/
def meetState (k : StackKind) (pc : BitVec 48) : State :=
  modLane laneTurn 0 0 (fun l => { l with stack := [⟨k, pc, 0x1000, BitVec.ofNat 64 0xFF, 0xBB⟩] })

theorem witness_Reconvergence :
    ([StackKind.reconv, .pending, .meld].all fun k =>
      let s := meetState k 0x1010
      let s0 := tick s
      s.agenda.isEmpty && (nextWaiting s0).isNone && (nextCommand s0).isNone && decide (s.turn = .lane 0 0) && (match groupOf s0 0 0 with
        | some g => match g.ln.stack with
          | x :: _ => laneRuns s0 g && (readyResult g.ln).isNone && !g.ln.faultRestarts && aboveMark g.ln && decide (x.kind ≠ .call) &&
              decide (x.rpc = g.ln.pc.addr) && decide (g.ln.pc.sub = 0) && decide (x.mask &&& ~~~ g.ln.exited ≠ 0) &&
              decide (spillCount g.ln = 0)
          | [] => false
        | none => false)) = true := by
  decide +kernel

/-- An instruction's effect with a result that comes later, and one that raises an enabled flag. -/
theorem witness_EffectLands :
    given (.iadd (fs 4 10 12 0 5)) laneTurn (fun e _ => (groupOf (Done.plain laneTurn).st e.core e.slot).isSome &&
      (laneFp e.g.ln.fpc 0).isNone) = true ∧
    given (.fadd .rne (fm 4 12 14 0)) (modLane laneTurn 0 0 (fun l => { l with fpc := 0x0007C040 }))
      (fun e _ => (laneFp e.g.ln.fpc 1).isSome) = true := by
  decide +kernel

/-! ## Control -/

/-- The instruction issues, goes on, and its premise holds. -/
def does (i : Instr) (s : State) (p : Iss → State → Bool := fun _ _ => true) : Bool :=
  accepts i && runs i s && given i s (fun e qs => p e (issued s e qs))

/-- The instruction issues and traps with a code, and its premise holds. -/
def stops (i : Instr) (s : State) (code : Nat) (p : Iss → State → Bool := fun _ _ => true) : Bool :=
  accepts i && traps i s code && given i s (fun e qs => p e (issued s e qs))

/-- A guard by not p1. -/
def un : Ctl := ⟨0, 0, 7, 0, 1, true, true⟩

/-- The lane stream's state changed. -/
def inLane (f : Lane → Lane) : State := modLane laneTurn 0 0 f

/-- p1 true in the lanes of a mask. -/
def p1 (m : Nat) : State := inLane (fun l => { l with preds := lset 0 l.preds 1 (BitVec.ofNat 64 m) })

theorem witness_Transfers :
    does (.bra (fl 0 0 0 0 64)) laneTurn (fun e s => (checkTransfer s e (relTarget e.g.ln.pc 64)).toBool && e.g.ln.path.isNone) = true ∧
    does (.bra { fl 0 0 7 0 64 with ctl := un }) (p1 0) (fun e _ => decide (e.g.ln.em &&& ~~~ e.lanes = 0)) = true ∧
    does (.bra { fl 0 0 7 0 64 with ctl := un }) (p1 1)
      (fun e s => decide (e.g.ln.em &&& ~~~ e.lanes ≠ 0) &&
        (pushPaths e.g.ln (coreOf s 0).scratch 0x100C 0x101C (e.g.ln.em &&& ~~~ e.lanes)).toBool) = true ∧
    does (.brau (fl 0 1 0 0 64)) (p1 0xFFFFFFFF) = true ∧ does (.brau (fl 0 1 1 0 64)) (p1 0) = true ∧
    does (.brau (fl 0 1 0 0 64)) (p1 0) = true ∧
    does (.jmpi (fm 0 2 0 0)) (modLane laneTurn 0 0 (fun l => setV (setV l 2 (fun _ => 0x1040)) 3 (fun _ => 0))) = true ∧
    does (.jmpi { fm 0 2 7 0 with ctl := un }) (modLane (p1 1) 0 0 (fun l => setV (setV l 2 (fun _ => 0x1040)) 3 (fun _ => 0)))
      (fun e _ => decide (e.g.ln.em &&& ~~~ e.lanes ≠ 0)) = true ∧
    does (.call (fl 0 0 0 0 64)) laneTurn (fun e s =>
      (pushEntry e.g.ln (coreOf s 0).scratch ⟨.call, 0x100C, 0, e.g.ln.em, e.g.ln.fmt⟩).toBool) = true := by
  decide +kernel

theorem witness_UniformityTraps :
    stops (.brau (fl 0 1 0 0 64)) (p1 1) 5 = true ∧
    stops (.jmpi (fm 0 2 0 0)) (modLane laneTurn 0 0 (fun l => setV (setV l 2 (fun j => 0x1040 + 4 * j)) 3 (fun _ => 0))) 5 = true := by
  decide +kernel

/-- A stream inside a call that some of its lanes made. -/
def called (m : Nat) : State :=
  inLane (fun l => { l with stack := [⟨.call, 0x2000, 0, BitVec.ofNat 64 m, l.fmt⟩] })

theorem witness_PathsAndEnds :
    does (.ret { fm 0 0 0 0 with ctl := un }) (modLane (called 0xFFFFFFFF) 0 0 (fun l =>
      { l with preds := lset 0 l.preds 1 1 })) (fun e s => hasCall e.g.ln (coreOf s 0).scratch && decide (e.g.ln.em &&& ~~~ e.lanes ≠ 0)) = true ∧
    does (.ret (fm 0 0 0 0)) (called 0xFFFFFFFF) = true ∧
    does (.meld (fm 0 7 8 0)) laneTurn (fun e s =>
      (pushEntry e.g.ln (coreOf s 0).scratch ⟨.meld, 0, 0x1020, e.g.ln.em, e.g.ln.fmt⟩).toBool) = true ∧
    does (.mtab (fl 0 0 0 0 0x03020100)) laneTurn = true ∧ does (.mtab (fl 1 3 0 0 0x7F7E7D7C)) laneTurn = true ∧
    does (.lend (fm 0 0 0 0)) laneTurn (fun e _ => decide (stackDepth e.g.ln = 0) && e.g.ln.handler.isNone) = true ∧
    does (.exit { fm 0 0 0 0 with ctl := un }) (p1 1)
      (fun e s => match groupOf (exitLanes s 0 0 e.lanes) 0 0 with
        | some g => decide (g.ln.em ≠ 0)
        | none => false) = true ∧
    does (.exit (fm 0 0 0 0)) (modLane laneTurn 0 0 (fun l => { l with em := 1, stack := [⟨.pending, 0x1040, 0x1080, 6, l.fmt⟩] }))
      (fun e s => match groupOf (exitLanes s 0 0 e.lanes) 0 0 with
        | some g => decide (g.ln.em = 0)
        | none => false) = true := by
  decide +kernel

theorem witness_RegionOpens :
    does (.ckpt (fm 1 0 0 0x80)) laneTurn (fun e s =>
      !arrayBusy (coreOf s 0) 0 && decide ((saveBytes (saveOf (coreOf s 0).scratch e.g (followingPc e (.ckpt (fm 1 0 0 0x80)))
        0x80000001 0) (widthG e.g) (freeBytes s 64 64)).length ≤ e.g.ckptSize)) = true ∧
    does (.ckptx ⟨1, 1⟩) (modLane laneTurn 0 0 (fun l => { l with justCkpt := true })) = true := by
  decide +kernel

theorem witness_Pacing :
    does (.nop (fm 0 0 0 0)) laneTurn = true ∧ does (.nopShort (sm 0 0)) laneTurn = true ∧ does (.yield (fm 0 0 0 0)) laneTurn = true ∧
    does (.wait (fm 0 0 0 0)) laneTurn = true ∧ does (.wait (fm 0 0 0xFF 0xFF)) laneTurn = true := by
  decide +kernel

theorem witness_MaskAndStack :
    does (.emwr (fm 0 146 0 0)) laneTurn (fun e s => decide (e.g.ln.em &&& BitVec.ofNat 64 (uni64 s e (fieldAt e.x 1)) ≠ 0)) = true ∧
    stops (.emwr (fm 0 147 0 0)) laneTurn 2 = true ∧
    does (.salloc (fl 0 0 0 0 0x1000)) laneTurn (fun e _ => decide (0x1000 + e.g.ln.rsp.toNat ≤ e.g.ln.sp.toNat)) = true ∧
    stops (.salloc (fl 0 0 0 0 0x1020)) laneTurn 0x0B = true ∧
    does (.sfree (fl 0 0 0 0 32)) (inLane (fun l => { l with sp := l.sp - 32 })) = true ∧
    stops (.sfree (fl 0 0 0 0 32)) laneTurn 0x0B = true := by
  decide +kernel

/-! ## Traps and their returns -/

/-- The fixture's context with handlers at 0x3000 and 0x4000. -/
def handled (s : State) : State :=
  { s with ctxs := mset s.ctxs 0 { ctxOf s 0 with hlane := 0x3000, hscal := 0x4000 } }

theorem witness_SoftwareTraps :
    stops (.trap (fm 0 0 0xFF 0xFF)) laneTurn 0x15 = true ∧ stops (.brk (fm 0 0 1 0)) laneTurn 0x14 = true ∧
    traps (.unassignedOpcode .lane 0x0000000000000FF2) laneTurn 0x01 = true ∧
    traps (.legacyWord (.legacy 4) 7 un) laneTurn 0x13 = true ∧ traps (.legacyWord .illegalOp 7 un) laneTurn 0x01 = true ∧
    traps (.legacyWord (.illegalOperand 3 200) 7 un) laneTurn 0x02 = true := by
  decide +kernel

theorem witness_TrapEntry :
    (let s := handled laneTurn
     match groupOf s 0 0 with
     | some g => g.ln.handler.isNone && !g.sc.handler && decide ((ctxOf s g.ctx).hlane ≠ 0) && decide ((ctxOf s g.ctx).hscal ≠ 0)
     | none => false) = true := by
  decide +kernel

/-- In the handler of a trap that the stream has taken. -/
def inHandler : State :=
  match exec (.trap (fm 0 0 1 0)) (handled laneTurn) with
  | .next t => { t with turn := .lane 0 0 }
  | _ => laneTurn

theorem witness_TrapReturn :
    does (.tret (fm 0 0 0 0)) inHandler (fun e s => match e.g.ln.handler with
      | some h => decide ((recordAddress s 0 0).toNat % 4 = 0) && decide (h.em &&& ~~~ e.g.ln.exited ≠ 0)
      | none => false) = true ∧
    stops (.tret (fm 0 0 0 0)) laneTurn 1 = true := by
  decide +kernel

/-- A step of its own happens: it changes the package. -/
def moves (i : Instr) (s : State) (p : State → Bool := fun _ => true) : Bool :=
  match exec i s with
  | .next t => decide (t ≠ s) && p t
  | _ => false

theorem witness_deferred_traps :
    moves (.deferredTrap 0 0) (modLane (handled laneTurn) 0 0 (fun l => { l with deferred := [⟨0x15, 0, 7, none, none⟩] })) = true ∧
    moves (.deferredTrap 0 0) (modScalar (handled laneTurn) 0 0 (fun z => { z with deferred := [⟨0x0D, 0, 7, none, none⟩] })) = true := by
  decide +kernel

/-! ## The scalar stream -/

/-- The scalar instruction goes on: no trap, no wait. -/
def sdoes (i : Instr) (s : State) (p : Group → ScalarFields → Bool := fun _ _ => true) : Bool :=
  accepts i && scalarCan i s p && (match exec i s with
    | .next t => match groupOf t 0 0, groupOf s 0 0 with
      | some h, some g => !h.sc.handler && !h.faulting && !h.sc.stalled && (decide (h.sc.pc ≠ g.sc.pc))
      | none, _ => true
      | _, none => false
    | _ => false)

/-- The scalar instruction traps with a code. -/
def sstops (i : Instr) (s : State) (code : Nat) (p : Group → ScalarFields → Bool := fun _ _ => true) : Bool :=
  accepts i && scalarCan i s p && (match exec i s with
    | .next t => decide ((Memory.read (coreOf t 0).scratch (trapSlot 0)).toNat = code)
    | _ => false)

theorem witness_ScalarResults_registers :
    ([Instr.sadd, .ssub, .smul, .smulhI64, .smulhN64, .sand, .sor, .sxor, .sshl, .sshr, .ssar, .sminI64, .sminN64, .smaxI64,
      .smaxN64].all fun mk => sdoes (mk ⟨0, 1, 2⟩) scalarTurn (fun g x => (Rules.scalarResult g x).isSome)) = true := by
  decide +kernel

theorem witness_ScalarResults_immediates :
    ([Instr.saddImm, .ssubImm, .smulImm, .smulhI64Imm, .smulhN64Imm, .sandImm, .sorImm, .sxorImm, .sshlImm, .sshrImm, .ssarImm,
      .sminI64Imm, .sminN64Imm, .smaxI64Imm, .smaxN64Imm].all
      fun mk => sdoes (mk ⟨63, 1, 0x200⟩) scalarTurn (fun g x => (Rules.scalarResult g x).isSome)) = true := by
  decide +kernel

theorem witness_ScalarResults_literals :
    ([Instr.saddImmS64, .ssubImmS64, .smulImmS64, .smulhI64ImmS64, .smulhN64ImmS64, .sandImmS64, .sorImmS64, .sxorImmS64,
      .sshlImmS64, .sshrImmS64, .ssarImmS64, .sminI64ImmS64, .sminN64ImmS64, .smaxI64ImmS64, .smaxN64ImmS64].all
      fun mk => sdoes (mk ⟨4, 1, 0x80000000⟩) scalarTurn (fun g x => (Rules.scalarResult g x).isSome)) = true ∧
    sdoes (.smov 4 1) scalarTurn = true ∧ sdoes (.sli 4 0x3FF) scalarTurn = true ∧ sdoes (.sliS64 4 0xFFFFFFFF) scalarTurn = true := by
  decide +kernel

theorem witness_ScalarBranches :
    ([Instr.sbeq, .sbne, .sblt, .sbge, .sbltn, .sbgen].all fun mk => sdoes (mk 1 2 4) scalarTurn) = true ∧
    ([Instr.sbeqS64, .sbneS64, .sbltS64, .sbgeS64, .sbltnS64, .sbgenS64].all fun mk => sdoes (mk 1 2 0xFFFFFFF0) scalarTurn) = true ∧
    sdoes (.sjmp 0x3FF) scalarTurn = true ∧ sdoes (.sjmpS64 64) scalarTurn = true ∧ sstops (.sjmpS64 2) scalarTurn 0x0C = true ∧
    sstops (.sbeqS64 1 2 2) scalarTurn 0x0C = true := by
  decide +kernel

theorem witness_ScalarFarTargets : sstops (.sjmpS64 0x80000000) scalarTurn 0x0D = true := by
  decide +kernel

/-- The page from 0x1000_0000 on holds Casnis code: a jump there traps ACCESS, also a misaligned branch that is not taken ALIGN. -/
theorem witness_ScalarBranches_casnis :
    let s := { scalarTurn with mem := Memory.writeBytes scalarTurn.mem 0x20008 (natToBytes 8 0x1000003F) }
    sstops (.sjmpS64 0x10000000) s 0x0D (fun g x => onCasnisPage s 0 0 (Rules.scalarGoal g x).toNat) = true ∧
    sdoes (.sbeqS64 1 2 0x10000000) s = true ∧ sstops (.sbeqS64 1 2 0x10000002) s 0x0C = true := by
  decide +kernel

/-- A scalar stream with entries on its call stack. -/
def calling (n : Nat) : State := modScalar scalarTurn 0 0 (fun z => { z with rstack := List.replicate n 0x2000 })

theorem witness_ScalarCalls :
    sdoes (.scall 4) (calling 15) = true ∧ sdoes (.scallS64 64) (calling 0) = true ∧ sstops (.scall 4) (calling 16) 0x0B = true ∧
    sdoes .sret (calling 1) = true ∧ sstops .sret (calling 0) 0x01 = true ∧
    sdoes .sret (modScalar (calling 1) 0 0 (fun z => { z with handler := true, rmark := some 1 }))
      (fun g _ => decide (g.sc.rstack.length ≤ g.sc.rmark.getD 0)) = true := by
  decide +kernel

theorem witness_ScalarMemory :
    sdoes (.sld 4 2 0x03) scalarTurn = true ∧ sdoes (.sldS64 4 2 0x28 8) scalarTurn = true ∧ sdoes (.sst 1 2 0x03) scalarTurn = true ∧
    sdoes (.sstS64 1 2 0x1C 8) scalarTurn = true := by
  decide +kernel

theorem witness_ScalarWait :
    sdoes (.swaitw 4 2 1) scalarTurn = true ∧ sdoes (.swaitwS64 4 2 0 0) scalarTurn = true ∧
    scalarCan (.swaitw 4 2 0) scalarTurn (fun g x => decide (Rules.sreg g x.sb = 0) && g.sc.watch.isNone) = true ∧
    moves (.swaitw 4 2 0) scalarTurn (fun t => moves (.swaitwWake 0 0 false) (writeX t 0 0 ⟨0x10002000, 0, 0x1F, []⟩ [1] [])) = true := by
  decide +kernel

theorem witness_ScalarStepLimit :
    let s := modScalar scalarTurn 0 0 (fun z => { z with steps := 2 ^ 20 - 1 })
    (match groupOf s 0 0 with
     | some g => canScalar s g && decide (2 ^ 20 ≤ g.sc.steps + 1)
     | none => false) = true := by
  decide +kernel

/-- Queue n in another state. -/
def queued (n : Nat) (f : Queue → Queue) : State := modQueue scalarTurn 0 0 n f

/-- An affine stream of two entries at an address. -/
def affs (base : DWord) : AffStream := ⟨base, 4, 128, 0, 0, 2, 1, 1, false, 0, 0, 0, 0x1000, none⟩

/-- A descriptor of two entries at 0x2000. -/
def affState : State :=
  let d := (natToBytes 8 0x2000 ++ natToBytes 8 4 ++ natToBytes 8 128 ++ natToBytes 8 0 ++ natToBytes 8 0 ++ natToBytes 8 0x100010002)
  { scalarTurn with mem := Memory.writeBytes scalarTurn.mem 0x10002000 d }

theorem witness_QueueInstructions :
    sdoes (.sqld 0 2 2 false) scalarTurn = true ∧ sdoes (.sqld 7 2 0 true) scalarTurn = true ∧ sdoes (.sqend 7) scalarTurn = true ∧
    sdoes (.aff 6 2) affState = true ∧ sstops (.sqld 8 2 1 false) scalarTurn 2 = true ∧ sstops (.aff 63 2) scalarTurn 2 = true ∧
    sstops (.sqend 7) (queued 7 (fun q => { q with nmode := true })) 2 = true := by
  decide +kernel

theorem witness_QueueEvents :
    moves (.affPush 0 0 1) (queued 1 (fun q => { q with stream := some (.affine (affs 0x2000)) })) = true ∧
    moves (.queueEntryFill 0 0 1) (queued 1 (fun q => { q with saved := [[7]] })) = true ∧
    moves (.affStreamFault 0 0 1) (queued 1 (fun q => { q with stream := some (.affine (affs 0x40000000)) })) = true ∧
    moves (.queueEntryFill 0 0 1) (queued 1 (fun q => { q with entries := [⟨[], false, none, 9⟩] })) = true ∧
    moves (.queueEndEffect 0 0 1) (queued 1 (fun q => { q with pendingEnd := true })) = true := by
  decide +kernel

theorem witness_LaneBlocks :
    sdoes (.lrun 56 8) scalarTurn = true ∧ sdoes (.lrunS64 1 0 64) scalarTurn = true ∧
    sdoes .lsync (modGroup scalarTurn 0 0 (fun g => { g with ln := { g.ln with inBlock := false }, sc := { g.sc with blocks := [] } }))
      (fun g _ => lanesQuiet g) = true ∧
    sdoes .sexit scalarTurn = true := by
  decide +kernel

theorem witness_SystemRegisters :
    sdoes (.srd 4 0x000) scalarTurn = true ∧ sdoes (.srd 4 0x050) scalarTurn = true ∧ sstops (.srd 4 0x3FF) scalarTurn 0x0D = true ∧
    sstops (.swr 0x000 1) scalarTurn 0x0D = true ∧ sdoes (.grSp 2) scalarTurn (fun g _ => decide (g.stkTop.toNat = 0x2000)) = true ∧
    sdoes (.grStklim 4) (modScalar scalarTurn 0 0 (fun z => { z with s := [0, 7, 0x2000, 64, 0x1400] }))
      (fun g x => stklimOk (coreOf scalarTurn 0) g (Rules.sreg g x.sa).toNat) = true ∧
    sstops (.grStklim 1) scalarTurn 0x0D = true := by
  decide +kernel

/-! ## Memory -/

/-- v2 and v3 as a pair of one value in every lane. -/
def pairV (n v : Nat) (s : State) : State := modLane s 0 0 (fun l => setV (setV l n (fun _ => v % 2 ^ 32)) (n + 1) (fun _ => v / 2 ^ 32))

theorem witness_Loads :
    does (.ld (fs 2 8 0 0 1)) laneTurn (fun e s => (checkLanes s 0 0 (mSize 0) .read (addressesOf s e (fs 2 8 0 0 1))).toBool) = true ∧
    does (.ld (fs 2 144 3 0 5)) (oneLane laneTurn) = true ∧ does (.ldAcq (fs 2 144 (2 + 8 * 5) 0 1)) (oneLane laneTurn) = true ∧
    does (.lds (fs 2 10 0 0 1)) laneTurn (fun e s => (checkOffsets s e (fs 2 10 0 0 1) (mSize 0)).toBool) = true := by
  decide +kernel

theorem witness_Stores :
    does (.st (fm 0 8 2 12)) laneTurn = true ∧ does (.st (fm 0 8 3 12)) (oneLane laneTurn) = true ∧ does (.stRel (fm 0 8 (2 + 8 * 4) 12)) (oneLane laneTurn) = true ∧
    does (.sts (fm 0 10 2 12)) laneTurn = true := by
  decide +kernel

theorem witness_StoreReadsBack :
    let x : Sector := { emptySector with data := List.replicate 32 0 }
    let s := modCore laneTurn 0 (fun k => { k with l1 := mset k.l1 0x800100 x })
    (mget (coreOf s 0).l1 0x800100 emptySector).data.length = 32 ∧ x.valid = x.dirty ∧ (mget (coreOf laneTurn 0).l1 5 emptySector).data.length = 32 ∧
    (linesIn (coreOf s 0).l1).length < l1Lines ∧ usable laneTurn.now { x with valid := BitVec.allOnes 32 } = true := by
  decide +kernel

theorem witness_Atomics :
    does (.atom .add (fs 2 8 12 2 1)) (oneLane laneTurn) = true ∧ does (.atom .cas (fs 2 8 12 0x32 1)) (oneLane laneTurn) = true ∧
    does (.ared .max (fm 0 8 12 2)) (oneLane laneTurn) = true ∧ nFloat 2 = false ∧ nSigned 2 = false := by
  decide +kernel

theorem witness_FencesAndLines :
    does (.fence (fm 0 0x02 0 0)) laneTurn = true ∧ does (.fence (fm 0 0x0D 0 0)) laneTurn = true ∧ does (.fence (fm 0 0x13 0 0)) laneTurn = true ∧
    does (.pref (fm 0 8 2 0)) laneTurn = true ∧ does (.cwb (fm 0 8 5 0)) laneTurn = true ∧ does (.cinv (fm 0 8 1 0)) laneTurn = true := by
  decide +kernel

theorem witness_LaneWait :
    stops (.waitw (fm 4 8 2 0)) laneTurn 5 = true ∧
    does (.waitw (fm 4 144 146 0)) laneTurn (fun e s => decide (waitDissent s e (fm 4 144 146 0) = 0)) = true ∧
    does (.waitw (fl 4 144 148 0 0)) laneTurn = true ∧
    given (.waitw (fm 4 144 148 0)) laneTurn (fun e _ => e.g.ln.watch.isNone) = true ∧
    moves (.waitw (fm 4 144 148 0)) laneTurn (fun t => moves (.waitwWake 0 0 false) (writeX t 0 0 ⟨0x10002000, 0, 0x1F, []⟩ [1] [])) = true := by
  decide +kernel

theorem witness_WaitEnds :
    (let s (n : Nat) : State := modCore (modLane laneTurn 0 0 (fun l => { l with state := .sleeping, sleep := some (.ac 65535 3) })) 0
        (fun k => { k with ac := n })
     moves (.waitExpire 0 0) (s 65538) && !moves (.waitExpire 0 0) (s 65537)) = true := by
  decide +kernel

/-- The state after an instruction, once the next one may issue. -/
noncomputable def then_ (i : Instr) (s : State) : State :=
  match exec i s with
  | .next t => modLane { t with turn := .lane 0 0 } 0 0 (fun l => { l with clock := l.next })
  | _ => s

/-- The fixture's memory at a peer, whose port carries traffic. -/
def peered (s : State) : State :=
  { modLink s 1024 (fun l => { l with state := .up }) with
    mem := Memory.writeBytes s.mem 0x20000 (natToBytes 8 (2 ^ 47 + 2 ^ 45 + 0x1F)), apertures := [(0, ⟨true, 0, 77, 0, 0⟩)] }

/-- Every operation at a peer answered. -/
def allAnswered (s : State) : State := { s with outgoing := s.outgoing.map (fun o => { o with acked := true }) }

/-- R387: a word at a peer is asked for, and found once the peer has answered. -/
theorem witness_waits_at_peers :
    (match checkOne (peered laneTurn) 0 0 0x2000 8 .read with
     | .ok x => isAperture x.pa
     | .error _ => false) = true ∧
    moves (.waitw (fm 4 144 148 0)) (peered laneTurn) (fun t =>
      t.outgoing.length == 1 && (groupOf t 0 0).any (fun g => g.ln.watch.any (fun w => w.asked.isSome))) = true ∧
    (let s := allAnswered (then_ (.waitw (fm 4 144 148 0)) (peered laneTurn))
     match checkOne s 0 0 0x2000 8 .read, groupOf s 0 0 with
     | .ok x, some g => match g.ln.watch with
       | some w => (waitRead s x g.ln.watch w (readX s 0 2 x 8 600)).toBool
       | none => false
     | _, _ => false) = true ∧
    moves (.swaitw 1 2 3) (peered scalarTurn) (fun t =>
      t.outgoing.length == 1 && (groupOf t 0 0).any (fun g => g.sc.watch.any (fun w => w.asked.isSome))) = true := by
  decide +kernel

theorem witness_LateResults :
    moves (.sfuResult 0 0) (then_ (.rcp (fs 4 12 0 0 1)) laneTurn) = true ∧
    moves (.srResult 0 0 0) (then_ (.cvtSr (fs 4 12 8 10 1)) laneTurn) = true ∧
    moves (.memoryAccessComplete 0 0 0) (then_ (.ld (fs 2 8 0 0 1)) laneTurn) = true ∧
    moves (.releaseComplete 0 0 0) (then_ (.fence (fm 0 2 0 0)) laneTurn) = true := by
  decide +kernel

theorem witness_LateAndModes :
    ([Instr.rcp, .rsq, .sqt, .ex2, .lg2, .sinr, .cosr, .tnh].all fun mk => does (mk (fs 4 12 0 0 1)) laneTurn) = true ∧
    does (.cvtSr (fs 4 12 8 10 1)) laneTurn = true ∧ does (.pk2Sr .f16 (fs 4 12 14 0 1)) laneTurn = true ∧
    does (.setfpc (fl 4 255 146 0 1)) laneTurn = true ∧ stops (.setfpc (fl 4 255 255 0 0xFFFFFFFF)) laneTurn 2 = true ∧
    does (.rngseed (fm 0 12 0 0)) laneTurn = true := by
  decide +kernel

/-! ## The copy engine, notices, remote loads, the narrows -/

/-- The package with words in core 0's scratchpad. -/
def scratchWith (off : Nat) (ws : List Nat) (s : State) : State :=
  modCore s 0 (fun k => { k with scratch := Memory.writeBytes k.scratch off (ws.map (natToBytes 8)).flatten })

/-- A copy descriptor at offset 64: 8 bytes of the scratchpad from 512 to 256, or from another space. -/
def copyState (w : List Nat) : State := scratchWith 64 w laneTurn

theorem witness_CopyInstructions :
    does (.cpy (fm 0 145 0 0)) (copyState [2 ^ 62 + 256, 2 ^ 62 + 512, 8]) = true ∧
    does (.cpyw (fm 0 145 0 0)) (copyState [0x2000, 2 ^ 62 + 512, 8 + 2 * 2 ^ 32, 0x2100, 1]) = true ∧
    stops (.cpy (fm 0 145 0 0)) (copyState [2 ^ 62 + 256, 2 ^ 62 + 512, 0]) 2 = true ∧
    stops (.cpyw (fm 0 145 0 0)) (copyState [0x2000, 2 ^ 62 + 512, 8, 0x2100, 1]) 2 = true ∧
    stops (.cpy (fm 0 146 0 0)) laneTurn 0x0C = true := by
  decide +kernel

/-- The fixture's page without its write permission. -/
def readOnly (s : State) : State := { s with mem := Memory.writeBytes s.mem 0x20000 (natToBytes 8 0x10000017) }

theorem witness_CopyCommands :
    moves (.copyComplete 0) (then_ (.cpy (fm 0 145 0 0)) (copyState [2 ^ 62 + 256, 2 ^ 62 + 512, 8])) = true ∧
    (let s := readOnly (then_ (.cpy (fm 0 145 0 0)) (copyState [0x2000, 2 ^ 62 + 512, 8]))
     match commandsAtWork (coreOf s 0), groupOf s 0 0 with
     | [c], some g => decide (gidOf g = c.gid) && decide (c.slot = 0) &&
        decide (firstBad s 0 (fun a => decide (a = .access)) c = some (.write, 0x2000, .access))
     | _, _ => false) = true ∧
    moves (.enginePageFault 0) (then_ (.cpy (fm 0 145 0 0)) (copyState [0x40000000, 2 ^ 62 + 512, 8])) = true := by
  decide +kernel

theorem witness_ScratchCopy :
    let c : EngineCmd := ⟨0, ⟨0, 0, 0, 0⟩, ⟨0, 0⟩, 0, .copy 256 512 8 true true .package none 0, none, .start⟩
    (copyPayload laneTurn 0 c).toBool = true ∧ Memory.wf laneTurn.mem = true := by
  decide +kernel

/-- A package in which core 0 is in the context's partition and has a receiver of its cohort, with some notices. -/
def receiving (n : Nat) (bytes : List Byte) (s : State) : State :=
  let r : Receiver := { cohort := (0, 0), ctx := 0, lbase := 1024, lsize := 256, ring := 2048, count := 0x2200 }
  let x : Notice := { bytes := bytes, sender := 0, cohort := (0, 0), ctx := 0, dropped := false, gone := false }
  let s := modCore s 0 (fun k => { k with receiver := some r, notices := List.replicate n x })
  { s with partitions := mset s.partitions 0 { mget s.partitions 0 Partition.reset with cores := BitVec.allOnes _ } }

/-- A notice of 128 bytes at scratchpad offset 512, acknowledged at 0x2300 with 7. -/
def notice : List Nat := [2 ^ 48 + 512, 128, 0x2300, 7]

theorem witness_Receivers :
    does (.kcfg (fm 0 145 0 0)) (scratchWith 64 [1024, 0, 2048, 0x2200] laneTurn) = true ∧
    does (.kcfg (fm 0 145 0 0)) (scratchWith 64 [1024, 256, 2048, 0x2200] laneTurn) = true ∧
    stops (.kcfg (fm 0 145 0 0)) (modCore (receiving 0 [] (scratchWith 64 [1024, 256, 2048, 0x2200] laneTurn)) 0
      (fun k => { k with receiver := k.receiver.map (fun r => { r with cohort := (9, 9) }) })) 0x0D = true := by
  decide +kernel

theorem witness_Kicks :
    does (.kick (fm 0 145 147 0)) (receiving 3 [] (scratchWith 64 notice laneTurn)) = true ∧
    stops (.kick (fm 0 145 146 0)) (receiving 3 [] (scratchWith 64 notice laneTurn)) 0x0D = true ∧
    sdoes (.skick 3 0) (receiving 3 [] (scratchWith 64 notice scalarTurn)) = true ∧
    sstops (.skick 3 1) (receiving 3 [] (scratchWith 64 notice scalarTurn)) 0x0D = true ∧
    moves (.noticeAccepted 0 0) (then_ (.kick (fs 0 145 147 0 2)) (receiving 3 [] (scratchWith 64 notice laneTurn))) = true := by
  decide +kernel

theorem witness_Pulls :
    let s := receiving 1 (notice.map (natToBytes 8)).flatten laneTurn
    moves (.pullStart 0) s (fun t => moves (.pullLanded 0) t (fun t => moves (.pullLanded 0) t (fun t => (coreOf t 0).engine.isEmpty))) = true ∧
    moves (.pullStart 0) (modCore s 0 (fun k => { k with notices := k.notices.map (fun n => { n with dropped := true }) }))
      (fun t => moves (.pullLanded 0) t) = true := by
  decide +kernel

theorem witness_RemoteLoads :
    does (.rld (fm 0 144 148 0)) laneTurn = true ∧ stops (.rld (fm 0 145 148 0)) laneTurn 0x0C = true ∧
    moves (.rldResponse 0 0 0) (then_ (.rld (fm 0 144 148 0)) laneTurn) = true := by
  decide +kernel

/-- The partner of core 0 in a power state. -/
def partnerIn (q : QuadState) : State :=
  { laneTurn with quads := mset laneTurn.quads (partner 0 / 4) { Quad.reset with state := q } }

theorem witness_NarrowsTraffic :
    does (.vfcfg (fm 0 0 0 0)) laneTurn = true ∧ does (.vfcfg (fm 0 1 0 0)) laneTurn = true ∧
    stops (.vfcfg (fm 0 1 0 0)) (modQueue laneTurn 0 0 7 (fun q => { q with entries := [⟨[], true, none, 0⟩] })) 0x0D = true ∧
    does (.vfput (fm 0 8 0 0)) laneTurn = true ∧ (quadOf laneTurn (partner 0)).state = .active ∧
    stops (.vfput (fm 0 8 0 0)) (then_ (.vfcfg (fm 0 1 0 0)) laneTurn) 0x0D = true := by
  decide +kernel

theorem witness_NarrowsTraffic_gated :
    let gate (q : QuadState) : State := { laneTurn with quads := (List.range 256).map (fun n => (n, { Quad.reset with state := q })) }
    stops (.vfput (fm 0 8 0 0)) (gate .gated) 0x12 = true ∧ stops (.vfput (fm 0 8 0 0)) (gate .waking) 0x12 = true := by
  decide +kernel

theorem witness_narrowsDeliver :
    moves (.narrowsDeliver 0) (modNarrows (then_ (.vfcfg (fm 0 1 0 0)) laneTurn) 0
      (fun w => { w with waiting := [⟨List.replicate 32 7, 0⟩] })) = true := by
  decide +kernel

/-- A texture descriptor at 0x2000: 8 by 4 texels at 0x3000, nearest or bilinear. -/
def texState (w0 w2 : Nat) : State :=
  let d := ([0x3000 + w0, 8 + 4 * 2 ^ 16 + 1 * 2 ^ 32, w2, 0].map (natToBytes 8)).flatten
  { laneTurn with mem := Memory.writeBytes laneTurn.mem 0x10002000 d }

theorem witness_Textures :
    does (.tfet (fs 4 2 144 1 1)) (pairV 2 (3 + 2 * 2 ^ 32) (oneLane (texState 0 0))) = true ∧
    does (.tsmp (fs 4 2 144 0 1)) (pairV 2 0x3F0000003F000000 (oneLane (texState 0 0))) = true ∧
    does (.tsmp (fs 4 2 144 1 1)) (pairV 2 0x3F0000003F000000 (oneLane (texState 0 1))) = true ∧
    does (.tsiz (fs 4 0 144 0 1)) (oneLane (texState 0 0)) = true ∧
    ([Instr.tfet, .tsmp].all fun mk => stops (mk (fs 4 2 144 0 1)) (oneLane (texState 4 0)) 2) = true ∧
    stops (.tsiz (fs 4 0 144 0 1)) (oneLane (texState 0 32)) 2 = true := by
  decide +kernel

/-! ## The matrix array -/

/-- A group that has matrix passes to make: 0 for bsel, a fill word of 8 bytes, k4 beyond the limits. -/
def matTurn : State :=
  modLane laneTurn 0 0 (fun l => { l with ks := [0x2000, 64, 8, 0, 2 ^ 31, 0x2001, 2 ^ 48, 0] })

theorem witness_MatrixInstructions :
    does (.mma (fs 0 8 147 0 1)) matTurn (fun e s => (cohortOf (coreOf s 0) e.g).isSome && decide (partialQuarters e.lanes = 0)) = true ∧
    does (.mmz (fm 0 0 0 0)) matTurn = true ∧ does (.mmrd (fs 4 0 10 63 1)) matTurn = true ∧ does (.mmrd (fs 4 0 13 0 1)) matTurn = true ∧
    does (.mmwr (fm 0 12 10 63)) matTurn = true ∧
    does (.bfill (fm 0 144 146 0)) matTurn (fun e s => fillOk (uni32 s e (fieldAt e.x 2))) = true := by
  decide +kernel

theorem witness_MatrixTraps :
    stops (.mma { fs 0 8 147 0 1 with ctl := { un with set := 1 } }) (modLane matTurn 0 0 (fun l => { l with preds := lset 0 l.preds 1 1 })) 6 = true ∧
    stops (.mma (fs 0 8 148 0 1)) matTurn 2 = true ∧ stops (.bfill (fm 0 144 148 0)) matTurn 2 = true ∧
    stops (.bfill (fm 0 149 146 0)) matTurn 0x0C = true ∧ stops (.bfill (fm 0 150 146 0)) matTurn 0x0D = true := by
  decide +kernel

theorem witness_MatrixModes :
    does (.msync (fm 4 0 0 0)) matTurn = true ∧ does (.setfmt (fl 4 255 147 0 0)) matTurn = true ∧
    does (.setfmt (fl 4 255 255 0 0x7FFF)) matTurn = true ∧ stops (.setfmt (fl 4 255 255 0 0x8000)) matTurn 2 = true ∧
    does (.phint (fl 0 16 0xFF 0xFF 1)) matTurn = true ∧ stops (.phint (fl 0 1 0 0 0)) matTurn 2 = true := by
  decide +kernel

/-- Signed and unsigned eight-bit elements, sum, product and difference, with saturation: each premise, at its ends. -/
theorem witness_IntegerCells :
    ([0x0000, 0x0044, 0x1040, 0x2004, 0x6000].all fun (n : Nat) => let fmt : Word := BitVec.ofNat 32 n
      [0, 4].contains (fmt.toNat % 16) && [0, 4].contains (fmt.toNat / 16 % 16) && decide (fmt.toNat / 4096 % 4 < 3)) = true := by
  decide

theorem witness_MatrixPasses :
    moves (.mmaPass 0) (then_ (.mma (fs 0 8 147 0 1)) matTurn) (fun t => moves (.accumulatorWrite 0) t) = true ∧
    burstWaits (then_ (.mma (fs 0 8 147 0 1)) matTurn) 0 = false := by
  decide +kernel

theorem witness_ArrayEntries :
    moves (.arrayEntry 0) (then_ (.mmz (fs 0 0 0 0 1)) matTurn) = true ∧ moves (.arrayEntry 0) (then_ (.mmrd (fs 4 0 10 63 1)) matTurn) = true ∧
    moves (.arrayEntry 0) (then_ (.mmwr (fm 0 12 10 63)) matTurn) = true ∧ moves (.arrayEntry 0) (then_ (.bfill (fm 0 144 146 0)) matTurn) = true ∧
    moves (.arrayEntry 0) (then_ (.msync (fm 4 0 0 0)) matTurn) = true := by
  decide +kernel

/-- The state once the fill is open. -/
noncomputable def fillState : State := then_ (.arrayEntry 0) (then_ (.bfill (fm 0 144 146 0)) matTurn)

theorem witness_Fills :
    (match fillsAtWork (coreOf fillState 0) with
     | [c] => (match c.op with
       | .fill va _ _ n => decide (n = 64 * 8) && (coreOf fillState 0).fills.any (fun y => decide (y.tag = c.tag)) && (placesOf fillState 0 c.gid.ctx false .read true va n).toBool
       | _ => false)
     | _ => false) = true := by
  decide +kernel

/-! ## The cell plane -/

/-- A group whose cohort holds the plane, the acquisition done. -/
noncomputable def planeTurn : State :=
  match exec (.acquisitionClear 0) (then_ (.placq (fm 1 145 0 0)) laneTurn) with
  | .next t => { t with turn := .lane 0 0 }
  | _ => laneTurn

/-- The plane forms of the statement, each with the entry it makes. -/
theorem witness_PlaneInstructions :
    ([Instr.plin (fm 172 12 14 12), .plquad (fm 187 144 0 0), .plexq (fm 172 2 0 0), .pladd (fm 172 173 174 0), .plsub (fm 172 173 12 0),
      .plmul (fl 172 173 255 0 0x40000000), .plmin (fm 172 173 174 0), .plmax (fm 172 173 174 0), .plcmp .uno (fm 172 173 174 0),
      .plfma (fm 172 173 174 175), .plmov (fm 172 187 0 0), .plsel (fm 172 173 174 175), .plclr (fm 0 0 0xFF 0xFF), .pltrap (fm 0 31 0 0),
      .plwr (fm 172 12 0 0)].all fun i => does i planeTurn (fun e s => (Rules.planeEntryOf s e i).isSome &&
        decide ((coreOf s 0).plane.holder = some (holderOf e.g))) && stops i laneTurn 0x11) = true := by
  decide +kernel

theorem witness_PlaneHolding :
    does (.placq (fm 1 145 0 0)) laneTurn (fun e s => statusOk (coreOf s 0) e.g 64) = true ∧ does (.placq (fm 1 145 0 0)) planeTurn (fun _ s => (coreOf s 0).plane.queue.all (fun x => !isClear x)) = true ∧
    does (.placq (fm 1 145 0 0)) (modCore planeTurn 0 (fun k => { k with plane := { k.plane with holder := some (9, 9, 9) } })) = true ∧
    stops (.placq (fl 1 255 0 0 0x7FFC0)) laneTurn 0x0D = true ∧ does (.plrel (fm 0 0 0 0)) planeTurn = true ∧
    stops (.plrel (fm 0 0 0 0)) laneTurn 0x11 = true ∧ does (.plorg (fl 0 255 255 0 0x800000)) planeTurn = true ∧
    stops (.plorg (fl 0 255 148 0 0x800001)) planeTurn 2 = true := by
  decide +kernel

theorem witness_PlaneEnables :
    let deep (n : Nat) : State := modCore planeTurn 0 (fun k => { k with plane := { k.plane with enables := List.replicate n 1 } })
    does (.plen (fm 0 172 0 0)) (deep 7) = true ∧ stops (.plen (fm 0 172 0 0)) (deep 8) 1 = true ∧ does (.plels (fm 0 0 0 0)) (deep 1) = true ∧
    does (.plpop (fm 0 0 0 0)) (deep 1) = true ∧ stops (.plels (fm 0 0 0 0)) planeTurn 1 = true ∧ stops (.plpop (fm 0 0 0 0)) planeTurn 1 = true := by
  decide +kernel

theorem witness_PlaneResults :
    does (.plflag (fs 4 0 0 0 1)) planeTurn = true ∧ does (.plflag (fs 4 1 0 0 1)) planeTurn = true ∧ does (.plrd (fs 4 172 0 0 1)) planeTurn = true ∧
    does (.plcov (fs 4 7 0 0 1)) planeTurn (fun e _ => (discardStale e.g.ln.pc.addr (queueOf e.g 7)).stream.isNone) = true := by
  decide +kernel

theorem witness_PlaneSteps :
    moves (.acquisitionClear 0) (then_ (.placq (fm 1 145 0 0)) laneTurn) = true ∧
    moves (.planeEntry 0) (then_ (.pltrap (fm 0 31 0 0)) planeTurn) = true ∧
    moves (.plcovPush 0 0 7) (modQueue laneTurn 0 0 7 (fun q =>
      { q with stream := some (.cover ⟨0, BitVec.ofNat 64 0xFF, some [5], some ⟨0x1000, false⟩⟩) })) = true := by
  decide +kernel

/-! ## Barriers, launches, pages -/

/-- A barrier of quad scope with two members, this group the first. -/
noncomputable def joinedTurn (n : Nat) : State := then_ (.bari (fl 0 0x0A 255 0 (BitVec.ofNat 32 n))) laneTurn

theorem witness_BarrierJoins :
    does (.bari (fl 0 0x0A 255 0 1)) laneTurn (fun e s => (wideBarrier s (wideId s 0 e.g (fl 0 0x0A 255 0 1))).isNone) = true ∧
    does (.bari (fl 0 0x7D 255 0 65535)) laneTurn = true ∧ does (.bari (fl 0 0x0A 255 0 2)) (joinedTurn 2) = true ∧
    stops (.bari (fl 0 1 255 0 2)) laneTurn 0x16 = true ∧ stops (.bari (fl 0 0x0A 255 0 0)) laneTurn 2 = true ∧
    stops (.bari (fl 0 0x0A 255 0 65536)) laneTurn 2 = true ∧ stops (.bari (fl 0 0x0A 255 0 1)) inHandler 1 = true ∧
    (let full := modCore (joinedTurn 1) 0 id
     let s := { full with barriers := full.barriers.map (fun b =>
       { b with members := b.members.map (fun m => { m with gid := { m.gid with index := m.gid.index + 1 } }) }) }
     stops (.bari (fl 0 0x0A 255 0 1)) s 0x16 = true ∧
     does (.bari (fl 0 0x0A 255 0 1)) { s with barriers := s.barriers.map (fun b => { b with count := 2 }) } = true) := by
  decide +kernel

theorem witness_BarrierArrivals :
    does (.barv (fm 0 1 0 0)) laneTurn = true ∧ does (.barw (fm 0 1 0 0)) laneTurn = true ∧
    given (.bars (fm 0 1 0 0)) laneTurn (fun e qs => match namedBarrier (issued laneTurn e qs) 0 e.g (fm 0 1 0 0) with
      | some b => match memberOf b e.g with
        | some m => decide (m.half ≠ some e.g.ln.pc.addr) && (arrive (issued laneTurn e qs) e (fm 0 1 0 0) m).toBool
        | none => false
      | none => false) = true ∧
    ([Instr.barv, .barw, .bars].all fun mk => stops (mk (fm 0 0x0A 0 0)) laneTurn 0x16 && stops (mk (fm 0 0 0 0)) laneTurn 0x16) = true := by
  decide +kernel

theorem witness_BarrierPhases :
    (match (then_ (.barv (fm 0 0x0A 0 0)) (joinedTurn 1)).barriers with
     | [b] => decide (b.count ≤ (b.members.filter (fun m => m.exited || decide (b.phase < m.a))).length) &&
        b.members.any (fun m => !m.exited) && moves (.barrierPhaseComplete b.id) (then_ (.barv (fm 0 0x0A 0 0)) (joinedTurn 1))
          (fun t => moves (.barrierRelease 0 0) t)
     | _ => false) = true := by
  decide +kernel

/-- A package with words at 0x2000, which lies in physical memory at 0x1000_2000. -/
def memWith (ws : List Nat) : State :=
  let d := (ws.map (natToBytes 8)).flatten
  { laneTurn with mem := Memory.writeBytes laneTurn.mem 0x10002000 d }

/-- One lane with the address of a launch record at 0x2000. -/
def launchTurn (ws : List Nat) : State := modLane (memWith ws) 0 0 (fun l => { l with em := 1 })

/-- A launch record of one cohort of one group. -/
def child : List Nat := [0x1000, 0x1000, 2 + 1 * 4 + 128 * 256 + 16 * 65536 + 1 * 2 ^ 40, 0, 0]

/-- A child of the fixture's group in a state. -/
def withChild (st : KernelState) : State :=
  let k : Kernel := { fixtureKernel with state := st, parent := (groupOf laneTurn 0 0).map gidOf }
  { laneTurn with kernels := mset laneTurn.kernels 7 k }

theorem witness_KernelLaunches :
    does (.klaunch (fs 4 8 0 0 1)) (launchTurn child) = true ∧ stops (.klaunch (fs 4 8 0 0 1)) (launchTurn [0x1000, 0x1000, 0, 0]) 0x17 = true ∧
    does (.kwait (fm 1 0 0 0)) laneTurn = true ∧ does (.kwait (fm 1 0 0 0)) (withChild .done) = true ∧
    does (.kwait (fm 1 0 0 0)) (withChild .faulted) = true ∧ given (.kwait (fm 1 0 0 0)) (withChild .waiting) (fun _ _ => true) = true ∧
    moves (.kwaitWake 0 0) (modLane (withChild .done) 0 0 (fun l => { l with state := .sleeping, sleep := some .children })) = true := by
  decide +kernel

theorem witness_PageInstructions :
    does (.xinv (fm 0 144 147 4)) laneTurn = true ∧ does (.xinv (fl 0 144 255 1 0x2000)) laneTurn = true ∧
    stops (.xinv (fl 0 145 255 1 0x2000)) laneTurn 0x0C = true ∧ stops (.xinv (fl 0 144 255 1 0x1000)) laneTurn 0x0C = true ∧
    stops (.xinv (fl 0 2 255 1 0x4000)) (pairV 2 (2 ^ 48 - 0x2000) laneTurn) 0x0D = true ∧
    does (.pgq (fs 4 144 0 0 1)) laneTurn = true ∧ moves (.invalidationComplete 0 0 0) (then_ (.xinv (fs 0 144 147 4 2)) laneTurn) = true := by
  decide +kernel

theorem witness_InvalidationLeavesNone :
    let s := modCore laneTurn 0 (fun k => { k with tlb := [⟨0, 0x2000, 4, 0⟩], icache := [(0x2000, [])] })
    (0 ∈ s.cores.map (fun e => e.1)) ∧ inScope 0 1 0 = true := by
  decide +kernel

/-! ## Skerries -/

theorem witness_SkerryInstructions :
    does (.nmload (fs 4 144 144 146 1)) laneTurn (fun e s => (channelAt s 0 e.g.ctx 0x2000).toBool &&
      (checkImage s 0 e.g.ctx (chunksOf 0x2000 8)).toBool) = true ∧
    moves (.copyComplete 0) (then_ (.nmload (fs 4 144 144 146 1)) laneTurn) = true ∧
    does (.nmlease (fs 4 144 0 0 1)) laneTurn = true ∧ does (.nmrel (fs 4 144 0 0 1)) laneTurn = true ∧
    stops (.nmload (fs 4 144 144 147 1)) laneTurn 2 = true ∧ stops (.nmload (fs 4 144 144 144 1)) laneTurn 2 = true ∧
    stops (.nmload (fs 4 144 146 146 1)) laneTurn 0x0C = true ∧
    does (.nmcmd (fs 4 145 0 0 1)) (scratchWith 64 [0x8000, 1] laneTurn) = true ∧
    does (.nmcmd (fs 4 145 0 0 1)) (scratchWith 64 [2 ^ 49 + 0x8000, 1 * 2 ^ 50, 0x10000] laneTurn) = true ∧
    stops (.nmcmd (fs 4 145 0 0 1)) (scratchWith 64 [0x8000, 0] laneTurn) 2 = true := by
  decide +kernel

/-- A command of a kind on channel 0, and the one that runs it. -/
def skCmd (kind : Nat) : SkCmd :=
  { gid := ⟨0, 0, 0, 0⟩, issued := 3, vas := [], kind := kind, ctx := 0, row := 0, iter := 1, p0 := 0, p1 := 1, p2 := 2, entry := 0,
    count := 1, drow := 0x8000, flag := none, scope := 0, value := 7, stat := none, source := true }
def skRun (kind : Nat) (stop : Option Nat) : SkRun := ⟨skCmd kind, 0, 0, 0, [], [], [], stop, 0, none⟩

/-- Channel 0 with a program of no operation, owned by context 0. -/
def channel (f : Skerry → Skerry) : State :=
  { laneTurn with skerries := [(0, f { Skerry.reset with program := [2 ^ 56], owner := some 0 })] }

theorem witness_SkerryAcceptance :
    (let s := channel (fun k => { k with requests := [⟨⟨0, 0, 0, 0⟩, 0, 0, 9, .run (skCmd 0)⟩] })
     settleChannel s 0 = s ∧ moves (.skerryAccept 0) s = true) ∧
    (let s := channel (fun k => { k with requests := [⟨⟨0, 0, 0, 0⟩, 0, 0, 9, .lease ⟨0, 0, 0, 0⟩ 0 0 9⟩] })
     settleChannel s 0 = s ∧ moves (.skerryAccept 0) s = true) ∧
    (let s := channel (fun k => { k with fifo := [.load ⟨0, 0, 0, 0⟩ 0 0 9 1 (some [0])] })
     settleChannel s 0 = s ∧ moves (.nmloadApply 0) s = true) := by
  decide +kernel

/-- Every judgement, with the premises of its clause. -/
theorem witness_judgements :
    let x := skCmd 0
    let other : GroupId := ⟨1, 1, 1, 1⟩
    judge ⟨some 0, some other, 1⟩ x = 1 ∧ judge ⟨none, none, 1⟩ x = 2 ∧ judge ⟨some 0, some x.gid, 1⟩ x = 3 ∧ judge ⟨some 0, none, 1⟩ (skCmd 1) = 3 ∧
    judge ⟨some 0, none, 0⟩ x = 4 ∧ judge ⟨some 0, none, 1⟩ x = 0 ∧ judge ⟨some 0, some x.gid, 1⟩ (skCmd 1) = 0 ∧ judge ⟨some 0, none, 0⟩ (skCmd 2) = 0 := by
  decide

theorem witness_SkerryWords :
    (let s := channel (fun k => { k with fifo := [.run (skCmd 0)] })
     settleChannel s 0 = s ∧ runsOf (skerryOf s 0) = [] ∧ headsBoth s (skCmd 0) = true ∧ moves (.skerryCommandStart 0) s = true) ∧
    ([0, 1].all fun kind => moves (.skerryWord 0) (channel (fun k => { k with running := some (skRun kind none) }))) = true ∧
    moves (.skerryWord 0) (channel (fun k => { k with running := some (skRun 0 none), pc := 1 })) = true ∧
    moves (.skerryWord 0) (channel (fun k => { k with running := some (skRun 0 none), program := [2] })) = true ∧
    moves (.skerryWord 0) (channel (fun k => { k with running := some (skRun 0 none), program := [1], cp0 := 32 })) = true ∧
    badWord (skWord 1) = false ∧ badColumn (skWord 1) (32, 0, 0) = true ∧ badColumn (skWord 1) (31, 0, 0) = false ∧
    wordFault (channel id) (skRun 0 none) (skWord 1) 0 0 = none ∧
    runOf { Skerry.reset with running := some (skRun 0 none) } 3 = some (skRun 0 none) ∧
    moves (.bankRefresh 0 15 true) (channel id) = true ∧
    moves (.catchupReplay 0 15) (channel (fun k => { k with running := some (skRun 0 none), catchup := [(15, [⟨3, 2 ^ 56, (0, 0, 0)⟩])] })) = true := by
  decide +kernel

theorem witness_SkerryEnds :
    (otherChannel (skCmd 2)).isSome = true ∧ moves (.transferColumn 0) (channel (fun k => { k with running := some (skRun 2 none) })) = true ∧
    (let r := { skRun 2 none with cmd := { skCmd 2 with drow := 0 } }
     otherChannel r.cmd = none ∧ moves (.transferColumn 0) (channel (fun k => { k with running := some r })) = true) ∧
    (let s := channel (fun k => { k with running := some (skRun 0 (some 0)) })
     oldestRun (skerryOf s 0) = some (skRun 0 (some 0)) ∧ runOver (skerryOf s 0) (skRun 0 (some 0)) = true ∧ wordWaits s 0 (skCmd 0) = false ∧
       wordPoison s (skCmd 0) = none) ∧
    moves (.skerryCommandFinish 0) (channel (fun k => { k with running := some (skRun 0 (some 0)) })) = true := by
  decide +kernel

/-! ## Results worked out by hand from the tables -/

/-- The word of a v register in a lane after an instruction. -/
def gives (i : Instr) (s : State) (n lane : Nat) (w : Word) : Bool :=
  match exec i s with
  | .next t => match groupOf t 0 0 with
    | some g => decide (vWord g.ln n lane = w)
    | none => false
  | _ => false

/-- R196: a sum wraps; saturation stops at the ends. v8 holds 0x2000 + 8 × lane. -/
theorem test_iadd_wraps :
    gives (.iadd (fl 4 8 255 0 0xFFFFE000)) laneTurn 4 1 8 = true ∧ gives (.iaddSat .i32 (fl 4 8 255 0 0x7FFFFFFF)) laneTurn 4 0 0x7FFFFFFF = true ∧
    gives (.isubSat .n32 (fl 4 8 255 0 0xFFFFFFFF)) laneTurn 4 0 0 = true := by decide +kernel

/-- R95, R197: an amount of 33 shifts by 1. -/
theorem test_shifts : gives (.shl (fl 4 8 255 0 33)) laneTurn 4 0 0x4000 = true ∧ gives (.rot (fl 4 8 255 0 20)) laneTurn 4 0 2 = true := by decide +kernel

/-- R200: 1 + 3 = 4 and 1 × 3 + 3 = 6. -/
theorem test_float_sums : gives (.fadd .rne (fm 4 12 14 0)) laneTurn 4 0 0x40800000 = true ∧
    gives (.ffma .rne (fm 4 12 14 14)) laneTurn 4 31 0x40C00000 = true := by decide +kernel

/-- R219: lane 2 of a sub-group of 4 reads its neighbour; a lane that would read across the sub-group keeps its own. -/
theorem test_shfl_dn : gives (.shfl .dn (fl 4 0 255 2 1)) laneTurn 4 2 3 = true ∧ gives (.shfl .dn (fl 4 0 255 2 1)) laneTurn 4 3 3 = true := by
  decide +kernel

/-- R222: a running sum over lanes 0 to 3 is 0, 1, 3, 6. -/
theorem test_scan_add : gives (.scan .addI (fm 4 0 0 2)) laneTurn 4 3 6 = true ∧ gives (.red .addI (fm 4 0 0 2)) laneTurn 4 4 22 = true := by
  decide +kernel

/-- The value of a scalar register after an instruction. -/
def sgives (i : Instr) (s : State) (n : SName) (w : DWord) : Bool :=
  match exec i s with
  | .next t => match groupOf t 0 0 with
    | some g => decide (Rules.sreg g n = w)
    | none => false
  | _ => false

/-- R229: s1 is 7 and s2 0x2000; s0 stays 0. -/
theorem test_scalar_results :
    sgives (.smulhN64ImmS64 ⟨4, 1, 0xFFFFFFFF⟩) scalarTurn 4 6 = true ∧ sgives (.ssubImm ⟨4, 1, 8⟩) scalarTurn 4 (-1) = true ∧
    sgives (.saddImm ⟨0, 1, 1⟩) scalarTurn 0 0 = true ∧ sgives (.ssar ⟨4, 2, 1⟩) scalarTurn 4 0x40 = true := by decide +kernel

/-- R317, R332: the cells of a plane whose registers 1 and 2 hold 1 and 3 in cell 0 get 4. -/
theorem test_plane_add :
    let p : Plane := { Plane.reset with regs := [(1, [0x3F800000]), (2, [0x40400000])] }
    cellWord (planeAfter p (.bin .add 0 1 (.word 0x40400000))) 0 0 = 0x40800000 := by decide +kernel

/-- R303: eight products 1 × 2 of signed bytes add 16 to a cell. -/
theorem test_integer_cell : cellAfter 0 5 0x0101010101010101 0x0202020202020202 0 0 = (21, 0) := by decide +kernel

/-! ## Schedulers, queues, kernels -/

/-- The fixture between turns. -/
def between : State := { laneTurn with turn := .idle }

/-- A word for the lane stream at its address: `nop`. -/
def withNop (s : State) : State := { s with mem := Memory.writeBytes s.mem 0x10001000 (bytesOfWord 4 4) }

/-- The fixture at its core's turn to offer, its lane stream offered. -/
def offering : State := modCore { withNop between with turn := .offer 0 } 0 (fun k => { k with offered := [0] })

/-- Its scalar stream offered. -/
def scalarOffering : State :=
  modCore (modScalar { between with turn := .offer 0 } 0 0 (fun z => { z with pc := 0x1000 })) 0 (fun k => { k with scalarOffered := [0] })

theorem witness_Scheduling_offers :
    (laneCandidates (tick offering) 0).map (fun g => g.1) = [0] ∧ scalarCandidates (tick offering) 0 = [] ∧
    laneCandidates (tick scalarOffering) 0 = [] ∧ (scalarCandidates (tick scalarOffering) 0).map (fun g => g.1) = [0] ∧
    (nextWaiting (tick offering)).isNone = true ∧ (nextCommand (tick offering)).isNone = true ∧ offering.agenda = [] ∧
    openCore (tick { offering with turn := .offer 1 }) 0 = some 0 ∧ openCore (tick { between with turn := .offer 0 }) 0 = none ∧
    peopled (tick between) 0 = true ∧ (holmCores 3).any (peopled (tick { between with turn := .offer 24 })) = false ∧
    midTurn laneTurn.turn = true ∧ midTurn between.turn = false := by
  decide +kernel

/-- Two groups of one core, of which the younger, of another kernel and of higher priority, has been passed over 31 times. -/
def crowdedCore : State := modCore (withNop between) 0 (fun k =>
  { k with groups := k.groups ++ (k.groups.map (fun g => (1, { g.2 with age := 5, prio := 200, pass := 31, kernel := 1 }))), offered := [0, 1] })

/-- R142: the older one has the turn, its pass counts for the younger, which comes first at the next. -/
theorem witness_Scheduling_choice :
    let l := laneCandidates crowdedCore 0
    let t := giveLane crowdedCore 0 l (issueSlot crowdedCore 0 l)
    let u := afterTurn (.lane 0 0) t
    let v := modCore { u with turn := .idle } 0 (fun k => { k with offered := [0, 1] })
    l.length = 2 ∧ t.turn = .lane 0 0 ∧ t.passed = [1] ∧ (groupOf u 0 0).map (fun g => g.pass) = some 0 ∧
      (groupOf u 0 1).map (fun g => g.pass) = some 32 ∧
      (giveLane v 0 (laneCandidates v 0) (issueSlot v 0 (laneCandidates v 0))).turn = .lane 0 1 := by
  decide +kernel

/-- A collector that waits for two operands in one bank and one in another. -/
def collecting : Collector := ⟨0, [⟨3, 0, none⟩, ⟨3, 0, none⟩, ⟨5, 0, none⟩], [5], 0, 0⟩

/-- R143, R144: one read of a bank in an ac; the fourth loss makes a read starved, and it then comes before the older one. -/
theorem witness_Grants :
    (let s := modCore laneTurn 0 (fun k => { k with collectors := [collecting] })
     moves (.operandGrant 0) s (fun t => decide ((coreOf t 0).collectors.map (fun c => c.reads.length) = [1])) = true ∧
     (coreAc s 0).cores ≠ s.cores) ∧
    (coreGranted { coreOf laneTurn 0 with collectors := [{ collecting with reads := [⟨3, 0, none⟩] }] }).collectors = [] ∧
    bankWinner 3 [collecting, { collecting with reads := [⟨3, 3, none⟩] }] = some 0 ∧
    (lostRead 8 ⟨3, 3, none⟩).starved = some 8 ∧
    bankWinner 3 [collecting, { collecting with reads := [⟨3, 4, some 8⟩] }] = some 1 ∧ bankWinner 4 [collecting] = none := by
  decide +kernel

/-- R51, R143: an operand that is not granted when its issue step ends puts the next one off by a step. -/
theorem witness_laneAc :
    (groupOf laneTurn 0 0).all (fun g =>
      let l := { g.ln with next := 8 }
      decide ((laneAc (some collecting) 8 l).next = 16 ∧ (laneAc (some collecting) 4 l).next = 8 ∧ (laneAc none 8 l).next = 8)) = true := by
  decide +kernel

theorem witness_Residence :
    moves (.groupFormed 0 0) (modLane laneTurn 0 0 (fun l => { l with state := .forming })) = true ∧
    (let s := modCore (modLane laneTurn 0 0 (fun l => { l with state := .stalled .allocation, need := 512 })) 0 (fun k =>
        { k with pool := 100, reserve := 412 })
     decide (reform (coreOf s 0) = coreOf s 0) && moves (.allocationReserve 0) s (fun t => decide ((coreOf t 0).reserve = 0))) = true := by
  decide +kernel

/-- The fixture with its kernel still to place more, on the cores of a set. -/
def placing (f : Kernel → Kernel) (cores : List Nat) : State :=
  let k := f { fixtureKernel with record := { fixtureRecord with cohorts := 2 }, state := .placing, next := 1 }
  { laneTurn with
    now := 999999, kernels := [(0, k)],
    partitions := [(0, { Partition.reset with cores := BitVec.ofNat 1024 ((cores.map (fun c => 2 ^ c)).foldl (· + ·) 0) })] }

/-- The head of die 0's order, and where its next cohort may go. -/
def first (s : State) : Option (Nat × Nat × Option Nat) :=
  match placeOrder s 0 with
  | (n, k) :: _ => some (n, k.prio, placeWhere s n k (savedOf s n k))
  | [] => none

theorem witness_Placement :
    first (placing id [5]) = some (0, 100, some 5) ∧ first (placing id []) = some (0, 100, none) ∧
    first (placing (fun k => { k with prio := 255 }) []) = some (0, 255, none) ∧
    moves (.placementAging 0) (placing (fun k => { k with firstAt := some 0 }) []) (fun t => t.kernels.all (fun k => !k.2.reserved)) = false ∧
    (noteFirst (placing id [])).kernels.any (fun k => decide (k.2.firstAt = some 999999)) = true ∧
    (let s := placing id []
     moves (.placementAging 0) { s with now := 1000000 } (fun t => t.kernels.any (fun k => decide (k.2.boost = 1))) = true ∧
     (victims s (coreOf s 0)).length = 1) := by
  decide +kernel

/-- The fixture's context suspended, its group at a point where it may stop. -/
def suspended : State :=
  modLane { laneTurn with ctxs := mset laneTurn.ctxs 0 { ctxOf laneTurn 0 with state := .suspended } } 0 0
    (fun l => { l with inBlock := false, needCkpt := false })

theorem witness_Placement_preempts :
    (match (coreOf suspended 0).cohorts with
     | [c] => preemptAsked suspended 0 c && quiet suspended 0 c && decide (c.slots.head? = some 0)
     | _ => false) = true := by
  decide +kernel

/-- A host queue of the fixture's context with a tail at 0x2000 and a head word at 0x2080. -/
def hostQueue (f : HostQueue → HostQueue) (tail : Nat) : State :=
  let q : HostQueue := { state := .empty, ctx := 0, die := 0, ring := 0x4000, size := 16, tailAddr := 0x2000, headAddr := 0x2080, prio := 1,
                         head := 0, last := 0, window := [], reading := [], status := 0, exposed := [], tag := 0, after := none }
  { memWith [tail] with queues := [(5, f q)] }

/-- A check that passes. -/
def passes : AddrCheck → Bool
  | .ok _ => true
  | _ => false

/-- The fixture's page without any permission. -/
def noAccess (s : State) : State := { s with mem := Memory.writeBytes s.mem 0x20000 (natToBytes 8 0x10000003) }

theorem witness_HostQueues_tail :
    passes (unitCheck (hostQueue id 16) 0 0 0x2000 8 .read) = true ∧ moves (.queueTailWrite 5) (hostQueue id 16) = true ∧
    moves (.queueTailWrite 5) (hostQueue id 17) = true ∧ ((hostQueue (fun q => { q with last := 3 }) 0).queues.all fun q => badTail q.2 2) = true ∧
    unitCheck (noAccess (hostQueue id 1)) 0 0 0x2000 8 .read = .access ∧ moves (.queueTailWrite 5) (noAccess (hostQueue id 1)) = true := by
  decide +kernel

theorem witness_HostQueues_records :
    let s := hostQueue (fun q => { q with state := .armed, last := 1, exposed := [(1, 0, [])] }) 1
    (queueOrder s 0).length = 1 ∧ passes (unitCheck s 0 0 0x4000 256 .read) = true ∧ passes (unitCheck s 0 0 0x2080 8 .write) = true ∧
    (dispatchingOn s 0).isNone = true ∧ moves (.recordRead 0) s = true ∧
    moves (.recordRead 0) (modHostQueue s 5 (fun q => { q with state := .dispatching })) = true ∧ unitCheck (noAccess s) 0 0 0x4000 256 .read = .access := by
  decide +kernel

theorem witness_Kernels :
    (let s := withChild .declared
     decide (dependences s { fixtureKernel with state := .declared } = []) && moves (.kernelDeclare 7) s) = true ∧
    (let r : Kernel := { fixtureKernel with state := .retiring }
     !commandsOut laneTurn r && moves (.kernelComplete 7) { laneTurn with kernels := [(7, r)] } &&
       moves (.kernelComplete 7) { laneTurn with kernels := [(7, { r with record := { fixtureRecord with flag := 0x2000 } })] }) = true ∧
    moves (.cxTeardownDone 0) { laneTurn with ctxs := mset laneTurn.ctxs 0 { ctxOf laneTurn 0 with tearing := some 9 } } = true := by
  decide +kernel

/-- Two kernels of which the second reads what the first writes, up to their last byte. -/
theorem witness_Dependences :
    let a : Kernel := { fixtureKernel with record := { fixtureRecord with wr := [⟨128, 256⟩] } }
    let b (lo : Nat) : Kernel := { fixtureKernel with seq := 1, record := { fixtureRecord with rd := [⟨lo, 512⟩] } }
    dependences { laneTurn with kernels := [(0, a)] } (b 255) = [0] ∧ dependences { laneTurn with kernels := [(0, a)] } (b 256) = [] ∧
    dependences { laneTurn with kernels := [(0, { a with record := { fixtureRecord with rd := [⟨128, 512⟩] } })] } (b 255) = [] ∧
    moves (.kernelDeclare 1) { laneTurn with kernels := [(0, a), (1, { b 255 with state := .declared })] } = true := by
  decide +kernel

/-! ## Caches, links, power, start -/

theorem witness_CacheEvents :
    (mget? laneTurn.ctxs 0).isSome = true ∧ (match walkOn laneTurn 0 0 0x2000 with
      | .leaf _ _ _ => true
      | _ => false) = true ∧ moves (.tableWalk 0 0 0x2000) laneTurn = true ∧
    moves (.uncorrectableError 0x10002000 (.agent 0)) laneTurn = true ∧
    moves (.uncorrectableError 0x10002000 (.agent 0)) { laneTurn with dies := [(0, { Die.reset with poison := List.range 1024 })] } = true := by
  decide +kernel

/-- A link in a state. -/
def linkIn (id : Nat) (f : Link → Link) : State := modLink laneTurn id f

theorem witness_LinkEvents :
    ([0, 3, 1024, 1031, 2048].all fun id => isLink id && moves (.linkTrained id false) (linkIn id (fun l => { l with state := .training }))) = true ∧
    ([2, 3].all fun n => moves (.linkTrainingFailed 3) (linkIn 3 (fun l => { l with state := .training, attempts := n }))) = true ∧
    linkUp (linkIn 1031 (fun l => { l with state := .up })) 1031 = true ∧
    (let s := linkIn 1031 (fun l => { l with state := .up, replays := List.replicate 1001 0 })
     decide (1000 < (liveReplays s 1031).length) && moves (.linkErrorsOverLimit 1031) s) = true ∧
    moves (.flitReplay 1031) (linkIn 1031 (fun l => { l with state := .degraded })) = true ∧
    moves (.linkDrained 0) (linkIn 0 (fun l => { l with state := .draining })) = true ∧ moves (.unsupportedDelivery 7) (linkIn 1031 (fun l => { l with state := .up })) = true ∧
    ([true, false].all fun ok => moves (.portRetry 7 ok) { laneTurn with fw := { laneTurn.fw with boot := .recovery 4 } }) = true := by
  decide +kernel

/-- The straits and port 7 up, context 0 bound to it; Grendex runs. -/
def rmaState : State :=
  let s := [0, 1, 2, 3, 1031].foldl (fun s id => modLink s id (fun l => { l with state := .up })) laneTurn
  { s with
    ctxs := mset s.ctxs 0 { ctxOf s 0 with endpoint := some (0x80, 77) },
    fw := { s.fw with boot := .running } }

theorem witness_RmaOperations :
    linkUp rmaState (portLink 7) = true ∧ endpointAt rmaState 0 7 = true ∧ rmaBar (rmaChecks rmaState 0 7 0x2000 2 .write) = .none ∧
    rmaBar (rmaChecks rmaState 0 7 0x2000 256 .read) = .none ∧ rmaBar (rmaChecks (noAccess rmaState) 0 7 0x2000 256 .read) = .fails 0x2000 ∧
    rmaBar (rmaChecks (modLink rmaState 1 (fun l => { l with state := .draining })) 0 7 0x2000 2 .write) = .held ∧
    unitCheck rmaState 3 0 0x2000 8 .atomic ≠ .held ∧
    moves (.rmaWrite (.context 0) 7 0x2000 [1, 2]) rmaState = true ∧ moves (.rmaRead (.context 0) 7 0x2000 256) rmaState = true ∧
    moves (.rmaRead (.context 0) 7 0x2000 256) (noAccess rmaState) = true ∧ moves (.rmaAtomic 0 7 0x2000 false 5 0) rmaState = true ∧
    moves (.rmaAtomic 0 7 0x2000 true 5 1) rmaState = true ∧
    (let o : RmaOp := ⟨0, 7, 0x2000, .write [1]⟩
     let s := { rmaState with rma := [o] }
     rmaHeld s o = false ∧ (nextRma (tick s)).isSome = true ∧
       moves (.rmaWrite (.context 0) 7 0x2000 [2]) s (fun t => decide (t.rma.length = 2)) = true ∧ endpointAt s 0 6 = false) ∧
    moves (.rmaWrite .mailbox 7 0 [1]) rmaState = true ∧ moves (.rmaRead .mailbox 7 0x2000 8) rmaState = true := by
  decide +kernel

theorem witness_PowerEvents :
    moves (.passDemandExpiry 255 .burst) { laneTurn with quads := [(255, { Quad.reset with burst := true })] } = true ∧
    moves (.passDemandExpiry 255 .balance) { laneTurn with quads := [(255, { Quad.reset with balance := 4 })] } = true ∧
    moves (.passDemandExpiry 255 .thermal) { laneTurn with quads := [(255, { Quad.reset with thermal := true })] } = true ∧
    moves (.hintOnset 0 0) (inLane (fun l => { l with hint := some ⟨1, 16, 9, false, 0, false⟩ })) = true ∧
    moves (.hintEnd 0 0) (inLane (fun l => { l with hint := some ⟨1, 16, 9, true, 0, false⟩ })) = true ∧
    moves (.railStep 15 true) { laneTurn with rails := mset laneTurn.rails (railKey 15 true) ⟨320, false, false, 300, []⟩ } = true ∧
    moves (.railHoldExpiry 15 true) { laneTurn with rails := mset laneTurn.rails (railKey 15 true) ⟨300, true, false, 300, []⟩ } = true ∧
    moves (.bankTempCompare 1023 27 25) laneTurn = true ∧ moves (.energyUpdate 0 7) laneTurn = true ∧
    moves (.thermalLevelChange 11 95) laneTurn = true ∧ moves (.stackThermalDemand 3 100) laneTurn = true := by
  decide +kernel

theorem witness_HolmBalance :
    let b := (holmAfter laneTurn 0 127).1
    let h := (holmAfter laneTurn 0 0).1
    (quadNo laneTurn 254).state ≠ .gated ∧ (quadNo laneTurn 255).state ≠ .gated ∧
      balanced (max b.lo b.up) (min b.lo b.up + 4 * (holmAfter laneTurn 0 127).2) = true ∧ h.lo ≠ 0 := by
  decide +kernel

theorem witness_UndeclaredBurst :
    moves (.undeclaredBurst 0) (modCore laneTurn 0 (fun k => { k with landing := [⟨[⟨0, 0, 0, 0⟩], false, 1, [], List.replicate 5 (0, 0), []⟩] })) = true := by
  decide +kernel

theorem witness_QuadGates :
    (let s := (quadNarrows 255).foldl (fun s id => modLink s id (fun l => { l with state := .draining }))
        { State.reset with quads := [(255, { Quad.reset with state := .draining })] }
     gateMayClose s 255 && moves (.quadGateClose 255) s) = true ∧
    moves (.quadWakeDone 255) { laneTurn with quads := [(255, { Quad.reset with state := .waking })] } = true := by
  decide +kernel

/-- An image that fails its check of form. -/
def badImage : Image := ⟨0, 0, 0, 0, 0, [], []⟩

/-- The package in a state of its start. -/
def starting (b : Boot) : State := { State.reset with fw := { State.reset.fw with boot := b } }

theorem witness_StartEvents :
    moves .powerOn State.reset = true ∧ moves (.startStepDone (some .selfTest)) (starting (.step 2)) = true ∧
    stepReady (starting (.step 2)) 2 = true ∧ moves (.startStepDone none) (starting (.step 2)) = true ∧
    (imageFailure badImage).isSome = true ∧ moves (.imageFetch badImage) (modLink (starting (.step 5)) 1031 (fun l => { l with state := .up })) = true ∧
    (let s := modLink (starting (.recovery 5)) 1031 (fun l => { l with state := .up })
     listening s 5 && moves (.recoveryImage badImage) s) = true ∧
    moves .eventSinkUpdate (modLink { laneTurn with fw := { laneTurn.fw with sink := some (7, 0x1000) } } 1031 (fun l => { l with state := .up })) = true ∧
    moves (.eventConsumedWrite 1) (modLink (starting .running) 1031 (fun l => { l with state := .up })) = true := by
  decide +kernel

/-! ## Mailbox commands -/

/-- A command's slot with its argument words. -/
def mb (a : List Nat) : Mbox :=
  let w (i : Nat) : DWord := BitVec.ofNat 64 (a.getD i 0)
  ⟨63, 9, w 0, w 1, w 2, w 3, w 4, w 5, w 6⟩

/-- Grendex runs, and the arguments fit. -/
def commands (ws : List Nat) (m : Mbox) (s : State) : Bool := decide (s.fw.boot = .running) && !s.fw.fatal && argsFit ws m

/-- What `commands` finds are the hypotheses of a statement about a command. -/
theorem commands_holds {ws m s} (h : commands ws m s = true) : Commands ws m s := by
  simp only [commands, Bool.and_eq_true, decide_eq_true_eq, Bool.not_eq_true'] at h
  exact ⟨h.1.1, h.1.2, h.2⟩

/-- Grendex runs beside the fixture, its context in a state. -/
def served (c : CtxState) : State :=
  { laneTurn with fw := { laneTurn.fw with boot := .running }, ctxs := mset laneTurn.ctxs 0 { ctxOf laneTurn 0 with state := c } }

/-- The same with a configured partition. -/
def bindable : State :=
  { served .created with partitions := [(0, { Partition.reset with configured := true })] }

theorem witness_ContextCommands :
    commands [64, 64, 64, 64, 64, 64, 64] (mb [1, 2, 3, 4, 5, 6, 7]) (served .bound) = true ∧ commands [10] (mb [0x3FF]) (served .bound) = true ∧
    ctxFree (served .bound) 0x3FF = true ∧ ctxFree (served .bound) 0 = false ∧
    ([CtxState.created, .bound, .runnable, .suspended, .faulted, .tornDown].all fun c => decide (ctxStateOf (served c) 0 = some c)) = true ∧
    ctxStateOf (served .bound) 1 = none ∧ commands [23, 46, 49, 48, 48, 46, 48] (mb [2 ^ 22, 2 ^ 46 - 1, 2 ^ 48]) (served .created) = true ∧
    bindOk bindable (mb [0, 0x10000, 2 ^ 38 + 0x40]) = true ∧
    bindOk bindable (mb [0, 1]) = false ∧
    commands [10, 10, 64] (mb [0, 0x044, 2 ^ 64 - 1]) (served .bound) = true ∧ fpcOk 0xFFFFFFFF = false ∧ fpcOk 0x40 = true ∧
    setAllowed (some .bound) = true ∧ setAllowed none = false ∧ commands [10, 2] (mb [0, 3]) (served .bound) = true := by
  decide +kernel

/-- Grendex runs beside a host queue in a state. -/
def queueIn (q : QueueState) : State := { hostQueue (fun x => { x with state := q }) 0 with fw := { laneTurn.fw with boot := .running } }

theorem witness_QueueCommands :
    commands [32, 48, 17, 48, 48] (mb [5, 2 ^ 48 - 1, 65536, 0x2000, 0x2080]) (queueIn .halted) = true ∧
    (let m := mb [6, 0x4000, 16, 0x2000, 0x2080]
     queueOk (queueIn .halted) m && passes (unitCheck (queueIn .halted) 0 0 0x2080 8 .write)) = true ∧
    queueOk (queueIn .halted) (mb [6, 0x4000, 15, 0x2000, 0x2080]) = false ∧
    (toStart (queueIn .halted) (mb [5])).any (fun q => passes (tailCheck (queueIn .halted) q) && !badTail q 0) = true ∧
    moves (.qStart (mb [5])) (queueIn .halted) = true ∧
    (let q := noAccess (queueIn .halted)
     unitCheck q 0 0 0x2080 8 .write = .access ∧ moves (.qStart (mb [5])) q = true ∧ moves (.qCreate (mb [6, 0x4000, 16, 0x2000, 0x2080])) q = true) ∧ moves (.qHalt (mb [5])) (queueIn .dispatching) = true ∧
    commands [12] (mb [0xFFF]) (queueIn .empty) = true ∧ commands [12, 8] (mb [5, 255]) (queueIn .draining) = true ∧
    moves (.qHalt (mb [5])) (queueIn .empty) = true ∧ moves (.qDrain (mb [5])) (queueIn .armed) = true ∧
    moves (.qTeardown (mb [5])) (queueIn .halted) = true := by
  decide +kernel

theorem witness_MemoryCommands :
    (let s := served .runnable
     let f : FaultEntry := { id := 3, ctx := 0, page := 1, kind := .read, sub := 0 }
     commands [19] (mb [3]) s && commands [19] (mb [2 ^ 18 + 3]) s && moves (.pfReply (mb [3])) (modDie s 0 (fun d => { d with faults := [f] }))) = true ∧
    commands [10, 48, 49] (mb [0, 2 ^ 48 - 8192, 8192]) (served .bound) = true ∧ commands [46] (mb [2 ^ 46 - 8192]) (served .bound) = true ∧
    moves (.unpoison (mb [8192])) (modDie (served .bound) 0 (fun d => { d with poison := [1] })) = true ∧
    commands [2, 10] (mb [3, 1023]) (served .bound) = true := by
  decide +kernel

theorem witness_LinkCommands :
    commands [12] (mb [1031]) (served .bound) = true ∧ isLink 1031 = true ∧ isLink 4 = false ∧ isLink 2048 = true ∧
    moves (.linkEnable (mb [1031])) (served .bound) = true ∧ commands [10, 8, 64] (mb [0x3FF, 255, 7]) (served .bound) = true ∧
    moves (.epBind (mb [0, 1, 7])) (served .bound) = true ∧ commands [9, 64, 10, 48] (mb [511, 7, 1023, 2 ^ 40]) (served .bound) = true ∧
    commands [4, 32, 13] (mb [15, 7, 4096]) (served .bound) = true ∧ moves (.podSet (mb [15, 7, 4096])) (served .bound) = true := by
  decide +kernel

theorem witness_PowerCommands :
    commands [8] (mb [255]) (served .bound) = true ∧ moves (.gate (mb [255])) (served .bound) = true ∧
    commands [8, 64] (mb [255, 4]) (served .bound) = true ∧ commands [4, 5, 64, 64] (mb [15, 31, 300, 420]) (served .bound) = true ∧
    moves (.vote (mb [15, 31, 300, 420])) (served .bound) = true ∧ commands [4, 4, 64] (mb [15, 11, 100]) (served .bound) = true ∧
    otherShares (served .bound) 15 11 = 0 ∧ commands [4, 46] (mb [15, 0x10002000]) (served .bound) = true ∧
    commands [4, 1] (mb [0, 1]) (served .bound) = true ∧ partitionUsed (served .bound) 0 = true ∧ partitionUsed (served .bound) 15 = false := by
  decide +kernel

theorem witness_SystemCommands :
    commands [64, 64, 64, 64] (mb [2 ^ 64 - 1]) (served .bound) = true ∧ (served .bound).fw.quote = none ∧ commands [] (mb []) (served .bound) = true ∧
    commands [46, 64] (mb [0x10002000, 0x1FFF]) (served .bound) = true ∧ 0x10002000 + 0x1FFF ≤ hbmTop ∧
    commands [46, 64] (mb [0x10002000, 0x2000]) (served .bound) = true ∧ 0x10002000 + 0x2000 ≤ hbmTop ∧
    commands [46, 64] (mb [hbmTop, 1]) (served .bound) = true ∧ hbmTop < hbmTop + 1 ∧
    commands [64, 64] (mb [7, 0x1000]) (served .bound) = true := by
  decide +kernel

/-- The same while a quote is under way: what `warm`, `quote` and the quote's end meet. -/
theorem witness_QuoteUnderWay :
    (let s := modFw (served .bound) (fun w => { w with quote := some (mb [1]) })
     commands [64, 64, 64, 64] (mb [1]) s && decide (s.fw.quote ≠ none) && decide (s.fw.quote = some (mb [1]))) = true := by
  decide +kernel

/-! ## Forms that wait: at peers, at the SFU, at ports -/

/-- A write that a peer has not acknowledged, of a core or unit for a group. -/
def writeOut (core : Nat) (owner : Option GroupId) (maker : Option (Stream × GroupId)) : ApertureOp :=
  ⟨0, 0, 77, 0, 0x2000, .write [1], core, maker, owner, 5, true, false⟩

/-- R152: a value of GR_SP that is no multiple of 32, or above the stack area. -/
theorem witness_SystemRegisters_sp :
    sstops (.grSp 1) scalarTurn 0x0D = true ∧
    sstops (.grSp 4) (modScalar scalarTurn 0 0 (fun z => { z with s := [0, 7, 0x2000, 64, 0x2020] })) 0x0D = true := by
  decide +kernel

/-- R214: the SFU is still busy with another opportunity's quarters; those of one issue slot enter it together. -/
theorem witness_Ready_sfu :
    let busy (opp : Nat) : State := modCore laneTurn 0 (fun k => { k with sfuBusy := 1, sfuOpp := opp })
    given (.rcp (fs 4 12 0 0 1)) laneTurn (fun e _ => sfuFull laneTurn (.rcp (fs 4 12 0 0 1)) e) = false ∧
    given (.rcp (fs 4 12 0 0 1)) laneTurn (fun e _ => sfuFull (busy 9) (.rcp (fs 4 12 0 0 1)) e &&
      !sfuFull (busy (busy 9).opp) (.rcp (fs 4 12 0 0 1)) e && !sfuFull (busy 9) (.fadd .rne (fm 4 12 14 0)) e) = true ∧
    moves (.rcp (fs 4 12 0 0 1)) (busy 9) (fun t => (groupOf t 0 0).any (fun g => decide (g.ln.state = .stalled .collector))) = true := by
  decide +kernel

/-- R130, R387: a flag at a peer is sent first, and awaited; a kernel whose flag cannot be written faults. -/
theorem witness_Kernels_flags :
    let r : Kernel := { fixtureKernel with state := .retiring, record := { fixtureRecord with flag := 0x2000 } }
    let with_ (s : State) (k : Kernel) : State := { s with kernels := [(7, k)] }
    moves (.kernelComplete 7) (with_ (peered laneTurn) r) (fun t =>
      t.kernels.all (fun k => decide (k.2.state = .retiring) && k.2.flagged && peersOwe t k.2) && !moves (.kernelComplete 7) t) = true ∧
    moves (.kernelComplete 7) (with_ (noAccess laneTurn) r) (fun t => t.kernels.all (fun k => decide (k.2.state = .faulted))) = true ∧
    moves (.kernelComplete 7) (with_ laneTurn { r with flagged := true }) = true ∧
    unitOwes { laneTurn with outgoing := [writeOut 1024 none none] } 0 = true ∧ unitOwes laneTurn 0 = false ∧
    peersWrite { laneTurn with outgoing := [writeOut 0 (some ⟨0, 0, 0, 0⟩) none] } 0 = true ∧ peersWrite laneTurn 0 = false := by
  decide +kernel

/-- A step that ends with a core's engine without commands. -/
def drains (i : Instr) (s : State) : Bool :=
  match exec i s with
  | .next t => (coreOf t 0).engine.isEmpty
  | _ => false

/-- R266, R309, R387: a command whose source lies at a peer asks for it, and takes it once the peer has answered. -/
theorem witness_Copies_at_peers :
    (let s := peered (then_ (.cpy (fm 0 145 0 0)) (copyState [2 ^ 62 + 256, 0x2000, 8]))
     (copiesAtWork (coreOf s 0)).length == 1 && moves (.copyComplete 0) s (fun t =>
      t.outgoing.length == 1 && !moves (.copyComplete 0) t && drains (.copyComplete 0) (allAnswered t))) = true ∧
    (let s := peered fillState
     moves (.bfillComplete 0) s (fun t =>
      !t.outgoing.isEmpty && !moves (.bfillComplete 0) t && drains (.bfillComplete 0) (allAnswered t))) = true := by
  decide +kernel

/-- R351, R365: a poisoned frame that a bank meets in a word it has missed, before its command has stopped and after. -/
theorem witness_SkerryWords_poison :
    let poisoned (stop : Option Nat) : State := modDie (channel (fun k => { k with
      running := some (skRun 0 stop), catchup := [(15, [⟨3, 1, (0, 0, 0)⟩, ⟨3, 1, (1, 0, 0)⟩])] })) 0 (fun d => { d with poison := [0] })
    (wordFault (poisoned none) (skRun 0 none) (skWord 1) 0 0).isSome = true ∧
    moves (.catchupReplay 0 15) (poisoned none) (fun t => ((skerryOf t 0).running).any (fun r => r.fault.isSome)) = true ∧
    moves (.catchupReplay 0 15) (poisoned (some 8)) (fun t => (missed (skerryOf t 0) 15).isEmpty) = true := by
  decide +kernel

/-- R28: without a port nothing reaches or leaves the package. -/
theorem witness_closed_ports :
    ports.any (linkUp laneTurn) = false ∧ linkUp laneTurn (portLink 3) = false ∧
    ports.any (linkUp (modLink laneTurn 1031 (fun l => { l with state := .up }))) = true := by
  decide +kernel

/-- R308: one path's word goes to its register, two paths' to theirs; a 64-bit type has two words. -/
theorem test_mmrd_words : readWords false [5, 7] = [[5, 7]] ∧ readWords true [2 ^ 32 + 5, 7] = [[5, 7], [1, 0]] := by decide

/-- R417: a proposal of term 0 is cancelled too, after those of a higher term. -/
theorem test_next_idle :
    nextIdle false ⟨9, 0, [some 0, some 3, none, some 3], []⟩ = some (3, 3) ∧
    nextIdle false ⟨9, 0, [some 0, some 3, none, some 3], [3, 1]⟩ = some (0, 0) ∧
    nextIdle false ⟨9, 0, [some 0, some 3, none, some 3], [3, 1, 0]⟩ = none := by decide

/-- R425: the start of a declared burst waits until the last one of its holm is 32 ac behind, and is noted in turn. -/
theorem witness_MatrixPasses_bursts :
    let s := modLane (then_ (.mma (fs 0 8 147 0 1)) matTurn) 0 0 (fun l => { l with hint := some ⟨1, 16, 9, true, 0, false⟩ })
    let late := modCore s 0 (fun k => { k with burstGap := 1 })
    (burstsBegun (coreOf s 0)).length = 1 ∧ burstWaits s 0 = false ∧ moves (.mmaPass 0) s (fun t => decide ((coreOf t 0).burstGap = 32)) = true ∧
    burstWaits late 0 = true ∧ burstWaits (coreAc late 0) 0 = false := by
  decide +kernel

/-! ## Forms at the edges of clauses -/

theorem witness_MemoryForm : Safety.MemoryForm laneTurn := by
  have h : laneTurn.cores = [(0, coreOf laneTurn 0)] := by decide +kernel
  refine ⟨by decide +kernel, fun core => ?_⟩
  by_cases hc : core = 0
  · subst hc; decide +kernel
  · have hk : coreOf laneTurn core = Core.reset := by
      generalize coreOf laneTurn 0 = k at h
      simp only [coreOf, h, mget, mget?, if_neg (Ne.symm hc), Option.getD]
    rw [hk]; decide

/-- R332, R334: cell 5 is enabled, cell 4095 is not; 1 + 3 = 4 is written in the first alone, with the register's other cells and
the other registers kept. -/
theorem witness_PlaneCells :
    let ones : List Word := List.replicate 4096 0x3F800000
    let p : Plane := { Plane.reset with regs := [(1, ones), (2, List.replicate 4096 7)], enables := [BitVec.ofNat 4096 (2 ^ 5)] }
    let q := planeAfter p (.bin .add 2 1 (.word 0x40400000))
    cellOn p 5 = true ∧ cellOn p 4095 = false ∧ cellWord q 2 5 = 0x40800000 ∧ cellWord q 2 4095 = 7 ∧ cellWord q 1 5 = 0x3F800000 ∧
      (entryResults p (.bin .add 2 1 (.word 0x40400000))).isSome = true := by
  decide +kernel

theorem witness_PlaneHolding_edges :
    stops (.plorg (fl 0 148 255 0 0x800001)) planeTurn 2 = true ∧
    ([Instr.plorg (fl 0 255 255 0 1), .plen (fm 0 172 0 0), .plels (fm 0 0 0 0), .plpop (fm 0 0 0 0), .plflag (fs 4 0 0 0 1),
      .plrd (fs 4 172 0 0 1), .plcov (fs 4 7 0 0 1)].all fun i => stops i laneTurn 0x11) = true := by
  decide +kernel

theorem witness_Barriers_handler :
    ([Instr.barv, .barw, .bars].all fun mk => [0, 1, 0x0A, 0x7D].all fun b => stops (mk (fm 0 b 0 0)) inHandler 1) = true ∧
    ([0, 1, 0x0A, 0x7D].all fun b => stops (.bari (fm 0 b 146 0)) inHandler 1) = true ∧
    stops (.bari (fm 0 0 146 0)) laneTurn 0x16 = true := by
  decide +kernel

/-- A pod barrier of three, of whose members two lie on other packages. -/
theorem witness_PodPhase :
    let b : Barrier := ⟨⟨.pod, 7, 0, 1⟩, 3, 0, [⟨⟨0, 0, 0, 0⟩, 1, 0, 0, 0, false, none⟩], ⟨2, 2, 1⟩, [], []⟩
    (nextPhase 0 b).phase = 1 ∧ (nextPhase 0 b).others = ⟨2, 1, 1⟩ ∧ (nextPhase 0 { b with others := ⟨2, 1, 1⟩ }) = { b with others := ⟨2, 1, 1⟩ } ∧
      joinedOf b = 3 := by
  decide

/-- The straits of a die closed. -/
def closed (s : State) : State := [0, 1, 2, 3].foldl (fun s id => modLink s id (fun l => { l with state := .draining })) s

/-- A dirty line in core 0's L1 whose home is die 3. -/
def dirtyFar (s : State) : State :=
  modStack (modCore s 0 (fun k => { k with l1 := [(9 * 2 ^ 31, { emptySector with dirty := 1, valid := 1 })] })) 0
    (fun k => { k with l2 := [(9 * 2 ^ 31, { emptySector with dirty := 1, valid := 1 })] })

theorem witness_ways :
    frameDie (128 * (9 * 2 ^ 29)) = 3 ∧ pathsOpen (closed laneTurn) 0 3 = false ∧ flushWaits (closed (dirtyFar laneTurn)) 0 4 = true ∧
    flushWaits laneTurn 0 4 = false ∧ mayEvict (closed (dirtyFar laneTurn)) 0 (9 * 2 ^ 29) true = false ∧
    dirtyLine (stackOf (dirtyFar laneTurn) 0).l2 (9 * 2 ^ 29) = true ∧ mayEvict laneTurn 0 0 false = true ∧
    readWaits (9 * 2 ^ 36) 128 (closed laneTurn) = true ∧ readWaits (9 * 2 ^ 36) 128 rmaState = false ∧
    bindWaits (mb [0, 0x10000, 2 ^ 38 + 0x40, 0, 0, 9 * 2 ^ 36]) (closed bindable) = true ∧
    imageWaits (mb [9 * 2 ^ 36, 0x2000]) (closed laneTurn) = true := by
  decide +kernel

theorem witness_HostQueues_exposures :
    let s := hostQueue id 3
    (s.queues.all fun q => decide (isMemory 0x10002000 = true) &&
      decide (exposures { s with stamps := [(0x10002000 / 8, [(9, 3)])] } 0x10002000 q.2 3 = [(3, 9)]) &&
      decide (exposures { s with stamps := [(0x10002000 / 8, [(9, 3), (4, 1)])] } 0x10002000 q.2 3 = [(1, 4), (3, 9)])) = true := by
  decide +kernel

theorem witness_QueueCommands_states :
    ([QueueState.draining, .halted, .tornDown].all fun st => (mget? (queueIn st).queues 5).any fun q => decide (q.state = st)) = true := by
  decide +kernel

theorem witness_StartCommands :
    let m := mb [1]
    let s := { served .bound with fw := { (served .bound).fw with ep := Memory.writeBytes [] 0x2000 (natToBytes 8 64), mhead := 63 } }
    isNextSlot s m = true ∧ isNextSlot (served .bound) m = false ∧ commands [64, 64, 64, 64] m s = true ∧ s.fw.quote = none := by
  decide +kernel

theorem witness_Kernels_peers : peersOwe laneTurn { fixtureKernel with state := .retiring } = false := by decide +kernel

/-- The fixture's cohort in save memory, to be placed where its scheduler finds room. -/
def savedState : State :=
  let s := placing (fun k => { k with next := 2, preempted := [0] }) [5]
  match (coreOf s 0).cohorts with
  | [c] => { s with saved := [(4, saveCohort (coreOf s 0) 0 (narrowsOf s 0) c [])] }
  | _ => s

theorem witness_Placement_restores :
    nextPlacement savedState (placeOrder savedState 0) = some (0, 5) ∧
    (savedState.kernels.all fun k => decide ((savedOf savedState 0 k.2).map (fun x => x.1) = some 4)) = true ∧
    moves (.cohortRestore 4 5) savedState (fun t => decide (t.saved = [])) = true := by
  decide +kernel

/-- A voter that goes makes the target fall, which holds; a hint that ends makes it fall without a hold; a rise ends both. -/
theorem witness_rails :
    let r : RailLayer := ⟨360, false, false, 360, [1, 2]⟩
    (railSeen 320 [1] r).hold = true ∧ (railSeen 320 [1, 2] r).hold = false ∧
      (railSeen 340 [1] { r with hold := true, target := 320, voters := [1] }).hold = false := by
  decide

/-- The request whose way is open is taken before an earlier one of another die. -/
theorem witness_SkerryAcceptance_order :
    let far : SkRequest := ⟨⟨0, 0, 0, 1⟩, 512, 0, 8, .run (skCmd 0)⟩
    let near : SkRequest := ⟨⟨0, 0, 0, 0⟩, 0, 0, 9, .run (skCmd 0)⟩
    let s := closed (channel (fun k => { k with requests := [far, near] }))
    pathsOpen s (dieOf 512) (channelDie 0) = false ∧ pathsOpen s (dieOf 0) (channelDie 0) = true ∧
      moves (.skerryAccept 0) s (fun t => decide ((skerryOf t 0).requests = [far])) = true := by
  decide +kernel

/-- R273: a remote load of a group that has exited. -/
theorem witness_RemoteLoads_orphan :
    moves (.rldResponse 0 1 0) (modCore laneTurn 0 (fun k => { k with orphans := [(⟨0, 0, 0, 0⟩, ⟨9, List.replicate 128 5, 128⟩)] })) = true := by
  decide +kernel

/-! ## The functions of the start, on the examples of their own documents -/

/-- FIPS 180-4: the hash of "abc". -/
theorem test_sha256 : hash256 [0x61, 0x62, 0x63] =
    0xad1500f261ff10b49c7a1796a36103b02322ae5dde404141eacf018fbf1678ba := by decide +kernel

end Sys2Proof.Tests
end

section
/-!
SUPPORT and PROOFS of the machine's own statements: the reset values, and what a core reads back of what it wrote into
its L1.
-/
namespace Sys2Proof.Proofs

open Sys2Proof Sys2Proof.Machine Sys2Proof.Laws

/-! ## Reset -/

/-- With no group resident, no partition votes on a rail layer (R422). -/
theorem railVoters_of_no_cores (s : State) (r : Nat) (upper : Bool) (h : s.cores = []) : railVoters s r upper = [] := by
  simp [railVoters, railGroups, h]

/-- A layer on which nobody votes is bound for 300 mV (log 28). -/
theorem railTarget_of_no_cores (s : State) (r : Nat) (upper : Bool) (h : s.cores = []) : railTarget s r upper = 300 := by
  simp [railTarget, railVoters_of_no_cores s r upper h]

/-! Nothing is listed right after reset, so that every part of the package reads at its own reset value. -/

@[simp] theorem coreOf_reset (c : Nat) : coreOf State.reset c = Core.reset := rfl
@[simp] theorem railAt_reset (r : Nat) (upper : Bool) : railAt State.reset r upper = RailLayer.reset := rfl
@[simp] theorem quadNo_reset (q : Nat) : quadNo State.reset q = Quad.reset := rfl
@[simp] theorem hbmStack_reset (h : Nat) : mget State.reset.hbm h HbmStack.reset = HbmStack.reset := rfl
@[simp] theorem skerryOf_reset (c : Nat) : skerryOf State.reset c = Skerry.reset := rfl

/-- Settles O10, part by part of the package from the reset value of each. -/
theorem resetState : Obligations.ResetState := by
  refine ⟨rfl, rfl, rfl, rfl, rfl, rfl, fun c => ?core, fun r upper => ⟨?level, railTarget_of_no_cores _ r upper rfl⟩,
    fun q => ?quad, fun h => ?stack, fun c => ?skerry⟩
  case core => rw [coreOf_reset]; exact ⟨rfl, rfl, rfl, rfl, rfl, rfl, rfl, rfl⟩
  case level => rw [railAt_reset]; rfl
  case quad => rw [quadNo_reset]; exact ⟨rfl, rfl, rfl⟩
  case stack => rw [hbmStack_reset]; rfl
  case skerry => rw [skerryOf_reset]; exact ⟨rfl, rfl, rfl, rfl⟩

/-! ## Packages that differ above L2 only -/

/-- Two packages that agree in everything but their cores and the counts of writes: what L2 and the home do, they do alike. -/
def SameBelowL1 (s t : State) : Prop := ∃ k w, t = { s with cores := k, writes := w }

theorem SameBelowL1.foldl {α : Type} {f : State → α → State} (hf : ∀ s t x, SameBelowL1 s t → SameBelowL1 (f s x) (f t x))
    (l : List α) {s t : State} (h : SameBelowL1 s t) : SameBelowL1 (l.foldl f s) (l.foldl f t) := by
  induction l generalizing s t with
  | nil => exact h
  | cons x l ih => exact ih (hf s t x h)

theorem SameBelowL1.keepView {s t : State} (h : SameBelowL1 s t) (pa n : Nat) :
    SameBelowL1 (keepView s pa n) (keepView t pa n) := by
  obtain ⟨k, w, rfl⟩ := h; exact ⟨k, w, rfl⟩

theorem SameBelowL1.stampWords {s t : State} (h : SameBelowL1 s t) (pa n : Nat) :
    SameBelowL1 (stampWords s pa n) (stampWords t pa n) := by
  obtain ⟨k, w, rfl⟩ := h; exact ⟨k, w, rfl⟩

theorem SameBelowL1.noteWrite {s t : State} (h : SameBelowL1 s t) (line place : Nat) :
    SameBelowL1 (noteWrite s line place) (noteWrite t line place) := by
  obtain ⟨k, w, rfl⟩ := h; exact ⟨k, _, rfl⟩

theorem SameBelowL1.attach {s t : State} (h : SameBelowL1 s t) (line : Nat) (sigs : List Sig) :
    SameBelowL1 (attach s line sigs) (attach t line sigs) := by
  obtain ⟨k, w, rfl⟩ := h
  cases sigs with
  | nil => exact ⟨k, w, rfl⟩
  | cons g sigs => exact ⟨k, w, rfl⟩

theorem SameBelowL1.setMem {s t : State} (h : SameBelowL1 s t) (f : Memory → Memory) :
    SameBelowL1 { s with mem := f s.mem } { t with mem := f t.mem } := by
  obtain ⟨k, w, rfl⟩ := h; exact ⟨k, w, rfl⟩

theorem SameBelowL1.modStack {s t : State} (h : SameBelowL1 s t) (d : Nat) (f : Stack → Stack) :
    SameBelowL1 (modStack s d f) (modStack t d f) := by
  obtain ⟨k, w, rfl⟩ := h; exact ⟨k, w, rfl⟩

theorem SameBelowL1.stackOf {s t : State} (h : SameBelowL1 s t) (d : Nat) : stackOf t d = stackOf s d := by
  obtain ⟨k, w, rfl⟩ := h; rfl

theorem SameBelowL1.now {s t : State} (h : SameBelowL1 s t) : t.now = s.now := by
  obtain ⟨k, w, rfl⟩ := h; rfl

theorem SameBelowL1.l2SigsOf {s t : State} (h : SameBelowL1 s t) (d line : Nat) : l2SigsOf t d line = l2SigsOf s d line := by
  obtain ⟨k, w, rfl⟩ := h; rfl

theorem SameBelowL1.attachL2Sigs {s t : State} (h : SameBelowL1 s t) (d line : Nat) :
    SameBelowL1 (Machine.attach s line (Machine.l2SigsOf s d line)) (Machine.attach t line (Machine.l2SigsOf t d line)) := by
  rw [h.l2SigsOf]; exact h.attach line _

theorem SameBelowL1.mem {s t : State} (h : SameBelowL1 s t) : t.mem = s.mem := by
  obtain ⟨k, w, rfl⟩ := h; rfl

theorem SameBelowL1.mayLeaveL2 {s t : State} (h : SameBelowL1 s t) (d line : Nat) : mayLeaveL2 t d line = mayLeaveL2 s d line := by
  obtain ⟨k, w, rfl⟩ := h; rfl

theorem SameBelowL1.victimLine {s t : State} (h : SameBelowL1 s t) (l : List Nat) (key : Nat) :
    victimLine t l key = victimLine s l key := by
  obtain ⟨k, w, rfl⟩ := h; rfl

theorem SameBelowL1.writeBackL2 {s t : State} (h : SameBelowL1 s t) (d sec : Nat) :
    SameBelowL1 (writeBackL2 s d sec) (writeBackL2 t d sec) := by
  unfold Machine.writeBackL2
  rw [h.stackOf d]
  cases mget? (Machine.stackOf s d).l2 sec with
  | none => exact h
  | some x =>
    by_cases hx : x.dirty = 0
    · simpa [hx] using h
    · simp only [hx, if_false]
      have views := SameBelowL1.foldl (fun _ _ e h => h.keepView (32 * sec + e.1) 1) (dirtyBytes x) h
      have home := views.setMem fun m => (dirtyBytes x).foldl (fun m e => Memory.write m (32 * sec + e.1) e.2) m
      have stamps := SameBelowL1.foldl (fun _ _ e h => h.stampWords (32 * sec + e.1) 1) (dirtyBytes x) home
      have noted := (stamps.attachL2Sigs d (sectorLine sec)).noteWrite (sectorLine sec) 0
      rw [noted.now]
      exact noted.modStack d _

theorem SameBelowL1.evictL2 {s t : State} (h : SameBelowL1 s t) (d sec : Nat) :
    SameBelowL1 (evictL2 s d sec) (evictL2 t d sec) := (h.writeBackL2 d sec).modStack d _

/-- Which line an L2 evicts, and what its write-back leaves at the home, is no matter of the cores. -/
theorem SameBelowL1.roomL2 {s t : State} (h : SameBelowL1 s t) (d line : Nat) :
    SameBelowL1 (roomL2 s d line) (roomL2 t d line) := by
  have hfull : fullL2 t d line = fullL2 s d line := by simp only [fullL2, h.stackOf d]
  have hleave : Machine.mayLeaveL2 t d = Machine.mayLeaveL2 s d := funext (h.mayLeaveL2 d)
  unfold Machine.roomL2
  simp only [hfull, h.stackOf d, hleave, h.victimLine]
  split
  · exact h
  · split
    · exact h
    · exact SameBelowL1.foldl (fun _ _ sec h => h.evictL2 d sec) _ h

/-- What L2 delivers of a sector is no matter of the cores. -/
theorem SameBelowL1.getL2_sector {s t : State} (h : SameBelowL1 s t) (d sec : Nat) : (getL2 t d sec).1 = (getL2 s d sec).1 := by
  have hroom := h.roomL2 d (sectorLine sec)
  unfold getL2
  simp only [h.stackOf d, h.now]
  split
  · rfl
  · simp only [loadHome, hroom.now, hroom.mem]

/-! ## Sectors after a write and after a refill -/

theorem getLsbD_spanBits (off n i : Nat) (hi : i < 32) :
    (spanBits off n).getLsbD i = decide (off ≤ i ∧ i < off + n) := by
  simp only [spanBits, BitVec.getLsbD_ofNat, Nat.testBit_mul_two_pow, Nat.testBit_two_pow_sub_one, hi, decide_true,
    Bool.true_and, ← Bool.decide_and, decide_eq_decide]
  omega

theorem getD_data_putBytes (x : Sector) (off : Nat) (bs : List Byte) (i : Nat) (hi : i < 32) :
    (putBytes x off bs).data.getD i 0 = if off ≤ i ∧ i < off + bs.length then bs.getD (i - off) 0 else x.data.getD i 0 := by
  simp [putBytes, List.getD_eq_getElem?_getD, hi]

theorem getLsbD_dirty_putBytes (x : Sector) (off : Nat) (bs : List Byte) (i : Nat) (hi : i < 32) :
    (putBytes x off bs).dirty.getLsbD i = (x.dirty.getLsbD i || decide (off ≤ i ∧ i < off + bs.length)) := by
  simp [putBytes, BitVec.getLsbD_or, getLsbD_spanBits _ _ _ hi]

theorem length_data_putBytes (x : Sector) (off : Nat) (bs : List Byte) : (putBytes x off bs).data.length = 32 := by
  simp [putBytes]

theorem getD_data_refill (now : Nat) (x : Sector) (below : List Byte) (i : Nat) (hi : i < 32) :
    (refill now x below).data.getD i 0 = if x.dirty.getLsbD i then x.data.getD i 0 else below.getD i 0 := by
  simp [refill, List.getD_eq_getElem?_getD, hi]

theorem length_data_refill (now : Nat) (x : Sector) (below : List Byte) : (refill now x below).data.length = 32 := by
  simp [refill]

theorem usable_iff (now : Nat) (x : Sector) : usable now x = true ↔ x.valid = BitVec.allOnes 32 ∧ now ≤ x.filled + copyLife := by
  simp [usable]

/-- A write takes no byte away and makes no copy older. -/
theorem usable_putBytes {now : Nat} {x : Sector} (h : usable now x = true) (off : Nat) (bs : List Byte) :
    usable now (putBytes x off bs) = true := by
  obtain ⟨hvalid, hlife⟩ := (usable_iff now x).mp h
  refine (usable_iff now _).mpr ⟨?_, hlife⟩
  simp only [putBytes, hvalid, BitVec.allOnes_or]

/-- The byte that a core reads of a sector of its L1, given what L2 holds there (R392, R393): its own where the copy may be
used or the byte is dirty, else L2's. -/
def byteSeen (now : Nat) (x : Sector) (below : List Byte) (i : Nat) : Byte :=
  if usable now x = true ∨ x.dirty.getLsbD i = true then x.data.getD i 0 else below.getD i 0

/-- Bytes written into a sector are seen there, and every other byte as before. A copy that the write makes whole held
nothing but its own dirty bytes, so that no byte of L2 was seen in it. -/
theorem byteSeen_putBytes {now : Nat} {x : Sector} (hx : usable now x = true ∨ x.valid = x.dirty) (off : Nat) (bs : List Byte)
    (below : List Byte) (i : Nat) (hi : i < 32) :
    byteSeen now (putBytes x off bs) below i =
      if off ≤ i ∧ i < off + bs.length then bs.getD (i - off) 0 else byteSeen now x below i := by
  by_cases hspan : off ≤ i ∧ i < off + bs.length
  · have hdirty : (putBytes x off bs).dirty.getLsbD i = true := by simp [getLsbD_dirty_putBytes _ _ _ _ hi, hspan]
    rw [byteSeen, if_pos (.inr hdirty), getD_data_putBytes _ _ _ _ hi]
    simp only [hspan, and_self, if_true]
  · have hown : usable now (putBytes x off bs) = true ∨ (putBytes x off bs).dirty.getLsbD i = true ↔
        usable now x = true ∨ x.dirty.getLsbD i = true := by
      have hdirty : (putBytes x off bs).dirty.getLsbD i = x.dirty.getLsbD i := by
        simp [getLsbD_dirty_putBytes _ _ _ _ hi, hspan]
      rw [hdirty]
      refine ⟨fun h => h.elim (fun hnew => ?_) .inr, fun h => h.imp_left (usable_putBytes · off bs)⟩
      refine hx.imp_right fun hvd => ?_
      obtain ⟨hvalid, -⟩ := (usable_iff now _).mp hnew
      have hsame : (putBytes x off bs).valid = (putBytes x off bs).dirty := by simp [putBytes, hvd]
      rw [← hdirty, ← hsame, hvalid, BitVec.getLsbD_allOnes, decide_eq_true hi]
    simp only [byteSeen, hown, getD_data_putBytes _ _ _ _ hi, hspan, if_false]

/-! ## L1 with room for a line -/

/-- An L1 holds a line or has room for it. -/
def RoomFor (m : Map Sector) (line : Nat) : Prop := (∃ y ∈ m, sectorLine y.1 = line) ∨ (linesIn m).length < l1Lines

theorem roomL1_of_roomFor {s : State} {core line : Nat} (h : RoomFor (coreOf s core).l1 line) : roomL1 s core line = s := by
  have : (coreOf s core).l1.any (fun e => decide (sectorLine e.1 = line)) ∨ (linesIn (coreOf s core).l1).length < l1Lines := by
    simpa [RoomFor] using h
  simp only [roomL1, this, if_true]

@[simp] theorem coreOf_noteWrite (s : State) (line place c : Nat) : coreOf (noteWrite s line place) c = coreOf s c := rfl

theorem mem_of_mget? {α : Type} {m : Map α} {n : Nat} {x : α} (h : mget? m n = some x) : (n, x) ∈ m := by
  induction m with
  | nil => simp [mget?] at h
  | cons e m ih =>
    obtain ⟨k, v⟩ := e
    by_cases hk : k = n
    · simp only [mget?, hk, if_true, Option.some.injEq] at h
      rw [hk, h]
      exact List.mem_cons_self
    · simp only [mget?, hk, if_false] at h
      exact List.mem_cons_of_mem _ (ih h)

theorem roomFor_mset (m : Map Sector) (sec : Nat) (x : Sector) : RoomFor (mset m sec x) (sectorLine sec) :=
  .inl ⟨(sec, x), mem_of_mget? (mget?_mset_same m sec x), rfl⟩

theorem take_one_drop {l : List Byte} {i : Nat} (hi : i < l.length) : (l.drop i).take 1 = [l.getD i 0] := by
  rw [List.drop_eq_getElem_cons hi, List.take_succ_cons, List.take_zero, List.getD_eq_getElem?_getD,
    List.getElem?_eq_getElem hi, Option.getD_some]

/-! ## Reads and writes at level 0 -/

/-- What a core's L1 holds of the sector of an address. -/
def l1Sector (s : State) (core a : Nat) : Sector := mget (coreOf s core).l1 (a / 32) emptySector

/-- A usable copy is read as it stands. -/
theorem bytes_readLevel_of_usable {s : State} {core a : Nat} (n : Nat) (h : usable s.now (l1Sector s core a) = true) :
    (readLevel s core 0 a n).bytes = ((l1Sector s core a).data.drop (a % 32)).take n := by
  unfold l1Sector at h ⊢
  simp only [readLevel, getL1, h, if_true]

/-- What a read finds unusable it fills up from L2, its dirty bytes kept (R393). -/
theorem bytes_readLevel_of_not_usable {s : State} {core a : Nat} (n : Nat) (h : ¬ usable s.now (l1Sector s core a) = true)
    (hroom : RoomFor (coreOf s core).l1 (sectorLine (a / 32))) :
    ∃ now, (readLevel s core 0 a n).bytes =
      ((refill now (l1Sector s core a) (getL2 s (dieOf core) (a / 32)).1.data).data.drop (a % 32)).take n := by
  unfold l1Sector at h ⊢
  simp only [readLevel, getL1, h, roomL1_of_roomFor hroom, if_true, if_false, Bool.false_eq_true]
  exact ⟨_, rfl⟩

/-- A read of one byte through an L1 with room for its line. -/
theorem bytes_readLevel_of_roomFor {s : State} {core a : Nat} (hroom : RoomFor (coreOf s core).l1 (sectorLine (a / 32)))
    (hlen : (l1Sector s core a).data.length = 32) :
    (readLevel s core 0 a 1).bytes =
      [byteSeen s.now (l1Sector s core a) (getL2 s (dieOf core) (a / 32)).1.data (a % 32)] := by
  have hi : a % 32 < 32 := Nat.mod_lt _ (by decide)
  by_cases hx : usable s.now (l1Sector s core a) = true
  · rw [bytes_readLevel_of_usable 1 hx, take_one_drop (by omega)]
    simp only [byteSeen, hx, true_or, if_true]
  · obtain ⟨now, hbytes⟩ := bytes_readLevel_of_not_usable 1 hx hroom
    rw [hbytes, take_one_drop (by simp [length_data_refill, hi]), getD_data_refill _ _ _ _ hi]
    simp only [byteSeen, hx, Bool.false_eq_true, false_or]

section
variable {s : State} {core pa : Nat} (hroom : RoomFor (coreOf s core).l1 (sectorLine (pa / 32))) (bs : List Byte)
  (sigs : List Sig)
include hroom

theorem l1_writeLevel : (coreOf (writeLevel s core 0 pa bs sigs) core).l1 =
    mset (coreOf s core).l1 (pa / 32) (putBytes (l1Sector s core pa) (pa % 32) bs) := by
  simp only [writeLevel, if_true, putL1, roomL1_of_roomFor hroom, coreOf_noteWrite, coreOf_modCore, l1Sector]

theorem coreOf_writeLevel_other {c : Nat} (hc : c ≠ core) : coreOf (writeLevel s core 0 pa bs sigs) c = coreOf s c := by
  simp only [writeLevel, if_true, putL1, roomL1_of_roomFor hroom, coreOf_noteWrite, coreOf_modCore_other _ _ _ _ hc]

/-- A write at level 0 changes nothing below L1. -/
theorem sameBelowL1_writeLevel : SameBelowL1 s (writeLevel s core 0 pa bs sigs) := by
  simp only [writeLevel, if_true, putL1, roomL1_of_roomFor hroom]
  exact ⟨_, _, rfl⟩

theorem l1Sector_writeLevel_same {a : Nat} (ha : a / 32 = pa / 32) :
    l1Sector (writeLevel s core 0 pa bs sigs) core a = putBytes (l1Sector s core pa) (pa % 32) bs := by
  rw [l1Sector, l1_writeLevel hroom, ha, mget_mset_same]

theorem l1Sector_writeLevel_other {a : Nat} (ha : a / 32 ≠ pa / 32) :
    l1Sector (writeLevel s core 0 pa bs sigs) core a = l1Sector s core a := by
  rw [l1Sector, l1_writeLevel hroom, mget_mset_other _ _ _ _ _ ha, l1Sector]

theorem roomFor_writeLevel {a : Nat} (ha : a / 32 = pa / 32) :
    RoomFor (coreOf (writeLevel s core 0 pa bs sigs) core).l1 (sectorLine (a / 32)) := by
  rw [l1_writeLevel hroom, ha]; exact roomFor_mset _ _ _

/-- A byte of the sector that a write at level 0 has touched, read back. -/
theorem bytes_readLevel_writeLevel_same {a : Nat} (hlen : (l1Sector s core pa).data.length = 32)
    (hx : usable s.now (l1Sector s core pa) = true ∨ (l1Sector s core pa).valid = (l1Sector s core pa).dirty)
    (ha : a / 32 = pa / 32) :
    (readLevel (writeLevel s core 0 pa bs sigs) core 0 a 1).bytes =
      if pa ≤ a ∧ a < pa + bs.length then [bs.getD (a - pa) 0] else (readLevel s core 0 a 1).bytes := by
  have hsector : l1Sector s core a = l1Sector s core pa := by rw [l1Sector, ha, l1Sector]
  have hsame := sameBelowL1_writeLevel hroom bs sigs
  have hnew := bytes_readLevel_of_roomFor (roomFor_writeLevel hroom bs sigs ha)
    (by rw [l1Sector_writeLevel_same hroom bs sigs ha]; exact length_data_putBytes _ _ _)
  have hold := bytes_readLevel_of_roomFor (ha.symm ▸ hroom) (hsector.symm ▸ hlen)
  rw [l1Sector_writeLevel_same hroom bs sigs ha, hsame.getL2_sector, hsame.now,
    byteSeen_putBytes hx _ _ _ _ (Nat.mod_lt _ (by decide))] at hnew
  have hspan : pa % 32 ≤ a % 32 ∧ a % 32 < pa % 32 + bs.length ↔ pa ≤ a ∧ a < pa + bs.length := by omega
  have hoff : a % 32 - pa % 32 = a - pa := by omega
  rw [hnew, hold, hsector, hoff]
  simp only [hspan, apply_ite (fun b : Byte => [b])]

/-- A usable copy of another sector reads as before a write at level 0. -/
theorem bytes_readLevel_writeLevel_other {a : Nat} (ha : a / 32 ≠ pa / 32) (hu : usable s.now (l1Sector s core a) = true) :
    (readLevel (writeLevel s core 0 pa bs sigs) core 0 a 1).bytes = (readLevel s core 0 a 1).bytes := by
  have hsector := l1Sector_writeLevel_other hroom bs sigs ha
  have hnow := (sameBelowL1_writeLevel hroom bs sigs).now
  rw [bytes_readLevel_of_usable 1 (by rw [hsector, hnow]; exact hu), bytes_readLevel_of_usable 1 hu, hsector]

end

/-- Settles O28: the written sector by `byteSeen_putBytes`, over an L2 that the write has left as it was. -/
theorem storeReadsBack : Obligations.StoreReadsBack := by
  intro s core pa bs sigs hfit hlen
  dsimp only
  intro hx hheld
  have hroom : RoomFor (coreOf s core).l1 (sectorLine (pa / 32)) := by
    have hline : sectorLine (pa / 32) = pa / 128 := Nat.div_div_eq_div_mul pa 32 4
    rw [hline]; exact hheld
  obtain ⟨k, w, ht⟩ := sameBelowL1_writeLevel hroom bs sigs
  refine ⟨fun a ha => ?bytes, fun sec hsec => ?sectors, by rw [ht], by rw [ht],
    fun c hc => coreOf_writeLevel_other hroom bs sigs hc⟩
  case bytes =>
    by_cases hsec : a / 32 = pa / 32
    · exact bytes_readLevel_writeLevel_same hroom bs sigs hlen hx hsec
    · have hout : ¬ (pa ≤ a ∧ a < pa + bs.length) := by omega
      rw [if_neg hout]
      exact bytes_readLevel_writeLevel_other hroom bs sigs hsec (ha.resolve_left hsec)
  case sectors => rw [l1_writeLevel hroom, mget?_mset_other _ _ _ _ hsec]

end Sys2Proof.Proofs
end

section
/-!
SUPPORT and PROOFS of the statements about numbers: the integer instructions and those that move words between lanes, the
special functions and stochastic conversions with the modes of `fpc` and the generators, and the integer cells of the array.
-/
namespace Sys2Proof.Proofs

open Sys2Proof Sys2Proof.Machine Sys2Proof.Safety Sys2Proof.Laws

/-! ## The model's numbers as bit vectors -/

theorem toSigned_eq_bmod (n x : Nat) : toSigned n x = (x : Int).bmod (2 ^ n) := by
  have hhalf : (((2 ^ n : Nat) : Int) + 1) / 2 = ((2 ^ (n - 1) : Nat) : Int) := by
    cases n with
    | zero => rfl
    | succ n => rw [Nat.add_sub_cancel, Nat.pow_succ]; omega
  simp only [toSigned, Int.bmod, hhalf]
  norm_cast

@[simp] theorem toSigned_toNat {n : Nat} (x : BitVec n) : toSigned n x.toNat = x.toInt := by
  rw [toSigned_eq_bmod, BitVec.toInt_eq_toNat_bmod]

@[simp] theorem toSigned_mod (n x : Nat) : toSigned n (x % 2 ^ n) = toSigned n x := by
  simp only [toSigned, Nat.mod_mod]

/-- A field of no bits holds 0. -/
theorem toSigned_zero (x : Nat) : toSigned 0 x = 0 := by simp only [toSigned]; omega

@[simp] theorem ofNat_wrapTo (n : Nat) (x : Int) : BitVec.ofNat n (wrapTo n x) = BitVec.ofInt n x := by
  have hpos : (0 : Int) < (2 ^ n : Nat) := Int.natCast_pos.mpr (Nat.two_pow_pos n)
  have hlt : (x % (2 ^ n : Nat)).toNat < 2 ^ n :=
    (Int.toNat_lt (Int.emod_nonneg x (Int.ne_of_gt hpos))).mpr (Int.emod_lt_of_pos x hpos)
  apply BitVec.eq_of_toNat_eq
  rw [BitVec.toNat_ofNat, BitVec.toNat_ofInt, wrapTo, Nat.mod_eq_of_lt hlt]

theorem clampInt_eq_max_min {lo hi : Int} (h : lo ≤ hi) (x : Int) : clampInt lo hi x = max lo (min hi x) := by
  unfold clampInt
  split
  · omega
  · split <;> omega

/-- `mov`: a word read as a number and written back. -/
theorem ofNat_toNat_word (a : Word) : BitVec.ofNat 32 a.toNat = a := by
  rw [BitVec.ofNat_toNat, BitVec.setWidth_eq]

/-- A pair read as one value is the model's 64-bit source (R43). -/
theorem toNat_srcPair (s : State) (e : Iss) (qs : List Queue) (k lane : Nat) :
    (Rules.srcPair s e qs k lane).toNat = src64 (issued s e qs) e (fieldAt e.x k) lane := by
  have hlo := (srcWord (issued s e qs) e (fieldAt e.x k) 0 lane).isLt
  rw [Rules.srcPair, BitVec.toNat_append, ← Nat.shiftLeft_add_eq_or_of_lt hlo, Nat.shiftLeft_eq, src64]
  omega

/-! ## Arithmetic (R196) -/

theorem ofNat_iaddOp (a b : Word) : BitVec.ofNat 32 (iaddOp a.toNat b.toNat) = a + b := by
  apply BitVec.eq_of_toNat_eq; simp [iaddOp]

theorem ofNat_isubOp (a b : Word) : BitVec.ofNat 32 (isubOp a.toNat b.toNat) = a - b := by
  rw [isubOp]; bv_omega

theorem ofNat_imulOp (a b : Word) : BitVec.ofNat 32 (imulOp a.toNat b.toNat) = a * b := by
  apply BitVec.eq_of_toNat_eq; simp [imulOp]

theorem ofNat_imadOp (a b c : Word) : BitVec.ofNat 32 (imadOp a.toNat b.toNat c.toNat) = a * b + c := by
  apply BitVec.eq_of_toNat_eq; simp [imadOp]

theorem ofNat_imulhOp_signed (a b : Word) :
    BitVec.ofNat 32 (imulhOp .i32 a.toNat b.toNat) = Rules.word (a.toInt * b.toInt / 2 ^ 32) := by
  simp only [imulhOp, toSigned_toNat, ofNat_wrapTo, Rules.word]

theorem ofNat_imulhOp_unsigned (a b : Word) :
    BitVec.ofNat 32 (imulhOp .n32 a.toNat b.toNat) = Rules.word (a.toNat * b.toNat / 2 ^ 32) := by
  rw [imulhOp, Rules.word, ← BitVec.ofInt_natCast]; rfl

theorem ofNat_iabsOp (a : Word) : BitVec.ofNat 32 (iabsOp a.toNat) = if a.toInt < 0 then -a else a := by
  have hvalue := BitVec.toInt_eq_toNat_cond a
  rw [iabsOp, toSigned_toNat]
  split <;> bv_omega

@[simp] theorem suValue_signed (a : Word) : suValue .i32 a.toNat = a.toInt := toSigned_toNat a

@[simp] theorem suValue_unsigned (a : Nat) : suValue .n32 a = a := rfl

theorem ofNat_iminOp (v : SU) (a b : Word) :
    BitVec.ofNat 32 (iminOp v a.toNat b.toNat) = if suValue v b.toNat < suValue v a.toNat then b else a := by
  simp only [iminOp, apply_ite (BitVec.ofNat 32), ofNat_toNat_word]

theorem ofNat_imaxOp (v : SU) (a b : Word) :
    BitVec.ofNat 32 (imaxOp v a.toNat b.toNat) = if suValue v a.toNat < suValue v b.toNat then b else a := by
  simp only [imaxOp, apply_ite (BitVec.ofNat 32), ofNat_toNat_word]

theorem ofNat_iminOp_signed (a b : Word) :
    BitVec.ofNat 32 (iminOp .i32 a.toNat b.toNat) = if b.toInt < a.toInt then b else a := by
  simp only [ofNat_iminOp, suValue_signed]

theorem ofNat_iminOp_unsigned (a b : Word) :
    BitVec.ofNat 32 (iminOp .n32 a.toNat b.toNat) = if b.toNat < a.toNat then b else a := by
  simp only [ofNat_iminOp, suValue_unsigned, Int.ofNat_lt]

theorem ofNat_imaxOp_signed (a b : Word) :
    BitVec.ofNat 32 (imaxOp .i32 a.toNat b.toNat) = if a.toInt < b.toInt then b else a := by
  simp only [ofNat_imaxOp, suValue_signed]

theorem ofNat_imaxOp_unsigned (a b : Word) :
    BitVec.ofNat 32 (imaxOp .n32 a.toNat b.toNat) = if a.toNat < b.toNat then b else a := by
  simp only [ofNat_imaxOp, suValue_unsigned, Int.ofNat_lt]

theorem ofNat_clampSu_signed (x : Int) :
    BitVec.ofNat 32 (clampSu .i32 x) = Rules.word (Rules.clamp (-2 ^ 31) (2 ^ 31 - 1) x) := by
  rw [clampSu, ofNat_wrapTo, clampInt_eq_max_min (by decide), Rules.word, Rules.clamp]

theorem ofNat_clampSu_unsigned (x : Int) :
    BitVec.ofNat 32 (clampSu .n32 x) = Rules.word (Rules.clamp 0 (2 ^ 32 - 1) x) := by
  rw [clampSu, ofNat_wrapTo, clampInt_eq_max_min (by decide), Rules.word, Rules.clamp]

theorem ofNat_iaddSatOp_signed (a b : Word) : BitVec.ofNat 32 (iaddSatOp .i32 a.toNat b.toNat) =
    Rules.word (Rules.clamp (-2 ^ 31) (2 ^ 31 - 1) (a.toInt + b.toInt)) := by
  simp only [iaddSatOp, ofNat_clampSu_signed, suValue_signed]

theorem ofNat_iaddSatOp_unsigned (a b : Word) : BitVec.ofNat 32 (iaddSatOp .n32 a.toNat b.toNat) =
    Rules.word (Rules.clamp 0 (2 ^ 32 - 1) (a.toNat + b.toNat)) := ofNat_clampSu_unsigned _

theorem ofNat_isubSatOp_signed (a b : Word) : BitVec.ofNat 32 (isubSatOp .i32 a.toNat b.toNat) =
    Rules.word (Rules.clamp (-2 ^ 31) (2 ^ 31 - 1) (a.toInt - b.toInt)) := by
  simp only [isubSatOp, ofNat_clampSu_signed, suValue_signed]

theorem ofNat_isubSatOp_unsigned (a b : Word) : BitVec.ofNat 32 (isubSatOp .n32 a.toNat b.toNat) =
    Rules.word (Rules.clamp 0 (2 ^ 32 - 1) (a.toNat - b.toNat)) := ofNat_clampSu_unsigned _

/-! ## Logic and counts (R196) -/

theorem ofNat_and_toNat (a b : Word) : BitVec.ofNat 32 (a.toNat &&& b.toNat) = a &&& b := by
  rw [← BitVec.toNat_and, ofNat_toNat_word]

theorem ofNat_or_toNat (a b : Word) : BitVec.ofNat 32 (a.toNat ||| b.toNat) = a ||| b := by
  rw [← BitVec.toNat_or, ofNat_toNat_word]

theorem ofNat_xor_toNat (a b : Word) : BitVec.ofNat 32 (a.toNat ^^^ b.toNat) = a ^^^ b := by
  rw [← BitVec.toNat_xor, ofNat_toNat_word]

theorem notOp_toNat (a : Word) : notOp a.toNat = (~~~ a).toNat := by
  rw [notOp, BitVec.toNat_not, Nat.mod_eq_of_lt a.isLt]

theorem ofNat_notOp (a : Word) : BitVec.ofNat 32 (notOp a.toNat) = ~~~ a := by
  rw [notOp_toNat, ofNat_toNat_word]

theorem ofNat_andnOp (a b : Word) : BitVec.ofNat 32 (andnOp a.toNat b.toNat) = a &&& ~~~ b := by
  rw [andnOp, notOp_toNat, ofNat_and_toNat]

theorem ofNat_popcOp (a : Word) :
    BitVec.ofNat 32 (popcOp a.toNat) = BitVec.ofNat 32 ((List.range 32).countP a.getLsbD) := by
  rw [popcOp, List.countP_eq_length_filter]; rfl

/-- The numbers before the first that passes a test are as many as that number says. -/
theorem length_takeWhile_not_range (n : Nat) (p : Nat → Bool) :
    ((List.range n).takeWhile (fun i => !p i)).length = ((List.range n).find? p).getD n := by
  have hle : (List.range n).findIdx p ≤ n := by simpa using (List.range n).findIdx_le_length (p := p)
  simp only [List.takeWhile_eq_take_findIdx_not, Bool.not_not, List.length_take, List.length_range,
    List.find?_eq_getElem?_findIdx]
  rcases Nat.lt_or_ge ((List.range n).findIdx p) n with hfound | hnone
  · simp [hfound, hle]
  · simp [hnone]

theorem ofNat_clzOp (a : Word) : BitVec.ofNat 32 (clzOp a.toNat) =
    BitVec.ofNat 32 (((List.range 32).find? (fun i => a.getLsbD (31 - i))).getD 32) := by
  rw [← length_takeWhile_not_range]; rfl

theorem ofNat_ctzOp (a : Word) : BitVec.ofNat 32 (ctzOp a.toNat) =
    BitVec.ofNat 32 (((List.range 32).find? a.getLsbD).getD 32) := by
  rw [← length_takeWhile_not_range]; rfl

/-- The number whose `n` bits are those of `p`, the first on top. -/
def bitsDown (p : Nat → Bool) : Nat → Nat
  | 0 => 0
  | n + 1 => 2 * bitsDown p n + b2n (p n)

/-- The sum in which bit `i` counts 2^(k − i), after `n` bits. -/
theorem foldl_eq_bitsDown (p : Nat → Bool) {k n : Nat} (h : n ≤ k + 1) :
    (List.range n).foldl (fun r i => r + b2n (p i) * 2 ^ (k - i)) 0 = 2 ^ (k + 1 - n) * bitsDown p n := by
  induction n with
  | zero => rfl
  | succ n ih =>
    have hexp : k + 1 - n = k - n + 1 := by omega
    have hdown : k + 1 - (n + 1) = k - n := by omega
    rw [List.range_succ, List.foldl_append, ih (by omega), List.foldl_cons, List.foldl_nil, hexp, hdown, bitsDown,
      Nat.mul_add, Nat.pow_succ, Nat.mul_assoc, Nat.mul_comm (b2n (p n))]

theorem brevOp_eq_bitsDown (a : Word) : brevOp a.toNat = bitsDown a.getLsbD 32 :=
  (foldl_eq_bitsDown a.getLsbD (k := 31) (n := 32) (by decide)).trans (Nat.one_mul _)

theorem testBit_bitsDown (p : Nat → Bool) (n j : Nat) :
    (bitsDown p n).testBit j = (decide (j < n) && p (n - 1 - j)) := by
  induction n generalizing j with
  | zero => simp [bitsDown]
  | succ n ih =>
    rw [bitsDown]
    cases j with
    | zero => cases h : p n <;> simp [b2n, h, Nat.testBit_zero]
    | succ j =>
      have hlow : b2n (p n) < 2 := by unfold b2n; split <;> omega
      have hhalf : (2 * bitsDown p n + b2n (p n)) / 2 = bitsDown p n := by omega
      have hidx : n + 1 - 1 - (j + 1) = n - 1 - j := by omega
      rw [Nat.testBit_succ, hhalf, ih, hidx]
      simp

theorem ofNat_brevOp (a : Word) : BitVec.ofNat 32 (brevOp a.toNat) = a.reverse := by
  refine BitVec.eq_of_getLsbD_eq fun i hi => ?_
  rw [brevOp_eq_bitsDown, BitVec.getLsbD_ofNat, testBit_bitsDown, BitVec.getLsbD_reverse, BitVec.getMsbD]
  simp [hi]

/-! ## Shifts (R95, R197) -/

theorem shiftSat_and_iff_beyond (l : Lane) (n : Word) :
    shiftSat l = true ∧ 32 ≤ n.toNat ↔ Rules.beyond l.fpc n = true := by
  simp [shiftSat, Rules.beyond]

theorem ofNat_shlOp (l : Lane) (a n : Word) : BitVec.ofNat 32 (shlOp l a.toNat n.toNat) =
    if Rules.beyond l.fpc n then 0 else a <<< Rules.amount n := by
  simp only [shlOp, shiftSat_and_iff_beyond, apply_ite (BitVec.ofNat 32)]
  refine ite_congr rfl (fun _ => rfl) fun _ => BitVec.eq_of_toNat_eq ?_
  simp [Rules.amount, Nat.shiftLeft_eq]

theorem ofNat_shrOp (l : Lane) (a n : Word) : BitVec.ofNat 32 (shrOp l a.toNat n.toNat) =
    if Rules.beyond l.fpc n then 0 else a >>> Rules.amount n := by
  simp only [shrOp, shiftSat_and_iff_beyond, apply_ite (BitVec.ofNat 32)]
  refine ite_congr rfl (fun _ => rfl) fun _ => BitVec.eq_of_toNat_eq ?_
  rw [BitVec.toNat_ofNat, BitVec.toNat_ushiftRight, Nat.shiftRight_eq_div_pow, Rules.amount,
    Nat.mod_eq_of_lt (Nat.lt_of_le_of_lt (Nat.div_le_self _ _) a.isLt)]

/-- Every bit of a word shifted right by 31 is its sign. -/
theorem sshiftRight_31 (a : Word) : a.sshiftRight 31 = if a.getLsbD 31 then BitVec.allOnes 32 else 0 := by
  ext i hi
  have hsign : (a.sshiftRight 31)[i] = a.getLsbD 31 := by
    rw [BitVec.getElem_sshiftRight]
    split
    · congr 1; omega
    · rfl
  rw [hsign]
  cases a.getLsbD 31 with
  | false => simp
  | true => rw [if_pos rfl, BitVec.getElem_allOnes]

theorem ofNat_sarOp (l : Lane) (a n : Word) : BitVec.ofNat 32 (sarOp l a.toNat n.toNat) =
    if Rules.beyond l.fpc n then a.sshiftRight 31 else a.sshiftRight (Rules.amount n) := by
  simp only [sarOp, shiftSat_and_iff_beyond, apply_ite (BitVec.ofNat 32)]
  refine ite_congr rfl (fun _ => ?sign) fun _ => ?shift
  case sign => rw [sshiftRight_31]; rfl
  case shift =>
    rw [ofNat_wrapTo, toSigned_toNat, BitVec.sshiftRight, Int.shiftRight_eq_div_pow, Rules.amount]
    norm_cast

/-- The two halves of a rotation do not overlap, so that their sum has the bits of both. -/
theorem ofNat_rotOp (a n : Word) : BitVec.ofNat 32 (rotOp a.toNat n.toNat) = a.rotateLeft (Rules.amount n) := by
  have hk : n.toNat % 32 < 32 := Nat.mod_lt _ (by decide)
  have hlow : a.toNat / 2 ^ (32 - n.toNat % 32) < 2 ^ (n.toNat % 32) := by
    rw [Nat.div_lt_iff_lt_mul (Nat.two_pow_pos _), ← Nat.pow_add, Nat.add_sub_cancel' (Nat.le_of_lt hk)]
    exact a.isLt
  refine BitVec.eq_of_getLsbD_eq fun i hi => ?_
  rw [rotOp, BitVec.getLsbD_rotateLeft, Rules.amount, Nat.mod_eq_of_lt hk, BitVec.getLsbD_ofNat, Nat.testBit_mod_two_pow,
    Nat.mul_comm, Nat.testBit_two_pow_mul_add _ hlow, ← Nat.shiftRight_eq_div_pow, Nat.testBit_shiftRight]
  by_cases hin : i < n.toNat % 32 <;> simp [hin, hi, BitVec.getLsbD]

/-! ## Fields (R198) -/

@[simp] theorem fieldPos_toNat (b : Word) : fieldPos b.toNat = Rules.position b := rfl

@[simp] theorem fieldLen_toNat (b : Word) : fieldLen b.toNat = Rules.length b := rfl

theorem position_add_length_le (b : Word) : Rules.position b + Rules.length b ≤ 32 := by
  unfold Rules.length Rules.position; omega

/-- A word shifted to the top and back keeps its low `n` bits. -/
theorem shl_ushr_eq_mod (x : Word) {n : Nat} (hn : n ≤ 32) :
    (x <<< (32 - n)) >>> (32 - n) = BitVec.ofNat 32 (x.toNat % 2 ^ n) := by
  refine BitVec.eq_of_getLsbD_eq fun i hi => ?_
  have hin : 32 - n + i < 32 ↔ i < n := by omega
  have hfrom : ¬ 32 - n + i < 32 - n := by omega
  rw [BitVec.getLsbD_ushiftRight, BitVec.getLsbD_shiftLeft, BitVec.getLsbD_ofNat, Nat.testBit_mod_two_pow]
  simp [hin, hfrom, hi, BitVec.getLsbD]

theorem msb_shl_eq_msb_setWidth (x : Word) {n : Nat} (hn : n ≤ 32) : (x <<< (32 - n)).msb = (x.setWidth n).msb := by
  rw [BitVec.msb_eq_getLsbD_last, BitVec.msb_eq_getLsbD_last, BitVec.getLsbD_shiftLeft, BitVec.getLsbD_setWidth]
  cases n with
  | zero => simp
  | succ n =>
    have hidx : 31 - (31 - n) = n := by omega
    have hin : ¬ 31 < 31 - n := by omega
    simp [hidx, hin]

/-- A word shifted to the top and back with its sign keeps the value that its low `n` bits have in two's complement. -/
theorem shl_sshr_eq_toSigned (x : Word) {n : Nat} (hn : n ≤ 32) :
    (x <<< (32 - n)).sshiftRight (32 - n) = BitVec.ofInt 32 (toSigned n x.toNat) := by
  have hext : BitVec.ofInt 32 (toSigned n x.toNat) = (x.setWidth n).signExtend 32 := by
    rw [toSigned_eq_bmod, BitVec.signExtend, BitVec.toInt_setWidth]
  refine BitVec.eq_of_getLsbD_eq fun i hi => ?_
  rw [hext, BitVec.getLsbD_signExtend, BitVec.getLsbD_sshiftRight]
  by_cases hin : i < n
  · have hshift : 32 - n + i < 32 := by omega
    have hfrom : ¬ 32 - n + i < 32 - n := by omega
    simp [hin, hi, hshift, hfrom]
  · have hshift : ¬ 32 - n + i < 32 := by omega
    simp only [hin, hshift, if_false, msb_shl_eq_msb_setWidth x hn]
    simp [hi]

theorem ofNat_bfxOp_unsigned (a b : Word) : BitVec.ofNat 32 (bfxOp .n32 a.toNat b.toNat) =
    ((a >>> Rules.position b) <<< (32 - Rules.length b)) >>> (32 - Rules.length b) := by
  have hlen := position_add_length_le b
  rw [shl_ushr_eq_mod _ (by omega), BitVec.toNat_ushiftRight, Nat.shiftRight_eq_div_pow]
  rfl

theorem ofNat_bfxOp_signed (a b : Word) : BitVec.ofNat 32 (bfxOp .i32 a.toNat b.toNat) =
    ((a >>> Rules.position b) <<< (32 - Rules.length b)).sshiftRight (32 - Rules.length b) := by
  have hlen := position_add_length_le b
  rw [shl_sshr_eq_toSigned _ (by omega), BitVec.toNat_ushiftRight, Nat.shiftRight_eq_div_pow]
  simp only [bfxOp, fieldPos_toNat, fieldLen_toNat, toSigned_mod, apply_ite (BitVec.ofNat 32), ofNat_wrapTo]
  split
  next hempty => rw [hempty, toSigned_zero]; rfl
  next => rfl

/-- The bits of the mask of a field of `n` bits from bit `p` upward. -/
theorem getLsbD_fieldMask {p n : Nat} (h : p + n ≤ 32) (i : Nat) (hi : i < 32) :
    ((BitVec.allOnes 32 >>> (32 - n)) <<< p).getLsbD i = decide (p ≤ i ∧ i < p + n) := by
  have hbit : p ≤ i → (32 - n + (i - p) < 32 ↔ i < p + n) := by omega
  rw [BitVec.getLsbD_shiftLeft, BitVec.getLsbD_ushiftRight, BitVec.getLsbD_allOnes, Bool.decide_and]
  by_cases hp : p ≤ i
  · simp [hi, hp, hbit hp]
  · simp [hp]

/-- The bits of a number in which the `n` bits from bit `p` upward are replaced by the low bits of another. -/
theorem testBit_replaceField (a b p n i : Nat) :
    (a % 2 ^ p + b % 2 ^ n * 2 ^ p + a / (2 ^ p * 2 ^ n) * (2 ^ p * 2 ^ n)).testBit i =
      if p ≤ i ∧ i < p + n then b.testBit (i - p) else a.testBit i := by
  have hp : a % 2 ^ p < 2 ^ p := Nat.mod_lt _ (Nat.two_pow_pos _)
  have hn : b % 2 ^ n < 2 ^ n := Nat.mod_lt _ (Nat.two_pow_pos _)
  have hsum : a % 2 ^ p + b % 2 ^ n * 2 ^ p + a / (2 ^ p * 2 ^ n) * (2 ^ p * 2 ^ n) =
      2 ^ p * (2 ^ n * (a / 2 ^ (p + n)) + b % 2 ^ n) + a % 2 ^ p := by
    rw [Nat.pow_add, Nat.mul_add]; ac_rfl
  rw [hsum, Nat.testBit_two_pow_mul_add _ hp, Nat.testBit_two_pow_mul_add _ hn, Nat.testBit_mod_two_pow,
    Nat.testBit_mod_two_pow, Nat.testBit_div_two_pow]
  rcases Nat.lt_or_ge i p with hbelow | hfrom
  · simp [hbelow, Nat.not_le.mpr hbelow]
  · rcases Nat.lt_or_ge i (p + n) with hin | habove
    · have hoff : i - p < n := by omega
      simp [Nat.not_lt.mpr hfrom, hfrom, hin, hoff]
    · have hoff : ¬ i - p < n := by omega
      have hidx : i - p - n + (p + n) = i := by omega
      simp [Nat.not_lt.mpr hfrom, hfrom, Nat.not_lt.mpr habove, hoff, hidx]

theorem ofNat_bfiOp (a b c : Word) : BitVec.ofNat 32 (bfiOp a.toNat b.toNat c.toNat) =
    (a &&& ~~~ (((BitVec.allOnes 32) >>> (32 - Rules.length c)) <<< Rules.position c)) |||
      ((b <<< Rules.position c) &&& (((BitVec.allOnes 32) >>> (32 - Rules.length c)) <<< Rules.position c)) := by
  refine BitVec.eq_of_getLsbD_eq fun i hi => ?_
  simp only [BitVec.getLsbD_or, BitVec.getLsbD_and, BitVec.getLsbD_not,
    getLsbD_fieldMask (position_add_length_le c) i hi, BitVec.getLsbD_shiftLeft, bfiOp, BitVec.getLsbD_ofNat,
    testBit_replaceField, fieldPos_toNat, fieldLen_toNat]
  by_cases hin : Rules.position c ≤ i ∧ i < Rules.position c + Rules.length c
  · simp [hi, hin, BitVec.getLsbD]
  · simp only [hin]; simp [hi, BitVec.getLsbD]

/-! ## Instructions that write one word and raise no flag -/

section
variable {i : Instr} {s : State} {e : Iss} {qs : List Queue} {lat : Nat} {val : Nat → Word}

/-- An effect of one word whose numbers are the words of `val`. -/
theorem regs32_puts_of {dst : Iss → Nat} {f : Iss → State → Nat → Nat}
    (hx : exec i s = runLane i s (fun e s => .ok (Done.regs s lat (write32 (dst e) e.lanes (f e s)) 0)))
    (hval : ∀ lane, BitVec.ofNat 32 (f e (issued s e qs) lane) = val lane) : Puts32 i s e qs (dst e) val 0 0 := by
  rw [← funext hval]; exact regs32_puts (fl := fun _ _ => 0) hx

/-- A one-source instruction whose operation on numbers is `f` on words. -/
theorem alu1_puts {a : Nat} {op : Lane → Nat → Nat} {f : Word → Word} (hx : exec i s = alu1 i a lat op s)
    (hop : ∀ x : Word, BitVec.ofNat 32 (op e.g.ln x.toNat) = f x)
    (hval : ∀ lane, some (f (Rules.src s e qs a lane)) = some (val lane)) : Puts32 i s e qs (Rules.dst e) val 0 0 :=
  regs32_puts_of (dst := Rules.dst) hx fun lane => (hop _).trans (Option.some.inj (hval lane))

/-- A two-source instruction whose operation on numbers is `f` on words. -/
theorem alu2_puts {a b : Nat} {op : Lane → Nat → Nat → Nat} {f : Word → Word → Word}
    (hx : exec i s = alu2 i a b lat op s)
    (hop : ∀ x y : Word, BitVec.ofNat 32 (op e.g.ln x.toNat y.toNat) = f x y)
    (hval : ∀ lane, some (f (Rules.src s e qs a lane) (Rules.src s e qs b lane)) = some (val lane)) :
    Puts32 i s e qs (Rules.dst e) val 0 0 :=
  regs32_puts_of (dst := Rules.dst) hx fun lane => (hop _ _).trans (Option.some.inj (hval lane))

/-- A three-source instruction whose operation on numbers is `f` on words. -/
theorem alu3_puts {op : Nat → Nat → Nat → Nat} {f : Word → Word → Word → Word} (hx : exec i s = alu3 i lat op s)
    (hop : ∀ x y z : Word, BitVec.ofNat 32 (op x.toNat y.toNat z.toNat) = f x y z)
    (hval : ∀ lane, some (f (Rules.src s e qs 1 lane) (Rules.src s e qs 2 lane) (Rules.src s e qs 3 lane)) =
      some (val lane)) : Puts32 i s e qs (Rules.dst e) val 0 0 :=
  regs32_puts_of (dst := Rules.dst) hx fun lane => (hop _ _ _).trans (Option.some.inj (hval lane))

/-- An instruction in which each lane takes a word from the lane that `g` names. -/
theorem moved_puts {dst k : Nat} {source : Iss → State → Nat → Nat} {g : Nat → Nat}
    (hx : exec i s = runLane i s (fun e s => .ok (Done.regs s lat
      (write32 dst e.lanes (fun l => src32 s e (fieldAt e.x k) (source e s l))) 0)))
    (hsource : ∀ l, source e (issued s e qs) l = g l) :
    Puts32 i s e qs dst (fun l => Rules.src s e qs k (g l)) 0 0 :=
  regs32_puts_of (dst := fun _ => dst) hx fun l => by rw [hsource]; exact ofNat_toNat_word _

end

/-- R196 to R198, R64: the operation of each instruction of the table, as its lemma above gives it; to every other
instruction the table gives no result. -/
theorem integerResults : Sys2Proof.Rules.IntegerResults := by
  intro i s e qs val h
  cases i with
  | iadd _ => exact alu2_puts (op := fun _ => iaddOp) rfl ofNat_iaddOp h
  | iaddShort _ => exact alu2_puts (op := fun _ => iaddOp) rfl ofNat_iaddOp h
  | isub _ => exact alu2_puts (op := fun _ => isubOp) rfl ofNat_isubOp h
  | isubShort _ => exact alu2_puts (op := fun _ => isubOp) rfl ofNat_isubOp h
  | imul _ => exact alu2_puts (op := fun _ => imulOp) rfl ofNat_imulOp h
  | imulShort _ => exact alu2_puts (op := fun _ => imulOp) rfl ofNat_imulOp h
  | imulh v _ => cases v with
    | i32 => exact alu2_puts (op := fun _ => imulhOp .i32) rfl ofNat_imulhOp_signed h
    | n32 => exact alu2_puts (op := fun _ => imulhOp .n32) rfl ofNat_imulhOp_unsigned h
  | imad _ => exact alu3_puts (op := imadOp) rfl ofNat_imadOp h
  | iabs _ => exact alu1_puts (op := fun _ => iabsOp) rfl ofNat_iabsOp h
  | iabsShort _ => exact alu1_puts (op := fun _ => iabsOp) rfl ofNat_iabsOp h
  | imin v _ => cases v with
    | i32 => exact alu2_puts (op := fun _ => iminOp .i32) rfl ofNat_iminOp_signed h
    | n32 => exact alu2_puts (op := fun _ => iminOp .n32) rfl ofNat_iminOp_unsigned h
  | imax v _ => cases v with
    | i32 => exact alu2_puts (op := fun _ => imaxOp .i32) rfl ofNat_imaxOp_signed h
    | n32 => exact alu2_puts (op := fun _ => imaxOp .n32) rfl ofNat_imaxOp_unsigned h
  | iminI32Short _ => exact alu2_puts (op := fun _ => iminOp .i32) rfl ofNat_iminOp_signed h
  | imaxI32Short _ => exact alu2_puts (op := fun _ => imaxOp .i32) rfl ofNat_imaxOp_signed h
  | iminN32Short _ => exact alu2_puts (op := fun _ => iminOp .n32) rfl ofNat_iminOp_unsigned h
  | imaxN32Short _ => exact alu2_puts (op := fun _ => imaxOp .n32) rfl ofNat_imaxOp_unsigned h
  | iaddSat v _ => cases v with
    | i32 => exact alu2_puts (op := fun _ => iaddSatOp .i32) rfl ofNat_iaddSatOp_signed h
    | n32 => exact alu2_puts (op := fun _ => iaddSatOp .n32) rfl ofNat_iaddSatOp_unsigned h
  | isubSat v _ => cases v with
    | i32 => exact alu2_puts (op := fun _ => isubSatOp .i32) rfl ofNat_isubSatOp_signed h
    | n32 => exact alu2_puts (op := fun _ => isubSatOp .n32) rfl ofNat_isubSatOp_unsigned h
  | and _ => exact alu2_puts (op := fun _ a b => a &&& b) rfl ofNat_and_toNat h
  | andShort _ => exact alu2_puts (op := fun _ a b => a &&& b) rfl ofNat_and_toNat h
  | or _ => exact alu2_puts (op := fun _ a b => a ||| b) rfl ofNat_or_toNat h
  | orShort _ => exact alu2_puts (op := fun _ a b => a ||| b) rfl ofNat_or_toNat h
  | xor _ => exact alu2_puts (op := fun _ a b => a ^^^ b) rfl ofNat_xor_toNat h
  | xorShort _ => exact alu2_puts (op := fun _ a b => a ^^^ b) rfl ofNat_xor_toNat h
  | andn _ => exact alu2_puts (op := fun _ => andnOp) rfl ofNat_andnOp h
  | andnShort _ => exact alu2_puts (op := fun _ => andnOp) rfl ofNat_andnOp h
  | not _ => exact alu1_puts (op := fun _ => notOp) rfl ofNat_notOp h
  | notShort _ => exact alu1_puts (op := fun _ => notOp) rfl ofNat_notOp h
  | mov _ => exact alu1_puts (op := fun _ a => a) rfl ofNat_toNat_word h
  | movShort _ => exact alu1_puts (op := fun _ a => a) rfl ofNat_toNat_word h
  | popc _ => exact alu1_puts (op := fun _ => popcOp) rfl ofNat_popcOp h
  | popcShort _ => exact alu1_puts (op := fun _ => popcOp) rfl ofNat_popcOp h
  | clz _ => exact alu1_puts (op := fun _ => clzOp) rfl ofNat_clzOp h
  | clzShort _ => exact alu1_puts (op := fun _ => clzOp) rfl ofNat_clzOp h
  | ctz _ => exact alu1_puts (op := fun _ => ctzOp) rfl ofNat_ctzOp h
  | ctzShort _ => exact alu1_puts (op := fun _ => ctzOp) rfl ofNat_ctzOp h
  | brev _ => exact alu1_puts (op := fun _ => brevOp) rfl ofNat_brevOp h
  | brevShort _ => exact alu1_puts (op := fun _ => brevOp) rfl ofNat_brevOp h
  | shl _ => exact alu2_puts (op := shlOp) rfl (ofNat_shlOp _) h
  | shlShort _ => exact alu2_puts (op := shlOp) rfl (ofNat_shlOp _) h
  | shr _ => exact alu2_puts (op := shrOp) rfl (ofNat_shrOp _) h
  | shrShort _ => exact alu2_puts (op := shrOp) rfl (ofNat_shrOp _) h
  | sar _ => exact alu2_puts (op := sarOp) rfl (ofNat_sarOp _) h
  | sarShort _ => exact alu2_puts (op := sarOp) rfl (ofNat_sarOp _) h
  | rot _ => exact alu2_puts (op := fun _ => rotOp) rfl ofNat_rotOp h
  | rotShort _ => exact alu2_puts (op := fun _ => rotOp) rfl ofNat_rotOp h
  | bfx v _ => cases v with
    | i32 => exact alu2_puts (op := fun _ => bfxOp .i32) rfl ofNat_bfxOp_signed h
    | n32 => exact alu2_puts (op := fun _ => bfxOp .n32) rfl ofNat_bfxOp_unsigned h
  | bfi _ => exact alu3_puts (op := bfiOp) rfl ofNat_bfiOp h
  | _ => cases h 0

/-! ## Words moved between lanes and out of predicates (R196, R219, R220, R224) -/

theorem div_mul_eq_sub_mod (l w : Nat) : l / w * w = l - l % w := by
  have := Nat.div_add_mod' l w
  omega

theorem shfl_puts {s : State} {e : Iss} {qs : List Queue} {k : ShflKind} {f : LaneForm} {g : Nat → Nat}
    (hsource : ∀ l, shflSource k (2 ^ f.src3.toNat) l (Rules.src s e qs 2 l).toNat = g l) :
    Puts32 (.shfl k f) s e qs f.dst.toNat (fun l => Rules.src s e qs 1 (g l)) 0 0 :=
  moved_puts (Eq.refl (execShfl k f s)) hsource

theorem sel_puts (f : LaneForm) (s : State) (e : Iss) (qs : List Queue) :
    Puts32 (.sel f) s e qs f.dst.toNat
      (fun l => if Rules.predAt s e qs f.src3 l then Rules.src s e qs 1 l else Rules.src s e qs 2 l) 0 0 := by
  refine regs32_puts_of (dst := fun _ => f.dst.toNat) (Eq.refl (execSel f s)) fun l => ?_
  simp only [apply_ite (BitVec.ofNat 32), src32, ofNat_toNat_word]
  rfl

theorem b2n_mul (b : Bool) (n : Nat) : b2n b * n = if b then n else 0 := by
  cases b with
  | false => exact Nat.zero_mul n
  | true => exact Nat.one_mul n

theorem foldl_add_congr {f g : Nat → Nat} {l : List Nat} (h : ∀ x ∈ l, f x = g x) {a : Nat} :
    l.foldl (fun r x => r + f x) a = l.foldl (fun r x => r + g x) a := by
  induction l generalizing a with
  | nil => rfl
  | cons x l ih =>
    rw [List.foldl_cons, List.foldl_cons, h x List.mem_cons_self]
    exact ih fun y hy => h y (List.mem_cons_of_mem x hy)

theorem pcat_puts (f : LaneForm) (s : State) (e : Iss) (qs : List Queue) :
    Puts32 (.pcat f) s e qs f.dst.toNat
      (fun l => BitVec.ofNat 32
        ((List.range 8).foldl (fun a p => a + if Rules.predAt s e qs (BitVec.ofNat 8 p) l then 2 ^ p else 0) 0)) 0 0 := by
  refine regs32_puts_of (dst := fun _ => f.dst.toNat) (Eq.refl (execPcat f s)) fun l =>
    congrArg (BitVec.ofNat 32) (foldl_add_congr fun p hp => ?_)
  have hname : (BitVec.ofNat 8 p).toNat = p := by
    have := List.mem_range.mp hp
    rw [BitVec.toNat_ofNat, Nat.mod_eq_of_lt (by omega)]
  rw [Rules.predAt, hname, b2n_mul]

theorem moveResults : Sys2Proof.Rules.MoveResults := by
  intro f s e qs
  refine ⟨shfl_puts fun l => ?idx, shfl_puts fun l => ?xor, shfl_puts fun l => ?up, shfl_puts fun l => ?dn,
    moved_puts (Eq.refl (execSwp f s)) fun _ => rfl, sel_puts f s e qs, pcat_puts f s e qs⟩
  case idx => simp only [shflSource, div_mul_eq_sub_mod]
  case xor => simp only [shflSource, div_mul_eq_sub_mod]
  case up => simp only [shflSource, div_mul_eq_sub_mod]
  case dn => simp only [shflSource, div_mul_eq_sub_mod]

/-- Settles O3, one instruction of the table after the other. -/
theorem integerAndMoveResults : Obligations.IntegerAndMoveResults := ⟨integerResults, moveResults⟩

/-! ## Results that come later, and modes -/

/-- A special function (R210, R214). -/
theorem sfu_completes {i : Instr} {fn : SfuFn} {s : State} (hx : exec i s = sfuInstr i fn s) (e : Iss)
    (qs : List Queue) :
    let r (l : Nat) : FRes := sfuFinal e.g.ln.fpc fn (Rules.src s e qs 1 l).toNat
    Completes i s e qs (Done.later (issued s e qs) (pendingResult (issued s e qs) e .sfu
      (write32 (Rules.dst e) e.lanes (fun l => (r l).code)) (Rules.flagsOf e r))) :=
  completes_of hx fun _ => rfl

/-- An instruction of stochastic rounding (R84, R207), whose results are those of `r`. -/
theorem stochastic_completes {i : Instr} {s : State} {e : Iss} {qs : List Queue} {f : Iss → State → Nat → FRes}
    {r : Nat → FRes} (hx : exec i s = runLane i s (fun e s => .ok (stochasticDone s e (f e s))))
    (hr : ∀ l, f e (issued s e qs) l = r l) :
    Completes i s e qs (Done.later
      (modLane (issued s e qs) e.core e.slot (fun l => { l with gen := advanceGens l.gen e.lanes }))
      (pendingResult (issued s e qs) e .stochastic (write32 (Rules.dst e) e.lanes (fun l => (r l).code))
        (Rules.flagsOf e r))) := by
  rw [← funext hr]; exact completes_of hx fun _ => rfl

theorem cvtSource_issued (s : State) (e : Iss) (qs : List Queue) (t lane : Nat) : cvtSource (issued s e qs) e t lane =
    if wideType t then (Rules.srcPair s e qs 1 lane).toNat else (Rules.src s e qs 1 lane).toNat := by
  rw [toNat_srcPair]; rfl

/-- Settles O30: each effect as its instruction's own meaning gives it. -/
theorem lateAndModes : Obligations.LateAndModes := by
  intro f h s e qs
  refine ⟨sfu_completes rfl e qs, sfu_completes rfl e qs, sfu_completes rfl e qs, sfu_completes rfl e qs,
    sfu_completes rfl e qs, sfu_completes rfl e qs, sfu_completes rfl e qs, sfu_completes rfl e qs,
    stochastic_completes (Eq.refl (execCvtSr f s)) fun l => ?converted,
    stochastic_completes (Eq.refl (execPk2Sr h f s)) fun _ => rfl,
    fun hok => completes_of (Eq.refl (execSetfpc f s)) fun _ => ?accepted,
    fun hreserved => traps_of (Eq.refl (execSetfpc f s)) fun _ => ?refused,
    completes_of (Eq.refl (execRngseed f s)) fun _ => rfl⟩
  case converted => rw [cvtSource_issued]; rfl
  case accepted => simp only [hok]; rfl
  case refused =>
    have hspec : f.src1.toNat % 256 = f.src1.toNat := Nat.mod_eq_of_lt f.src1.isLt
    simp [hreserved, illegalOperand, trapOf, hspec]

/-! ## Integer cells (R71, R303) -/

/-- The codes of the integer formats, unsigned and signed. -/
theorem eq_zero_or_four {fmt : Nat} (h : fmt ∈ [0, 4]) : fmt = 0 ∨ fmt = 4 := by
  simpa only [List.mem_cons, List.not_mem_nil, or_false] using h

theorem intValue_elemOf {fmt : Nat} (h : fmt ∈ [0, 4]) (x k : Nat) :
    intValue 8 (decide (fmt = 0)) (elemOf fmt x k) = Rules.byteElement fmt x k := by
  have hbits : elemBits fmt = 8 := by rcases eq_zero_or_four h with rfl | rfl <;> rfl
  have hbyte : elemOf fmt x k = (BitVec.ofNat 8 (x >>> (8 * k))).toNat := by
    rw [elemOf, hbits, BitVec.toNat_ofNat, Nat.shiftRight_eq_div_pow]
  rw [intValue, hbyte, toSigned_toNat, Nat.mod_eq_of_lt (BitVec.isLt _), Rules.byteElement]
  simp only [decide_eq_true_eq]

theorem foldl_elements_eq_dotProduct {af bf : Nat} (ha : af ∈ [0, 4]) (hb : bf ∈ [0, 4]) (a b : Nat) :
    (List.range 8).foldl (fun t k => t +
      intValue 8 (decide (af = 0)) (elemOf af a k) * intValue 8 (decide (bf = 0)) (elemOf bf b k)) 0 =
      Rules.dotProduct af bf a b := by
  simp only [intValue_elemOf ha, intValue_elemOf hb, Rules.dotProduct]
  simp [List.range_succ]

/-- The exact value of an accumulation, by `fmt`[13:12]: the accumulator plus, replaced by, or minus the sum of the
products. -/
def accumulated (fmt : Word) (acc : BitVec 36) (t : Int) : Int :=
  if fmt.toNat / 4096 % 4 = 0 then acc.toInt + t else if fmt.toNat / 4096 % 4 = 1 then t else acc.toInt - t

theorem saturates_iff (fmt : Word) : fmt.toNat / 2 ^ 14 % 2 = 1 ↔ fmt.getLsbD 14 = true := by
  rw [BitVec.getLsbD, Nat.testBit_eq_decide_div_mod_eq, decide_eq_true_eq]

theorem cellAfter_of_integer {fmt : Word} (ha : fmt.toNat % 16 ∈ [0, 4]) (acc : BitVec 36) (a b sa sb : Nat) :
    cellAfter fmt acc a b sa sb =
      (BitVec.ofNat 36 (intCell fmt acc.toNat a b).1, if (intCell fmt acc.toNat a b).2 then 32 else 0) := by
  have hfamily : matFamily (fmt.toNat % 16) = 0 := by rcases eq_zero_or_four ha with h | h <;> rw [h] <;> rfl
  rw [cellAfter, if_pos hfamily]

section
variable {fmt : Word} (ha : fmt.toNat % 16 ∈ [0, 4]) (hb : fmt.toNat / 16 % 16 ∈ [0, 4]) (acc : BitVec 36) (a b : Nat)
include ha hb

/-- In wrap mode a cell is never clamped. -/
theorem intCell_of_wrap (hmode : fmt.getLsbD 14 = false) : intCell fmt acc.toNat a b =
    (wrapTo 36 (accumulated fmt acc (Rules.dotProduct (fmt.toNat % 16) (fmt.toNat / 16 % 16) a b)), false) := by
  simp only [intCell, foldl_elements_eq_dotProduct ha hb, toSigned_toNat, saturates_iff, hmode, accumulated,
    Bool.false_eq_true, if_false]

/-- In saturate mode the exact value is clamped once. -/
theorem intCell_of_saturate (hmode : fmt.getLsbD 14 = true) :
    let v := accumulated fmt acc (Rules.dotProduct (fmt.toNat % 16) (fmt.toNat / 16 % 16) a b)
    let c := max (-(2 ^ 35)) (min (2 ^ 35 - 1) v)
    (intCell fmt acc.toNat a b).1 = wrapTo 36 c ∧ ((intCell fmt acc.toNat a b).2 = true ↔ c ≠ v) := by
  have hclamp (x : Int) : clampInt (-(2 ^ 35 : Nat)) ((2 ^ 35 : Nat) - 1) x = max (-(2 ^ 35)) (min (2 ^ 35 - 1) x) :=
    clampInt_eq_max_min (by decide) x
  simp only [intCell, foldl_elements_eq_dotProduct ha hb, toSigned_toNat, saturates_iff, hmode, hclamp, accumulated,
    if_true, decide_eq_true_eq, and_self]

end

/-- Settles O40, by the two modes of `fmt`[14]. -/
theorem integerCells : Obligations.IntegerCells := by
  intro fmt acc a b sa sb ha hb _ t mode v clamped
  rw [cellAfter_of_integer ha]
  cases hmode : fmt.getLsbD 14 with
  | false =>
    rw [intCell_of_wrap ha hb acc a b hmode, ofNat_wrapTo]
    rfl
  | true =>
    obtain ⟨hvalue, hflag⟩ : (intCell fmt acc.toNat a b).1 = wrapTo 36 clamped ∧
        ((intCell fmt acc.toNat a b).2 = true ↔ clamped ≠ v) := intCell_of_saturate ha hb acc a b hmode
    rw [hvalue, ofNat_wrapTo, if_pos rfl]
    by_cases hclamped : clamped = v
    · rw [if_pos hclamped, if_neg fun h => hflag.mp h hclamped]
    · rw [if_neg hclamped, if_pos (hflag.mpr hclamped)]

end Sys2Proof.Proofs
end

section
/-!
SUPPORT. What reads and writes of memory leave: of the package they change no more than caches, homes, the counts and times
of writes, what skerry commands have kept, and the operations on their way to peers.
-/
namespace Sys2Proof.Proofs

open Sys2Proof Sys2Proof.Machine Sys2Proof.Laws

/-- Two packages that agree in everything that no access to memory touches. -/
def SameButMemory (s t : State) : Prop :=
  { t with
    cores := s.cores, dieStacks := s.dieStacks, mem := s.mem, attached := s.attached, writes := s.writes, stamps := s.stamps,
    skerries := s.skerries, outgoing := s.outgoing } = s

namespace SameButMemory

variable {s t u : State}

theorem refl (s : State) : SameButMemory s s := rfl

theorem trans (h : SameButMemory s t) (k : SameButMemory t u) : SameButMemory s u := by
  unfold SameButMemory at h k ⊢
  exact (congrArg (fun x : State => { x with
    cores := s.cores, dieStacks := s.dieStacks, mem := s.mem, attached := s.attached, writes := s.writes, stamps := s.stamps,
    skerries := s.skerries, outgoing := s.outgoing }) k).trans h

theorem foldl {α : Type} {f : State → α → State} (hf : ∀ s x, SameButMemory s (f s x)) (l : List α) (s : State) :
    SameButMemory s (l.foldl f s) := by
  induction l generalizing s with
  | nil => exact refl s
  | cons x l ih => exact (hf s x).trans (ih (f s x))

theorem fresh (h : SameButMemory s t) : t.fresh = s.fresh := by
  have hfresh := congrArg State.fresh h
  exact hfresh

theorem queues (h : SameButMemory s t) : t.queues = s.queues := by
  have hqueues := congrArg State.queues h
  exact hqueues

theorem modCore (s : State) (core : Nat) (f : Core → Core) : SameButMemory s (modCore s core f) := rfl

theorem modStack (s : State) (d : Nat) (f : Stack → Stack) : SameButMemory s (modStack s d f) := rfl

theorem setMem (s : State) (m : Memory) : SameButMemory s { s with mem := m } := rfl

theorem keepView (s : State) (pa n : Nat) : SameButMemory s (keepView s pa n) := rfl

theorem stampWords (s : State) (pa n : Nat) : SameButMemory s (stampWords s pa n) := rfl

theorem noteWrite (s : State) (line place : Nat) : SameButMemory s (noteWrite s line place) := rfl

theorem noteRecent (s : State) (core : Nat) (sigs : List Sig) : SameButMemory s (noteRecent s core sigs) := rfl

theorem sendOp (s : State) (core pa : Nat) (ask : ApertureAsk) : SameButMemory s (sendOp s core pa ask) := rfl

/-! ## Caches -/

theorem attach (s : State) (line : Nat) (sigs : List Sig) : SameButMemory s (attach s line sigs) := by
  cases sigs <;> exact refl s

theorem writeBackL2 (s : State) (d sec : Nat) : SameButMemory s (writeBackL2 s d sec) := by
  unfold Machine.writeBackL2
  split
  · exact refl s
  next x _ =>
    split
    · exact refl s
    · refine trans ?_ (modStack _ _ _)
      refine trans ?_ (noteWrite _ _ _)
      refine trans ?_ (attach _ _ _)
      refine trans ?_ (foldl (fun s e => stampWords s _ 1) _ _)
      refine trans ?_ (setMem _ _)
      exact foldl (fun s e => keepView s _ 1) _ s

theorem evictL2 (s : State) (d sec : Nat) : SameButMemory s (evictL2 s d sec) :=
  (writeBackL2 s d sec).trans (modStack _ _ _)

theorem roomL2 (s : State) (d line : Nat) : SameButMemory s (roomL2 s d line) := by
  unfold Machine.roomL2
  dsimp only
  split
  · exact refl s
  · split
    · exact refl s
    · exact foldl (fun s sec => evictL2 s d sec) _ s

theorem putL2 (s : State) (d sec : Nat) (x : Sector) (sigs : List Sig) : SameButMemory s (putL2 s d sec x sigs) :=
  (roomL2 s d _).trans (modStack _ _ _)

theorem writeBackL1 (s : State) (core sec : Nat) : SameButMemory s (writeBackL1 s core sec) := by
  unfold Machine.writeBackL1
  split
  · exact refl s
  · split
    · exact refl s
    · refine trans ?_ (modCore _ _ _)
      refine trans ?_ (noteRecent _ _ _)
      exact ((roomL2 s _ _).trans (putL2 _ _ _ _ _)).trans (noteWrite _ _ _)

theorem evictL1 (s : State) (core sec : Nat) : SameButMemory s (evictL1 s core sec) :=
  (writeBackL1 s core sec).trans (modCore _ _ _)

theorem roomL1 (s : State) (core line : Nat) : SameButMemory s (roomL1 s core line) := by
  unfold Machine.roomL1
  dsimp only
  split
  · exact refl s
  · split
    · exact refl s
    · exact foldl (fun s sec => evictL1 s core sec) _ s

theorem putL1 (s : State) (core sec : Nat) (x : Sector) (sigs : List Sig) : SameButMemory s (putL1 s core sec x sigs) :=
  (roomL1 s core _).trans (modCore _ _ _)

theorem getL2 (s : State) (d sec : Nat) : SameButMemory s (getL2 s d sec).2 := by
  unfold Machine.getL2
  dsimp only
  split
  · exact refl s
  · exact (roomL2 s d _).trans (putL2 _ _ _ _ _)

theorem getL1 (s : State) (core sec : Nat) : SameButMemory s (getL1 s core sec).2 := by
  unfold Machine.getL1
  dsimp only
  split
  · exact refl s
  · exact ((roomL1 s core _).trans (getL2 _ _ _)).trans (putL1 _ _ _ _ _)

/-! ## Reads and acquires -/

theorem readLevel (s : State) (core level pa n : Nat) : SameButMemory s (readLevel s core level pa n).state := by
  unfold Machine.readLevel
  dsimp only
  split
  · exact getL1 s core _
  · split
    · exact (evictL1 s core _).trans (getL2 _ _ _)
    · exact (evictL1 s core _).trans (evictL2 _ _ _)

theorem acquireDrop (s : State) (core : Nat) (scope : Scope) (sigs : List Sig) :
    SameButMemory s (acquireDrop s core scope sigs) := by
  unfold Machine.acquireDrop
  split <;> rfl

theorem readX (s : State) (core level : Nat) (x : Xlat) (n tag : Nat) : SameButMemory s (readX s core level x n tag).state := by
  have walk : SameButMemory s (walkAcquire s core x) := acquireDrop s core .package x.sigs
  unfold Machine.readX
  dsimp only
  split
  · exact walk.trans (sendOp _ _ _ _)
  · split
    · exact walk.trans (readLevel _ _ _ _ _)
    · exact walk

theorem unitRead (s : State) (die : Nat) (x : Xlat) (n tag : Nat) : SameButMemory s (unitRead s die x n tag).state := by
  unfold Machine.unitRead
  dsimp only
  split
  · rfl
  · split <;> rfl

theorem modGroup (s : State) (core slot : Nat) (f : Group → Group) : SameButMemory s (modGroup s core slot f) := by
  unfold Machine.modGroup
  split <;> rfl

end SameButMemory

end Sys2Proof.Proofs
end

section
/-!
SUPPORT and PROOFS of the statements about the mailbox: what Grendex does with a command, and the context, queue, power,
partition and system commands one by one.
-/
namespace Sys2Proof.Proofs

open Sys2Proof Sys2Proof.Machine Sys2Proof.Safety Sys2Proof.Laws

/-! ## What Grendex does with a command (R467, R468, R473) -/

section
variable {i : Instr} {ws : List Nat} {m : Mbox} {s t : State} {body : State → Answer} {status : Nat} {results : List Nat}

/-- A command that is accepted answers what its body says. -/
theorem command_accepted (h : Commands ws m s) (body : State → Answer) :
    command ws m s body = .next (respond m (body s)) := by
  simp [command, h.boot, h.open_, h.args]

theorem answers_of_command (hx : exec i s = command ws m s body) (h : Commands ws m s)
    (hbody : body s = ⟨status, results, t⟩) : Answers i m s status results t := by
  rw [Answers, hx, command_accepted h, hbody]

variable {waits : State → Bool}

theorem answers_of_wayCommand (hx : exec i s = wayCommand ws m s waits body) (h : Commands ws m s)
    (hopen : waits s = false) (hbody : body s = ⟨status, results, t⟩) : Answers i m s status results t := by
  refine answers_of_command (hx.trans ?_) h hbody
  simp [wayCommand, commandHeld, hopen]

/-- A command that is accepted waits while its way is closed. -/
theorem waits_of_wayCommand (hx : exec i s = wayCommand ws m s waits body) (h : Commands ws m s)
    (hclosed : waits s = true) : exec i s = .next s := by
  rw [hx]; simp [wayCommand, commandHeld, h.boot, h.open_, h.args, hclosed]

end

/-! ## Arguments -/

section
variable (m : Mbox)

@[simp] theorem argOf_zero : argOf m 0 = m.a0.toNat := rfl
@[simp] theorem argOf_one : argOf m 1 = m.a1.toNat := rfl
@[simp] theorem argOf_two : argOf m 2 = m.a2.toNat := rfl
@[simp] theorem argOf_three : argOf m 3 = m.a3.toNat := rfl
@[simp] theorem argOf_four : argOf m 4 = m.a4.toNat := rfl
@[simp] theorem argOf_five : argOf m 5 = m.a5.toNat := rfl
@[simp] theorem argOf_six : argOf m 6 = m.a6.toNat := rfl

theorem bits_low (x hi : Nat) : bits x hi 0 = x % 2 ^ (hi + 1) := by simp [bits]

end

/-! ## Contexts (R473) -/

theorem ctxArg_eq (m : Mbox) : ctxArg m = m.a0.toNat % 2 ^ 10 := bits_low _ _

theorem binds_iff (s : State) (m : Mbox) :
    binds s m = true ↔ ctxStateOf s (ctxArg m) = some .created ∧ bindOk s m = true := by simp [binds]

section
variable {m : Mbox} {s : State}

/-- CX_BIND, with what the context then holds in the widths of its fields. -/
theorem cxBind_accepted (h : Commands bindWidths m s) (hbinds : binds s m = true) (hopen : bindWaits m s = false) :
    Answers (.cxBind m) m s 0 [] (modCtx
      (storeAt (storeAt s (logEnd m) (natToBytes 8 0)) (logEnd m + 16) (natToBytes 8 0)) (ctxArg m) (fun c => { c with
        state := .bound, partition := argBits m 0 13 10, ceiling := argBits m 0 21 14, checking := m.a0.getLsbD 22,
        root := m.a1.setWidth 46, profile := m.a2.setWidth 32, logSize := argBits m 2 48 32, hlane := m.a3.setWidth 48,
        hscal := m.a4.setWidth 48, logBase := m.a5.setWidth 46, helper := m.a6.setWidth 48, written := 0,
        dropped := 0 })) := by
  refine answers_of_wayCommand (Eq.refl (execCxBind m s)) h hopen ((if_pos hbinds).trans ?_)
  simp only [argOf_one, argOf_two, argOf_three, argOf_four, argOf_five, argOf_six, BitVec.ofNat_toNat]
  rfl

theorem cxBind_refused (h : Commands bindWidths m s) (hbinds : binds s m = false) :
    Answers (.cxBind m) m s 1 [] s :=
  answers_of_wayCommand (Eq.refl (execCxBind m s)) h (by simp [bindWaits, hbinds]) (if_neg (by simp [hbinds]))

theorem cxTeardown_accepted (h : Commands [10] m s) (hthere : ctxStateOf s (ctxArg m) ≠ none)
    (hstands : ctxStateOf s (ctxArg m) ≠ some .tornDown) :
    Answers (.cxTeardown m) m s 0 [] (teardownContext s (ctxArg m) m.tag.toNat) := by
  refine answers_of_command (Eq.refl (execCxTeardown m s)) h ?_
  dsimp only
  split
  next hnone => exact absurd hnone hthere
  next htorn => exact absurd htorn hstands
  next => rfl

/-- What CX_SET turns away, as a proposition (R108). -/
theorem cxSet_bad_iff (m : Mbox) :
    (argOf m 1 < 0x041 ∨ 0x044 < argOf m 1 ∨ (argOf m 1 = 0x044 ∧ !fpcOk (BitVec.ofNat 32 (argOf m 2)))) ↔
      (m.a1.toNat < 0x041 ∨ 0x044 < m.a1.toNat ∨ (m.a1.toNat = 0x044 ∧ fpcOk (m.a2.setWidth 32) = false)) := by
  simp only [argOf_one, argOf_two, BitVec.ofNat_toNat, Bool.not_eq_true']

end

theorem contextCommands : Sys2Proof.Rules.ContextCommands := by
  intro m s c
  simp only [← ctxArg_eq m]
  refine ⟨fun h => answers_of_command (Eq.refl (execBadCmd m s)) h rfl,
    fun h => ⟨fun hfree => ?create, fun hused => ?createBad, fun hst => ?start, fun hst => ?startBad, fun hst => ?suspend,
      fun hst => ?suspendBad, fun hst => ?resume, fun hst => ?resumeBad, fun hthere hstands => ?teardown,
      fun hst => ?teardownBad, fun hnone => ?readNone, fun hc => ?read⟩,
    fun h => ⟨fun hclosed => ?bindWaits, fun hst hok hopen => ?bind, fun hbad => ?bindBad⟩,
    fun h => ⟨fun hbad => ?setBadValue, fun hok hallowed => ?set, fun hok hallowed => ?setBadState⟩,
    fun h => ⟨fun hst => ?clear, fun hst => ?clearBad⟩⟩
  case create => exact answers_of_command (Eq.refl (execCxCreate m s)) h (if_pos hfree)
  case createBad => exact answers_of_command (Eq.refl (execCxCreate m s)) h (if_neg (by simp [hused]))
  case start => exact answers_of_command (Eq.refl (execCxStart m s)) h (if_pos hst)
  case startBad => exact answers_of_command (Eq.refl (execCxStart m s)) h (if_neg hst)
  case suspend => exact answers_of_command (Eq.refl (execCxSuspend m s)) h (if_pos hst)
  case suspendBad => exact answers_of_command (Eq.refl (execCxSuspend m s)) h (if_neg hst)
  case resume => exact answers_of_command (Eq.refl (execCxResume m s)) h (if_pos hst)
  case resumeBad => exact answers_of_command (Eq.refl (execCxResume m s)) h (if_neg (not_or.mpr hst))
  case teardown => exact cxTeardown_accepted h hthere hstands
  case teardownBad =>
    refine answers_of_command (Eq.refl (execCxTeardown m s)) h ?_
    rcases hst with hst | hst <;> simp only [hst] <;> rfl
  case readNone => exact answers_of_command (Eq.refl (execCxRead m s)) h (by simp only [hnone])
  case read => exact answers_of_command (Eq.refl (execCxRead m s)) h (by simp only [hc])
  case bindWaits => exact waits_of_wayCommand (Eq.refl (execCxBind m s)) h hclosed
  case bind => exact cxBind_accepted h ((binds_iff s m).mpr ⟨hst, hok⟩) hopen
  case bindBad =>
    refine cxBind_refused h (Bool.eq_false_iff.mpr fun hbinds => ?_)
    obtain ⟨hst, hok⟩ := (binds_iff s m).mp hbinds
    exact hbad.elim (· hst) fun hno => Bool.noConfusion (hok.symm.trans hno)
  case setBadValue => exact answers_of_command (Eq.refl (execCxSet m s)) h (if_pos ((cxSet_bad_iff m).mpr hbad))
  case set =>
    exact answers_of_command (Eq.refl (execCxSet m s)) h
      ((if_neg (mt (cxSet_bad_iff m).mp hok)).trans (if_pos hallowed))
  case setBadState =>
    exact answers_of_command (Eq.refl (execCxSet m s)) h
      ((if_neg (mt (cxSet_bad_iff m).mp hok)).trans (if_neg (by simp [hallowed])))
  case clear => exact answers_of_command (Eq.refl (execCxClear m s)) h (if_neg (by simpa using hst))
  case clearBad => exact answers_of_command (Eq.refl (execCxClear m s)) h (if_pos (by simp [hst]))

/-! ## Queues (R474) -/

theorem queueArg_eq (m : Mbox) : queueArg m = m.a0.toNat % 2 ^ 12 := bits_low _ _

theorem queueFree_iff (s : State) (m : Mbox) : queueFree s m = true ↔
    mget? s.queues (queueArg m) = none ∧ ctxStateOf s (argBits m 0 21 12) ≠ some .tornDown := by simp [queueFree]

/-- Two changes of a queue that agree on what it holds. -/
theorem modHostQueue_congr {s : State} {n : Nat} {q : HostQueue} {f g : HostQueue → HostQueue}
    (hq : mget? s.queues n = some q) (hfg : f q = g q) : modHostQueue s n f = modHostQueue s n g := by
  simp only [modHostQueue, mmod, hq, hfg]

section
variable {m : Mbox} {s : State} {q : HostQueue} {x : Xlat}

theorem createWaits_of_not_held (h : headCheck s m ≠ .held) : createWaits m s = false := by simp [createWaits, h]

theorem createWaits_of_not_free (h : queueFree s m = false) : createWaits m s = false := by simp [createWaits, h]

theorem createWaits_of_not_ok (h : queueOk s m = false) : createWaits m s = false := by simp [createWaits, h]

/-- Q_CREATE of a free number within the limits of R109, whose head word's line is not held. -/
theorem qCreate_accepted (h : Commands createWidths m s) (hfree : queueFree s m = true) (hok : queueOk s m = true)
    (hheld : headCheck s m ≠ .held) : Answers (.qCreate m) m s 0 [] (createQueue s m) :=
  answers_of_wayCommand (Eq.refl (execQCreate m s)) h (createWaits_of_not_held hheld) (by simp [hfree, hok, Answer.ok])

theorem createQueue_of_ok (h : headCheck s m = .ok x) : createQueue s m =
    unitStore { s with queues := mset s.queues (queueArg m) (newQueue m) } (newQueue m).die x (natToBytes 8 0) [] := by
  simp only [createQueue, h]

theorem createQueue_of_access (h : headCheck s m = .access) : createQueue s m =
    haltQueue { s with queues := mset s.queues (queueArg m) (newQueue m) } (queueArg m) 7 m.a4.toNat m.tag.toNat := by
  simp only [createQueue, h]
  rfl

theorem toStart_of_halted (hq : mget? s.queues (queueArg m) = some q) (hst : q.state = .halted) :
    toStart s m = some q := by simp [toStart, hq, hst]

theorem toStart_of_not_halted (hq : mget? s.queues (queueArg m) = some q) (hst : q.state ≠ .halted) :
    toStart s m = none := by simp [toStart, hq, hst]

/-- Q_START of a halted queue whose tail word's line is not held. -/
theorem qStart_accepted (h : Commands [12] m s) (hq : mget? s.queues (queueArg m) = some q) (hst : q.state = .halted)
    (hheld : tailCheck s q ≠ .held) : Answers (.qStart m) m s 0 [] (startQueue s (queueArg m) m.tag.toNat q) := by
  have hstart := toStart_of_halted hq hst
  exact answers_of_wayCommand (Eq.refl (execQStart m s)) h (by simp [startWaits, hstart, hheld])
    (by simp [hstart, Answer.ok])

theorem qStart_refused (h : Commands [12] m s) (hstart : toStart s m = none) : Answers (.qStart m) m s 1 [] s :=
  answers_of_wayCommand (Eq.refl (execQStart m s)) h (by simp [startWaits, hstart]) (by simp [hstart, Answer.bad])

/-- A queue that starts is empty where nothing is unread. -/
theorem started_eq (q : HostQueue) :
    started q = { q with state := if q.last = q.head then .empty else readState q } := by
  simp only [started, hasUnread, decide_eq_true_eq, ite_not]

theorem startQueue_of_badTail {n tag : Nat} (htail : tailCheck s q = .ok x)
    (hbad : badTail q (bytesDword (unitRead s q.die x 8 64).bytes) = true) : startQueue s n tag q =
      haltQueue (unitRead s q.die x 8 64).state n 6 (bytesDword (unitRead s q.die x 8 64).bytes).toNat tag := by
  simp only [startQueue, htail, hbad, if_true]

theorem startQueue_of_goodTail {n tag : Nat} (hq : mget? s.queues n = some q) (htail : tailCheck s q = .ok x)
    (hgood : badTail q (bytesDword (unitRead s q.die x 8 64).bytes) = false) :
    let r := unitRead s q.die x 8 64
    let t := bytesDword r.bytes
    startQueue s n tag q =
      modHostQueue r.state n (fun _ => started (takeTail t (exposures s x.pa q t) r.sigs q)) := by
  simp only [startQueue, htail, hgood, Bool.false_eq_true, if_false]
  exact modHostQueue_congr ((congrArg (mget? · n) (SameButMemory.unitRead s q.die x 8 64).queues).trans hq) rfl

theorem startQueue_of_access {n tag : Nat} (htail : tailCheck s q = .access) :
    startQueue s n tag q = haltQueue s n 7 q.tailAddr.toNat tag := by simp only [startQueue, htail]

/-- Q_HALT and Q_DRAIN by the states of R117. -/
theorem mayHalt_iff (drain : Bool) (st : QueueState) :
    mayHalt drain st = true ↔ st ≠ .halted ∧ st ≠ .tornDown ∧ (drain = true → st ≠ .draining) := by
  cases st <;> cases drain <;> decide

theorem qHalt_answers (h : Commands [12] m s) (hq : mget? s.queues (queueArg m) = some q) :
    (mayHalt false q.state = true → Answers (.qHalt m) m s 0 [] (modHostQueue s (queueArg m) haltNow)) ∧
    (mayHalt false q.state = false → Answers (.qHalt m) m s 1 [] s) :=
  ⟨fun hmay => answers_of_command (Eq.refl (execQHalt m s)) h (by simp [hq, hmay, Answer.ok]),
    fun hmay => answers_of_command (Eq.refl (execQHalt m s)) h (by simp [hq, hmay, Answer.bad])⟩

theorem qDrain_answers (h : Commands [12] m s) (hq : mget? s.queues (queueArg m) = some q) :
    (mayHalt true q.state = true → Answers (.qDrain m) m s 0 [] (drainQueue s (queueArg m) m.tag.toNat q)) ∧
    (mayHalt true q.state = false → Answers (.qDrain m) m s 1 [] s) :=
  ⟨fun hmay => answers_of_command (Eq.refl (execQDrain m s)) h (by simp [hq, hmay, Answer.ok]),
    fun hmay => answers_of_command (Eq.refl (execQDrain m s)) h (by simp [hq, hmay, Answer.bad])⟩

end

/-- A queue created (R109). -/
theorem queueCreation {m : Mbox} {s : State} {x : Xlat} (h : Commands createWidths m s) :
    (queueFree s m = true →
      (queueOk s m = true →
        (headCheck s m = .ok x → Answers (.qCreate m) m s 0 [] (unitStore
          { s with queues := mset s.queues (queueArg m) (newQueue m) } (newQueue m).die x (natToBytes 8 0) [])) ∧
        (headCheck s m = .access → Answers (.qCreate m) m s 0 [] (haltQueue
          { s with queues := mset s.queues (queueArg m) (newQueue m) } (queueArg m) 7 m.a4.toNat m.tag.toNat)) ∧
        (headCheck s m = .held → exec (.qCreate m) s = .next s)) ∧
      (queueOk s m = false → Answers (.qCreate m) m s 3 [] s)) ∧
    (queueFree s m = false → Answers (.qCreate m) m s 1 [] s) := by
  refine ⟨fun hfree => ⟨fun hok => ⟨fun hhead => ?ok, fun hhead => ?access, fun hhead => ?held⟩, fun hbad => ?bad⟩,
    fun hused => ?used⟩
  case ok =>
    rw [← createQueue_of_ok hhead]
    exact qCreate_accepted h hfree hok (by simp [hhead])
  case access =>
    rw [← createQueue_of_access hhead]
    exact qCreate_accepted h hfree hok (by simp [hhead])
  case held => exact waits_of_wayCommand (Eq.refl (execQCreate m s)) h (by simp [createWaits, hfree, hok, hhead])
  case bad =>
    exact answers_of_wayCommand (Eq.refl (execQCreate m s)) h (createWaits_of_not_ok hbad)
      (by simp [hfree, hbad, Answer.bad])
  case used =>
    exact answers_of_wayCommand (Eq.refl (execQCreate m s)) h (createWaits_of_not_free hused)
      (by simp [hused, Answer.bad])

/-- A halted queue started (R117). -/
theorem queueStart {m : Mbox} {s : State} {q : HostQueue} {x : Xlat} (h : Commands [12] m s)
    (hq : mget? s.queues (queueArg m) = some q) (hst : q.state = .halted) :
    let r := unitRead s q.die x 8 64
    let t := bytesDword r.bytes
    (tailCheck s q = .ok x → badTail q t = true →
      Answers (.qStart m) m s 0 [] (haltQueue r.state (queueArg m) 6 t.toNat m.tag.toNat)) ∧
    (tailCheck s q = .ok x → badTail q t = false → Answers (.qStart m) m s 0 [] (modHostQueue r.state (queueArg m)
      (fun _ => started (takeTail t (exposures s x.pa q t) r.sigs q)))) ∧
    (tailCheck s q = .access → Answers (.qStart m) m s 0 [] (haltQueue s (queueArg m) 7 q.tailAddr.toNat m.tag.toNat)) ∧
    (tailCheck s q = .held → exec (.qStart m) s = .next s) := by
  refine ⟨fun htail hbad => ?_, fun htail hgood => ?_, fun htail => ?_, fun htail => ?_⟩
  · rw [← startQueue_of_badTail htail hbad]
    exact qStart_accepted h hq hst (by simp [htail])
  · rw [← startQueue_of_goodTail hq htail hgood]
    exact qStart_accepted h hq hst (by simp [htail])
  · rw [← startQueue_of_access htail]
    exact qStart_accepted h hq hst (by simp [htail])
  · exact waits_of_wayCommand (Eq.refl (execQStart m s)) h (by simp [startWaits, toStart_of_halted hq hst, htail])

/-- A head word in a context without tables fails its check (log 31). -/
theorem headCheck_of_created {s : State} {m : Mbox} (h : (ctxOf s (newQueue m).ctx).state = .created) :
    headCheck s m = .access := if_pos h

theorem queueCommands : Sys2Proof.Rules.QueueCommands := by
  intro m s q x
  simp only [← queueArg_eq m]
  refine ⟨fun h => ?creation,
    fun h => ⟨fun hq => ⟨fun hst => ?start, fun hst => ?startBad, fun hhalted htorn => ⟨?halt, fun hdraining => ?drain⟩,
        fun hst => ⟨?haltBad, ?drainBad⟩, fun hst => ?drainAgain, fun hst => ?teardown, fun hst => ?teardownBad, ?read⟩,
      fun hnone => ⟨?startNone, ?haltNone, ?drainNone, ?teardownNone, ?readNone⟩⟩,
    fun h => ⟨fun hq => ?prio, fun hnone => ?prioNone⟩⟩
  case creation =>
    obtain ⟨hfreed, hused⟩ := queueCreation (x := x) h
    refine ⟨fun hnone howner => ?_, fun hno => hused (Bool.eq_false_iff.mpr fun hfree => ?_)⟩
    · obtain ⟨hok, hbad⟩ := hfreed ((queueFree_iff s m).mpr ⟨hnone, howner⟩)
      refine ⟨fun hattr => ?_, hbad⟩
      obtain ⟨hwritten, haccess, hheld⟩ := hok hattr
      exact ⟨hwritten, haccess, hheld, headCheck_of_created⟩
    · obtain ⟨hnone, howner⟩ := (queueFree_iff s m).mp hfree
      exact hno.elim (by simp [hnone]) howner
  case start => rw [← started_eq]; exact queueStart h hq hst
  case startBad => exact qStart_refused h (toStart_of_not_halted hq hst)
  case startNone => exact qStart_refused h (by simp [toStart, hnone])
  case halt => exact (qHalt_answers h hq).1 ((mayHalt_iff _ _).mpr ⟨hhalted, htorn, by simp⟩)
  case drain => exact (qDrain_answers h hq).1 ((mayHalt_iff _ _).mpr ⟨hhalted, htorn, fun _ => hdraining⟩)
  case haltBad => exact (qHalt_answers h hq).2 (by rcases hst with hst | hst <;> rw [hst] <;> rfl)
  case drainBad => exact (qDrain_answers h hq).2 (by rcases hst with hst | hst <;> rw [hst] <;> rfl)
  case drainAgain => exact (qDrain_answers h hq).2 (by rw [hst]; rfl)
  case haltNone => exact answers_of_command (Eq.refl (execQHalt m s)) h (by simp [hnone, Answer.bad])
  case drainNone => exact answers_of_command (Eq.refl (execQDrain m s)) h (by simp [hnone, Answer.bad])
  case teardown => exact answers_of_command (Eq.refl (execQTeardown m s)) h (by simp [hq, hst, Answer.ok])
  case teardownBad => exact answers_of_command (Eq.refl (execQTeardown m s)) h (by simp [hq, hst, Answer.bad])
  case teardownNone => exact answers_of_command (Eq.refl (execQTeardown m s)) h (by simp [hnone, Answer.bad])
  case read => exact answers_of_command (Eq.refl (execQRead m s)) h (by simp [hq])
  case readNone => exact answers_of_command (Eq.refl (execQRead m s)) h (by simp [hnone])
  case prio => exact answers_of_command (Eq.refl (execQPrio m s)) h (by simp [hq, Answer.ok])
  case prioNone => exact answers_of_command (Eq.refl (execQPrio m s)) h (by simp [hnone, Answer.bad])

/-- Settles O57, one command after the other. -/
theorem contextAndQueueCommands : Obligations.ContextAndQueueCommands := ⟨contextCommands, queueCommands⟩

/-! ## Power and partitions (R477) -/

/-- A vote's limits (R422). -/
theorem voteOk_iff (v : Nat) : voteOk v = true ↔ 300 ≤ v ∧ v ≤ 420 ∧ v % 10 = 0 := by
  simp [voteOk, and_assoc]

theorem b2n_bitOf (x i : Nat) : b2n (bitOf x i) = x / 2 ^ i % 2 := by
  rw [bitOf, Nat.testBit_eq_decide_div_mod_eq]
  rcases Nat.mod_two_eq_zero_or_one (x / 2 ^ i) with hbit | hbit <;> simp [hbit, b2n]

theorem railKey_argBits (m : Mbox) :
    railKey (argBits m 1 3 0) (bitOf (argOf m 1) 4) = 2 * (m.a1.toNat % 16) + m.a1.toNat / 16 % 2 := by
  rw [railKey, b2n_bitOf, argBits, bits_low]; rfl

/-- A range that ends beyond HBM4 is refused at once. -/
theorem readWaits_of_beyond {pa n : Nat} (s : State) (h : hbmTop < pa + n) : readWaits pa n s = false := by
  simp [readWaits, Nat.not_le.mpr h]

theorem powerCommands : Sys2Proof.Rules.PowerCommands := by
  intro m s
  refine ⟨fun h => ⟨fun hq => ?gate, fun hq => ⟨?gateGated, ?ungate⟩, fun hq => ⟨?gateDraining, ?ungateDraining⟩,
      fun hq => ?ungateOn⟩,
    fun h => ⟨fun hb => ?floor, fun hb => ?floorBad⟩, fun h => ⟨fun hok => ?vote, fun hbad => ?voteBad⟩,
    fun h => ⟨fun hok => ?share, fun hbad => ?shareBad⟩,
    fun h => ⟨fun hclosed => ?coresetWaits, fun hin hopen => ?coreset, fun hout => ?coresetBad⟩,
    fun h => ⟨fun hb hused => ?partitionUsed, fun hfree => ?partition⟩⟩
  case gate => exact answers_of_command (Eq.refl (execGate m s)) h (by simp [hq, Answer.ok])
  case gateGated => exact answers_of_command (Eq.refl (execGate m s)) h (by simp [hq, Answer.ok])
  case gateDraining => exact answers_of_command (Eq.refl (execGate m s)) h (by simp [hq, Answer.bad])
  case ungate => exact answers_of_command (Eq.refl (execUngate m s)) h (by simp [hq, Answer.ok])
  case ungateDraining => exact answers_of_command (Eq.refl (execUngate m s)) h (by simp [hq, Answer.bad])
  case ungateOn =>
    refine answers_of_command (Eq.refl (execUngate m s)) h ?_
    rcases hq with hq | hq <;> simp [hq, Answer.ok]
  case floor => exact answers_of_command (Eq.refl (execPassfloor m s)) h (if_pos (by simpa using hb))
  case floorBad => exact answers_of_command (Eq.refl (execPassfloor m s)) h (if_neg (by simpa using hb))
  case vote =>
    obtain ⟨hbase, hburst, hle⟩ := hok
    refine answers_of_command (Eq.refl (execVote m s)) h ?_
    simp only [argOf_two, argOf_three, (voteOk_iff _).mpr hbase, (voteOk_iff _).mpr hburst, hle, and_self, if_true,
      Answer.ok, railKey_argBits]
    rfl
  case voteBad =>
    refine answers_of_command (Eq.refl (execVote m s)) h (if_neg fun hok => hbad ?_)
    obtain ⟨hbase, hburst, hle⟩ := hok
    exact ⟨(voteOk_iff _).mp hbase, (voteOk_iff _).mp hburst, hle⟩
  case share => exact answers_of_command (Eq.refl (execShare m s)) h (if_pos hok)
  case shareBad => exact answers_of_command (Eq.refl (execShare m s)) h (if_neg hbad)
  case coresetWaits => exact waits_of_wayCommand (Eq.refl (execCoreset m s)) h hclosed
  case coreset => exact answers_of_wayCommand (Eq.refl (execCoreset m s)) h hopen (if_neg (Nat.not_lt.mpr hin))
  case coresetBad =>
    exact answers_of_wayCommand (Eq.refl (execCoreset m s)) h (readWaits_of_beyond s hout) (if_pos hout)
  case partitionUsed => exact answers_of_command (Eq.refl (execPartition m s)) h (if_pos ⟨hb, hused⟩)
  case partition =>
    refine answers_of_command (Eq.refl (execPartition m s)) h (if_neg fun hrefused => ?_)
    obtain ⟨hzero, hused⟩ := hrefused
    rcases hfree with hone | hfree
    · exact absurd (hzero.symm.trans hone) (by decide)
    · exact absurd (hused.symm.trans hfree) (by decide)

/-! ## The system commands (R477) -/

theorem append_append_append_toNat (a b c d : BitVec 64) : (d ++ c ++ b ++ a : BitVec 256) = BitVec.ofNat 256
    (a.toNat + b.toNat * 2 ^ 64 + c.toNat * 2 ^ 128 + d.toNat * 2 ^ 192) := by
  apply BitVec.eq_of_toNat_eq
  have ha := a.isLt
  have hb := b.isLt
  have hc := c.isLt
  have hd := d.isLt
  rw [BitVec.toNat_append, ← Nat.shiftLeft_add_eq_or_of_lt ha, BitVec.toNat_append, ← Nat.shiftLeft_add_eq_or_of_lt hb,
    BitVec.toNat_append, ← Nat.shiftLeft_add_eq_or_of_lt hc, BitVec.toNat_ofNat]
  simp only [Nat.shiftLeft_eq]
  omega

theorem argWords_eq (m : Mbox) : argWords m = m.a3 ++ m.a2 ++ m.a1 ++ m.a0 :=
  (append_append_append_toNat m.a0 m.a1 m.a2 m.a3).symm

theorem recoveryStep_of_running {s : State} (h : s.fw.boot = .running) : recoveryStep s = none := by
  simp [recoveryStep, h]

section
variable {ws : List Nat} {m : Mbox} {s : State} (start : State → State)

/-- A start is executed as the oldest slot that has not been, with no quote under way (R467, R469). -/
theorem startCommand_accepted (h : Commands ws m s) (hquote : s.fw.quote = none) (hnext : isNextSlot s m = true) :
    startCommand ws m s start = .next (start (respond m ⟨0, [], s⟩)) := by
  simp [startCommand, h.boot, h.args, hquote, hnext, Answer.ok]

theorem startCommand_of_not_next (hnext : isNextSlot s m = false) : startCommand ws m s start = .next s := by
  simp [startCommand, hnext]

/-- A start waits for a quote under way. -/
theorem startCommand_of_quote (hquote : s.fw.quote ≠ none) : startCommand ws m s start = .next s := by
  simp [startCommand, Option.isSome_iff_ne_none.mpr hquote]

end

theorem exec_cold {m : Mbox} {s : State} (h : s.fw.boot = .running) :
    exec (.cold m) s = startCommand [] m s (coldRequest m.tag.toNat) := by
  exact (Eq.refl (execCold m s)).trans (by simp only [execCold, recoveryStep_of_running h])

theorem exec_warm (m : Mbox) (s : State) : exec (.warm m) s =
    startCommand [64, 64, 64, 64] m s (fun s => warmStart s (m.a3 ++ m.a2 ++ m.a1 ++ m.a0) m.tag.toNat) := by
  rw [← argWords_eq]; rfl

theorem imageLimit_eq : imageLimit = 0x2000 + 64 * 2 ^ 20 := rfl

theorem imageWaits_of_outside {m : Mbox} {s : State}
    (h : ¬ (m.a0.toNat + m.a1.toNat ≤ hbmTop ∧ m.a1.toNat ≤ imageLimit)) : imageWaits m s = false := by
  by_cases hin : m.a0.toNat + m.a1.toNat ≤ hbmTop
  · have hlong : ¬ m.a1.toNat ≤ imageLimit := fun hle => h ⟨hin, hle⟩
    simp only [imageWaits, argOf_one, hlong, decide_false, Bool.and_false, Bool.false_and]
  · have hout : readWaits m.a0.toNat m.a1.toNat s = false := readWaits_of_beyond s (Nat.not_le.mp hin)
    simp only [imageWaits, argOf_zero, argOf_one, hout, Bool.and_false]

theorem systemCommands : Sys2Proof.Rules.SystemCommands := by
  intro m s
  refine ⟨fun h hquote => ⟨fun hnext => ?warm, fun hnext => ?warmLater, ?quote⟩,
    fun h hquote => ⟨?warmWaits, ?quoteBad⟩,
    fun h => ⟨fun hquote hnext => ?cold, fun hnext => ?coldLater, ?idkey, ?helpers⟩,
    fun h => ⟨fun hclosed => ?imageWaits, fun hin hlong hopen => ?image, fun hin hshort hopen => ?imageShort,
      fun hout => ?imageBad⟩,
    fun h => ?evsink⟩
  case warm => rw [exec_warm, startCommand_accepted _ h hquote hnext]
  case warmLater => rw [exec_warm, startCommand_of_not_next _ hnext]
  case warmWaits => rw [exec_warm, startCommand_of_quote _ hquote]
  case quote =>
    refine (Eq.refl (execQuote m s)).trans ?_
    simp [execQuote, h.boot, h.open_, h.args, hquote]
  case quoteBad =>
    refine (Eq.refl (execQuote m s)).trans ?_
    simp [execQuote, h.boot, Option.isSome_iff_ne_none.mpr hquote, Answer.bad]
  case cold => rw [exec_cold h.boot, startCommand_accepted _ h hquote hnext]
  case coldLater => rw [exec_cold h.boot, startCommand_of_not_next _ hnext]
  case idkey => exact answers_of_command (Eq.refl (execIdkey m s)) h rfl
  case helpers => exact answers_of_command (Eq.refl (execHelpers m s)) h rfl
  case imageWaits => exact waits_of_wayCommand (Eq.refl (execImage m s)) h hclosed
  case image =>
    have haccepted : ¬ (hbmTop < m.a0.toNat + m.a1.toNat ∨ imageLimit < m.a1.toNat) := by
      rw [imageLimit_eq]; omega
    have hfull : ¬ m.a1.toNat < 0x2000 := Nat.not_lt.mpr hlong
    split
    next hgood =>
      exact answers_of_wayCommand (Eq.refl (execImage m s)) h hopen (by simp [haccepted, hfull, hgood, Answer.ok])
    next hbad =>
      exact answers_of_wayCommand (Eq.refl (execImage m s)) h hopen (by simp [haccepted, hbad, Answer.bad])
  case imageShort =>
    have haccepted : ¬ (hbmTop < m.a0.toNat + m.a1.toNat ∨ imageLimit < m.a1.toNat) := by
      rw [imageLimit_eq]; omega
    exact answers_of_wayCommand (Eq.refl (execImage m s)) h hopen (by simp [haccepted, hshort, Answer.bad])
  case imageBad =>
    have hrefused : hbmTop < m.a0.toNat + m.a1.toNat ∨ imageLimit < m.a1.toNat := by
      rw [imageLimit_eq]; omega
    exact answers_of_wayCommand (Eq.refl (execImage m s)) h (imageWaits_of_outside hout) (if_pos hrefused)
  case evsink => exact answers_of_command (Eq.refl (execEvsink m s)) h rfl

/-- Settles O59, one command after the other. -/
theorem powerAndSystemCommands : Obligations.PowerAndSystemCommands := ⟨powerCommands, systemCommands⟩

end Sys2Proof.Proofs
end

section
/-!
SUPPORT and PROOFS of the statements about the scalar stream's blocks, its end, and the system registers.
-/
namespace Sys2Proof.Proofs

open Sys2Proof Sys2Proof.Machine Sys2Proof.Safety Sys2Proof.Laws

/-! ## Blocks (R243, R244, R248) -/

/-- `lrun` at an address that passes its checks, with room for a block. -/
theorem lrun_completes {i : Instr} {x : ScalarFields} {s : State} {core slot : Nat} {g : Group} {first : SName}
    {count : BitVec 6} {off : Nat} (hx : exec i s = lrunAt x first count off s) :
    let t := (g.lcode.toNat + off) % 2 ^ 64
    let ks := (List.range 8).map (fun i => if i < count.toNat then Rules.sreg g (BitVec.ofNat 6 (first.toNat + i)) else 0)
    g.sc.blocks.length < 4 → t % 4 = 0 → t < 2 ^ 48 → checkBlockPage s core g t = .ok () →
      ScalarCompletes i x s core slot g (modGroup s core slot (fun g =>
        { g with sc := { g.sc with blocks := g.sc.blocks ++ [⟨BitVec.ofNat 48 t, ks⟩] },
                 sigLane := joinSigs (liveSigs s.now g.sigLane) (liveSigs s.now g.sigScalar) })) none := by
  intro t ks hroom halign hfar hpage
  refine scalarCompletes_of hx ?_
  simp only [Nat.not_le.mpr hroom, halign, Nat.not_le.mpr hfar, hpage, t, ne_eq, not_true, if_false]
  rfl

/-- `sexit`, for the group that stands in the slot. -/
theorem sexit_completes {s : State} {core slot : Nat} {g : Group} (hg : groupOf s core slot = some g) :
    let ended := modGroup s core slot (fun g =>
      { g with qs := endQueues g, sc := { g.sc with stopped := true, sexited := true, handler := false, rmark := none } })
    ScalarCompletes .sexit ⟨0xA4, 0, 0, 0, 0, none⟩ s core slot g
      (if g.sc.blocks.isEmpty then exitLanes ended core slot (liveLanes g) else ended) none := by
  refine scalarCompletes_of (Eq.refl (execSexit s)) ?_
  simp only [groupOf_modGroup, hg, Option.map_some]
  rfl

theorem laneBlocks : Sys2Proof.Rules.LaneBlocks := by
  intro first count lit s core slot g run ended
  exact ⟨lrun_completes (Eq.refl (execLrun first count s)), lrun_completes (Eq.refl (execLrunS64 first count lit s)),
    fun hquiet => scalarCompletes_of (Eq.refl (execLsync s)) (if_pos hquiet), sexit_completes⟩

/-! ## System registers (R108, R152, R245) -/

theorem spOk_iff (g : Group) (v : Nat) :
    spOk g v = true ↔ v % 32 = 0 ∧ g.ln.rsp.toNat ≤ v ∧ v ≤ g.stkTop.toNat := by
  simp [spOk, and_assoc]

theorem systemRegisters : Sys2Proof.Rules.SystemRegisters := by
  intro sd sa n s core slot g
  refine ⟨fun r hr => ?srd, fun hnone => ?srdTraps, ?swr, fun halign hlow hhigh => ?grSp, fun hbad => ?grSpTraps,
    fun hok => ?grStklim, fun hbad => ?grStklimTraps⟩
  case srd => exact scalarCompletes_of (Eq.refl (execSrd sd n s)) (by simp only [hr])
  case srdTraps => exact scalarTraps_of (Eq.refl (execSrd sd n s)) (by simp only [hnone, trapOf])
  case swr => exact scalarTraps_of (Eq.refl (execSwr n sa s)) rfl
  case grSp => exact scalarCompletes_of (Eq.refl (execGrSp sa s)) (if_pos ((spOk_iff g _).mpr ⟨halign, hlow, hhigh⟩))
  case grSpTraps =>
    refine scalarTraps_of (Eq.refl (execGrSp sa s)) (if_neg fun hok => ?_)
    obtain ⟨halign, hlow, hhigh⟩ := (spOk_iff g _).mp hok
    exact hbad.elim (· halign) fun hout => hout.elim (Nat.not_lt.mpr hlow) (Nat.not_lt.mpr hhigh)
  case grStklim => exact scalarCompletes_of (Eq.refl (execGrStklim sa s)) (if_pos hok)
  case grStklimTraps => exact scalarTraps_of (Eq.refl (execGrStklim sa s)) (if_neg (Bool.eq_false_iff.mp hbad))

/-- Settles O27: each effect as its instruction's own meaning gives it. -/
theorem blocksAndSystemRegisters : Obligations.BlocksAndSystemRegisters := ⟨laneBlocks, systemRegisters⟩

end Sys2Proof.Proofs
end

section
/-!
SUPPORT and PROOFS of the statements about the lanes' waits: on a word, and on a count of array cycles.
-/
namespace Sys2Proof.Proofs

open Sys2Proof Sys2Proof.Machine Sys2Proof.Safety Sys2Proof.Laws

/-! ## Sources -/

/-- Of the package, a lane's source depends on the free values of the step alone (log 4). -/
theorem src64_congr {s t : State} (h : t.fresh = s.fresh) (e : Iss) (f : Field) (lane : Nat) :
    src64 t e f lane = src64 s e f lane := by
  simp only [src64, srcWord, regWord, freeWord, h]

/-! ## Waits on a word (R263) -/

/-- A word that is there to be read is what the read delivers; nothing but memory has been touched. -/
theorem sameButMemory_of_waitRead {s : State} {x : Xlat} {watch : Option WordWait} {w : WordWait} {read r : Read}
    (h : waitRead s x watch w read = .ok r) (hread : SameButMemory s read.state) : SameButMemory s r.state := by
  unfold waitRead at h
  split at h
  · cases h; exact hread
  · split at h
    · cases h
    · split at h
      · cases h; exact hread.trans rfl
      · cases h

theorem sameButMemory_acquireLane (s : State) (core slot : Nat) (scope : Scope) (sigs : List Sig) :
    SameButMemory s (acquireLane s core slot scope sigs) :=
  (SameButMemory.acquireDrop s core scope sigs).trans (SameButMemory.modGroup _ core slot _)

/-- A word at a peer that has not been asked for is asked for first (R387). -/
theorem waitRead_of_unasked {s : State} {x : Xlat} {watch : Option WordWait} (w : WordWait) (read : Read)
    (hpeer : isAperture x.pa = true) (hask : watch.bind (fun w => w.asked) = none) : waitRead s x watch w read =
      .error (.sleepWord { w with asked := some s.fresh, woken := wokenOn watch } read.state) := by
  simp only [waitRead, hpeer, hask, Bool.not_true, Bool.false_eq_true, if_false]
  rfl

section
variable {f : LaneForm} {s : State} {e : Iss} {qs : List Queue} {a : Xlat} {r : Read}

/-- What `waitw` does once its lanes agree and its word has been read. -/
theorem waitw_read (hagree : waitDissent (issued s e qs) e f = 0)
    (hcheck : checkOne (issued s e qs) e.core e.g.ctx
      (src64 (issued s e qs) e (fieldAt e.x 1) (lowestLane e.lanes)) 8 .read = .ok a)
    (hread : waitRead (issued s e qs) a e.g.ln.watch (beginWait (issued s e qs) e.core a (f.lit.map BitVec.toNat))
      (readX (issued s e qs) e.core 2 a 8 600) = .ok r) :
    let old := src64 (issued s e qs) e (fieldAt e.x 2) (lowestLane e.lanes)
    let w := beginWait (issued s e qs) e.core a (f.lit.map BitVec.toNat)
    let t := acquireLane r.state e.core e.slot .package r.sigs
    let stays := ¬ wokenOn e.g.ln.watch = true ∧ bytesToNat r.bytes = old ∧ f.lit ≠ some 0
    (¬ stays → Completes (.waitw f) s e qs
      (Done.regs t 1 (write64 f.dst.toNat e.lanes (fun _ => bytesToNat r.bytes)) 0)) ∧
    (stays → Issues (.waitw f) s e qs → exec (.waitw f) s = .next (modLane t e.core e.slot (fun l =>
      { l with state := .sleeping, sleep := some .word, watch := some w }))) := by
  intro old w t stays
  have hold : src64 t e (fieldAt e.x 2) (lowestLane e.lanes) = old :=
    src64_congr ((sameButMemory_of_waitRead hread (SameButMemory.readX _ _ _ _ _ _)).trans
      (sameButMemory_acquireLane _ _ _ _ _)).fresh e _ _
  have hstays : (!wokenOn e.g.ln.watch) = true ∧ bytesToNat r.bytes = src64 t e (fieldAt e.x 2) (lowestLane e.lanes) ∧
      f.lit ≠ some 0 ↔ stays := by
    rw [hold, Bool.not_eq_true', Bool.eq_false_iff]
  refine ⟨fun hgo => completes_of (Eq.refl (execWaitw f s)) fun _ => ?_,
    fun hstay h => (Eq.refl (execWaitw f s)).trans (runLane_stops (r := .sleepWord w t) h ?_)⟩
  · simp only [hagree, ne_eq, not_true, if_false, hcheck, hread]
    exact if_neg (mt hstays.mp hgo)
  · simp only [hagree, ne_eq, not_true, if_false, hcheck, hread]
    exact if_pos (hstays.mpr hstay)

end

theorem laneWait : Sys2Proof.Rules.LaneWait := by
  intro f s e qs a core slot g w timeout r
  refine ⟨fun hdissent => ?uniformity,
    fun hagree hcheck => ⟨fun hread => ⟨fun hgo => ?delivers, fun heq hlit hwoken => ?sleeps⟩,
    fun hpeer hask h => ?asks⟩, fun hg hsleep hwatch hover hctx => ?wakes⟩
  case uniformity => exact traps_of (Eq.refl (execWaitw f s)) fun _ => if_pos hdissent
  case delivers =>
    refine (waitw_read hagree hcheck hread).1 fun hstay => ?_
    obtain ⟨hwoken, heq, hlit⟩ := hstay
    exact hgo.elim (· heq) fun hgo => hgo.elim hlit hwoken
  case sleeps => exact (waitw_read hagree hcheck hread).2 ⟨by simp [hwoken], heq, hlit⟩
  case asks =>
    refine (Eq.refl (execWaitw f s)).trans ((runLane_stops (r := .sleepWord { beginWait (issued s e qs) e.core a
      (f.lit.map BitVec.toNat) with asked := some (issued s e qs).fresh, woken := wokenOn e.g.ln.watch }
        (readX (issued s e qs) e.core 2 a 8 600).state) h ?_).trans rfl)
    simp only [hagree, ne_eq, not_true, if_false, hcheck, waitRead_of_unasked _ _ hpeer hask]
  case wakes =>
    refine (Eq.refl (execWaitwWake core slot timeout s)).trans ?_
    simp only [execWaitwWake, hg, hsleep, hwatch]
    exact if_pos ⟨hover, hctx⟩

/-! ## Waits of a count of array cycles (R181) -/

theorem waitPassed_iff {s : State} {core n t : Nat} {g : Group} (hstate : g.ln.state = .sleeping)
    (hsleep : g.ln.sleep = some (.ac n t)) :
    waitPassed s core g = true ↔ ¬ ((ctxOf s g.ctx).state = .faulted ∨ (coreOf s core).ac < t + n) := by
  simp [waitPassed, hstate, hsleep]

theorem waitEnds : Sys2Proof.Rules.WaitEnds := by
  intro core slot n t s g hg hstate hsleep
  refine (Eq.refl (execWaitExpire core slot s)).trans ?_
  simp only [execWaitExpire, wakeWait, hg, waitPassed_iff hstate hsleep, ite_not]

/-- Settles O33, by whether the word differs, equals or is still at its peer. -/
theorem laneWaits : Obligations.LaneWaits := ⟨laneWait, waitEnds⟩

end Sys2Proof.Proofs
end

section
/-!
SUPPORT and PROOFS of the statements about taking a trap: the record, what each stream keeps, and where it goes on.
-/
namespace Sys2Proof.Proofs

open Sys2Proof Sys2Proof.Machine Sys2Proof.Safety Sys2Proof.Laws

/-! ## Bytes read back -/

theorem readBytes_writeBytes (m : Memory) (a : Nat) (bs : List Byte) (h : Memory.wf m = true) :
    Memory.readBytes (Memory.writeBytes m a bs) a bs.length = bs := by
  induction bs generalizing m a with
  | nil => rfl
  | cons b bs ih =>
    have hwf := write_wf m a b h
    have hfirst : Memory.read (Memory.writeBytes (Memory.write m a b) (a + 1) bs) a = b := by
      rw [read_writeBytes_other _ _ _ hwf _ (by omega), read_write m a b h, if_pos rfl]
    rw [List.length_cons, Memory.readBytes, Memory.writeBytes, hfirst, ih _ _ hwf]

@[simp] theorem length_natToBytes (n x : Nat) : (natToBytes n x).length = n := by
  induction n generalizing x with
  | zero => rfl
  | succ n ih => rw [natToBytes, List.length_cons, ih]

theorem length_trapRecord (s : State) (core slot : Nat) (g : Group) (st : Stream) (t : Trap) (time : Nat) :
    (trapRecord s core slot g st t time).length = 64 := by
  simp only [trapRecord, List.length_append, length_natToBytes]

/-! ## The record (R104) -/

/-- The package in which a trap's record stands in its group's slot. -/
def recorded (s : State) (core slot : Nat) (g : Group) (st : Stream) (t : Trap) : State :=
  modCore s core (fun k =>
    { k with scratch := Memory.writeBytes k.scratch (trapSlot slot) (trapRecord s core slot g st t s.now) })

@[simp] theorem groupOf_recorded (s : State) (core slot : Nat) (g : Group) (st : Stream) (t : Trap) (n : Nat) :
    groupOf (recorded s core slot g st t) core n = groupOf s core n := by
  simp [recorded, groupOf]

/-- A group changed after its record was written leaves the record in place, and main memory. -/
theorem record_modGroup {s : State} {core slot : Nat} {g : Group} {st : Stream} {t : Trap} (hform : MemoryForm s)
    (f : Group → Group) :
    let s' := modGroup (recorded s core slot g st t) core slot f
    Memory.readBytes (coreOf s' core).scratch (trapSlot slot) 64 = trapRecord s core slot g st t s.now ∧
      s'.mem = s.mem := by
  obtain ⟨-, hscratch⟩ := hform
  have hcore := congrArg Core.scratch (coreOf_modGroup (recorded s core slot g st t) core slot f)
  refine ⟨?_, ?_⟩
  · rw [← length_trapRecord s core slot g st t s.now]
    refine (congrArg (Memory.readBytes · _ _) (hcore.trans ?_)).trans (readBytes_writeBytes _ _ _ (hscratch core))
    simp only [recorded, coreOf_modCore]
  · rw [modGroup_mem]; rfl

/-! ## The handler's entry (R103, R171, R249) -/

section
variable {s : State} {core slot : Nat} {g : Group} {t : Trap} (hg : groupOf s core slot = some g)
  (hlane : g.ln.handler = none) (hscalar : g.sc.handler = false) (hdump : t.code ≠ 0x0E) (hfatal : t.code ≠ 0x18)
include hg hlane hscalar hdump hfatal

/-- A lane trap that no other waits before, in a context with a lane handler. -/
theorem raiseTrap_lane (hfirst : g.ln.deferred = []) (hhandler : (ctxOf s g.ctx).hlane ≠ 0)
    (hbreak : ¬ (t.code = 0x14 ∧ (ctxOf s g.ctx).debug = true)) : raiseTrap s core slot .lane t =
      modLane (recorded s core slot g .lane t) core slot
        (fun l => enterLaneHandler l (ctxOf s g.ctx).hlane (t.mask.getD l.em)) := by
  have hfree : ¬ ((!inHandler g .lane) = true ∧
      (inHandler g (otherStream .lane) = true ∨ (!(waitingTraps g .lane).isEmpty) = true)) := by
    simp [inHandler, otherStream, waitingTraps, hscalar, hfirst]
  have henters : (ctxOf s g.ctx).hlane ≠ 0 ∧ (!inHandler g .lane) = true ∧ t.code ≠ 0x0E ∧ t.code ≠ 0x18 :=
    ⟨hhandler, by simp [inHandler, hlane], hdump, hfatal⟩
  simp only [raiseTrap, hg, if_neg hfree, takeTrap]
  exact (if_neg hbreak).trans (if_pos henters)

theorem raiseTrap_scalar (hfirst : g.sc.deferred = []) (hhandler : (ctxOf s g.ctx).hscal ≠ 0) (hbreak : t.code ≠ 0x14) :
    raiseTrap s core slot .scalar t = modScalar (recorded s core slot g .scalar t) core slot
      (fun z => { z with handler := true, rmark := some z.rstack.length, pc := (ctxOf s g.ctx).hscal }) := by
  have hfree : ¬ ((!inHandler g .scalar) = true ∧
      (inHandler g (otherStream .scalar) = true ∨ (!(waitingTraps g .scalar).isEmpty) = true)) := by
    simp [inHandler, otherStream, waitingTraps, hlane, hfirst]
  have henters : (ctxOf s g.ctx).hscal ≠ 0 ∧ (!inHandler g .scalar) = true ∧ t.code ≠ 0x0E ∧ t.code ≠ 0x18 :=
    ⟨hhandler, by simp [inHandler, hscalar], hdump, hfatal⟩
  simp only [raiseTrap, hg, if_neg hfree, takeTrap]
  exact (if_neg fun h => hbreak h.1).trans (if_pos henters)

end

theorem laneTrapEntry : Sys2Proof.Rules.LaneTrapEntry := by
  intro s core slot g t hform hg _ hlane hscalar hfirst hhandler hdump hfatal hbreak s' mask
  have hentry : s' = _ := raiseTrap_lane hg hlane hscalar hdump hfatal hfirst hhandler hbreak
  rw [hentry]
  refine ⟨⟨{ g with ln := enterLaneHandler g.ln (ctxOf s g.ctx).hlane (t.mask.getD g.ln.em) }, ?_, rfl, rfl, rfl, rfl, rfl,
    rfl, rfl, rfl, rfl⟩, record_modGroup hform _⟩
  rw [modLane, groupOf_modGroup, groupOf_recorded, hg]
  rfl

theorem scalarTrapEntry : Sys2Proof.Rules.ScalarTrapEntry := by
  intro s core slot g t hform hg _ hlane hscalar hfirst hhandler hdump hfatal hbreak s'
  have hentry : s' = _ := raiseTrap_scalar hg hlane hscalar hdump hfatal hfirst hhandler hbreak
  rw [hentry]
  refine ⟨?_, record_modGroup hform _⟩
  rw [modScalar, groupOf_modGroup, groupOf_recorded, hg]
  rfl

/-- Settles O21: the record stands before the stream enters its handler, and what enters is the stream alone. -/
theorem trapEntry : Obligations.TrapEntry := ⟨laneTrapEntry, scalarTrapEntry⟩

end Sys2Proof.Proofs
end

section
/-!
SUPPORT and PROOFS of the statements about host queues and the lives of kernels.
-/
namespace Sys2Proof.Proofs

open Sys2Proof Sys2Proof.Machine Sys2Proof.Safety Sys2Proof.Laws

/-! ## Which writes exposed a tail's records (R113) -/

section
variable {last t v : DWord} {size : Nat}

theorem shown_of_le (h : (t - last).toNat ≤ size) : shown last size t = (t - last).toNat := if_pos h

theorem add_ofNat_sub (last t : DWord) : last + BitVec.ofNat 64 (t - last).toNat = t := by
  rw [BitVec.ofNat_toNat, BitVec.setWidth_eq, BitVec.add_comm, BitVec.sub_add_cancel]

theorem toNat_sub_ne_zero (h : t ≠ last) : (t - last).toNat ≠ 0 := by
  bv_omega

/-- A write that shows some records, but no more than all newer ones, and before which none showed any. -/
theorem exposing_single {w least : Nat} (hle : (t - last).toNat ≤ size) (hleast : (t - last).toNat ≤ least)
    (ht : t ≠ last) : exposing last size least [(w, t)] = [(t, w)] := by
  simp only [exposing, shown_of_le hle, Nat.min_eq_right hleast, toNat_sub_ne_zero ht, if_false, List.nil_append,
    add_ofNat_sub]

theorem exposing_pair {w1 w2 : Nat} (hle : (t - last).toNat ≤ size) (ht : t ≠ last) (hv : v ≠ last)
    (hlt : (v - last).toNat < (t - last).toNat) :
    exposing last size (t - last).toNat [(w2, t), (w1, v)] = [(v, w1), (t, w2)] := by
  rw [exposing]
  simp only [shown_of_le hle, Nat.min_self, toNat_sub_ne_zero ht, if_false, add_ofNat_sub,
    exposing_single (Nat.le_of_lt (Nat.lt_of_lt_of_le hlt hle)) (Nat.le_of_lt hlt) hv]
  rfl

end

theorem exposures_single {s : State} {pa w : Nat} {q : HostQueue} {t : DWord} (hmem : isMemory pa = true)
    (hle : (t - q.last).toNat ≤ q.size) (ht : t ≠ q.last) (hstamps : mget s.stamps (pa / 8) [] = [(w, t)]) :
    exposures s pa q t = [(t, w)] := by
  simp only [exposures, hmem, if_true, hstamps, exposing_single hle (Nat.le_refl _) ht]

theorem exposures_pair {s : State} {pa w1 w2 : Nat} {q : HostQueue} {t v : DWord} (hmem : isMemory pa = true)
    (hle : (t - q.last).toNat ≤ q.size) (ht : t ≠ q.last) (hstamps : mget s.stamps (pa / 8) [] = [(w2, t), (w1, v)])
    (hpos : 0 < (v - q.last).toNat) (hlt : (v - q.last).toNat < (t - q.last).toNat) :
    exposures s pa q t = [(v, w1), (t, w2)] := by
  have hv : v ≠ q.last := fun h => by simp [h] at hpos
  simp only [exposures, hmem, if_true, hstamps, exposing_pair hle ht hv hlt]

theorem badTail_iff (q : HostQueue) (t : DWord) :
    badTail q t = true ↔ q.size < (t - q.head).toNat ∨ (t - q.head).toNat < (q.last - q.head).toNat := by
  simp only [badTail, Bool.or_eq_true, decide_eq_true_eq]

/-! ## Queues (R110 to R119) -/

section
variable {n die : Nat} {s : State} {q : HostQueue} {x h : Xlat}

/-- A scheduler goes the way that its check opens. -/
theorem unlessHeld_ok {a : AddrCheck} {ok : Xlat → Host.Outcome State Fault Refusal} {bad : Host.Outcome State Fault Refusal}
    (ha : a = .ok x) : unlessHeld s a ok bad = ok x := by rw [ha]; rfl

theorem unlessHeld_access {a : AddrCheck} {ok : Xlat → Host.Outcome State Fault Refusal}
    {bad : Host.Outcome State Fault Refusal} (ha : a = .access) : unlessHeld s a ok bad = bad := by rw [ha]; rfl

/-- A watched tail whose word has been read. -/
theorem queueTailWrite_read (hq : mget? s.queues n = some q) (hwatched : watched q = true)
    (htail : unitCheck s q.die q.ctx q.tailAddr.toNat 8 .read = .ok x) :
    let r := unitRead s q.die x 8 64
    let t := bytesDword r.bytes
    exec (.queueTailWrite n) s =
      if t = q.last then .next r.state
      else if badTail q t then .next (haltQueue r.state n 6 t.toNat)
      else .next (modHostQueue r.state n (takeTail t (exposures s x.pa q t) r.sigs)) := by
  refine (Eq.refl (execQueueTailWrite n s)).trans ?_
  simp only [execQueueTailWrite, hq, hwatched, if_true, unlessHeld_ok htail]

theorem queueTailWrite_fails (hq : mget? s.queues n = some q) (hwatched : watched q = true)
    (htail : unitCheck s q.die q.ctx q.tailAddr.toNat 8 .read = .access) :
    exec (.queueTailWrite n) s = .next (haltQueue s n 7 q.tailAddr.toNat) := by
  refine (Eq.refl (execQueueTailWrite n s)).trans ?_
  simp only [execQueueTailWrite, hq, hwatched, if_true, unlessHeld_access htail]

/-- A scheduler that has taken up a queue reads its record. -/
theorem recordRead_dispatching (hd : dispatchingOn s die = some (n, q)) : exec (.recordRead die) s = readRecord s n q := by
  refine (Eq.refl (execRecordRead die s)).trans ?_
  simp only [execRecordRead, hd]

theorem readRecord_ok (howes : unitOwes s q.die = false)
    (hslot : unitCheck s q.die q.ctx (q.ring.toNat + 256 * (q.head.toNat % q.size)) 256 .read = .ok x)
    (hhead : unitCheck s q.die q.ctx q.headAddr.toNat 8 .write = .ok h) :
    let r := unitRead s q.die x 256 65
    readRecord s n q =
      .next (acceptRecord (unitStore r.state q.die h (dwordBytes 8 (q.head + 1)) (exposure q).2) n q r.bytes) := by
  simp only [readRecord, howes, Bool.false_eq_true, if_false, unlessHeld_ok hslot, unlessHeld_ok hhead]

theorem readRecord_fails (howes : unitOwes s q.die = false)
    (hslot : unitCheck s q.die q.ctx (q.ring.toNat + 256 * (q.head.toNat % q.size)) 256 .read = .access) :
    readRecord s n q = .next (haltQueue s n 7 (q.ring.toNat + 256 * (q.head.toNat % q.size))) := by
  simp only [readRecord, howes, Bool.false_eq_true, if_false, unlessHeld_access hslot]

end

theorem hostQueues : Sys2Proof.Rules.HostQueues := by
  intro n die w1 w2 s q x h v rest
  refine ⟨fun hq hwatched => ⟨fun htail => ⟨fun hsame => ?same, fun hnew hbad => ?bad, fun hnew hgood => ?good⟩,
      fun htail => queueTailWrite_fails hq hwatched htail⟩,
    fun hmem hle hne => ⟨exposures_single hmem hle hne, exposures_pair hmem hle hne⟩,
    fun hfree hbest => ?takes, fun hd howes => ?owes,
    fun hd howes => ⟨fun hslot hhead => ?reads, fun hslot => ?fails⟩, badTail_iff _ _⟩
  case same => rw [queueTailWrite_read hq hwatched htail]; exact if_pos hsame
  case bad => rw [queueTailWrite_read hq hwatched htail]; exact (if_neg hnew).trans (if_pos hbad)
  case good =>
    rw [queueTailWrite_read hq hwatched htail]
    exact (if_neg hnew).trans (if_neg (Bool.eq_false_iff.mp hgood))
  case takes =>
    refine (Eq.refl (execRecordRead die s)).trans ?_
    simp only [execRecordRead, hfree, hbest]
  case owes => rw [recordRead_dispatching hd, readRecord, if_pos howes]
  case reads => rw [recordRead_dispatching hd]; exact readRecord_ok howes hslot hhead
  case fails => rw [recordRead_dispatching hd]; exact readRecord_fails howes hslot

/-! ## Kernels (R127, R128, R130) -/

section
variable {n : Nat} {s : State} {k : Kernel}

/-- The queue that a kernel was read from, as its fault's event names it (R489). -/
def queueNumber (k : Kernel) : Nat := (k.queue.map Prod.fst).getD 0xFFFF

/-- A retiring kernel of which nothing is out goes on to its flag. -/
theorem kernelComplete_flag (hk : mget? s.kernels n = some k) (hst : k.state = .retiring)
    (hcmds : commandsOut s k = false) (hpeers : peersOwe s k = false)
    (hclear : ∀ e ∈ s.cores, releaseWaits s e.1 .package = false) :
    let f := flushAll s
    exec (.kernelComplete n) s =
      if k.record.flag = 0 ∨ k.flagged = true then .next (endKernel f.2 n .done f.1)
      else if unitOwes f.2 k.die = true then .next f.2
      else unlessHeld f.2 (unitCheck f.2 k.die k.ctx k.record.flag.toNat 8 .write)
        (fun x => .next (writeFlag f.2 n k x f.1))
        (.next (endKernel (post f.2 k.die 0x09 9 0
          [k.ctx, queueNumber k, k.seq, k.record.flag.toNat]) n .faulted [])) := by
  have hclear : (s.cores.any fun c => releaseWaits s c.1 .package) = false := by simpa using hclear
  refine (Eq.refl (execKernelComplete n s)).trans ?_
  simp only [execKernelComplete, hk, hst, hcmds, hpeers, hclear, ne_eq, not_true, Bool.false_eq_true, or_self, if_false,
    queueNumber]
  cases k.queue <;> rfl

/-- A flag still to be written, by a scheduler that owes no peer a write. -/
theorem kernelComplete_unset (hk : mget? s.kernels n = some k) (hst : k.state = .retiring)
    (hcmds : commandsOut s k = false) (hpeers : peersOwe s k = false)
    (hclear : ∀ e ∈ s.cores, releaseWaits s e.1 .package = false) (hflag : k.record.flag ≠ 0) (hunset : k.flagged = false)
    (howes : unitOwes (flushAll s).2 k.die = false) :
    let f := flushAll s
    exec (.kernelComplete n) s = unlessHeld f.2 (unitCheck f.2 k.die k.ctx k.record.flag.toNat 8 .write)
        (fun x => .next (writeFlag f.2 n k x f.1))
        (.next (endKernel (post f.2 k.die 0x09 9 0
          [k.ctx, queueNumber k, k.seq, k.record.flag.toNat]) n .faulted [])) := by
  have hopen : ¬ (k.record.flag = 0 ∨ k.flagged = true) := not_or.mpr ⟨hflag, Bool.eq_false_iff.mp hunset⟩
  exact (kernelComplete_flag hk hst hcmds hpeers hclear).trans
    ((if_neg hopen).trans (if_neg (Bool.eq_false_iff.mp howes)))

theorem kernelComplete_waits (hk : mget? s.kernels n = some k) (hout : commandsOut s k = true ∨ peersOwe s k = true) :
    exec (.kernelComplete n) s = .next s := by
  refine (Eq.refl (execKernelComplete n s)).trans ?_
  simp only [execKernelComplete, hk]
  exact if_pos (.inr (hout.imp_right .inl))

theorem writeFlag_home {x : Xlat} {sigs : List Sig} (hx : isAperture x.pa = false) : writeFlag s n k x sigs =
    endKernel (actFor (kernelGid k)
      (fun s => unitStore s k.die x (dwordBytes 8 k.record.value) (joinSigs k.sigs sigs)) s) n .done sigs := by
  simp only [writeFlag, hx, Bool.false_eq_true, if_false]

theorem writeFlag_peer {x : Xlat} {sigs : List Sig} (hx : isAperture x.pa = true) : writeFlag s n k x sigs =
    modKernel (actFor (kernelGid k)
      (fun s => unitStore s k.die x (dwordBytes 8 k.record.value) (joinSigs k.sigs sigs)) s) n
      (fun k => { k with flagged := true }) := by
  simp only [writeFlag, hx, if_true]

theorem kernelDeclare_declared (hk : mget? s.kernels n = some k) (hst : k.state = .declared) :
    exec (.kernelDeclare n) s = .next (settleLaunch
      (if dependences s k = [] then makeReady s n
        else modKernel s n (fun x => { x with state := .waiting, deps := dependences s k })) k) := by
  refine (Eq.refl (execKernelDeclare n s)).trans ?_
  simp only [execKernelDeclare, hk, hst, if_true, List.isEmpty_iff]

theorem finishTeardown_of_tearing {ctx tag : Nat} {c : Context} (hc : mget? s.ctxs ctx = some c)
    (htag : c.tearing = some tag) : finishTeardown s ctx = post (modCtx (settleInvals { discardCommands s ctx with
      logging := s.logging.filter (fun w => decide (w.ctx ≠ ctx)), outgoing := s.outgoing.filter (fun o => !ownedBy ctx o) })
      ctx (fun c => { c with tearing := none })) 0 0x0A 0 tag [ctx] := by
  simp only [finishTeardown, hc, htag, Option.bind_some]

end

theorem kernels : Sys2Proof.Rules.Kernels := by
  intro n ctx tag s k x c
  refine ⟨fun hk hst => kernelDeclare_declared hk hst,
    fun hk hst hcmds hpeers hclear => ⟨fun hdone => ?done,
      fun hflag hunset howes => ⟨fun hcheck hhome => ?home, fun hcheck hpeer => ?peer, fun hcheck => ?fails⟩⟩,
    fun hk hout => kernelComplete_waits hk hout, fun hout => ?tearing, fun hc htag hpeers => ?gone⟩
  case done => rw [kernelComplete_flag hk hst hcmds hpeers hclear]; exact if_pos hdone
  case home =>
    rw [kernelComplete_unset hk hst hcmds hpeers hclear hflag hunset howes]
    exact (unlessHeld_ok hcheck).trans (congrArg _ (writeFlag_home hhome))
  case peer =>
    rw [kernelComplete_unset hk hst hcmds hpeers hclear hflag hunset howes]
    exact (unlessHeld_ok hcheck).trans (congrArg _ (writeFlag_peer hpeer))
  case fails =>
    rw [kernelComplete_unset hk hst hcmds hpeers hclear hflag hunset howes]
    refine (unlessHeld_access hcheck).trans ?_
    unfold queueNumber
    cases k.queue <;> rfl
  case tearing =>
    refine (Eq.refl (execCxTeardownDone ctx s)).trans ?_
    simp only [execCxTeardownDone, hout, if_true]
  case gone =>
    rw [← finishTeardown_of_tearing hc htag]
    refine (Eq.refl (execCxTeardownDone ctx s)).trans ?_
    simp only [execCxTeardownDone, hpeers, Bool.false_eq_true, if_false]

/-- Settles O54: each step goes by the check of the word that it reads or writes. -/
theorem hostKernels : Obligations.HostKernels := ⟨hostQueues, kernels⟩

end Sys2Proof.Proofs
end

section
/-!
SUPPORT and PROOFS of the statements about the power steps, the gates of quads, and the start.
-/
namespace Sys2Proof.Proofs

open Sys2Proof Sys2Proof.Machine Sys2Proof.Safety Sys2Proof.Laws

/-! ## A holm's ac (R416 to R418) -/

section
variable {n : Nat} {moving : BitVec 8} {nj : BitVec 64} {s : State}

theorem holmBalance_gated (hn : n < 128)
    (hgated : (quadNo s (2 * n)).state = .gated ∨ (quadNo s (2 * n + 1)).state = .gated) :
    exec (.holmBalance n moving nj) s = .next (offerHolm s n [] false) :=
  (Eq.refl (execHolmBalance n moving nj s)).trans ((if_neg (Nat.not_le.mpr hn)).trans (if_pos hgated))

/-- The estimates of a holm's layers after its balancing idles (R416, R417). -/
def afterIdles (s : State) (moving : BitVec 8) (n : Nat) : Balance :=
  balanceIdles (decide (layerDraw s moving (2 * n) < layerDraw s moving (2 * n + 1))) 8
    ⟨layerDraw s moving (2 * n), layerDraw s moving (2 * n + 1), (List.range 8).map (fun i => proposedLane s (8 * n + i)), []⟩

/-- The shunt that balances estimates (R417). -/
def shuntOf (b : Balance) : Nat := if balanced b.lo b.up then 0 else shuntFor b.lo b.up

theorem holmAfter_eq (s : State) (moving : BitVec 8) (n : Nat) :
    holmAfter s moving n = (afterIdles s moving n, shuntOf (afterIdles s moving n)) := rfl

/-- The heavier layer. -/
def heavier (n : Nat) (b : Balance) : Nat := 2 * n + (if b.lo < b.up then 1 else 0)

/-- A holm's opportunities offered, and the shunt's energy charged where there is one (R418). -/
def offeredAndCharged (s : State) (n : Nat) (b : Balance) (nj : BitVec 64) : State :=
  let t := offerHolm s n b.cancelled (decide (0 < shuntOf b))
  if 0 < shuntOf b then chargeShunt t nj (quadContexts s (heavier n b)) else t

/-- An ac of a holm with no gated quad: in balance, or with a pass demand on the heavier layer. -/
theorem holmBalance_open (hn : n < 128)
    (hopen : ¬ ((quadNo s (2 * n)).state = .gated ∨ (quadNo s (2 * n + 1)).state = .gated)) :
    let b := afterIdles s moving n
    exec (.holmBalance n moving nj) s =
      if balanced (max b.lo b.up) (min b.lo b.up + 4 * shuntOf b) = true then .next (offeredAndCharged s n b nj)
      else .next (modQuad (offeredAndCharged s n b nj) (heavier n b)
        (fun q => { q with balance := if q.balance < 2 then 2 else 4 })) := by
  refine (Eq.refl (execHolmBalance n moving nj s)).trans ?_
  unfold execHolmBalance
  rw [if_neg (Nat.not_le.mpr hn), if_neg hopen, holmAfter_eq]
  rfl

end

/-- What a core is offered in an ac (R141, R417). -/
theorem coreOf_offerAc (s : State) (n : Nat) (cancel shunt : Bool) : coreOf (offerAc s n cancel shunt) n =
    coreBalanced cancel shunt (coreOffered (if cancel then [] else (laneProposals s n).map (fun g => g.1))
      ((scalarProposals s n).map (fun g => g.1)) ((coreOf s n).drawing.isEmpty && !cancel) (coreOf s n)) := by
  rw [offerAc, coreOf_modCore]

/-! ## Rails (R422 to R424) -/

section
variable {r : RailLayer} {goal : Nat} {voters : List Nat}

theorem voterLost_iff (r : RailLayer) (voters : List Nat) :
    (r.voters.any fun p => !voters.contains p) = true ↔ ∃ p ∈ r.voters, p ∉ voters := by
  simp

/-- A target that rises ends a hold. -/
theorem railSeen_rising (h : r.target < goal) : (railSeen goal voters r).hold = false := by
  simp only [railSeen, h, if_true]

/-- A target that falls below the level, with a voter gone, holds the layer. -/
theorem railSeen_lost (hfall : goal < r.target) (hlevel : goal < r.level) (hlost : ∃ p ∈ r.voters, p ∉ voters) :
    (railSeen goal voters r).hold = true := by
  simp only [railSeen, Nat.not_lt.mpr (Nat.le_of_lt hfall), if_false, (voterLost_iff r voters).mpr hlost, hfall, hlevel,
    decide_true, Bool.true_or, Bool.and_self, if_true]

/-- One that falls with every voter there leaves a hold as it is. -/
theorem railSeen_kept (hfall : goal < r.target) (hkept : ¬ ∃ p ∈ r.voters, p ∉ voters) :
    (railSeen goal voters r).hold = r.hold ∧ (railSeen goal voters r).stopped = false := by
  have hlost : (r.voters.any fun p => !voters.contains p) = false :=
    Bool.eq_false_iff.mpr (mt (voterLost_iff r voters).mp hkept)
  simp only [railSeen, Nat.not_lt.mpr (Nat.le_of_lt hfall), if_false, hlost, Bool.false_and, Bool.false_eq_true, hfall,
    if_true, and_self]

end

theorem powerEvents : Sys2Proof.Rules.PowerEvents := by
  intro n ctx upper t0 t1 moving nj s x slot goal was o more r voters cancel shunt
  refine ⟨fun hn hgated => holmBalance_gated hn hgated, ?offered,
    fun hn hopen => ⟨fun hbalance => ?balanced, fun hheavy => ?demand⟩,
    fun hpass hover howner => ?burst, fun hn => ⟨?burstEnds, ?balanceEnds, fun hcool => ?thermalEnds⟩, ?onset, ?hintEnds,
    fun hn => ⟨?rail, ?railHold⟩, fun htarget => ?seen, fun hn => ?banks, ?energy, fun hn => ?level,
    fun hn hcool hhot => ?hot⟩
  case offered =>
    rw [coreOf_offerAc]
    simp only [coreBalanced, coreOffered, Bool.and_eq_true, List.isEmpty_iff, Bool.not_eq_true']
  case balanced =>
    rw [holmBalance_open hn hopen]
    exact if_pos hbalance
  case demand =>
    rw [holmBalance_open hn hopen]
    exact if_neg (Bool.eq_false_iff.mp hheavy)
  case burst =>
    refine (Eq.refl (execUndeclaredBurst n s)).trans ?_
    simp only [execUndeclaredBurst, hpass, Nat.not_le.mpr hover, howner, if_false, List.head?_cons]
  case burstEnds => exact (Eq.refl (execPassDemandExpiry n .burst s)).trans (if_neg (Nat.not_le.mpr hn))
  case balanceEnds => exact (Eq.refl (execPassDemandExpiry n .balance s)).trans (if_neg (Nat.not_le.mpr hn))
  case thermalEnds =>
    refine (Eq.refl (execPassDemandExpiry n .thermal s)).trans ((if_neg (Nat.not_le.mpr hn)).trans ?_)
    simp only [hcool, Bool.false_eq_true, if_false]
  case onset => rfl
  case hintEnds => rfl
  case rail => exact (Eq.refl (execRailStep n upper s)).trans (if_neg (Nat.not_le.mpr hn))
  case railHold => exact (Eq.refl (execRailHoldExpiry n upper s)).trans (if_neg (Nat.not_le.mpr hn))
  case seen =>
    subst htarget
    exact ⟨rfl, rfl, railSeen_rising, fun hfall hlevel => ⟨railSeen_lost hfall hlevel, railSeen_kept hfall⟩⟩
  case banks => exact (Eq.refl (execBankTempCompare n t0 t1 s)).trans (if_neg (Nat.not_le.mpr hn))
  case energy => rfl
  case level => exact (Eq.refl (execThermalLevelChange n t0 s)).trans (if_neg (Nat.not_le.mpr hn))
  case hot =>
    refine (Eq.refl (execStackThermalDemand n t0 s)).trans ((if_neg (Nat.not_le.mpr hn)).trans ?_)
    simp only [hcool, hhot, decide_true, Bool.true_or, Bool.true_eq_false, if_false]

/-! ## Gates of quads (R427, R428) -/

theorem quads_ringPlace (e : Event) (fuel n : Nat) (s : State) : (ringPlace e fuel n s).2.quads = s.quads := by
  induction fuel generalizing n s with
  | zero => rfl
  | succ fuel ih =>
    rw [ringPlace]
    split
    · rw [ih, epWrite_quads]
    · rfl

theorem quads_ringWrite (s : State) (e : Event) : (ringWrite s e).quads = s.quads := by
  rw [ringWrite, epWrite_quads, epWrite_quads, quads_ringPlace]

theorem quads_foldl {α : Type} {f : State → α → State} (hf : ∀ s x, (f s x).quads = s.quads) (l : List α) (s : State) :
    (l.foldl f s).quads = s.quads := by
  induction l generalizing s with
  | nil => rfl
  | cons x l ih => exact (ih (f s x)).trans (hf s x)

/-- An event changes the ring and what its die holds back (R471). -/
theorem quads_post (s : State) (d kind status tag : Nat) (ws : List Nat) :
    (post s d kind status tag ws).quads = s.quads := by
  simp only [post, postEvent, apply_ite State.quads, quads_foldl quads_ringWrite, modDie_quads, epWrite_quads, ite_self]

theorem quads_setLink (s : State) (id : Nat) (st : LinkState) : (setLink s id st).quads = s.quads := by
  unfold setLink
  split
  · rfl
  · cases st <;> simp only [quads_post, modLink_quads]

theorem quads_sendBootFails (s : State) : (sendBootFails s).quads = s.quads := by
  unfold sendBootFails
  dsimp only
  split <;> rfl

theorem quads_linkTrained (s : State) (id : Nat) (full : Bool) : (linkTrained s id full).quads = s.quads := by
  simp only [linkTrained, apply_ite State.quads, quads_setLink, quads_sendBootFails, modLink_quads, ite_self]

/-- A narrows that trains comes up (R378). -/
theorem quads_calibrated (s : State) (id : Nat) :
    (if (linkOf s id).state = .training then linkTrained s id true else s).quads = s.quads := by
  split
  · exact quads_linkTrained s id true
  · rfl

theorem quadNo_congr {s t : State} (h : t.quads = s.quads) (q : Nat) : quadNo t q = quadNo s q := by
  rw [quadNo, quadNo, h]

theorem quadGates : Sys2Proof.Rules.QuadGates := by
  intro q s hq tag down up woken
  have hdown : (quadNo down q).tag = tag :=
    congrArg Quad.tag (quadNo_congr (quads_foldl (fun t id => quads_setLink t id .down) _ s) q)
  have hup : (quadNo up q).tag = tag :=
    congrArg Quad.tag (quadNo_congr (quads_foldl quads_calibrated _ s) q)
  refine ⟨fun hst hclose => ?close, fun hst => ?wake⟩
  case close =>
    refine (Eq.refl (execQuadGateClose q s)).trans ((if_pos ⟨hq, hst, hclose⟩).trans ?_)
    rw [← hdown]
  case wake =>
    refine (Eq.refl (execQuadWakeDone q s)).trans ((if_pos ⟨hq, hst⟩).trans ?_)
    simp only [woken]
    rw [← hup]
    rfl

/-! ## The start (R461 to R471) -/

theorem any_ports_iff (s : State) : ports.any (linkUp s) = true ↔ ∃ p < 8, linkUp s (portLink p) = true := by
  simp [ports]

/-- The steps that the end of each of these steps begins (R461). -/
theorem stepDone_cases (s : State) : stepDone s 2 = enterStep s 3 ∧ stepDone s 3 = enterStep (saveTraining s) 4 ∧
    stepDone s 4 = enterStep s 5 ∧ stepDone s 5 = enterStep s 6 ∧ stepDone s 7 = grendexStarts s := by
  simp [stepDone]

theorem startEvents : Sys2Proof.Rules.StartEvents := by
  intro n why img s m peer addr count
  refine ⟨?power, fun hstep => ⟨?stepFails, fun hready => ?stepDone⟩, stepDone_cases s,
    fun hdown => ⟨?fetchWaits, ?sinkWaits⟩, fun hstep hup => ?fetch, fun hrec hlisten h2 h3 => ?recovery,
    fun hquote => ?quote, fun hsink hup hlast => ?sink, fun hrun hup => ?consumed⟩
  case power => rfl
  case stepFails =>
    refine (Eq.refl (execStartStepDone (some why) s)).trans ?_
    simp only [execStartStepDone, hstep]
  case stepDone =>
    refine (Eq.refl (execStartStepDone none s)).trans ?_
    simp only [execStartStepDone, hstep, hready, if_true]
  case fetchWaits => exact (Eq.refl (execImageFetch img s)).trans (if_neg (by simp [hdown]))
  case sinkWaits =>
    refine (Eq.refl (execEventSinkUpdate s)).trans ?_
    unfold execEventSinkUpdate
    split
    · rfl
    · exact if_pos (.inl (by simp [hdown]))
  case fetch =>
    refine (Eq.refl (execImageFetch img s)).trans ((if_pos ⟨hstep, hup⟩).trans ?_)
    cases imageFailure img <;> rfl
  case recovery =>
    have hn : recoveryStep s = some n := by simp only [recoveryStep, hrec]
    refine (Eq.refl (execRecoveryImage img s)).trans ?_
    simp only [execRecoveryImage, hn, hlisten, h2, h3, Bool.not_true, Bool.false_eq_true, or_self, if_false]
    cases imageFailure img <;> rfl
  case quote =>
    refine (Eq.refl (execQuoteSigned s)).trans ?_
    simp only [execQuoteSigned, hquote]
  case sink =>
    refine (Eq.refl (execEventSinkUpdate s)).trans ?_
    simp only [execEventSinkUpdate, hsink]
    refine if_neg fun hwait => ?_
    rcases hwait with hno | hrecent
    · simp [hup] at hno
    · cases hw : s.fw.sinkOut.getLast? with
      | none => simp [hw] at hrecent
      | some w =>
        obtain ⟨hcount, htime⟩ := hlast w hw
        simp [hw, hcount, sinkGap, Nat.not_lt.mpr htime] at hrecent
  case consumed => exact congrArg Host.Outcome.next (if_pos ⟨hrun, (any_ports_iff s).mpr hup⟩)

/-- Settles O56: each step's own case, with what its inner updates leave of the quads. -/
theorem powerAndStart : Obligations.PowerAndStart := ⟨powerEvents, quadGates, startEvents⟩

end Sys2Proof.Proofs
end

section
/-!
SUPPORT and PROOFS of the statements about caches by themselves, links, and RMA operations that arrive from the fabric.
-/
namespace Sys2Proof.Proofs

open Sys2Proof Sys2Proof.Machine Sys2Proof.Laws

/-! ## Walks, errors and evictions (R345, R351, R392) -/

section
variable {core ctx va pa line : Nat} {s : State}

/-- What the package tells of an uncorrectable error, with whether its frame has been listed now (R351, R472). -/
def toldUncorrectable (s : State) (pa : Nat) (reader : Reader) (n : Nat) : State :=
  post (raiseUncorrectable s (frameDie pa) pa reader) (frameDie pa) 0x05 0 0 [(readerCtx s reader).getD 0xFFFF, pa, n]

/-- A die has room on its poison list for the frame of an address, which the list does not hold yet. -/
def listsFrame (s : State) (pa : Nat) : Bool :=
  !(dieRec s (frameDie pa)).poison.contains (pa / 8192) && decide ((dieRec s (frameDie pa)).poison.length < 1024)

theorem listsFrame_iff : listsFrame s pa = true ↔
    pa / 8192 ∉ (dieRec s (frameDie pa)).poison ∧ (dieRec s (frameDie pa)).poison.length < 1024 := by
  rw [listsFrame, Bool.and_eq_true, decide_eq_true_eq, Bool.not_eq_true', ← Bool.not_eq_true, List.contains_iff_mem]

theorem tableWalk_leaf {level leaf : Nat} {sigs : List Sig} (hctx : (mget? s.ctxs ctx).isSome = true) (hva : va < 2 ^ 48)
    (hwalk : walkOn s (dieOf core) ctx va = .leaf level leaf sigs) :
    let d := dieOf core
    let t : Translation := ⟨ctx, va / pageSize level * pageSize level, level, BitVec.ofNat 64 leaf⟩
    let start := walkStart s d ctx va
    let ps := (pointersFrom s va (5 - start.1) start.1 start.2).map (fun p => (ctx, walkKey p.1 va, p.2))
    exec (.tableWalk core ctx va) s = .next (modStack
      (modCore (acquireDrop s core .package sigs) core (fun k => { k with tlb := cacheLeaf 64 t k.tlb })) d (fun k => { k with
        tlb := cacheLeaf 4096 t k.tlb,
        walk := ps ++ k.walk.filter (fun w => !ps.any (fun p => decide (p.1 = w.1 ∧ p.2.1 = w.2.1))) })) := by
  refine (Eq.refl (execTableWalk core ctx va s)).trans ?_
  have hgo : ¬ ((mget? s.ctxs ctx).isNone = true ∨ 2 ^ 48 ≤ va) := by
    rw [Option.isNone_iff_eq_none, not_or]
    exact ⟨Option.isSome_iff_ne_none.mp hctx, Nat.not_le.mpr hva⟩
  rw [execTableWalk, if_neg hgo]
  simp only [hwalk]
  rfl

theorem uncorrectableError_in_memory {reader : Reader} (hpa : pa < hbmTop) :
    exec (.uncorrectableError pa reader) s = .next (toldUncorrectable (if listsFrame s pa then
      dropFrame (modDie s (frameDie pa) (fun x => { x with poison := x.poison ++ [pa / 8192] })) (pa / 8192) else s)
      pa reader (b2n (listsFrame s pa))) :=
  (Eq.refl (execUncorrectableError pa reader s)).trans (if_neg (Nat.not_le.mpr hpa))

theorem uncorrectableError_listed {reader : Reader} (hpa : pa < hbmTop) (hlists : listsFrame s pa = true) :
    exec (.uncorrectableError pa reader) s = .next (toldUncorrectable
      (dropFrame (modDie s (frameDie pa) (fun x => { x with poison := x.poison ++ [pa / 8192] })) (pa / 8192)) pa reader 1) := by
  rw [uncorrectableError_in_memory hpa, hlists]
  rfl

theorem uncorrectableError_unlisted {reader : Reader} (hpa : pa < hbmTop) (hlists : ¬ listsFrame s pa = true) :
    exec (.uncorrectableError pa reader) s = .next (toldUncorrectable s pa reader 0) := by
  rw [uncorrectableError_in_memory hpa, Bool.eq_false_iff.mpr hlists]
  rfl

/-- A clean line may leave its cache. -/
theorem mayEvict_of_clean {l2 : Bool}
    (h : (if l2 then dirtyLine (stackOf s (dieOf core)).l2 line else dirtyLine (coreOf s core).l1 line) = false) :
    mayEvict s core line l2 = true := by
  have hclean := congrArg not h
  cases l2 <;> exact Bool.or_eq_true_iff.mpr (.inl hclean)

/-- A dirty line stays in L2 while its way home is closed (R381). -/
theorem mayEvict_of_closed (hdirty : dirtyLine (stackOf s (dieOf core)).l2 line = true)
    (hclosed : pathsOpen s (dieOf core) (frameDie (128 * line)) = false) : mayEvict s core line true = false := by
  simp only [mayEvict, mayLeaveL2, hdirty, hclosed, if_true, Bool.not_true, Bool.or_self]

end

theorem cacheEvents : Sys2Proof.Rules.CacheEvents := by
  intro core ctx va level leaf pa line l2 s reader sigs d t start ps home frame adds listed told
  refine ⟨tableWalk_leaf, fun hpa => ⟨fun hadds => uncorrectableError_listed hpa (listsFrame_iff.mpr hadds),
      fun hfull => uncorrectableError_unlisted hpa (mt listsFrame_iff.mp hfull)⟩, ?copies, ?signatures,
    fun hmay => ?leaves, fun hmay => ?stays, mayEvict_of_clean, mayEvict_of_closed, ?fill⟩
  case copies => rfl
  case signatures =>
    refine (Eq.refl (execSignatureExpiry line s)).trans ?_
    simp only [execSignatureExpiry, List.isEmpty_iff]
  case leaves => exact (Eq.refl (execCacheEviction core line l2 s)).trans (if_pos hmay)
  case stays => exact (Eq.refl (execCacheEviction core line l2 s)).trans (if_neg (Bool.eq_false_iff.mp hmay))
  case fill => rfl

/-! ## Links (R377 to R384) -/

@[simp] theorem epWrite_fatal (s : State) (off : Nat) (bs : List Byte) : (epWrite s off bs).fw.fatal = s.fw.fatal := rfl

theorem fatal_ringPlace (e : Event) (fuel n : Nat) (s : State) : (ringPlace e fuel n s).2.fw.fatal = s.fw.fatal := by
  induction fuel generalizing n s with
  | zero => rfl
  | succ fuel ih =>
    rw [ringPlace]
    split
    · rw [ih, epWrite_fatal]
    · rfl

theorem fatal_ringWrite (s : State) (e : Event) : (ringWrite s e).fw.fatal = s.fw.fatal := by
  rw [ringWrite, epWrite_fatal, epWrite_fatal, fatal_ringPlace]

/-- Events do not open a mailbox that a fatal failure has closed, nor close it. -/
theorem fatal_post (s : State) (d kind status tag : Nat) (ws : List Nat) :
    (post s d kind status tag ws).fw.fatal = s.fw.fatal := by
  have hring (l : List Event) (t : State) : (l.foldl ringWrite t).fw.fatal = t.fw.fatal :=
    List.foldlRecOn (motive := fun u => u.fw.fatal = t.fw.fatal) l ringWrite rfl
      (fun u hu e _ => (fatal_ringWrite u e).trans hu)
  simp only [post, postEvent, apply_ite State.fw, apply_ite Firmware.fatal, hring, epWrite_fatal, modDie_fw, ite_self]

/-- A strait lost for good closes the mailbox (R379). -/
theorem fatal_linkFatal (s : State) (id : Nat) : (linkFatal s id).fw.fatal = true := by
  simp only [linkFatal, apply_ite State.fw, apply_ite Firmware.fatal, fatal_post, ite_self]

section
variable {id port : Nat} {s : State}

theorem linkTrainingFailed_of_training (hid : isLink id = true) (hkind : ¬ id / 1024 = 2)
    (hstate : (linkOf s id).state = .training) : exec (.linkTrainingFailed id) s =
      if (linkOf s id).attempts < 3 then .next (modLink s id (fun l => { l with attempts := l.attempts + 1 }))
      else .next (if id / 1024 = 0 then linkFatal (setLink s id .down) id else setLink s id .down) :=
  (Eq.refl (execLinkTrainingFailed id s)).trans (if_pos ⟨hid, hkind, hstate⟩)

theorem portRetry_of_down {ok : Bool} (hport : port < 8) (hboot : s.fw.boot = .recovery 4)
    (hdown : linkUp s (portLink port) = false) : exec (.portRetry port ok) s =
      .next (if ok then linkTrained (trainAtStart s (portLink port)) (portLink port) true
        else trainAtStart s (portLink port)) :=
  (Eq.refl (execPortRetry port ok s)).trans (if_pos ⟨hboot, hport, by rw [hdown]; rfl⟩)

end

theorem linkEvents : Sys2Proof.Rules.LinkEvents := by
  intro id port full s l wide narrows p trained comesUp hid
  refine ⟨fun hstate => ⟨?trained, fun hkind hfew => ?again, fun hkind hthree => ?down⟩, fatal_linkFatal s id,
    fun hup => ⟨fun hover => ?errors, fun hkind => ?replay⟩, fun hstate hempty => ?drained,
    fun hport => ⟨fun hup => ?refused, fun hdown => ?unheard, fun hboot hdown =>
      ⟨portRetry_of_down hport hboot hdown, portRetry_of_down hport hboot hdown⟩⟩⟩
  case trained => exact (Eq.refl (execLinkTrained id full s)).trans (if_pos ⟨hid, hstate⟩)
  case again => exact (linkTrainingFailed_of_training hid hkind hstate).trans (if_pos hfew)
  case down => exact (linkTrainingFailed_of_training hid hkind hstate).trans (if_neg (Nat.not_lt.mpr hthree))
  case errors => exact (Eq.refl (execLinkErrorsOverLimit id s)).trans (if_pos ⟨hid, hup, hover⟩)
  case replay => exact (Eq.refl (execFlitReplay id s)).trans (if_pos ⟨hid, hkind, .inl hup⟩)
  case drained => exact (Eq.refl (execLinkDrained id s)).trans (if_pos ⟨hid, hstate, hempty⟩)
  case refused => exact (Eq.refl (execUnsupportedDelivery port s)).trans (if_pos ⟨hport, hup⟩)
  case unheard =>
    exact (Eq.refl (execUnsupportedDelivery port s)).trans (if_neg fun h => Bool.eq_false_iff.mp hdown h.2)

/-! ## RMA operations (R121, R385) -/

section
variable {ctx port addr len : Nat} {bs : List Byte} {s : State} {o : RmaOp}

/-- An operation reaches the package by a port that is up, if it is no longer than a message (R384). -/
theorem atPort_up {body : State → State} (hup : linkUp s (portLink port) = true) (hlen : len ≤ 4 * 2 ^ 20) :
    atPort s port len body = .next (body s) := by
  simp only [atPort, hup, maxMessage, Nat.not_lt.mpr hlen, Bool.not_true, Bool.false_eq_true, if_false]

theorem rmaHeld_of_no_endpoint (hend : endpointAt s o.ctx o.port = false) : rmaHeld s o = false := by
  rw [rmaHeld, hend, Bool.false_and]

theorem rmaHeld_write (hend : endpointAt s ctx port = true) : rmaHeld s ⟨ctx, port, addr, .write bs⟩ =
    decide (rmaBar (rmaChecks s ctx port addr bs.length .write) = .held) := by
  simp only [rmaHeld, hend, Bool.true_and]

theorem rmaHeld_read (hend : endpointAt s ctx port = true) : rmaHeld s ⟨ctx, port, addr, .read len⟩ =
    decide (rmaBar (rmaChecks s ctx port addr len .read) = .held) := by
  simp only [rmaHeld, hend, Bool.true_and]

theorem rmaHeld_atomic {cas : Bool} {v cmp : DWord} (hend : endpointAt s ctx port = true) :
    rmaHeld s ⟨ctx, port, addr, .atomic cas v cmp⟩ = decide (unitCheck s (port / 2) ctx addr 8 .atomic = .held) := by
  simp only [rmaHeld, hend, Bool.true_and]

/-- What meets no held line, and follows no waiting operation of its delivery, is performed as it arrives. -/
theorem arriveRma_performed (hfree : rmaHeld s o = false) (hfirst : s.rma.any (sameDelivery o) = false) :
    arriveRma s o = performRma s o := by
  simp only [arriveRma, hfree, hfirst, Bool.false_eq_true, or_self, if_false]

theorem arriveRma_waits (h : rmaHeld s o = true ∨ s.rma.any (sameDelivery o) = true) :
    arriveRma s o = { s with rma := s.rma ++ [o] } := if_pos h

theorem performRma_of_no_endpoint (hend : endpointAt s o.ctx o.port = false) : performRma s o = reply s .error := by
  simp only [performRma, hend, Bool.not_false, if_true]

/-! An operation at a bound endpoint is performed as what it asks for. -/

theorem performRma_write (hend : endpointAt s ctx port = true) :
    performRma s ⟨ctx, port, addr, .write bs⟩ = rmaWrite s ⟨ctx, port, addr, .write bs⟩ bs := if_neg (by simp [hend])

theorem performRma_read (hend : endpointAt s ctx port = true) :
    performRma s ⟨ctx, port, addr, .read len⟩ = rmaRead s ⟨ctx, port, addr, .read len⟩ len := if_neg (by simp [hend])

theorem performRma_atomic {cas : Bool} {v cmp : DWord} (hend : endpointAt s ctx port = true) :
    performRma s ⟨ctx, port, addr, .atomic cas v cmp⟩ = rmaAtomic s ⟨ctx, port, addr, .atomic cas v cmp⟩ cas v cmp :=
  if_neg (by simp [hend])

/-- The first waiting operation goes first, once no line that it needs is held. -/
theorem nextRma_head {rest : List RmaOp} (hrma : s.rma = o :: rest) (hfree : rmaHeld s o = false) :
    nextRma s = some (performRma { s with rma := rest } o) := by
  have htake : takeRma s [] (o :: rest) = some (o, rest) := by
    simp only [takeRma, hfree, List.any_nil, Bool.false_eq_true, or_self, if_false, List.nil_append]
  rw [nextRma, hrma, htake]
  rfl

end

section
variable {ctx port addr len : Nat} {bs : List Byte} {s : State}
  (hup : linkUp s (portLink port) = true) (hend : endpointAt s ctx port = true)
include hup hend

/-- A write of which every part translates lands whole. -/
theorem rmaWrite_done (hlen : bs.length ≤ 4 * 2 ^ 20)
    (hfirst : s.rma.any (sameDelivery ⟨ctx, port, addr, .write bs⟩) = false)
    (hbar : rmaBar (rmaChecks s ctx port addr bs.length .write) = .none) :
    let wr := rmaChecks s ctx port addr bs.length .write
    let sigs := rmaSigs s ctx (rmaLines (rmaParts wr))
    exec (.rmaWrite (.context ctx) port addr bs) s =
      .next (reply (rmaStore (port / 2) sigs (fun _ => true) 0 wr bs (noteRma s ctx sigs)) .done) := by
  have hfree : rmaHeld s ⟨ctx, port, addr, .write bs⟩ = false := by rw [rmaHeld_write hend, hbar]; rfl
  refine (Eq.refl (execRmaWrite (.context ctx) port addr bs s)).trans ((atPort_up hup hlen).trans ?_)
  simp only [arriveRma_performed hfree hfirst, performRma_write hend, rmaWrite, hbar]

theorem rmaWrite_waits (hlen : bs.length ≤ 4 * 2 ^ 20)
    (hwait : ¬ s.rma.any (sameDelivery ⟨ctx, port, addr, .write bs⟩) = false ∨
      rmaBar (rmaChecks s ctx port addr bs.length .write) = .held) :
    exec (.rmaWrite (.context ctx) port addr bs) s = .next { s with rma := s.rma ++ [⟨ctx, port, addr, .write bs⟩] } := by
  have hbarred : rmaHeld s ⟨ctx, port, addr, .write bs⟩ = true ∨
      s.rma.any (sameDelivery ⟨ctx, port, addr, .write bs⟩) = true :=
    hwait.symm.imp (fun hbar => (rmaHeld_write hend).trans (decide_eq_true hbar)) (Bool.not_eq_false _).mp
  refine (Eq.refl (execRmaWrite (.context ctx) port addr bs s)).trans ((atPort_up hup hlen).trans ?_)
  exact congrArg Host.Outcome.next (arriveRma_waits hbarred)

/-- A read that no held line stops is performed as it arrives. -/
theorem rmaRead_arrives (hlen : len ≤ 4 * 2 ^ 20)
    (hfirst : s.rma.any (sameDelivery ⟨ctx, port, addr, .read len⟩) = false)
    (hbar : rmaBar (rmaChecks s ctx port addr len .read) ≠ .held) :
    exec (.rmaRead (.context ctx) port addr len) s = .next (rmaRead s ⟨ctx, port, addr, .read len⟩ len) := by
  have hfree : rmaHeld s ⟨ctx, port, addr, .read len⟩ = false := by rw [rmaHeld_read hend, decide_eq_false hbar]
  refine (Eq.refl (execRmaRead (.context ctx) port addr len s)).trans ((atPort_up hup hlen).trans ?_)
  exact congrArg Host.Outcome.next ((arriveRma_performed hfree hfirst).trans (performRma_read hend))

/-- An atomic whose word translates returns the old value, and stores the new one unless its comparison fails. -/
theorem rmaAtomic_done {cas : Bool} {v cmp : DWord} {x : Xlat}
    (hfirst : s.rma.any (sameDelivery ⟨ctx, port, addr, .atomic cas v cmp⟩) = false)
    (hcheck : unitCheck s (port / 2) ctx addr 8 .atomic = .ok x) :
    let r := unitRead s (port / 2) x 8 762
    let old := bytesDword r.bytes
    let sigs := rmaSigs s ctx (rmaLines [(x, 8)])
    let noted := noteRma r.state ctx sigs
    exec (.rmaAtomic ctx port addr cas v cmp) s = .next (reply (if cas = true ∧ old ≠ cmp then noted
      else unitStore noted (port / 2) x (dwordBytes 8 (if cas then v else old + v)) sigs) (.data r.bytes)) := by
  have hfree : rmaHeld s ⟨ctx, port, addr, .atomic cas v cmp⟩ = false := by rw [rmaHeld_atomic hend, hcheck]; rfl
  refine (Eq.refl (execRmaAtomic ctx port addr cas v cmp s)).trans ((atPort_up hup (by decide)).trans ?_)
  simp only [arriveRma_performed hfree hfirst, performRma_atomic hend, rmaAtomic, hcheck]

end

theorem rmaRead_whole {s : State} {o : RmaOp} {n : Nat} (hbar : rmaBar (rmaChecks s o.ctx o.port o.addr n .read) = .none) :
    let got := rmaLoad (o.port / 2) (rmaParts (rmaChecks s o.ctx o.port o.addr n .read)) s
    rmaRead s o n = reply got.2 (.data got.1) := by
  simp only [rmaRead, hbar]

theorem rmaRead_fails {s : State} {o : RmaOp} {n bad : Nat}
    (hbar : rmaBar (rmaChecks s o.ctx o.port o.addr n .read) = .fails bad) :
    rmaRead s o n = rmaError s o.ctx bad o.port := by
  simp only [rmaRead, hbar]

theorem rmaOperations : Sys2Proof.Rules.RmaOperations := by
  intro ctx port addr len bad bs cas v cmp s x o ask rest die up first wr rd sigs note got r old asigs
  refine ⟨fun hup hend => ⟨rmaWrite_done hup hend, rmaWrite_waits hup hend, fun hlen hfirst =>
      ⟨fun hbar => ?read, fun hbar => ?readFails⟩, rmaAtomic_done hup hend⟩, nextRma_head,
    fun hend hfirst => ?unbound, fun hup hrun => ⟨fun hlen => ?mailboxWrite, fun hlen => ?mailboxRead⟩⟩
  case read =>
    have hfree : rmaBar rd ≠ .held := by rw [hbar]; decide
    exact (rmaRead_arrives hup hend hlen hfirst hfree).trans (congrArg Host.Outcome.next (rmaRead_whole hbar))
  case readFails =>
    have hfree : rmaBar rd ≠ .held := by rw [hbar]; exact RmaBar.noConfusion
    exact (rmaRead_arrives hup hend hlen hfirst hfree).trans (congrArg Host.Outcome.next (rmaRead_fails hbar))
  case unbound =>
    exact (arriveRma_performed (rmaHeld_of_no_endpoint hend) hfirst).trans (performRma_of_no_endpoint hend)
  case mailboxWrite =>
    refine (Eq.refl (execRmaWrite .mailbox port addr bs s)).trans ((atPort_up hup hlen).trans ?_)
    exact congrArg Host.Outcome.next (if_pos hrun)
  case mailboxRead =>
    refine (Eq.refl (execRmaRead .mailbox port addr len s)).trans ((atPort_up hup hlen).trans ?_)
    exact congrArg Host.Outcome.next (if_pos hrun)

/-- Settles O55: each event by its condition; an RMA operation by whether it may be performed as it arrives. -/
theorem cachesAndLinks : Obligations.CachesAndLinks := ⟨cacheEvents, linkEvents, rmaOperations⟩

end Sys2Proof.Proofs
end

section
/-!
SUPPORT and PROOFS of the statements about launches from a kernel and about the kernels that one waits for.
-/
namespace Sys2Proof.Proofs

open Sys2Proof Sys2Proof.Machine Sys2Proof.Safety Sys2Proof.Laws

/-! ## Launches from a kernel (R134, R135, R136) -/

/-- The mask of a LAUNCH_REJECT: the first lane rejected and the others. -/
theorem maskOf_rejected (j : Nat) (more : List (Nat × Nat)) :
    maskOf (fun l => decide (l = j) || more.any (fun b => decide (b.1 = l))) =
      maskOf (fun l => decide (l ∈ j :: more.map (fun b => b.1))) := by
  refine congrArg maskOf (funext fun l => Bool.eq_iff_iff.mpr ?_)
  simp only [Bool.or_eq_true, decide_eq_true_eq, List.any_eq_true, List.mem_cons, List.mem_map]

section
variable {f : LaneForm} {s s1 : State} {e : Iss} {qs : List Queue} {rs : List (Nat × (List Byte ⊕ Nat))}

section
variable (hwindow : childWindow (issued s e qs) (dieOf e.core) + (lanesOf e.lanes).length ≤ 256)
    (hrelease : releaseWaits (issued s e qs) e.core .package = false)
    (hfetch : fetchRecords (releaseLane (issued s e qs) e.core e.slot .package e.g).2 e.core e.g.ctx
      ((lanesOf e.lanes).map (fun l => (l, src64 (issued s e qs) e (fieldAt e.x 1) l))) = .ok (rs, s1))
include hwindow hrelease hfetch

/-- A `klaunch` that has its child window and its release declares a child per record, if none is rejected. -/
theorem klaunch_completes (hvalid : rejected rs = []) :
    Completes (.klaunch f) s e qs (Done.later
      (declareChildren s1 e.core (issued s e qs).fresh e.g (releaseLane (issued s e qs) e.core e.slot .package e.g).1 rs)
      (pendingResult (issued s e qs) e .launch (write32 f.dst.toNat e.lanes
        (fun l => (ctxOf s1 e.g.ctx).seq.toNat + ((lanesOf e.lanes).filter (fun j => decide (j < l))).length)) 0)) := by
  refine completes_of (Eq.refl (execKlaunch f s)) fun _ => ?_
  simp only [Nat.not_lt.mpr hwindow, if_false, hrelease, Bool.false_eq_true, hfetch, hvalid]

/-- With a record rejected it declares none, and traps with the reason of the first. -/
theorem klaunch_traps {j n : Nat} {more : List (Nat × Nat)} (hbad : rejected rs = (j, n) :: more) :
    Traps (.klaunch f) s e qs
      ⟨0x17, n, maskOf (fun l => decide (l ∈ j :: more.map (fun b => b.1))), none, none⟩ := by
  refine traps_of (Eq.refl (execKlaunch f s)) fun _ => ?_
  simp only [Nat.not_lt.mpr hwindow, if_false, hrelease, Bool.false_eq_true, hfetch, hbad, maskOf_rejected, trapSub]

end

/-- A `kwait` whose children have all ended answers whether all of them are done. -/
theorem kwait_answers (hended : (childrenOf (issued s e qs) (gidOf e.g)).all ended = true) :
    Completes (.kwait f) s e qs { Done.pred (issued s e qs) f.dst.toNat (lanesBelow (widthG e.g))
      (if (childrenOf (issued s e qs) (gidOf e.g)).all (fun k => decide (k.state = .done)) then BitVec.allOnes 64 else 0) 0
      with lat := 1 } :=
  completes_of (Eq.refl (execKwait f s)) fun _ => if_pos hended

/-- One with a child that has not ended sleeps. -/
theorem kwait_sleeps (hended : (childrenOf (issued s e qs) (gidOf e.g)).all ended = false) :
    Completes (.kwait f) s e qs { Done.plain (modLane (issued s e qs) e.core e.slot (fun l =>
      { l with state := .sleeping, sleep := some .children })) with flow := .set } :=
  completes_of (Eq.refl (execKwait f s)) fun _ => if_neg (Bool.eq_false_iff.mp hended)

end

/-- Settles O47: `klaunch` by what its records hold, `kwait` by whether its children have ended. -/
theorem kernelLaunches : Obligations.KernelLaunches := by
  intro f s s1 e qs rs core slot g j n more s0 lanes rel num mine done
  refine ⟨fun hwindow hrelease hfetch =>
      ⟨klaunch_completes hwindow hrelease hfetch, klaunch_traps hwindow hrelease hfetch⟩,
    kwait_answers, kwait_sleeps, fun hg hsleep hstate hended hctx => ?wakes⟩
  case wakes =>
    refine (Eq.refl (execKwaitWake core slot s)).trans ?_
    simp only [execKwaitWake, hg]
    exact if_pos ⟨hsleep, hstate, hended, hctx⟩

/-! ## Bytes shared (R126) -/

/-- A byte is in one of the ranges. -/
def hasByte (l : List Range) (a : Nat) : Prop := ∃ r ∈ l, r.lo ≤ a ∧ a < r.hi

/-- Every range that a kernel's record declares holds a byte, as in a valid record (R123). -/
def soundRanges (k : Kernel) : Prop := ∀ r ∈ k.record.rd ++ k.record.wr, r.lo < r.hi

/-- Two ranges that hold a byte overlap exactly if they share one: the later of their first bytes. -/
theorem overlap_iff {x y : Range} (hx : x.lo < x.hi) (hy : y.lo < y.hi) :
    x.lo < y.hi ∧ y.lo < x.hi ↔ ∃ a, (x.lo ≤ a ∧ a < x.hi) ∧ (y.lo ≤ a ∧ a < y.hi) := by
  constructor
  · intro ⟨hxy, hyx⟩
    exact ⟨max x.lo y.lo, by omega, by omega⟩
  · intro ⟨a, hax, hay⟩
    omega

theorem meet_iff {l m : List Range} (hl : ∀ r ∈ l, r.lo < r.hi) (hm : ∀ r ∈ m, r.lo < r.hi) :
    meet l m = true ↔ ∃ a, hasByte l a ∧ hasByte m a := by
  simp only [meet, List.any_eq_true, Bool.and_eq_true, decide_eq_true_eq]
  constructor
  · intro ⟨x, hx, y, hy, h⟩
    obtain ⟨a, hax, hay⟩ := (overlap_iff (hl x hx) (hm y hy)).mp h
    exact ⟨a, ⟨x, hx, hax⟩, ⟨y, hy, hay⟩⟩
  · intro ⟨a, ⟨x, hx, hax⟩, ⟨y, hy, hay⟩⟩
    exact ⟨x, hx, y, hy, (overlap_iff (hl x hx) (hm y hy)).mpr ⟨a, hax, hay⟩⟩

theorem hasByte_append (l m : List Range) (a : Nat) : hasByte (l ++ m) a ↔ hasByte l a ∨ hasByte m a := by
  simp only [hasByte, List.mem_append, or_and_right, exists_or]

theorem dependsOn_iff {k e : Kernel} (hk : soundRanges k) (he : soundRanges e) :
    dependsOn k e = true ↔ ∃ a, (hasByte k.record.wr a ∧ (hasByte e.record.rd a ∨ hasByte e.record.wr a)) ∨
      (hasByte k.record.rd a ∧ hasByte e.record.wr a) := by
  have hrd : ∀ r ∈ k.record.rd, r.lo < r.hi := fun r hr => hk r (List.mem_append_left _ hr)
  have hwr : ∀ r ∈ k.record.wr, r.lo < r.hi := fun r hr => hk r (List.mem_append_right _ hr)
  have hew : ∀ r ∈ e.record.wr, r.lo < r.hi := fun r hr => he r (List.mem_append_right _ hr)
  simp only [dependsOn, Bool.or_eq_true, meet_iff hwr he, meet_iff hrd hew, hasByte_append, exists_or]

theorem ended_eq_false_iff (k : Kernel) : ended k = false ↔ k.state ≠ .done ∧ k.state ≠ .faulted := by
  simp only [ended, Bool.or_eq_false_iff, decide_eq_false_iff_not, ne_eq]

theorem mem_dependences_iff (s : State) (k : Kernel) (n : Nat) :
    n ∈ dependences s k ↔ ∃ e, (n, e) ∈ s.kernels ∧ e.ctx = k.ctx ∧ e.seq < k.seq ∧ e.state ≠ .done ∧
      e.state ≠ .faulted ∧ n ∉ k.ancestors ∧ dependsOn k e = true := by
  have hcontains (i : Nat) : k.ancestors.contains i = false ↔ i ∉ k.ancestors :=
    Bool.eq_false_iff.trans (not_congr List.contains_iff_mem)
  have hkept (e : Nat × Kernel) : (decide (e.2.ctx = k.ctx) && decide (e.2.seq < k.seq) && !ended e.2 &&
      !k.ancestors.contains e.1 && dependsOn k e.2) = true ↔ e.2.ctx = k.ctx ∧ e.2.seq < k.seq ∧ e.2.state ≠ .done ∧
        e.2.state ≠ .faulted ∧ e.1 ∉ k.ancestors ∧ dependsOn k e.2 = true := by
    simp only [Bool.and_eq_true, decide_eq_true_eq, Bool.not_eq_true', ended_eq_false_iff, hcontains, and_assoc]
  unfold Machine.dependences
  rw [List.mem_map]
  constructor
  · rintro ⟨⟨i, e⟩, hmem, rfl⟩
    obtain ⟨hin, hcond⟩ := List.mem_filter.mp hmem
    exact ⟨e, hin, (hkept (i, e)).mp hcond⟩
  · rintro ⟨e, hin, hcond⟩
    exact ⟨(n, e), List.mem_filter.mpr ⟨hin, (hkept (n, e)).mpr hcond⟩, rfl⟩

/-! ## What leaves the kernels as they are -/

theorem kernels_foldl {α : Type} {f : State → α → State} (hf : ∀ s x, (f s x).kernels = s.kernels) (l : List α) (s : State) :
    (l.foldl f s).kernels = s.kernels :=
  List.foldlRecOn (motive := fun t => t.kernels = s.kernels) l f rfl (fun t ht x _ => (hf t x).trans ht)

theorem kernels_ringPlace (e : Event) (fuel n : Nat) (s : State) : (ringPlace e fuel n s).2.kernels = s.kernels := by
  induction fuel generalizing n s with
  | zero => rfl
  | succ fuel ih =>
    rw [ringPlace]
    split
    · rw [ih, epWrite_kernels]
    · rfl

theorem kernels_ringWrite (s : State) (e : Event) : (ringWrite s e).kernels = s.kernels := by
  rw [ringWrite, epWrite_kernels, epWrite_kernels, kernels_ringPlace]

/-- An event changes the ring and what its die holds back (R471). -/
theorem kernels_post (s : State) (d kind status tag : Nat) (ws : List Nat) :
    (post s d kind status tag ws).kernels = s.kernels := by
  simp only [post, postEvent, apply_ite State.kernels, kernels_foldl kernels_ringWrite, modDie_kernels, epWrite_kernels,
    ite_self]

theorem kernels_storeAt (s : State) (pa : Nat) (bs : List Byte) : (storeAt s pa bs).kernels = s.kernels := by
  unfold storeAt
  split
  · rfl
  · rfl

theorem kernels_logPlace (c : Context) (bs : List Byte) (fuel n : Nat) (s : State) :
    (logPlace c bs fuel n s).2.kernels = s.kernels := by
  induction fuel generalizing n s with
  | zero => rfl
  | succ fuel ih =>
    simp only [logPlace]
    split
    · rw [ih, kernels_storeAt]
    · rfl

theorem kernels_logRecord (s : State) (ctx : Nat) (bs : List Byte) : (logRecord s ctx bs).1.kernels = s.kernels := by
  simp only [logRecord]
  split
  · rw [modCtx_kernels, kernels_storeAt]
  · rw [modCtx_kernels, kernels_storeAt, kernels_storeAt, kernels_logPlace]

/-- A trap without a handler faults the context, not its kernels (R129). -/
theorem kernels_faultContext (s : State) (ctx d number : Nat) (dropped : Bool) (tag : Nat) :
    (faultContext s ctx d number dropped tag).kernels = s.kernels := by
  unfold faultContext
  split
  · rfl
  · rw [becomeFaulted, kernels_post, modCtx_kernels]

theorem kernels_sendRecord (s : State) (w : LogWrite) : (sendRecord s w).kernels = s.kernels := by
  unfold sendRecord
  split
  · rw [logTrap, kernels_faultContext, kernels_logRecord]
  · rfl

theorem kernels_takeTrap (s : State) (core slot : Nat) (st : Stream) (t : Trap) (tag : Nat) :
    (takeTrap s core slot st t tag).kernels = s.kernels := by
  unfold takeTrap
  cases groupOf s core slot with
  | none => rfl
  | some g =>
    cases st <;>
      simp only [apply_ite State.kernels, modLane_kernels, modScalar_kernels, modCtx_kernels, kernels_post,
        kernels_sendRecord, modGroup_kernels, modCore_kernels, ite_self]

theorem kernels_raiseTrap (s : State) (core slot : Nat) (st : Stream) (t : Trap) (tag : Nat) :
    (raiseTrap s core slot st t tag).kernels = s.kernels := by
  unfold raiseTrap
  cases groupOf s core slot with
  | none => rfl
  | some g =>
    cases st <;> simp only [apply_ite State.kernels, modLane_kernels, modScalar_kernels, kernels_takeTrap, ite_self]

theorem kernels_completeWith (s : State) (core slot : Nat) (p : Pending) (ws : List RegWrite) (fl : Flags) :
    (completeWith s core slot p ws fl).kernels = s.kernels := by
  simp only [completeWith]
  split
  · rfl
  · split
    · exact modLane_kernels _ _ _ _
    · rfl
    · split
      · rfl
      · rw [kernels_raiseTrap, setCore_kernels]

theorem kernels_completeTag (s : State) (core slot tag : Nat) : (completeTag s core slot tag).kernels = s.kernels := by
  unfold completeTag
  split
  · exact kernels_completeWith _ _ _ _ _ _
  · rfl

theorem kernels_settleLaunch (s : State) (k : Kernel) : (settleLaunch s k).kernels = s.kernels := by
  unfold settleLaunch
  split
  · rfl
  · split
    · rfl
    · split
      · exact kernels_completeTag _ _ _ _
      · rfl

theorem kernels_settleQueue (s : State) (n : Nat) : (settleQueue s n).kernels = s.kernels := by
  unfold settleQueue
  split
  · rfl
  · split
    · rfl
    · simp only [apply_ite State.kernels, kernels_post, modHostQueue, ite_self]
    · simp only [apply_ite State.kernels, kernels_post, ite_self]
    · rfl

theorem kernels_leaveWindow (s : State) (n : Nat) (k : Kernel) : (leaveWindow s n k).kernels = s.kernels := by
  unfold leaveWindow
  split
  · rfl
  · exact kernels_settleQueue _ _

/-! ## The kernels that a declared one waits for (R126, R128) -/

section
variable {s : State} {k : Kernel} {n : Nat}

theorem mget?_modKernel_same (hk : mget? s.kernels n = some k) (f : Kernel → Kernel) :
    mget? (modKernel s n f).kernels n = some (f k) := by
  simp only [modKernel, mmod, hk, mget?_mset_same]

theorem mget?_makeReady_same (hk : mget? s.kernels n = some k) : mget? (makeReady s n).kernels n =
    some { k with state := .ready, deps := [], readyAt := s.now, agedAt := s.now } := by
  simp only [makeReady, hk, kernels_leaveWindow, mget?_modKernel_same hk]

/-- A kernel that depends on none is ready and waits for none; another waits for those it depends on. -/
theorem kernelDeclare_deps (hk : mget? s.kernels n = some k) (hst : k.state = .declared) :
    ∃ t d, exec (.kernelDeclare n) s = .next t ∧ mget? t.kernels n = some d ∧ d.deps = dependences s k := by
  refine ⟨_, if dependences s k = [] then { k with state := .ready, deps := [], readyAt := s.now, agedAt := s.now }
    else { k with state := .waiting, deps := dependences s k }, kernelDeclare_declared hk hst, ?_, ?_⟩
  · rw [kernels_settleLaunch]
    split
    · exact mget?_makeReady_same hk
    · exact mget?_modKernel_same hk _
  · split
    next hnone => exact hnone.symm
    next => rfl

end

/-- Settles O52, by the byte at which two ranges that overlap meet, and by what the declaration leaves in the kernel. -/
theorem dependences : Obligations.Dependences := by
  intro s k n m sound has
  refine ⟨fun hk hall => ?_, kernelDeclare_deps⟩
  rw [mem_dependences_iff]
  refine exists_congr fun e => and_congr_right fun hmem => ?_
  refine and_congr_right fun _ => and_congr_right fun _ => and_congr_right fun _ => and_congr_right fun hlive => ?_
  exact and_congr_right fun _ => dependsOn_iff hk ((hall (n, e) hmem).resolve_left hlive)

end Sys2Proof.Proofs
end

section
/-!
SUPPORT and PROOFS of the statements about results in register pairs: 64-bit integers, masks, widened halves, and
conversions from or to types of two words.
-/
namespace Sys2Proof.Proofs

open Sys2Proof Sys2Proof.Machine Sys2Proof.Safety Sys2Proof.Laws

/-! ## The size of a delivered code (R66, R79) -/

section
variable {f g : Fmt} {env : FEnv} {neg : Bool}

theorem infCode_add_unit (f : Fmt) : infCode f + 2 ^ f.fb = signBit f := by
  have hexp : 1 ≤ 2 ^ f.eb := Nat.one_le_two_pow
  rw [infCode, signBit, Nat.pow_add, Nat.sub_mul, Nat.one_mul]
  exact Nat.sub_add_cancel (Nat.le_mul_of_pos_left _ hexp)

theorem infCode_lt_signBit (f : Fmt) : infCode f < signBit f := by
  have hunit : 0 < 2 ^ f.fb := Nat.two_pow_pos _
  have := infCode_add_unit f
  omega

theorem withSign_lt {m : Nat} (h : m < signBit f) : withSign f neg m < 2 * signBit f := by
  unfold withSign
  split <;> omega

theorem overflowCode_lt (mode : Mode) : overflowCode f mode neg < 2 * signBit f := by
  have hinf := infCode_lt_signBit f
  have hbig : infCode f - 1 < signBit f := by omega
  cases mode with
  | rne => exact withSign_lt hinf
  | rtz => exact withSign_lt hbig
  | rup => cases neg with
    | true => exact withSign_lt hbig
    | false => exact withSign_lt hinf
  | rdn => cases neg with
    | true => exact withSign_lt hinf
    | false => exact withSign_lt hbig
  | sr _ => exact withSign_lt hinf

/-- A rounded magnitude overflows, or lies below the code of the infinity. -/
theorem roundTo_code_lt (mode : Mode) (m : Nat) (e : Int) (prec : Nat) (es : Int) :
    (roundTo f mode neg m e prec es).code < 2 * signBit f := by
  have hfinite : ∀ {code}, ¬ infCode f ≤ code → withSign f neg code < 2 * signBit f := fun h =>
    withSign_lt (Nat.lt_trans (Nat.lt_of_not_le h) (infCode_lt_signBit f))
  unfold roundTo
  split
  · exact withSign_lt (Nat.two_pow_pos _)
  · extract_lets top emin q
    split
    · split
      · exact overflowCode_lt mode
      · exact hfinite ‹_›
    · split
      · exact overflowCode_lt mode
      · split <;> exact hfinite ‹_›

theorem flushOut_code_lt {r : FRes} (h : r.code < 2 * signBit f) : (flushOut f env r).code < 2 * signBit f := by
  unfold flushOut
  split
  · exact withSign_lt (Nat.two_pow_pos _)
  · exact h

/-- The canonical NaN has the top fraction bit alone (R68). -/
theorem canonNaN_lt (hfrac : 0 < f.fb) : canonNaN f < 2 * signBit f := by
  have hunit := infCode_add_unit f
  have hhalf : 2 ^ (f.fb - 1) < 2 ^ f.fb := Nat.pow_lt_pow_right (by decide) (by omega)
  unfold canonNaN
  omega

/-- A NaN's payload, cut or widened to a format and made quiet, stays within the fraction. -/
theorem cvtPayload_lt (hfrac : 0 < g.fb) (c : Nat) : cvtPayload f g c < 2 * signBit g := by
  have hunit := infCode_add_unit g
  have hhalf : 2 * 2 ^ (g.fb - 1) = 2 ^ g.fb := by rw [← Nat.pow_succ']; congr 1; omega
  unfold cvtPayload
  extract_lets raw frac quiet
  have hraw : raw < 2 ^ f.fb := Nat.mod_lt _ (Nat.two_pow_pos _)
  have hcut : frac < 2 ^ g.fb := by
    unfold frac
    split
    · next h =>
      rw [← Nat.add_sub_cancel' h, Nat.pow_add, Nat.add_sub_cancel_left]
      exact Nat.mul_lt_mul_of_pos_right hraw (Nat.two_pow_pos _)
    · next h =>
      rw [Nat.div_lt_iff_lt_mul (Nat.two_pow_pos _), ← Nat.pow_add]
      exact Nat.lt_of_lt_of_le hraw (Nat.pow_le_pow_right (by decide) (by omega))
  have hquiet : quiet < 2 ^ g.fb := by
    unfold quiet
    split
    · exact hcut
    · next h =>
      have : frac / 2 ^ (g.fb - 1) < 2 := by rw [Nat.div_lt_iff_lt_mul (Nat.two_pow_pos _)]; omega
      have : frac < 1 * 2 ^ (g.fb - 1) := (Nat.div_lt_iff_lt_mul (Nat.two_pow_pos _)).mp (by omega)
      omega
  exact withSign_lt (by omega)

/-- Whatever is converted to FP32 fits a word (R206). -/
theorem cvtValue_fp32_lt (env : FEnv) (mode : Mode) (src x : Nat) : (cvtValue env mode 10 src x).code < 2 ^ 32 := by
  have hrounded : ∀ neg m e prec es, (flushOut fp32 env (roundTo fp32 mode neg m e prec es)).code < 2 * signBit fp32 :=
    fun _ _ _ _ _ => flushOut_code_lt (roundTo_code_lt _ _ _ _ _)
  change _ < 2 * signBit fp32
  unfold cvtValue
  split
  · exact hrounded _ _ _ _ _
  · split
    · extract_lets c
      split
      · show (if _ then _ else _) < _
        split
        · exact canonNaN_lt (by decide)
        · exact cvtPayload_lt (by decide) _
      · exact withSign_lt (infCode_lt_signBit fp32)
      · exact hrounded _ _ _ _ _
    · split
      · split
        · exact canonNaN_lt (by decide)
        · exact hrounded _ _ _ _ _
      · show 0 < _
        decide

theorem halfTo32_lt (h : Half) (env : FEnv) (a : Nat) : (halfTo32 h env a).code < 2 ^ 32 := cvtValue_fp32_lt _ _ _ _

end

/-! ## Pairs as numbers (R43) -/

theorem ofNat_add64Op (a b : DWord) : BitVec.ofNat 64 (add64Op a.toNat b.toNat) = a + b :=
  BitVec.eq_of_toNat_eq (by simp [add64Op])

theorem ofNat_sub64Op (a b : DWord) : BitVec.ofNat 64 (sub64Op a.toNat b.toNat) = a - b := by
  refine BitVec.eq_of_toNat_eq ?_
  have ha := a.isLt
  have hb := b.isLt
  rw [BitVec.toNat_ofNat, BitVec.toNat_sub, sub64Op]
  omega

/-- Two words side by side, the second one high. -/
theorem ofNat_low_add_high {lo : Nat} (hlo : lo < 2 ^ 32) (hi : Nat) :
    BitVec.ofNat 64 (lo + hi * 2 ^ 32) = BitVec.ofNat 32 hi ++ BitVec.ofNat 32 lo := by
  refine BitVec.eq_of_toNat_eq ?_
  rw [BitVec.toNat_append, ← Nat.shiftLeft_add_eq_or_of_lt (BitVec.isLt _), Nat.shiftLeft_eq]
  simp only [BitVec.toNat_ofNat]
  omega

/-! ## Instructions that write a pair (R182, R196, R208, R221) -/

section
variable {i : Instr} {s : State} {e : Iss} {qs : List Queue} {lat : Nat} {val : Nat → DWord}

/-- An effect of two words whose numbers are the values of `val`. -/
theorem regs64_puts_of {dst : Iss → Nat} {f : Iss → State → Nat → Nat} {fl : Iss → State → Flags} {flags : Flags}
    (hx : exec i s = runLane i s (fun e s => .ok (Done.regs s lat (write64 (dst e) e.lanes (f e s)) (fl e s))))
    (hval : ∀ lane, BitVec.ofNat 64 (f e (issued s e qs) lane) = val lane) (hflags : fl e (issued s e qs) = flags) :
    Puts64 i s e qs (dst e) val flags 0 := by
  rw [← funext hval, ← hflags]; exact regs64_puts hx

/-- An integer instruction on pairs whose operation on numbers is `f` on values. -/
theorem aluPair_puts {op : Nat → Nat → Nat} {f : DWord → DWord → DWord} (hx : exec i s = aluPair i op s)
    (hop : ∀ x y : DWord, BitVec.ofNat 64 (op x.toNat y.toNat) = f x y) : Puts64 i s e qs (Rules.dst e)
      (fun l => f (Rules.srcPair s e qs 1 l) (Rules.srcPair s e qs 2 l)) 0 0 :=
  regs64_puts_of (dst := Rules.dst) (fl := fun _ _ => 0) hx
    (fun lane => by rw [← hop, toNat_srcPair, toNat_srcPair]) rfl

/-- A mask delivered to every lane. -/
theorem mask_puts {dst : Nat} {m : Iss → State → Mask}
    (hx : exec i s = runLane i s (fun e s => .ok (Done.regs s lat (write64 dst e.lanes (fun _ => (m e s).toNat)) 0))) :
    Puts64 i s e qs dst (fun _ => m e (issued s e qs)) 0 0 :=
  regs64_puts_of (dst := fun _ => dst) (fl := fun _ _ => 0) hx (fun _ => by rw [BitVec.ofNat_toNat, BitVec.setWidth_eq]) rfl

end

/-- The two elements of a word, each as FP32 (R208). -/
theorem upk2_puts (h : Half) (f : LaneForm) (s : State) (e : Iss) (qs : List Queue) :
    let lo (l : Nat) : FRes := halfTo32 h (Rules.env e) ((Rules.src s e qs 1 l).extractLsb' 0 16).toNat
    let hi (l : Nat) : FRes := halfTo32 h (Rules.env e) ((Rules.src s e qs 1 l).extractLsb' 16 16).toNat
    Puts64 (.upk2 h f) s e qs f.dst.toNat (fun l => BitVec.ofNat 32 (hi l).code ++ BitVec.ofNat 32 (lo l).code)
      (Rules.flagsOf e lo ||| Rules.flagsOf e hi) 0 := by
  intro lo hi
  have hlow : lo = fun l => halfTo32 h (envAt e) (src32 (issued s e qs) e (fieldAt e.x 1) l % 65536) := rfl
  have hhigh : hi = fun l => halfTo32 h (envAt e) (src32 (issued s e qs) e (fieldAt e.x 1) l / 65536) := by
    funext l
    have := (Rules.src s e qs 1 l).isLt
    simp only [hi, BitVec.extractLsb'_toNat, Nat.shiftRight_eq_div_pow]
    rw [Nat.mod_eq_of_lt (by omega)]
    rfl
  rw [hlow, hhigh]
  exact regs64_puts_of (dst := fun _ => f.dst.toNat) (Eq.refl (execUpk2 h f s))
    (fun l => ofNat_low_add_high (halfTo32_lt h _ _) _) rfl

theorem pairResults : Sys2Proof.Rules.PairResults := by
  intro f h s e qs
  exact ⟨aluPair_puts (Eq.refl (execAdd64 f s)) ofNat_add64Op, aluPair_puts (Eq.refl (execSub64 f s)) ofNat_sub64Op,
    mask_puts (m := fun e _ => e.g.ln.em) (Eq.refl (execEmrd f s)),
    mask_puts (m := fun e s => voters s e f.src1.toNat) (Eq.refl (execVoteBal f s)), upk2_puts h f s e qs⟩

/-! ## Conversions from or to two words (R206) -/

/-- What `cvt` delivers to a lane. -/
def cvtResult (rm : RM) (f : LaneForm) (e : Iss) (s : State) (lane : Nat) : FRes :=
  cvtValue (envAt e) (modeOf (envAt e) rm) f.src2.toNat f.src3.toNat (cvtSource s e f.src3.toNat lane)

theorem exec_cvt_wide {rm : RM} {f : LaneForm} (hwide : wideType f.src2.toNat = true) (s : State) :
    exec (.cvt rm f) s = runLane (.cvt rm f) s (fun e s => .ok (Done.regs s 4
      (write64 f.dst.toNat e.lanes (fun l => (cvtResult rm f e s l).code)) (laneFlags e (cvtResult rm f e s)))) := by
  refine (Eq.refl (execCvt rm f s)).trans ?_
  simp only [execCvt, hwide, if_true]
  rfl

theorem exec_cvt_word {rm : RM} {f : LaneForm} (hword : wideType f.src2.toNat = false) (s : State) :
    exec (.cvt rm f) s = runLane (.cvt rm f) s (fun e s => .ok (Done.regs s 4
      (write32 f.dst.toNat e.lanes (fun l => (cvtResult rm f e s l).code)) (laneFlags e (cvtResult rm f e s)))) := by
  refine (Eq.refl (execCvt rm f s)).trans ?_
  simp only [execCvt, hword, Bool.false_eq_true, if_false]
  rfl

theorem wideConversion : Sys2Proof.Rules.WideConversion := by
  intro rm f s e qs v x r
  have hr : r = cvtResult rm f e (issued s e qs) := funext fun l => by rw [cvtResult, cvtSource_issued]; rfl
  rw [hr]
  exact ⟨fun hwide => regs64_puts (w := fun _ => f.dst.toNat) (exec_cvt_wide hwide s),
    fun hword => regs32_puts (w := fun _ => f.dst.toNat) (exec_cvt_word hword s)⟩

/-- Settles O4: 64-bit integers as numbers below 2^64, halves by the size of an FP32 code, `cvt` by its target's size. -/
theorem pairAndWideResults : Obligations.PairAndWideResults := ⟨pairResults, wideConversion⟩

end Sys2Proof.Proofs
end

section
/-!
SUPPORT and PROOFS of the statements about the lane stream's own course: reconvergence, the ends of paths, blocks and lanes,
software traps and the return from them, regions, pacing, the mask and the stack pointer.
-/
namespace Sys2Proof.Proofs

open Sys2Proof Sys2Proof.Machine Sys2Proof.Safety Sys2Proof.Laws

/-! ## Time passes (R25) -/

/-- A look at a rail touches the rails only (R424). -/
theorem noteRail_rest (s : State) (x : Nat × Bool) : ∃ r, noteRail s x = { s with rails := r } := by
  unfold noteRail
  extract_lets r
  split
  · exact ⟨s.rails, rfl⟩
  · exact ⟨_, rfl⟩

theorem noteRails_rest (s : State) : ∃ r, noteRails s = { s with rails := r } := by
  refine List.foldlRecOn (motive := fun t => ∃ r, t = { s with rails := r }) (railKeys s) noteRail ⟨s.rails, rfl⟩
    fun t ht x _ => ?_
  obtain ⟨r, ht⟩ := ht
  obtain ⟨r', hx⟩ := noteRail_rest t x
  exact ⟨r', by rw [hx, ht]⟩

@[simp] theorem mem_tick (s : State) : (tick s).mem = s.mem := by
  obtain ⟨r, h⟩ := noteRails_rest (noteFirst s)
  exact (congrArg State.mem h : _)

@[simp] theorem turn_tick (s : State) : (tick s).turn = s.turn := by
  obtain ⟨r, h⟩ := noteRails_rest (noteFirst s)
  exact (congrArg State.turn h : _)

/-! ## A lane stream's turn (R137, R149) -/

section
variable {s : State} {core slot : Nat} {g : Group} {x : StackEntry}

/-- With no input and nothing that waits, a lane stream's turn is its own. -/
theorem step_lane (hagenda : s.agenda = []) (hwaiting : nextWaiting (tick s) = none)
    (hcommand : nextCommand (tick s) = none) (hturn : s.turn = .lane core slot) : step s = laneTurn (tick s) core slot := by
  simp only [step, hagenda, ownStep, hwaiting, hcommand, turn_tick, hturn]

/-- What comes before the next instruction takes place, and the stream keeps its turn (R139). -/
theorem laneTurn_before {t : State} (h : beforeLane s core slot = some t) :
    laneTurn s core slot = .next (afterBefore core slot t) := by
  simp only [laneTurn, laneStep, h, Option.isSome_some, if_true, andNext]

theorem mayStart_of_laneRuns (h : laneRuns s g = true) : mayStart s g = false := by
  simp only [laneRuns, Bool.and_eq_true] at h
  obtain ⟨⟨⟨⟨⟨⟨⟨-, hblock⟩, -⟩, -⟩, -⟩, -⟩, -⟩, -⟩ := h
  simp [mayStart, hblock]

theorem beforeLane_reconverges (hg : groupOf s core slot = some g) (hresult : readyResult g.ln = none)
    (hruns : laneRuns s g = true) (hfault : g.ln.faultRestarts = false) (hmeets : atReconvergence g.ln = true) :
    beforeLane s core slot = some (reconverge s core slot) := by
  simp [beforeLane, hg, hresult, hruns, hfault, hmeets, mayStart_of_laneRuns hruns]

theorem atReconvergence_cons {l : Lane} {rest : List StackEntry} (hstack : l.stack = x :: rest) : atReconvergence l = true ↔
    aboveMark l = true ∧ x.kind ≠ .call ∧ x.rpc = l.pc.addr ∧ l.pc.sub = 0 := by
  simp [atReconvergence, hstack, and_assoc]

end

/-! ## The top entry applied (R149) -/

section
variable {l : Lane} {x : StackEntry} {rest : List StackEntry}

theorem popEntry_of_unspilled (h : spillCount l = 0) (m : Memory) : popEntry l m = { l with stack := l.stack.tail } := by
  simp [popEntry, h]

/-- The lane stream with its top entry taken off, at the entry's goal with its mask and format. -/
def taken (l : Lane) (x : StackEntry) (rest : List StackEntry) : Lane :=
  { l with
    stack := rest, em := x.mask &&& ~~~ l.exited, fmt := x.fmt, pc := ⟨if x.kind = .pending then x.pc else x.rpc, 0⟩,
    path := if x.kind = .meld then none else l.path }

/-- The same, with the delay of a switch to a PENDING entry (R173). -/
def entered (l : Lane) (x : StackEntry) (rest : List StackEntry) : Lane :=
  { taken l x rest with next := if x.kind = .pending then max l.clock l.next + issueSteps 2 else l.next }

theorem applyEntry_of_unspilled (hstack : l.stack = x :: rest) (hspill : spillCount l = 0) (hcall : x.kind ≠ .call)
    (m : Memory) : applyEntry l m x = taken l x rest := by
  rw [applyEntry, popEntry_of_unspilled hspill, hstack]
  cases hkind : x.kind with
  | call => exact absurd hkind hcall
  | reconv => simp [taken, hkind]
  | pending => simp [taken, hkind]
  | meld => simp [taken, hkind]

/-- With a lane of its mask left, the entry is all that is taken off. -/
theorem reconverge_eq {s : State} {core slot : Nat} {g : Group} (hg : groupOf s core slot = some g)
    (hstack : g.ln.stack = x :: rest) (hspill : spillCount g.ln = 0) (hcall : x.kind ≠ .call)
    (hlive : x.mask &&& ~~~ g.ln.exited ≠ 0) : reconverge s core slot = modLane s core slot (fun _ => entered g.ln x rest) := by
  have hdelay : (if x.kind = .pending then
      { taken g.ln x rest with next := max g.ln.clock g.ln.next + issueSteps 2 } else taken g.ln x rest) =
      entered g.ln x rest := by unfold entered; split <;> rfl
  simp only [reconverge, hg, hstack, applyEntry_of_unspilled hstack hspill hcall]
  exact (congrArg (fun l => if l.em = 0 then findLanes (modLane s core slot (fun _ => l)) core slot else
    modLane s core slot (fun _ => l)) hdelay).trans (if_neg hlive)

end

/-- Settles O14: nothing else comes before the next instruction, and the entry is applied as its kind says. -/
theorem reconvergence : Obligations.Reconvergence := by
  intro s core slot g x rest s0 hagenda hwaiting hcommand hturn hresult hg hruns hfault hstack habove hcall hrpc hsub hlive hspill
  have hmeets : atReconvergence g.ln = true := (atReconvergence_cons hstack).mpr ⟨habove, hcall, hrpc, hsub⟩
  refine ⟨reconverge s0 core slot, { g with ln := entered g.ln x rest }, ?_, ?_, rfl, rfl, rfl, rfl, rfl, rfl, rfl, rfl, rfl,
    rfl, ?_⟩
  · rw [step_lane hagenda hwaiting hcommand hturn]
    exact laneTurn_before (beforeLane_reconverges hg hresult hruns hfault hmeets)
  · rw [reconverge_eq hg hstack hspill hcall hlive, modLane, groupOf_modGroup, hg]
    rfl
  · rw [reconverge_eq hg hstack hspill hcall hlive, modLane_mem]
    exact mem_tick s

/-! ## Software traps (R58, R184, R438, R444) -/

/-- Settles O17: each of these instructions does nothing but raise its trap. -/
theorem softwareTraps : Obligations.SoftwareTraps := by
  intro f s e qs w c core slot g sub n v
  exact ⟨traps_of (Eq.refl (execTrap f s)) fun _ => rfl, traps_of (Eq.refl (execBrk f s)) fun _ => rfl,
    traps_of (Eq.refl (execUnassignedOpcode .lane w s)) fun _ => rfl,
    scalarTraps_of (body := fun _ _ _ _ => trapOf 0x01 w) (Eq.refl (execUnassignedOpcode .scalar w s)) rfl,
    traps_of (Eq.refl (execLegacyWord (.legacy sub) w c s)) fun _ => rfl,
    traps_of (Eq.refl (execLegacyWord .illegalOp w c s)) fun _ => rfl,
    traps_of (Eq.refl (execLegacyWord (.illegalOperand n v) w c s)) fun _ => rfl⟩

/-! ## Paths and their ends (R153, R155, R177 to R179) -/

theorem checkNest_of_outside {l : Lane} (h : l.path = none) : checkNest l = .ok () := by simp [checkNest, h]

theorem returnTarget_of_live {l : Lane} (h : l.em ≠ 0) (m : Memory) (fuel : Nat) : returnTarget m fuel l = none := by
  cases fuel with
  | zero => rfl
  | succ fuel => exact if_pos (.inl h)

theorem checkReturn_of_live {l : Lane} (h : l.em ≠ 0) (s : State) (e : Iss) (m : Memory) : checkReturn s e m l = .ok () := by
  simp only [checkReturn, returnTarget_of_live h]

/-- The lane stream without the lanes that `ret` takes off the entries above the innermost CALL. -/
def returning (l : Lane) (x : Mask) : Lane := { l with stack := leaveAbove x l.stack, em := l.em &&& ~~~ x }

section
variable {f : LaneForm} {s : State} {e : Iss} {qs : List Queue}

/-- The package in which the lanes of a `ret` have left. -/
def returned (s : State) (e : Iss) (qs : List Queue) : State :=
  putLane (issued s e qs) e.core e.slot
    (returning e.g.ln e.lanes, leaveSpilled e.g.ln (coreOf (issued s e qs) e.core).scratch e.lanes)

/-- The check of the address to which a `ret` goes back. -/
def returnCheck (s : State) (e : Iss) (qs : List Queue) : Res Unit :=
  checkReturn (issued s e qs) e (leaveSpilled e.g.ln (coreOf (issued s e qs) e.core).scratch e.lanes)
    (returning e.g.ln e.lanes)

section
variable (hpath : e.g.ln.path = none) (hcall : hasCall e.g.ln (coreOf (issued s e qs) e.core).scratch = true)
include hpath hcall

theorem ret_goes_on (hlive : (returning e.g.ln e.lanes).em ≠ 0) :
    Completes (.ret f) s e qs { Done.plain (returned s e qs) with steps := 2 } := by
  have htarget : returnCheck s e qs = .ok () := checkReturn_of_live hlive _ _ _
  simp only [returnCheck, returning] at htarget hlive
  refine completes_of (Eq.refl (execRet f s)) fun _ => ?_
  simp only [checkNest_of_outside hpath, hcall, htarget, Bool.not_true, Bool.false_eq_true, if_false]
  exact if_pos hlive

theorem ret_returns (hnone : (returning e.g.ln e.lanes).em = 0) (htarget : returnCheck s e qs = .ok ()) :
    Completes (.ret f) s e qs
      { Done.plain (findLanes (returned s e qs) e.core e.slot) with flow := .set, steps := 2 } := by
  simp only [returnCheck, returning] at htarget hnone
  refine completes_of (Eq.refl (execRet f s)) fun _ => ?_
  simp only [checkNest_of_outside hpath, hcall, htarget, Bool.not_true, Bool.false_eq_true, if_false]
  exact if_neg (fun hne => hne hnone)

theorem ret_traps {t : Trap} (htarget : returnCheck s e qs = .error (.trap t)) : Traps (.ret f) s e qs t := by
  simp only [returnCheck, returning] at htarget
  refine traps_of (Eq.refl (execRet f s)) fun _ => ?_
  simp only [checkNest_of_outside hpath, hcall, htarget, Bool.not_true, Bool.false_eq_true, if_false]

end

theorem meld_completes (hpath : e.g.ln.path = none) {l : Lane} {m : Memory}
    (hpush : pushEntry e.g.ln (coreOf (issued s e qs) e.core).scratch
      ⟨.meld, 0, e.g.ln.pc.addr + BitVec.ofNat 48 (4 * wide16 f), e.g.ln.em, e.g.ln.fmt⟩ = .ok (l, m)) :
    Completes (.meld f) s e qs (Done.plain (putLane (issued s e qs) e.core e.slot
      ({ l with path := some (l.em &&& predMask (issued s e qs) l f.src1.toNat) }, m))) := by
  refine completes_of (Eq.refl (execMeld f s)) fun _ => ?_
  simp only [checkNest_of_outside hpath, hpush]

theorem mtab_completes (hpath : e.g.ln.path = none) :
    Completes (.mtab f) s e qs (Done.plain (modLane (issued s e qs) e.core e.slot (fun l =>
      if f.dst = 0 then { l with t0 := setTable l.t0 (4 * f.src1.toNat) (litOf f) }
      else { l with t1 := setTable l.t1 (4 * f.src1.toNat) (litOf f) }))) := by
  refine completes_of (Eq.refl (execMtab f s)) fun _ => ?_
  simp only [checkNest_of_outside hpath]

theorem lend_completes (hdepth : stackDepth e.g.ln = 0) (hhandler : e.g.ln.handler = none) :
    Completes (.lend f) s e qs
      { Done.plain (endBlock (issued s e qs) e.core e.slot) with flow := .set, steps := 2 } :=
  completes_of (Eq.refl (execLend f s)) fun _ => if_neg (by simp [hdepth, hhandler])

section
variable {g : Group} (hg : groupOf (exitLanes (issued s e qs) e.core e.slot e.lanes) e.core e.slot = some g)
include hg

theorem exit_goes_on (hlive : g.ln.em ≠ 0) :
    Completes (.exit f) s e qs (Done.plain (exitLanes (issued s e qs) e.core e.slot e.lanes)) := by
  refine completes_of (Eq.refl (execExit f s)) fun _ => ?_
  simp only [hg]
  exact if_pos hlive

theorem exit_finds_lanes (hnone : g.ln.em = 0) : Completes (.exit f) s e qs
    { Done.plain (findLanes (exitLanes (issued s e qs) e.core e.slot e.lanes) e.core e.slot) with flow := .set, steps := 2 } := by
  refine completes_of (Eq.refl (execExit f s)) fun _ => ?_
  simp only [hg]
  exact if_neg (fun hne => hne hnone)

end

theorem exit_of_group_gone (hg : groupOf (exitLanes (issued s e qs) e.core e.slot e.lanes) e.core e.slot = none) :
    Completes (.exit f) s e qs (Done.plain (exitLanes (issued s e qs) e.core e.slot e.lanes)) := by
  refine completes_of (Eq.refl (execExit f s)) fun _ => ?_
  simp only [hg]

end

/-- Settles O16: `ret` by the lanes that it leaves and the check of its target, `exit` by what is left of the group. -/
theorem pathsAndEnds : Obligations.PathsAndEnds := by
  intro f s e qs s0 l m without left target gone
  exact ⟨fun hpath => ⟨fun hcall => ⟨ret_goes_on hpath hcall, ret_returns hpath hcall, fun t => ret_traps hpath hcall⟩,
    fun l' m' => meld_completes hpath, mtab_completes hpath⟩, lend_completes,
    fun g hg => ⟨exit_goes_on hg, exit_finds_lanes hg⟩, exit_of_group_gone⟩

/-! ## The return from a lane trap, and traps that waited (R171, R184, R250) -/

theorem exited_popEntry (l : Lane) (m : Memory) : (popEntry l m).exited = l.exited := by
  unfold popEntry
  extract_lets rest
  split <;> rfl

theorem exited_popTo (m : Memory) (n fuel : Nat) (l : Lane) : (popTo m n fuel l).exited = l.exited := by
  induction fuel generalizing l with
  | zero => rfl
  | succ fuel ih =>
    unfold popTo
    split
    · rfl
    · rw [ih, exited_popEntry]

theorem em_leaveLaneHandler (l : Lane) (m : Memory) (h : HandlerSave) (pc : BitVec 48) (sub : Nat) :
    (leaveLaneHandler l m h pc sub).em = h.em &&& ~~~ l.exited := by
  simp only [leaveLaneHandler, exited_popTo]

theorem groupOf_planeReturned (s : State) (core slot n : Nat) :
    groupOf (modCore s core (planeReturned slot)) core n = groupOf s core n := by
  rw [groupOf, coreOf_modCore, planeReturned]
  split <;> rfl

theorem groupOf_handlerReturn {s : State} {core slot : Nat} {g : Group} (hg : groupOf s core slot = some g)
    (h : HandlerSave) (pc : BitVec 48) : groupOf (handlerReturn s core slot h pc) core slot =
      some { g with ln := leaveLaneHandler g.ln (coreOf s core).scratch h pc 0 } := by
  rw [handlerReturn, modLane, groupOf_modGroup, groupOf_planeReturned, hg]
  rfl

section
variable {f : LaneForm} {s : State} {e : Iss} {qs : List Queue} {h : HandlerSave}

/-- With a lane of the kept mask left, the handler's return is all that `tret` does. -/
theorem tret_completes (hhandler : e.g.ln.handler = some h)
    (halign : (recordAddress (issued s e qs) e.core e.slot).toNat % 4 = 0) (hlive : h.em &&& ~~~ e.g.ln.exited ≠ 0) :
    Completes (.tret f) s e qs
      { Done.plain (handlerReturn (issued s e qs) e.core e.slot h (recordAddress (issued s e qs) e.core e.slot))
        with flow := .set } := by
  refine completes_of (Eq.refl (execTret f s)) fun hi => ?_
  have hback := groupOf_handlerReturn (groupOf_issued qs hi.group) h (recordAddress (issued s e qs) e.core e.slot)
  have hstays : ¬ (groupOf (handlerReturn (issued s e qs) e.core e.slot h
      (recordAddress (issued s e qs) e.core e.slot)) e.core e.slot).any (fun g => decide (g.ln.em = 0)) = true := by
    simpa [hback, em_leaveLaneHandler] using hlive
  simp only [hhandler, halign, ne_eq, not_true, if_false]
  exact if_neg hstays

theorem tret_outside_handler (hhandler : e.g.ln.handler = none) :
    Traps (.tret f) s e qs ⟨0x01, 4, instrBits (.tret f), none, none⟩ := by
  refine traps_of (Eq.refl (execTret f s)) fun _ => ?_
  simp only [hhandler, trapSub]

end

section
variable {s : State} {core slot : Nat} {g : Group} {t : Trap} {l : List Trap} (hg : groupOf s core slot = some g)
  (hhandler : g.ln.handler = none)
include hg hhandler

theorem deferredTrap_lane (hfirst : g.ln.deferred = t :: l) (hscalar : g.sc.handler = false)
    (hfaulting : g.faulting = false) (hctx : (ctxOf s g.ctx).state ≠ .faulted) : exec (.deferredTrap core slot) s =
      .next (takeTrap (modLane s core slot (fun x => { x with deferred := l })) core slot .lane t) := by
  have htrap : trapDue g = some (.lane, t) := by simp [trapDue, hhandler, hscalar, hfirst]
  have hdue : dueLane s g = true := by simp [dueLane, htrap, hfaulting, hctx]
  refine (Eq.refl (execDeferredTrap core slot s)).trans ?_
  simp only [execDeferredTrap, hg, htrap, hdue, if_true]
  rw [modLane_some _ _ _ _ g hg, modLane_some _ _ _ _ g hg, hfirst, List.tail_cons]

theorem deferredTrap_scalar (hlane : g.ln.deferred = [] ∨ g.sc.handler = true) (hfirst : g.sc.deferred = t :: l)
    (hcan : canScalar s { g with sc := { g.sc with deferred := [] } } = true) : exec (.deferredTrap core slot) s =
      .next (takeTrap (modScalar s core slot (fun z => { z with deferred := l, watch := none })) core slot .scalar t) := by
  have htrap : trapDue g = some (.scalar, t) := by
    cases hscalar : g.sc.handler with
    | true => simp [trapDue, hhandler, hscalar, hfirst]
    | false => simp [trapDue, hhandler, hscalar, hfirst, hlane.resolve_right (by simp [hscalar])]
  have hdue : dueScalar s g = true := by simp [dueScalar, htrap, hcan]
  refine (Eq.refl (execDeferredTrap core slot s)).trans ?_
  simp only [execDeferredTrap, hg, htrap, hdue, if_true]
  rw [modScalar_some _ _ _ _ g hg, modScalar_some _ _ _ _ g hg, hfirst, List.tail_cons]

end

/-- Settles O18: `tret` by what the handler's entry kept, a trap that waited by the stream that is due. -/
theorem trapReturn : Obligations.TrapReturn := by
  intro f s e qs h s0 pc m back
  exact ⟨tret_completes, tret_outside_handler,
    fun core slot g t l hg hhandler => ⟨deferredTrap_lane hg hhandler, deferredTrap_scalar hg hhandler⟩⟩

/-! ## Regions (R158, R159, R180) -/

/-- Once the array has done with the group and its save is stored, the region is open. -/
theorem openSaved_eq {s t : State} {e : Iss} {i : Instr} {low : BitVec 32} {pairs : BitVec 48} :
    let sv := saveOf (coreOf s e.core).scratch e.g (followingPc e i) low pairs
    let bs := saveBytes sv (widthG e.g) (freeBytes s 64 64)
    arrayBusy (coreOf s e.core) e.slot = false → bs.length ≤ e.g.ckptSize →
      storeRange s e.core e.g.ctx e.g.ckptBase.toNat bs = .ok t → openSaved s e i low pairs =
        .ok (Done.plain (modLane (seeFills (openRegion t e.core e.slot) e.core e.g (fun _ => true)) e.core e.slot
          (fun l => { l with region := some ⟨sv, false, isCkpt i, groupRows e.g⟩ }))) := by
  intro sv bs hidle hfits hstored
  simp only [bs] at hfits hstored
  simp only [openSaved, hidle, Bool.false_eq_true, if_false, Nat.not_lt.mpr hfits, hstored, sv]

theorem regionOpens : Sys2Proof.Rules.RegionOpens := by
  intro f x s t e qs s0 opens
  exact ⟨fun hidle hfits hstored => completes_of (Eq.refl (execCkpt f s)) fun _ => openSaved_eq hidle hfits hstored,
    fun hidle hfits hstored => completes_of (Eq.refl (execCkptx x s)) fun _ => openSaved_eq hidle hfits hstored⟩

/-! ## Pacing (R64, R181) -/

theorem pacing : Sys2Proof.Rules.Pacing := by
  intro f h s e qs s0
  exact ⟨completes_of (Eq.refl (execNop f s)) fun _ => rfl, completes_of (Eq.refl (execNopShort h s)) fun _ => rfl,
    fun hzero => completes_of (Eq.refl (execWait f s)) fun _ => if_pos hzero,
    fun hcount => completes_of (Eq.refl (execWait f s)) fun _ => if_neg hcount,
    completes_of (Eq.refl (execYield f s)) fun _ => rfl⟩

/-! ## The mask and the stack pointer (R182, R183) -/

theorem frameBytes_of_multiple {f : LaneForm} (hzero : litOf f ≠ 0) (halign : litOf f % 32 = 0) :
    frameBytes f = .ok (litOf f) := if_neg (by simp [hzero, halign])

theorem maskAndStack : Sys2Proof.Rules.MaskAndStack := by
  intro f s e qs s0 v n sp
  refine ⟨fun hlive => ?narrows, fun hnone => ?empties, fun hzero halign => ⟨fun hroom => ?allocates, fun hbeyond => ?overflows,
    fun hroom => ?frees, fun hbeyond => ?underflows⟩⟩
  case narrows => exact completes_of (Eq.refl (execEmwr f s)) fun _ => if_neg hlive
  case empties =>
    have hspec : f.src1.toNat % 256 = f.src1.toNat := Nat.mod_eq_of_lt f.src1.isLt
    refine traps_of (Eq.refl (execEmwr f s)) fun _ => (if_pos hnone).trans ?_
    rw [illegalOperand, trapOf, hspec]
  case allocates =>
    refine completes_of (Eq.refl (execSalloc f s)) fun _ => ?_
    simp only [frameBytes_of_multiple hzero halign]
    exact if_neg (Nat.not_lt.mpr hroom)
  case overflows =>
    refine traps_of (Eq.refl (execSalloc f s)) fun _ => ?_
    simp only [frameBytes_of_multiple hzero halign]
    exact if_pos hbeyond
  case frees =>
    refine completes_of (Eq.refl (execSfree f s)) fun _ => ?_
    simp only [frameBytes_of_multiple hzero halign]
    exact if_neg (Nat.not_lt.mpr hroom)
  case underflows =>
    refine traps_of (Eq.refl (execSfree f s)) fun _ => ?_
    simp only [frameBytes_of_multiple hzero halign]
    exact if_pos hbeyond

/-- Settles O20: each of these instructions by the condition that its rule names. -/
theorem regionsPacingAndMasks : Obligations.RegionsPacingAndMasks := ⟨regionOpens, pacing, maskAndStack⟩

end Sys2Proof.Proofs
end

section
/-!
SUPPORT and PROOFS of the statements about the scalar stream's memory accesses, its waits on a word, its step limit and its
far targets.
-/
namespace Sys2Proof.Proofs

open Sys2Proof Sys2Proof.Machine Sys2Proof.Safety Sys2Proof.Laws

/-! ## Offsets (R41, R228) -/

theorem sext64_toNat {n : Nat} (hle : n ≤ 64) (v : BitVec n) : sext64 n v.toNat = v.signExtend 64 := by
  have hv := v.isLt
  have hpow : 2 ^ n ≤ 2 ^ 64 := Nat.pow_le_pow_right (by decide) hle
  refine BitVec.eq_of_toNat_eq ?_
  rw [BitVec.toNat_signExtend, BitVec.toNat_setWidth, BitVec.msb_eq_decide, sext64, Nat.mod_eq_of_lt hv]
  by_cases hneg : v.toNat < 2 ^ (n - 1)
  · simp [hneg, Nat.not_le.mpr hneg]
  · simp only [hneg, Nat.not_lt.mp hneg, if_false, decide_true, if_true, BitVec.toNat_ofNat]
    omega

theorem litValue_eq (v : BitVec 32) : litValue v = v.signExtend 64 := sext64_toNat (by decide) v

/-- The two fields of a short form's immediate, side by side (R40). -/
theorem high4_append_low6 (v : BitVec 10) : high4 v ++ low6 v = v := by
  refine BitVec.eq_of_toNat_eq ?_
  have hv := v.isLt
  rw [BitVec.toNat_append, ← Nat.shiftLeft_add_eq_or_of_lt (BitVec.isLt _), Nat.shiftLeft_eq]
  simp only [high4, low6, BitVec.toNat_ofNat]
  omega

theorem wordOffset_eq (off : BitVec 10) : wordOffset off = (high4 off ++ low6 off).signExtend 64 * 4 := by
  rw [high4_append_low6, wordOffset, sext64_toNat (by decide)]

/-- The byte offset of an access to memory: its literal, if it has one. -/
def memOffset (x : ScalarFields) : DWord :=
  match x.lit with
  | some v => v.signExtend 64
  | none => 0

/-! ## The scalar instructions of an op8 code (R228) -/

section
variable {i : Instr} {x : ScalarFields} (h : scalarFields i = some x) (s : State)
include h

/-- Every instruction that has scalar fields runs with them at the scalar stream's turn: its own arm of `exec` names the body. -/
theorem exec_scalar : ∃ body, exec i s = runScalar x s body := by
  cases i <;> cases h <;> exact ⟨_, by dsimp only [exec]; rfl⟩

/-! Of the instructions with scalar fields, the op8 code leaves the two lengths of one. -/

theorem exec_load (hop : x.op = 0x60) : exec i s = sloadAt x x.sb (memOffset x) s := by
  cases i <;> cases h <;> cases hop
  case sld sd sa mode => rfl
  case sldS64 sd sa mode lit => exact congrArg (sloadAt _ mode · s) (litValue_eq lit)

theorem exec_store (hop : x.op = 0x61) : exec i s = sstoreAt x x.sb (memOffset x) s := by
  cases i <;> cases h <;> cases hop
  case sst sd sa mode => rfl
  case sstS64 sd sa mode lit => exact congrArg (sstoreAt _ mode · s) (litValue_eq lit)

theorem exec_waitw (hop : x.op = 0xA2) : exec i s = swaitwAt x s := by
  cases i <;> cases h <;> cases hop
  case swaitw sd sa sb => rfl
  case swaitwS64 sd sa sb lit => rfl

end

/-! ## Branches and jumps (R231) -/

/-- The condition of a branch on the registers that it names. -/
def branchCond (x : ScalarFields) (g : Group) : Bool :=
  (Rules.branchOp x.op (Rules.sreg g x.sa) (Rules.sreg g x.sb)).getD false

section
variable {op : Nat} {sa sb : SName} {c : DWord → DWord → Bool} (hc : ∀ a b, Rules.branchOp op a b = some (c a b)) (s : State)
include hc

theorem sbranchShort_eq (hop : op < 0x48) (off : BitVec 10) : sbranchShort op sa sb off c s =
    sbranch (branchForm op sa sb off) (Rules.scalarOffset (branchForm op sa sb off)) (branchCond (branchForm op sa sb off)) s := by
  have hcond : branchCond (branchForm op sa sb off) = fun g => c (readS g sa) (readS g sb) :=
    funext fun g => congrArg (·.getD false) (hc _ _)
  have hoff : Rules.scalarOffset (branchForm op sa sb off) = wordOffset off := by
    simp [Rules.scalarOffset, branchForm, hop, wordOffset_eq]
  rw [hcond, hoff, sbranchShort]

theorem sbranchLong_eq (lit : BitVec 32) :
    let x : ScalarFields := ⟨op, 0, sa, sb, 0, some lit⟩
    sbranchLong op sa sb lit c s = sbranch x (Rules.scalarOffset x) (branchCond x) s := by
  intro x
  have hcond : branchCond x = fun g => c (readS g sa) (readS g sb) := funext fun g => congrArg (·.getD false) (hc _ _)
  have hoff : Rules.scalarOffset x = litValue lit := (litValue_eq lit).symm
  rw [hcond, hoff, sbranchLong]

end

/-- The branches and the jump, in both lengths, by the codes that have a condition. -/
theorem exec_branch {i : Instr} {x : ScalarFields} {a b : DWord} {taken : Bool} (h : scalarFields i = some x)
    (hc : Rules.branchOp x.op a b = some taken) (s : State) :
    exec i s = sbranch x (Rules.scalarOffset x) (branchCond x) s := by
  have heq : ∀ a b, Rules.branchOp 0x40 a b = some (decide (a = b)) := fun _ _ => rfl
  have hne : ∀ a b, Rules.branchOp 0x41 a b = some (decide (a ≠ b)) := fun _ _ => congrArg some (decide_not).symm
  cases i <;> cases h <;> cases hc
  case sbeq sa sb off => exact sbranchShort_eq (op := 0x40) (c := fun a b => decide (a = b)) heq s (by decide) off
  case sbne sa sb off => exact sbranchShort_eq (op := 0x41) (c := fun a b => decide (a ≠ b)) hne s (by decide) off
  case sblt sa sb off => exact sbranchShort_eq (op := 0x42) (c := fun a b => decide (a.toInt < b.toInt)) (fun _ _ => rfl) s (by decide) off
  case sbge sa sb off => exact sbranchShort_eq (op := 0x43) (c := fun a b => decide (b.toInt ≤ a.toInt)) (fun _ _ => rfl) s (by decide) off
  case sbltn sa sb off => exact sbranchShort_eq (op := 0x44) (c := fun a b => decide (a.toNat < b.toNat)) (fun _ _ => rfl) s (by decide) off
  case sbgen sa sb off => exact sbranchShort_eq (op := 0x45) (c := fun a b => decide (b.toNat ≤ a.toNat)) (fun _ _ => rfl) s (by decide) off
  case sbeqS64 sa sb lit => exact sbranchLong_eq (op := 0x40) (c := fun a b => decide (a = b)) heq s lit
  case sbneS64 sa sb lit => exact sbranchLong_eq (op := 0x41) (c := fun a b => decide (a ≠ b)) hne s lit
  case sbltS64 sa sb lit => exact sbranchLong_eq (op := 0x42) (c := fun a b => decide (a.toInt < b.toInt)) (fun _ _ => rfl) s lit
  case sbgeS64 sa sb lit => exact sbranchLong_eq (op := 0x43) (c := fun a b => decide (b.toInt ≤ a.toInt)) (fun _ _ => rfl) s lit
  case sbltnS64 sa sb lit => exact sbranchLong_eq (op := 0x44) (c := fun a b => decide (a.toNat < b.toNat)) (fun _ _ => rfl) s lit
  case sbgenS64 sa sb lit => exact sbranchLong_eq (op := 0x45) (c := fun a b => decide (b.toNat ≤ a.toNat)) (fun _ _ => rfl) s lit
  case sjmp off =>
    exact congrArg (fun o => sbranch ⟨0x48, 0, 0, low6 off, high4 off, none⟩ o (fun _ => true) s) (wordOffset_eq off)
  case sjmpS64 lit => exact congrArg (fun o => sbranch ⟨0x48, 0, 0, 0, 0, some lit⟩ o (fun _ => true) s) (litValue_eq lit)

theorem checkScalarPage_of_far {t : DWord} (halign : t.toNat % 4 = 0) (hfar : 2 ^ 48 ≤ t.toNat) (s : State) (core : Nat)
    (g : Group) : checkScalarPage s core g t = trapOf 0x0D t := by
  simp only [checkScalarPage, checkScalarTarget, halign, hfar, ne_eq, not_true, if_false, if_true, trapOf]

theorem scalarFarTargets : Sys2Proof.Rules.ScalarFarTargets := by
  intro i x s core slot g hx hc t halign hfar
  have hcond : branchCond x g = true := congrArg (·.getD false) hc
  have hpage : checkScalarPage s core g (scalarTarget g (Rules.scalarOffset x)) = trapOf 0x0D t :=
    checkScalarPage_of_far halign hfar s core g
  refine scalarTraps_of (exec_branch hx hc s) ((if_neg (fun hne => hne halign)).trans ?_)
  simp only [hcond, if_true, hpage, trapOf]

/-! ## Loads and stores (R233, R234) -/

section
variable {i : Instr} {x : ScalarFields} {s t : State} {core slot : Nat} {g : Group} {bs : List Byte} {a : Xlat}
  (hx : scalarFields i = some x)
include hx

theorem load_completes (hop : x.op = 0x60) (hscope : modeScope x.sb < 6)
    (hload : scalarLoad s core slot g.ctx (readS g x.sa + memOffset x).toNat (modeSize x.sb) (modeScope x.sb) = .ok (bs, t)) :
    ScalarCompletes i x s core slot g (putS t core slot x.sd (extendLoad x.sb bs)) none := by
  have hmode : checkMode x.sb = .ok () := if_neg (Nat.not_le.mpr hscope)
  refine scalarCompletes_of (exec_load hx s hop) ?_
  simp only [hmode, hload]

section
variable (hop : x.op = 0x61) (hcheck : checkOne s core g.ctx (readS g x.sa + memOffset x).toNat (modeSize x.sb) .write
  (decide (modeScope x.sb = 0)) = .ok a)
include hop hcheck

theorem store_completes (hplain : modeScope x.sb = 0) : ScalarCompletes i x s core slot g
    (writeX s core (accessLevel 0 a.leaf) a (dwordBytes (modeSize x.sb) (readS g x.sd)) g.fenceSig) none := by
  have hmode : checkMode x.sb = .ok () := if_neg (by omega)
  refine scalarCompletes_of (exec_store hx s hop) ?_
  simp only [hmode, hcheck]
  exact if_pos hplain

/-- A release goes on once nothing keeps back what its scope must see (R379). -/
theorem release_completes (hrelease : 0 < modeScope x.sb) (hscope : modeScope x.sb < 6)
    (hfree : releaseWaits s core (scopeOfCode (modeScope x.sb)) = false) : ScalarCompletes i x s core slot g
      (modGroup (releaseWrite s core (scopeOfCode (modeScope x.sb)) a (dwordBytes (modeSize x.sb) (readS g x.sd)) g.sigScalar)
        core slot (fun g => { g with fenceSig := [] })) none := by
  have hmode : checkMode x.sb = .ok () := if_neg (Nat.not_le.mpr hscope)
  refine scalarCompletes_of (exec_store hx s hop) ?_
  simp only [hmode, hcheck, hfree, Bool.false_eq_true, if_false]
  exact if_neg (Nat.ne_of_gt hrelease)

end

end

theorem scalarMemory : Sys2Proof.Rules.ScalarMemory := by
  intro i x s t core slot g bs a hx m va data
  exact ⟨load_completes hx, fun hop hcheck => ⟨store_completes hx hop hcheck, release_completes hx hop hcheck⟩⟩

/-! ## Waits on a word (R246) -/

/-- A scalar instruction that may issue and whose effect stops is stopped. -/
theorem runScalar_stops {x : ScalarFields} {s : State} {core slot : Nat} {g : Group} {r : Stop}
    {body : Nat → Nat → Group → State → Res SDone} (h : ScalarReady x s core slot g) (hb : body core slot g s = .error r) :
    runScalar x s body = .next (stopScalar s core slot r) := by
  have hsteps : ¬ (isScalarAlu x = true ∧ stepsFull g = true) := by
    rw [← Bool.and_eq_true, h.steps]; exact Bool.false_ne_true
  simp only [runScalar, h.turn, h.group, h.can, if_true, attemptScalar, hsteps, if_false, hb]

section
variable {i : Instr} {x : ScalarFields} {s : State} {core slot : Nat} {g : Group} {a : Xlat} {r : Read}
  (hx : scalarFields i = some x) (hop : x.op = 0xA2)
  (hcheck : checkOne s core g.ctx (readS g x.sa).toNat 8 .read = .ok a)
include hx hop hcheck

/-- What `swaitw` does once its word has been read. -/
theorem swaitw_read (hread : waitRead s a g.sc.watch (beginWait s core a (x.lit.map BitVec.toNat))
    (acquireRead s core .package a 8 100) = .ok r) :
    let t := inheritScalar r.state core slot r.sigs
    let stays := wokenOn g.sc.watch = false ∧ bytesDword r.bytes = readS g x.sb ∧ x.lit ≠ some 0
    (¬ stays → ScalarCompletes i x s core slot g (putS t core slot x.sd (bytesDword r.bytes)) none) ∧
    (stays → ScalarReady x s core slot g → exec i s = .next (modScalar t core slot (fun z =>
      { z with watch := some (beginWait s core a (x.lit.map BitVec.toNat)), stalled := false }))) := by
  intro t stays
  have hstays : (!wokenOn g.sc.watch) = true ∧ bytesDword r.bytes = readS g x.sb ∧ x.lit ≠ some 0 ↔ stays := by
    rw [Bool.not_eq_true']
  refine ⟨fun hgo => scalarCompletes_of (exec_waitw hx s hop) ?_,
    fun hstay h => (exec_waitw hx s hop).trans
      (runScalar_stops (r := .sleepWord (beginWait s core a (x.lit.map BitVec.toNat)) t) h ?_)⟩
  · simp only [hcheck, hread]
    exact if_neg (mt hstays.mp hgo)
  · simp only [hcheck, hread]
    exact if_pos (hstays.mpr hstay)

/-- A word at a peer is asked for before it is waited on (R387). -/
theorem swaitw_asks (hpeer : isAperture a.pa = true) (hask : g.sc.watch.bind (fun w => w.asked) = none)
    (h : ScalarReady x s core slot g) : exec i s = .next (modScalar (acquireRead s core .package a 8 100).state core slot (fun z =>
      { z with watch := some { beginWait s core a (x.lit.map BitVec.toNat) with asked := some s.fresh, woken := wokenOn g.sc.watch },
               stalled := false })) := by
  refine (exec_waitw hx s hop).trans (runScalar_stops (r := .sleepWord
    { beginWait s core a (x.lit.map BitVec.toNat) with asked := some s.fresh, woken := wokenOn g.sc.watch }
    (acquireRead s core .package a 8 100).state) h ?_)
  simp only [hcheck, waitRead_of_unasked _ _ hpeer hask]

end

theorem swaitw_wakes {s : State} {core slot : Nat} {g : Group} {w : WordWait} {timeout : Bool}
    (hg : groupOf s core slot = some g) (hwatch : g.sc.watch = some w) (hwoken : w.woken = false) (hask : w.asked = none)
    (hover : waitOver s core w timeout = true) (hctx : (ctxOf s g.ctx).state ≠ .faulted) :
    exec (.swaitwWake core slot timeout) s =
      .next (modScalar s core slot (fun z => { z with watch := some { w with woken := true } })) := by
  have hasleep : asleepOn (some w) = true := by simp [asleepOn, hwoken, hask]
  refine (Eq.refl (execSwaitwWake core slot timeout s)).trans ?_
  simp only [execSwaitwWake, hg, hwatch]
  exact if_pos ⟨hasleep, hover, hctx⟩

theorem scalarWait : Sys2Proof.Rules.ScalarWait := by
  intro i x s core slot g a r w timeout hx hop hcheck w0 read v t
  refine ⟨fun hread => ⟨fun hgo => ?delivers, fun heq hlit hwoken => ?sleeps⟩, swaitw_asks hx hop hcheck, swaitw_wakes⟩
  case delivers =>
    refine (swaitw_read hx hop hcheck hread).1 fun hstay => ?_
    obtain ⟨hwoken, heq, hlit⟩ := hstay
    exact hgo.elim (· heq) fun hgo => hgo.elim hlit fun h => Bool.false_ne_true (hwoken.symm.trans h)
  case sleeps => exact (swaitw_read hx hop hcheck hread).2 ⟨hwoken, heq, hlit⟩

/-! ## The step limit (R230) -/

theorem op_lt_of_scalarResult {g : Group} {x : ScalarFields} {v : DWord} (h : Rules.scalarResult g x = some v) :
    x.op < 0x40 := by
  refine Nat.lt_of_not_le fun hop => ?_
  rw [Rules.scalarResult, if_pos hop] at h
  cases h

/-- A trap other than ACCESS has no walk before it (R345). -/
theorem stopScalar_trap {t : Trap} (h : t.code ≠ 0x0D) (s : State) (core slot : Nat) : stopScalar s core slot (.trap t) =
    raiseTrap (modScalar s core slot (fun z => { z with watch := none })) core slot .scalar t := by
  have hwalk : stopWalk s core slot (.trap t) = s := by
    simp only [stopWalk, h, if_false]
    split <;> rfl
  rw [stopScalar, hwalk]

theorem scalarStepLimit : Sys2Proof.Rules.ScalarStepLimit := by
  intro i x s core slot g v w hturn hg hcan hfull at_
  have hsteps : stepsFull g = true := decide_eq_true hfull
  have htrap : ∀ w, stopScalar s core slot (.trap ⟨0x01, 5, w, none, none⟩) = at_ w := fun w =>
    stopScalar_trap (t := ⟨0x01, 5, w, none, none⟩) (show 0x01 ≠ 0x0D by decide) s core slot
  refine ⟨fun hx hresult => ?issue, ?step⟩
  case issue =>
    have halu : isScalarAlu x = true := decide_eq_true (op_lt_of_scalarResult hresult)
    obtain ⟨body, hbody⟩ := exec_scalar hx s
    simp only [hbody, runScalar, hturn, hg, hcan, attemptScalar, halu, hsteps, and_self, if_true, trapSub, htrap]
  case step =>
    refine (Eq.refl (execScalarStepLimit w s)).trans ?_
    simp only [execScalarStepLimit, hturn, hg, hcan, hsteps, and_self, if_true, htrap]

/-- Settles O25: each access by the check of its address, a wait by the word that it reads, the step limit by the count alone,
a far target by its own check. -/
theorem scalarMemoryAndLimits : Obligations.ScalarMemoryAndLimits :=
  ⟨scalarMemory, scalarWait, scalarStepLimit, scalarFarTargets⟩

end Sys2Proof.Proofs
end

section
/-!
SUPPORT and PROOFS of the statements about lane results in predicates, in floating-point words, and combined from several
slots or lanes.
-/
namespace Sys2Proof.Proofs

open Sys2Proof Sys2Proof.Machine Sys2Proof.Safety Sys2Proof.Laws

/-! ## Masks of the lanes that satisfy a test -/

/-- The number whose bits below `n` are the truth values of `p`. -/
def bitsUp (p : Nat → Bool) (n : Nat) : Nat := (List.range n).foldl (fun a l => if p l then a + 2 ^ l else a) 0

theorem maskOf_eq_bitsUp (p : Nat → Bool) : maskOf p = BitVec.ofNat 64 (bitsUp p 64) := rfl

theorem bitsUp_succ (p : Nat → Bool) (n : Nat) : bitsUp p (n + 1) = 2 ^ n * (p n).toNat + bitsUp p n := by
  rw [bitsUp, List.range_succ, List.foldl_append]
  cases h : p n with
  | false => simp [bitsUp, h]
  | true => simp [bitsUp, h, Nat.add_comm]

theorem bitsUp_lt (p : Nat → Bool) (n : Nat) : bitsUp p n < 2 ^ n := by
  induction n with
  | zero => exact Nat.one_pos
  | succ n ih =>
    have hbit : 2 ^ n * (p n).toNat ≤ 2 ^ n * 1 := Nat.mul_le_mul_left _ (Bool.toNat_le _)
    rw [bitsUp_succ, Nat.pow_succ]
    omega

theorem testBit_bitsUp (p : Nat → Bool) {n j : Nat} (h : j < n) : (bitsUp p n).testBit j = p j := by
  induction n with
  | zero => cases h
  | succ n ih =>
    rw [bitsUp_succ, Nat.testBit_two_pow_mul_add _ (bitsUp_lt p n)]
    split
    next hlow => exact ih hlow
    next hlow =>
      obtain rfl : j = n := by omega
      rw [Nat.sub_self, Nat.testBit_zero]
      cases p j <;> rfl

theorem getLsbD_maskOf (p : Nat → Bool) {lane : Nat} (h : lane < 64) : (maskOf p).getLsbD lane = p lane := by
  rw [maskOf_eq_bitsUp, BitVec.getLsbD_ofNat, testBit_bitsUp p h, decide_eq_true h, Bool.true_and]

theorem getLsbD_everyLane (b : Bool) {lane : Nat} (h : lane < 64) : (everyLane b).getLsbD lane = b := by
  cases b with
  | false => exact BitVec.getLsbD_zero
  | true => exact (BitVec.getLsbD_allOnes).trans (decide_eq_true h)

/-! ## Instructions that write predicates (R199, R202, R221, R224) -/

section
variable {i : Instr} {s : State} {e : Iss} {qs : List Queue} {p : Nat} {val : Nat → Bool}

/-- One predicate whose mask holds the truth values of `val`. -/
theorem pred_puts_of {m : Iss → State → Mask} {fl : Iss → State → Flags}
    (hx : exec i s = runLane i s (fun e s => .ok (Done.pred s p e.lanes (m e s) (fl e s))))
    (hval : ∀ lane, lane < 64 → (m e (issued s e qs)).getLsbD lane = val lane) :
    PutsPreds i s e qs [p] (fun _ => val) (fl e (issued s e qs)) :=
  putsPreds (m := fun _ => m e (issued s e qs)) hx (fun _ => rfl) rfl rfl rfl rfl rfl
    fun _ _ lane htakes => hval lane (BitVec.lt_of_getLsbD htakes)

/-- A test of each lane. -/
theorem test_puts {test : Iss → State → Nat → Bool} {fl : Iss → State → Flags}
    (hx : exec i s = runLane i s (fun e s => .ok (Done.pred s p e.lanes (maskOf (test e s)) (fl e s))))
    (hval : ∀ lane, test e (issued s e qs) lane = val lane) :
    PutsPreds i s e qs [p] (fun _ => val) (fl e (issued s e qs)) :=
  pred_puts_of hx fun lane hlane => (getLsbD_maskOf _ hlane).trans (hval lane)

/-- One truth value for every lane. -/
theorem vote_puts {vote : Iss → State → Bool}
    (hx : exec i s = runLane i s (fun e s => .ok (Done.pred s p e.lanes (everyLane (vote e s)) 0))) :
    PutsPreds i s e qs [p] (fun _ _ => vote e (issued s e qs)) 0 :=
  pred_puts_of (fl := fun _ _ => 0) hx fun _ hlane => getLsbD_everyLane _ hlane

/-- An operation on two predicates that acts on each lane by itself. -/
theorem predOp_puts {f : LaneForm} {op : Mask → Mask → Mask} {on : Bool → Bool → Bool} (hx : exec i s = predOp i f op s)
    (hop : ∀ (a b : Mask) lane, lane < 64 → (op a b).getLsbD lane = on (a.getLsbD lane) (b.getLsbD lane)) :
    PutsPreds i s e qs [f.dst.toNat]
      (fun _ l => on (Rules.predAt s e qs f.src1 l) (Rules.predAt s e qs f.src2 l)) 0 :=
  pred_puts_of (fl := fun _ _ => 0) hx fun lane hlane => hop _ _ lane hlane

end

theorem icmp_puts {c : ICond} {f : LaneForm} {s : State} {e : Iss} {qs : List Queue} {truth : Nat → Bool}
    (htruth : ∀ l, icmpOp c (Rules.src s e qs 1 l).toNat (Rules.src s e qs 2 l).toNat = truth l) :
    PutsPreds (.icmp c f) s e qs [f.dst.toNat] (fun _ => truth) 0 :=
  test_puts (fl := fun _ _ => 0) (Eq.refl (execIcmp c f s)) htruth

theorem psplit_puts (f : LaneForm) (s : State) (e : Iss) (qs : List Queue) :
    PutsPreds (.psplit f) s e qs (List.range 7) (fun p l => (Rules.src s e qs 1 l).getLsbD p) 0 :=
  putsPreds (i := .psplit f) (s := s) (m := fun p => maskOf fun l => (Rules.src s e qs 1 l).getLsbD p)
    (Eq.refl (execPsplit f s)) (fun _ => rfl) rfl rfl rfl rfl rfl fun _ _ _ htakes =>
      getLsbD_maskOf _ (BitVec.lt_of_getLsbD htakes)

theorem decide_toNat_eq {n : Nat} (a b : BitVec n) : decide (a.toNat = b.toNat) = (a == b) := by
  rw [Bool.eq_iff_iff, decide_eq_true_eq, beq_iff_eq, BitVec.toNat_inj]

theorem decide_toNat_ne {n : Nat} (a b : BitVec n) : decide (a.toNat ≠ b.toNat) = (a != b) := by
  rw [decide_not, decide_toNat_eq]; rfl

/-- Settles O1: each condition of `icmp` on the words as bit vectors, the others by what their mask holds in a lane. -/
theorem predicateResults : Obligations.PredicateResults := by
  intro f c fc s e qs
  refine ⟨icmp_puts fun l => ?icmp, test_puts (i := .fcmp fc f) (s := s) (Eq.refl (execFcmp fc f s)) fun _ => rfl,
    vote_puts (i := .voteAny f) (s := s) (Eq.refl (execVoteAny f s)),
    vote_puts (i := .voteAll f) (s := s) (Eq.refl (execVoteAll f s)),
    predOp_puts (on := and) (Eq.refl (execPand f s)) fun _ _ _ _ => BitVec.getLsbD_and,
    predOp_puts (on := or) (Eq.refl (execPor f s)) fun _ _ _ _ => BitVec.getLsbD_or,
    predOp_puts (on := bne) (Eq.refl (execPxor f s)) fun _ _ _ _ => BitVec.getLsbD_xor,
    predOp_puts (on := fun a _ => !a) (Eq.refl (execPnot f s)) fun a _ lane hlane => ?pnot,
    test_puts (fl := fun _ _ => 0) (Eq.refl (execPmov f s)) fun l => decide_toNat_ne (Rules.src s e qs 1 l) 0,
    psplit_puts f s e qs⟩
  case icmp =>
    cases c with
    | eq => exact decide_toNat_eq _ _
    | ne => exact decide_toNat_ne _ _
    | ltI => simp only [icmpOp, toSigned_toNat]
    | leI => simp only [icmpOp, toSigned_toNat]
    | gtI => simp only [icmpOp, toSigned_toNat]
    | geI => simp only [icmpOp, toSigned_toNat]
    | ltN => rfl
    | leN => rfl
    | gtN => rfl
    | geN => rfl
  case pnot => simp only [BitVec.getLsbD_not, hlane, decide_true, Bool.true_and]

/-! ## Instructions with a floating result in each lane (R192, R200) -/

theorem orFlags_map_zero (ls : List Nat) : orFlags (ls.map fun _ => 0) = 0 := by
  induction ls with
  | nil => rfl
  | cons l ls ih =>
    rw [List.map_cons, orFlags, List.foldl_cons, BitVec.or_self]
    exact ih

section
variable {i : Instr} {s : State} {e : Iss} {qs : List Queue} {lat : Nat} {r : Nat → FRes}

/-- A floating result of each lane, with the flags of all of them. -/
theorem float_puts_of {f : Iss → State → Nat → FRes}
    (hx : exec i s = runLane i s (fun e s => .ok (floatDone s e lat (f e s))))
    (hr : ∀ lane, f e (issued s e qs) lane = r lane) :
    Puts32 i s e qs (Rules.dst e) (fun l => BitVec.ofNat 32 (r l).code) (Rules.flagsOf e r) 0 := by
  rw [← funext hr]; exact float_puts hx

/-- A one-source floating instruction whose operation on numbers is `f` on words. -/
theorem float1_puts {a : Nat} {op : FEnv → Nat → FRes} {f : Word → FRes} (hx : exec i s = float1 i a lat op s)
    (hop : ∀ x : Word, op (Rules.env e) x.toNat = f x)
    (hr : ∀ lane, some (f (Rules.src s e qs a lane)) = some (r lane)) :
    Puts32 i s e qs (Rules.dst e) (fun l => BitVec.ofNat 32 (r l).code) (Rules.flagsOf e r) 0 :=
  float_puts_of hx fun lane => (hop _).trans (Option.some.inj (hr lane))

/-- A two-source floating instruction whose operation on numbers is `f` on words. -/
theorem float2_puts {a b : Nat} {op : FEnv → Nat → Nat → FRes} {f : Word → Word → FRes}
    (hx : exec i s = float2 i a b lat op s) (hop : ∀ x y : Word, op (Rules.env e) x.toNat y.toNat = f x y)
    (hr : ∀ lane, some (f (Rules.src s e qs a lane) (Rules.src s e qs b lane)) = some (r lane)) :
    Puts32 i s e qs (Rules.dst e) (fun l => BitVec.ofNat 32 (r l).code) (Rules.flagsOf e r) 0 :=
  float_puts_of hx fun lane => (hop _ _).trans (Option.some.inj (hr lane))

/-- A three-source floating instruction whose operation on numbers is `f` on words. -/
theorem float3_puts {op : FEnv → Nat → Nat → Nat → FRes} {f : Word → Word → Word → FRes}
    (hx : exec i s = float3 i lat op s)
    (hop : ∀ x y z : Word, op (Rules.env e) x.toNat y.toNat z.toNat = f x y z)
    (hr : ∀ lane, some (f (Rules.src s e qs 1 lane) (Rules.src s e qs 2 lane) (Rules.src s e qs 3 lane)) =
      some (r lane)) :
    Puts32 i s e qs (Rules.dst e) (fun l => BitVec.ofNat 32 (r l).code) (Rules.flagsOf e r) 0 :=
  float_puts_of hx fun lane => (hop _ _ _).trans (Option.some.inj (hr lane))

/-- A one-source instruction on bits, which raises no flag. -/
theorem bits_puts {a : Nat} {op : FEnv → Nat → FRes} {f : Word → Word} (hx : exec i s = float1 i a lat op s)
    (hop : ∀ x : Word, op (Rules.env e) x.toNat = ⟨(f x).toNat, 0⟩) :
    Puts32 i s e qs (Rules.dst e) (fun l => f (Rules.src s e qs a l)) 0 0 := by
  have hflags : Rules.flagsOf e (fun l => ⟨(f (Rules.src s e qs a l)).toNat, 0⟩) = 0 := orFlags_map_zero _
  have hputs := float1_puts (qs := qs) hx hop fun _ => rfl
  simp only [hflags, ofNat_toNat_word] at hputs
  exact hputs

end

/-! ## Results combined from several slots or lanes (R215, R216, R222) -/

/-- Of numbers in ascending order, those up to `n` stand in front. -/
theorem takeWhile_le_eq_filter {l : List Nat} (n : Nat) (hl : l.Pairwise (· < ·)) :
    l.takeWhile (fun j => decide (j ≤ n)) = l.filter (fun j => decide (j ≤ n)) := by
  induction hl with
  | nil => rfl
  | @cons j l hhead _ ih =>
    by_cases hj : j ≤ n
    · simp [hj, ih]
    · have hnone : ∀ k ∈ l, ¬ k ≤ n := fun k hk hkn => hj (Nat.le_trans (Nat.le_of_lt (hhead k hk)) hkn)
      simpa [hj] using hnone

theorem subGroup_ascending (k lane : Nat) : (subGroup k lane).Pairwise (· < ·) :=
  (List.pairwise_lt_range).map _ fun _ _ h => Nat.add_lt_add_left h _

theorem subGroup_eq (k lane : Nat) :
    subGroup k lane = (List.range (2 ^ k)).map (fun j => lane - lane % 2 ^ k + j) := by
  rw [subGroup, div_mul_eq_sub_mod]

/-- Settles O2: the model's sub-group, its positions up to a lane, and the slots of a chain are those of the rules. -/
theorem combinedResults : Obligations.CombinedResults := by
  intro f op c s e qs
  refine ⟨float_puts_of (Eq.refl (execRed op f s)) fun l => ?red, float_puts_of (Eq.refl (execScan op f s)) fun l => ?scan,
    puts32 (i := .chain c) (s := s) (Eq.refl (execChain c s)) (fun _ => rfl) rfl rfl rfl rfl rfl fun _ _ => rfl⟩
  case red => rw [subGroup_eq]; rfl
  case scan => rw [takeWhile_le_eq_filter l (subGroup_ascending _ l), subGroup_eq]; rfl

/-! ## FP32 results (R200, R201, R203) -/

theorem floatResults : Sys2Proof.Rules.FloatResults := by
  intro i s e qs r h
  cases i with
  | fadd rm f => exact float2_puts (Eq.refl (execFadd rm f s)) (fun _ _ => rfl) h
  | faddShort f => exact float2_puts (Eq.refl (execFaddShort f s)) (fun _ _ => rfl) h
  | fsub rm f => exact float2_puts (Eq.refl (execFsub rm f s)) (fun _ _ => rfl) h
  | fsubShort f => exact float2_puts (Eq.refl (execFsubShort f s)) (fun _ _ => rfl) h
  | fmul rm f => exact float2_puts (Eq.refl (execFmul rm f s)) (fun _ _ => rfl) h
  | fmulShort f => exact float2_puts (Eq.refl (execFmulShort f s)) (fun _ _ => rfl) h
  | ffma rm f => exact float3_puts (Eq.refl (execFfma rm f s)) (fun _ _ _ => rfl) h
  | fmin f => exact float2_puts (Eq.refl (execFmin f s)) (fun _ _ => rfl) h
  | fminShort f => exact float2_puts (Eq.refl (execFminShort f s)) (fun _ _ => rfl) h
  | fmax f => exact float2_puts (Eq.refl (execFmax f s)) (fun _ _ => rfl) h
  | fmaxShort f => exact float2_puts (Eq.refl (execFmaxShort f s)) (fun _ _ => rfl) h
  | frnd rm f => exact float1_puts (Eq.refl (execFrnd rm f s)) (fun _ => rfl) h
  | fclass f => exact float1_puts (Eq.refl (execFclass f s)) (fun _ => rfl) h
  | _ => cases h 0

/-! ## Sign instructions (R201) -/

theorem absBits_toNat (v : FEnv) (a : Word) : absBits v a.toNat = ⟨(a &&& 0x7FFFFFFF).toNat, 0⟩ := by
  rw [absBits, BitVec.toNat_and]
  exact congrArg (FRes.mk · 0) (Nat.and_two_pow_sub_one_eq_mod a.toNat 31).symm

theorem negBits_toNat (v : FEnv) (a : Word) : negBits v a.toNat = ⟨(a ^^^ 0x80000000).toNat, 0⟩ := by
  rw [negBits, BitVec.toNat_xor]; rfl

theorem signBits : Sys2Proof.Rules.SignBits := by
  intro f h s e qs
  exact ⟨bits_puts (i := .fabs f) (s := s) (Eq.refl (execFabs f s)) (absBits_toNat _),
    bits_puts (i := .fabsShort h) (s := s) (Eq.refl (execFabsShort h s)) (absBits_toNat _),
    bits_puts (i := .fneg f) (s := s) (Eq.refl (execFneg f s)) (negBits_toNat _),
    bits_puts (i := .fnegShort h) (s := s) (Eq.refl (execFnegShort h s)) (negBits_toNat _)⟩

/-! ## The destination of an issuing instruction -/

theorem settleField_idx (fmt : Word) (f : Field) : (settleField fmt f).idx = f.idx := by
  unfold settleField; split <;> rfl

theorem settleField_spec (fmt : Word) (f : Field) : (settleField fmt f).spec = f.spec := by
  unfold settleField; split <;> rfl

/-- `fmt` settles the class of a field, not its specifier. -/
theorem fieldAt_settleFields_spec (fmt : Word) (x : Fields) (k : Nat) :
    (fieldAt (settleFields fmt x) k).spec = (fieldAt x k).spec := by
  have htest : (fun f => decide (f.idx = k)) ∘ settleField fmt = fun f => decide (f.idx = k) :=
    funext fun f => congrArg (fun n => decide (n = k)) (settleField_idx fmt f)
  rw [fieldAt, settleFields, List.find?_map, htest, fieldAt]
  cases x.fields.find? (fun f => decide (f.idx = k)) with
  | none => rfl
  | some f => exact settleField_spec fmt f

/-- The destination of an instruction in a lane form is that of its form. -/
theorem dst_of_laneInfo {i : Instr} {x : LaneInfo} {s : State} {e : Iss} (hinfo : laneInfo i = some x)
    (h : Ready i s e) : Rules.dst e = x.form.dst.toNat := by
  have hfields := h.fields
  simp only [fieldsOf, hinfo, Option.map_some, Option.some.injEq] at hfields
  rw [Rules.dst, ← hfields, fieldAt_settleFields_spec]
  rfl

/-! ## Packed results (R205, R206, R208) -/

theorem toNat_lowHalf (a : Word) : (a.extractLsb' 0 16).toNat = a.toNat % 65536 := by
  rw [BitVec.extractLsb'_toNat, Nat.shiftRight_zero]

theorem toNat_highHalf (a : Word) : (a.extractLsb' 16 16).toNat = a.toNat / 65536 := by
  have hword := a.isLt
  rw [BitVec.extractLsb'_toNat, Nat.shiftRight_eq_div_pow, Nat.mod_eq_of_lt (by omega)]

theorem packed2_toNat (op : Nat → Nat → FRes) (a b : Word) : packed2 op a.toNat b.toNat = Rules.halves2 op a b := by
  simp only [packed2, Rules.halves2, toNat_lowHalf, toNat_highHalf]

theorem packed3_toNat (op : Nat → Nat → Nat → FRes) (a b c : Word) :
    packed3 op a.toNat b.toNat c.toNat = Rules.halves3 op a b c := by
  simp only [packed3, Rules.halves3, toNat_lowHalf, toNat_highHalf]

/-- `cvt` between types of one word (R206). -/
theorem cvt_word_puts {rm : RM} {f : LaneForm} {s : State} {e : Iss} {qs : List Queue} {r : Nat → FRes}
    (htgt : wideType f.src2.toNat = false) (hsrc : wideType f.src3.toNat = false)
    (hr : ∀ lane, cvtValue (Rules.env e) (modeOf (Rules.env e) rm) f.src2.toNat f.src3.toNat
      (Rules.src s e qs 1 lane).toNat = r lane) :
    Puts32 (.cvt rm f) s e qs (Rules.dst e) (fun l => BitVec.ofNat 32 (r l).code) (Rules.flagsOf e r) 0 := by
  intro hissues
  obtain ⟨-, hword⟩ := wideConversion rm f s e qs
  have hdst : Rules.dst e = f.dst.toNat := dst_of_laneInfo rfl hissues.toReady
  rw [hdst]
  simp only [hsrc, Bool.false_eq_true, if_false, hr] at hword
  exact hword htgt hissues

theorem packedResults : Sys2Proof.Rules.PackedResults := by
  intro i s e qs r h
  cases i with
  | hadd2 k f => exact float2_puts (Eq.refl (execHadd2 k f s)) (packed2_toNat _) h
  | hadd2F16Short f => exact float2_puts (Eq.refl (execHadd2F16Short f s)) (packed2_toNat _) h
  | hadd2Bf16Short f => exact float2_puts (Eq.refl (execHadd2Bf16Short f s)) (packed2_toNat _) h
  | hsub2 k f => exact float2_puts (Eq.refl (execHsub2 k f s)) (packed2_toNat _) h
  | hmul2 k f => exact float2_puts (Eq.refl (execHmul2 k f s)) (packed2_toNat _) h
  | hmul2F16Short f => exact float2_puts (Eq.refl (execHmul2F16Short f s)) (packed2_toNat _) h
  | hmul2Bf16Short f => exact float2_puts (Eq.refl (execHmul2Bf16Short f s)) (packed2_toNat _) h
  | hfma2 k f => exact float3_puts (Eq.refl (execHfma2 k f s)) (packed3_toNat _) h
  | hmin2 k f => exact float2_puts (Eq.refl (execHmin2 k f s)) (packed2_toNat _) h
  | hmax2 k f => exact float2_puts (Eq.refl (execHmax2 k f s)) (packed2_toNat _) h
  | pk2 k f => exact float2_puts (Eq.refl (execPk2 k f s)) (fun _ _ => rfl) h
  | cvt rm f =>
    have hword : ∀ lane, ¬ (wideType f.src2.toNat ∨ wideType f.src3.toNat) ∧
        cvtValue (Rules.env e) (modeOf (Rules.env e) rm) f.src2.toNat f.src3.toNat (Rules.src s e qs 1 lane).toNat = r lane :=
      fun lane => by simpa [Rules.packed] using h lane
    obtain ⟨hnarrow, -⟩ := hword 0
    obtain ⟨htgt, hsrc⟩ := not_or.mp hnarrow
    exact cvt_word_puts (eq_false_of_ne_true htgt) (eq_false_of_ne_true hsrc) fun lane => (hword lane).2
  | _ => cases h 0

/-- Settles O5: each operation on numbers is the rules' operation on words, halves or bits. -/
theorem floatingResults : Obligations.FloatingResults := ⟨floatResults, signBits, packedResults⟩

end Sys2Proof.Proofs
end

section
/-!
SUPPORT and PROOFS of the statements about the scalar stream's results, branches and calls.
-/
namespace Sys2Proof.Proofs

open Sys2Proof Sys2Proof.Machine Sys2Proof.Safety Sys2Proof.Laws

/-! ## What a scalar instruction leaves of its group (R230) -/

/-- Where an instruction's effect is its stream's own, nothing but its group's scalar stream is new. -/
theorem exec_of_scalarCompletes {i : Instr} {x : ScalarFields} {s : State} {core slot : Nat} {g : Group} {f : Scalar → Scalar}
    {pc : Option (BitVec 48)} (h : ScalarCompletes i x s core slot g (modScalar s core slot f) pc)
    (hready : ScalarReady x s core slot g) :
    exec i s = .next (setGroup s core slot { g with sc := scalarAfter x g pc (f g.sc) }) := by
  rw [h hready, modScalar_some s core slot f g hready.group, modScalar_some _ _ _ _ _ (groupOf_setGroup ..), setGroup_setGroup]

theorem ofNat_scalarBytes (x : ScalarFields) : BitVec.ofNat 48 (scalarBytes x) = if x.lit.isSome then 8 else 4 := by
  unfold scalarBytes; split <;> rfl

/-! ## Results (R229) -/

theorem smulhSigned_eq (a b : DWord) : smulhSigned a b = Rules.highI a b := by
  have hprod : (a.signExtend 128 * b.signExtend 128).toInt = a.toInt * b.toInt := by
    have hlow : -2 ^ 126 ≤ a.toInt * b.toInt := BitVec.le_toInt_mul_toInt
    have hhigh : a.toInt * b.toInt ≤ 2 ^ 126 := BitVec.toInt_mul_toInt_le
    rw [BitVec.toInt_mul, BitVec.toInt_signExtend_of_le (by decide), BitVec.toInt_signExtend_of_le (by decide)]
    exact Int.bmod_eq_of_le (by omega) (by omega)
  rw [smulhSigned, Rules.highI, ← hprod]
  generalize a.signExtend 128 * b.signExtend 128 = p
  have hlt := p.isLt
  refine BitVec.eq_of_toNat_eq ?_
  rw [BitVec.toNat_setWidth, BitVec.toNat_ushiftRight, Nat.shiftRight_eq_div_pow, BitVec.toNat_ofInt,
    BitVec.toInt_eq_toNat_cond]
  split <;> omega

theorem smulhUnsigned_eq (a b : DWord) : smulhUnsigned a b = Rules.highN a b := by
  have hprod : (a.setWidth 128 * b.setWidth 128).toNat = a.toNat * b.toNat := by
    have hlt : a.toNat * b.toNat < 2 ^ 64 * 2 ^ 64 := Nat.mul_lt_mul'' a.isLt b.isLt
    rw [BitVec.toNat_mul, BitVec.toNat_setWidth_of_le (by decide), BitVec.toNat_setWidth_of_le (by decide),
      Nat.mod_eq_of_lt (by omega)]
  refine BitVec.eq_of_toNat_eq ?_
  rw [smulhUnsigned, Rules.highN, BitVec.toNat_setWidth, BitVec.toNat_ushiftRight, Nat.shiftRight_eq_div_pow, hprod,
    BitVec.toNat_ofNat]

theorem immValue_eq (imm : BitVec 10) : immValue imm = (high4 imm ++ low6 imm).signExtend 64 := by
  rw [high4_append_low6, immValue, sext64_toNat (by decide)]

theorem op_lt_of_scalarOp {op : Nat} {a b v : DWord} (h : Rules.scalarOp op a b = some v) : op < 0x18 := by
  unfold Rules.scalarOp at h
  split at h
  case h_16 => cases h
  all_goals decide

section
variable {i : Instr} {x : ScalarFields} {s : State} {core slot : Nat} {g : Group} {v : DWord} {b : Group → DWord}
  {h : DWord → DWord → DWord} (hx : exec i s = salu x b h s) (hresult : Rules.scalarResult g x = some v)
include hx hresult

theorem salu_completes (hv : Rules.scalarResult g x = some (h (readS g x.sa) (b g))) :
    ScalarCompletes i x s core slot g (putS s core slot x.sd v) none := by
  rw [← Option.some.inj (hv.symm.trans hresult)]
  exact scalarCompletes_of hx rfl

/-- The three forms of an operation differ in where their second operand comes from. -/
theorem saluOp_completes {op : Nat} (hxop : x.op = op ∨ x.op = op + 0x20) (hb : Rules.scalarB g x = b g)
    (hop : ∀ a b, Rules.scalarOp op a b = some (h a b)) :
    ScalarCompletes i x s core slot g (putS s core slot x.sd v) none := by
  have hlt := op_lt_of_scalarOp (hop 0 0)
  have hmod : x.op % 0x20 = op := by omega
  refine salu_completes hx hresult ?_
  rw [Rules.scalarResult, if_neg (by omega), if_neg (by omega), if_neg (by omega), hmod, hop, hb]
  rfl

end

/-- Every instruction that has a result writes it to its destination. -/
theorem alu_completes {i : Instr} {x : ScalarFields} {s : State} {core slot : Nat} {g : Group} {v : DWord}
    (hfields : scalarFields i = some x) (hresult : Rules.scalarResult g x = some v) :
    ScalarCompletes i x s core slot g (putS s core slot x.sd v) none := by
  have hsigned : ∀ a b, Rules.scalarOp 0x03 a b = some (smulhSigned a b) := fun a b =>
    congrArg some (smulhSigned_eq a b).symm
  have hunsigned : ∀ a b, Rules.scalarOp 0x04 a b = some (smulhUnsigned a b) := fun a b =>
    congrArg some (smulhUnsigned_eq a b).symm
  cases i <;> cases hfields
  case sadd f | ssub f | smul f | sand f | sor f | sxor f | sshl f | sshr f | ssar f |
      sminI64 f | sminN64 f | smaxI64 f | smaxN64 f =>
    exact saluOp_completes rfl hresult (.inl rfl) rfl fun _ _ => rfl
  case smulhI64 f => exact saluOp_completes rfl hresult (.inl rfl) rfl hsigned
  case smulhN64 f => exact saluOp_completes rfl hresult (.inl rfl) rfl hunsigned
  case saddImm f | ssubImm f | smulImm f | sandImm f | sorImm f | sxorImm f | sshlImm f | sshrImm f | ssarImm f |
      sminI64Imm f | sminN64Imm f | smaxI64Imm f | smaxN64Imm f =>
    exact saluOp_completes rfl hresult (.inr rfl) (immValue_eq f.imm).symm fun _ _ => rfl
  case smulhI64Imm f => exact saluOp_completes rfl hresult (.inr rfl) (immValue_eq f.imm).symm hsigned
  case smulhN64Imm f => exact saluOp_completes rfl hresult (.inr rfl) (immValue_eq f.imm).symm hunsigned
  case saddImmS64 f | ssubImmS64 f | smulImmS64 f | sandImmS64 f | sorImmS64 f | sxorImmS64 f | sshlImmS64 f | sshrImmS64 f |
      ssarImmS64 f | sminI64ImmS64 f | sminN64ImmS64 f | smaxI64ImmS64 f | smaxN64ImmS64 f =>
    exact saluOp_completes rfl hresult (.inr rfl) (litValue_eq f.lit).symm fun _ _ => rfl
  case smulhI64ImmS64 f => exact saluOp_completes rfl hresult (.inr rfl) (litValue_eq f.lit).symm hsigned
  case smulhN64ImmS64 f => exact saluOp_completes rfl hresult (.inr rfl) (litValue_eq f.lit).symm hunsigned
  case smov sd sa => exact salu_completes (Eq.refl (execSmov sd sa s)) hresult rfl
  case sli sd imm => exact salu_completes (Eq.refl (execSli sd imm s)) hresult (congrArg some (immValue_eq imm).symm)
  case sliS64 sd lit => exact salu_completes (Eq.refl (execSliS64 sd lit s)) hresult (congrArg some (litValue_eq lit).symm)
  all_goals cases hresult

/-- The scalar stream after an ALU instruction: its register, its place and its count. -/
theorem scalarAfter_writeS {x : ScalarFields} (hlow : x.op < 0x40) (g : Group) (v : DWord) :
    scalarAfter x g none (writeS g.sc x.sd v) = { g.sc with
      s := if x.sd = 0 then g.sc.s else lset 0 g.sc.s x.sd.toNat v, watch := none, stalled := false,
      pc := g.sc.pc + (if x.lit.isSome then 8 else 4), steps := g.sc.steps + 1 } := by
  have halu : isScalarAlu x = true := decide_eq_true hlow
  simp only [scalarAfter, halu, if_true, Option.getD_none, ofNat_scalarBytes]
  by_cases hzero : x.sd = 0
  · simp only [writeS, hzero, if_true]
  · simp only [writeS, hzero, if_false]

/-- Settles O22: the result by the form of its second operand, its place by `s0`. -/
theorem scalarResults : Obligations.ScalarResults := by
  intro i x s core slot g v hfields hr hready
  rw [exec_of_scalarCompletes (alu_completes hfields hr) hready, scalarAfter_writeS (op_lt_of_scalarResult hr)]

/-! ## Branches and jumps (R231) -/

theorem op_ge_of_branchOp {op : Nat} {a b : DWord} {c : Bool} (h : Rules.branchOp op a b = some c) : 0x40 ≤ op := by
  unfold Rules.branchOp at h
  split at h
  case h_8 => cases h
  all_goals decide

theorem checkScalarPage_of_open {s : State} {core : Nat} {g : Group} {t : DWord} (h : Rules.scalarOpen s core g t) :
    checkScalarPage s core g t = .ok () := by
  obtain ⟨halign, hnear, hpage⟩ := h
  simp only [checkScalarPage, checkScalarTarget, halign, Nat.not_le.mpr hnear, hpage, ne_eq, not_true, if_false,
    Bool.false_eq_true]

theorem checkScalarPage_of_casnis {s : State} {core : Nat} {g : Group} {t : DWord} (halign : t.toNat % 4 = 0)
    (hnear : t.toNat < 2 ^ 48) (hpage : onCasnisPage s core g.ctx t.toNat = true) :
    checkScalarPage s core g t = trapOf 0x0D t := by
  simp only [checkScalarPage, checkScalarTarget, halign, Nat.not_le.mpr hnear, hpage, ne_eq, not_true, if_false, if_true]

theorem scalarTarget_offset (g : Group) (x : ScalarFields) : scalarTarget g (Rules.scalarOffset x) = Rules.scalarGoal g x := rfl

section
variable {i : Instr} {x : ScalarFields} {s : State} {core slot : Nat} {g : Group} {c : Bool} (hx : scalarFields i = some x)
  (hc : Rules.branchOp x.op (Rules.sreg g x.sa) (Rules.sreg g x.sb) = some c)
include hx hc

theorem branch_completes (halign : (Rules.scalarGoal g x).toNat % 4 = 0)
    (hopen : c = true → Rules.scalarOpen s core g (Rules.scalarGoal g x)) :
    ScalarCompletes i x s core slot g s (if c then some ((Rules.scalarGoal g x).setWidth 48) else none) := by
  have hcond : branchCond x g = c := congrArg (·.getD false) hc
  refine scalarCompletes_of (exec_branch hx hc s) ((if_neg fun hodd => hodd halign).trans ?_)
  cases c with
  | true => simp only [hcond, scalarTarget_offset, checkScalarPage_of_open (hopen rfl), if_true]
  | false => simp only [hcond, Bool.false_eq_true, if_false]

theorem branch_traps_align (hodd : (Rules.scalarGoal g x).toNat % 4 ≠ 0) :
    ScalarTraps i x s core slot g ⟨0x0C, 0, Rules.scalarGoal g x, none, none⟩ :=
  scalarTraps_of (exec_branch hx hc s) (if_pos hodd)

theorem branch_traps_access (htaken : c = true) (halign : (Rules.scalarGoal g x).toNat % 4 = 0)
    (hnear : (Rules.scalarGoal g x).toNat < 2 ^ 48) (hpage : onCasnisPage s core g.ctx (Rules.scalarGoal g x).toNat = true) :
    ScalarTraps i x s core slot g ⟨0x0D, 0, Rules.scalarGoal g x, none, none⟩ := by
  have hcond : branchCond x g = true := congrArg (·.getD false) (hc.trans (congrArg some htaken))
  refine scalarTraps_of (exec_branch hx hc s) ((if_neg fun hodd => hodd halign).trans ?_)
  simp only [hcond, scalarTarget_offset, checkScalarPage_of_casnis halign hnear hpage, if_true, trapOf]

end

/-- Settles O23: the target by its alignment and its page, the way by the condition. -/
theorem scalarBranches : Obligations.ScalarBranches := by
  intro i x s core slot g c hx hc t
  refine ⟨fun hready halign hopen => ?goes, branch_traps_align hx hc, branch_traps_access hx hc⟩
  have hop : isScalarAlu x = false := decide_eq_false (Nat.not_lt.mpr (op_ge_of_branchOp hc))
  rw [branch_completes hx hc halign hopen hready, modScalar_some _ _ _ _ _ hready.group]
  simp only [scalarAfter, hop, ofNat_scalarBytes]
  cases c <;> rfl

/-! ## Calls and returns (R232, R249) -/

section
variable {i : Instr} {x : ScalarFields} (h : scalarFields i = some x) (s : State)
include h

theorem exec_call (hop : x.op = 0x49) : exec i s = scallTo x (Rules.scalarOffset x) s := by
  cases i <;> cases h <;> cases hop
  case scall off => exact congrArg (scallTo ⟨0x49, 0, 0, low6 off, high4 off, none⟩ · s) (wordOffset_eq off)
  case scallS64 lit => exact congrArg (scallTo ⟨0x49, 0, 0, 0, 0, some lit⟩ · s) (litValue_eq lit)

theorem sret_of_op (hop : x.op = 0x4A) : i = .sret ∧ x = sretForm := by
  cases i <;> cases h <;> cases hop
  exact ⟨rfl, rfl⟩

end

section
variable {i : Instr} {x : ScalarFields} {s : State} {core slot : Nat} {g : Group} (hx : scalarFields i = some x)
  (hop : x.op = 0x49) (hopen : Rules.scalarOpen s core g (Rules.scalarGoal g x))
include hx hop hopen

theorem scall_completes (hroom : g.sc.rstack.length < 16) : ScalarCompletes i x s core slot g
    (modScalar s core slot (fun z => { z with rstack := (g.sc.pc + (if x.lit.isSome then 8 else 4)).setWidth 64 :: z.rstack }))
    (some ((Rules.scalarGoal g x).setWidth 48)) := by
  refine scalarCompletes_of (exec_call hx s hop) ?_
  simp only [scalarTarget_offset, checkScalarPage_of_open hopen, if_neg (Nat.not_le.mpr hroom), ofNat_scalarBytes]

theorem scall_traps (hfull : 16 ≤ g.sc.rstack.length) : ScalarTraps i x s core slot g ⟨0x0B, 0, 16, none, none⟩ := by
  refine scalarTraps_of (exec_call hx s hop) ?_
  simp only [scalarTarget_offset, checkScalarPage_of_open hopen, if_pos hfull, trapOf]

end

section
variable {s : State} {core slot : Nat} {g : Group}

theorem sret_pops (hmark : g.sc.rmark.getD 0 < g.sc.rstack.length) (hopen : Rules.scalarOpen s core g (g.sc.rstack.headD 0)) :
    ScalarCompletes .sret sretForm s core slot g (modScalar s core slot (fun z => { z with rstack := z.rstack.tail }))
      (some ((g.sc.rstack.headD 0).setWidth 48)) := by
  refine scalarCompletes_of (Eq.refl (execSret s)) ((if_pos hmark).trans ?_)
  simp only [checkScalarPage_of_open hopen]

theorem sret_leaves_handler (hmark : g.sc.rstack.length ≤ g.sc.rmark.getD 0) (hhandler : g.sc.handler = true)
    (hopen : Rules.scalarOpen s core g ((recordAddress s core slot).setWidth 64)) :
    ScalarCompletes .sret sretForm s core slot g
      (modScalar s core slot (fun z => leaveScalarHandler z (recordAddress s core slot)))
      (some (recordAddress s core slot)) := by
  refine scalarCompletes_of (Eq.refl (execSret s)) ((if_neg (Nat.not_lt.mpr hmark)).trans ((if_pos hhandler).trans ?_))
  simp only [checkScalarPage_of_open hopen]

theorem sret_traps (hmark : g.sc.rstack.length ≤ g.sc.rmark.getD 0) (hhandler : g.sc.handler = false) :
    ScalarTraps .sret sretForm s core slot g ⟨0x01, 2, BitVec.ofNat 64 (scalarWord sretForm), none, none⟩ :=
  scalarTraps_of (Eq.refl (execSret s)) ((if_neg (Nat.not_lt.mpr hmark)).trans (if_neg (Bool.eq_false_iff.mp hhandler)))

end

/-- Settles O24: a call by the room on its stack, `sret` by what stands above the mark and by the handler. -/
theorem scalarCalls : Obligations.ScalarCalls := by
  intro i x s core slot g hx t back mark pc
  refine ⟨fun hop hopen => ⟨scall_completes hx hop hopen, scall_traps hx hop hopen⟩, fun hop => ?ret⟩
  obtain ⟨rfl, rfl⟩ := sret_of_op hx hop
  exact ⟨sret_pops, sret_leaves_handler, sret_traps⟩

end Sys2Proof.Proofs
end

section
/-!
SUPPORT and PROOFS of the statements about the queues of a group: their instructions, and what their streams do by
themselves.
-/
namespace Sys2Proof.Proofs

open Sys2Proof Sys2Proof.Machine Sys2Proof.Safety Sys2Proof.Laws

/-! ## Queues (R228, R235, R237) -/

theorem checkQueue_of_usable {g : Group} {n : Nat} (h : n < 7 ∨ (n = 7 ∧ (queueOf g 7).nmode = false)) :
    checkQueue g n = .ok () := by
  refine if_neg fun hbad => ?_
  rcases h with hlow | ⟨hseven, hmode⟩
  · omega
  · rcases hbad with hhigh | ⟨-, hnarrows⟩
    · omega
    · exact Bool.false_ne_true (hmode.symm.trans hnarrows)

theorem checkQueue_of_unusable {g : Group} {n : Nat} (hsmall : n < 64)
    (h : 7 < n ∨ (n = 7 ∧ (queueOf g 7).nmode = true)) :
    checkQueue g n = trapOf 0x02 (BitVec.ofNat 64 (n * 256)) := by
  have hword : 0 + n % 256 * 256 = n * 256 := by omega
  rw [checkQueue, if_pos h, illegalOperand, hword]

theorem freeEntries_of_saved_nil {q : Queue} (h : q.saved = []) : freeEntries q = 8 - q.entries.length :=
  if_pos (by rw [h]; rfl)

/-- A change of a queue is what it makes of the queue as it stands. -/
theorem modQueue_congr {s : State} {core slot n : Nat} {g : Group} {f h : Queue → Queue}
    (hg : groupOf s core slot = some g) (hq : f (queueOf g n) = h (queueOf g n)) :
    modQueue s core slot n f = modQueue s core slot n h := by
  rw [modQueue, modQueue, modGroup_some _ _ _ _ g hg, modGroup_some _ _ _ _ g hg, hq]

/-! ## Queue instructions (R238, R239, R242) -/

section
variable {qn : BitVec 6} {s t : State} {core slot : Nat} {g : Group} (sa sb : SName) (wide : Bool)

section
variable (hn : qn.toNat < 7 ∨ (qn.toNat = 7 ∧ (queueOf g 7).nmode = false))
include hn

theorem sqld_completes {es : List QEntry} (hstream : (queueOf g qn.toNat).stream = none)
    (hsaved : (queueOf g qn.toNat).saved = [])
    (hroom : (queueOf g qn.toNat).entries.length + (if wide then 2 else 1) ≤ 8)
    (hfetch : fetchEntries s core slot g (readS g sa) (readS g sb) wide = .ok (es, t)) :
    ScalarCompletes (.sqld qn sa sb wide) ⟨0x70, qn, sa, sb, if wide then 1 else 0, none⟩ s core slot g
      (modQueue t core slot qn.toNat (reserveEntries es)) none := by
  have hfree : ¬ ((queueOf g qn.toNat).stream.isSome = true ∨
      freeEntries (queueOf g qn.toNat) < (if wide then 2 else 1)) := by
    rw [hstream, freeEntries_of_saved_nil hsaved]
    simp only [Option.isSome_none, Bool.false_eq_true, false_or]
    omega
  refine scalarCompletes_of (Eq.refl (execSqld qn sa sb wide s)) ?_
  simp only [checkQueue_of_usable hn, if_neg hfree, hfetch]

theorem aff_completes {w : List Nat} (hstream : (queueOf g qn.toNat).stream = none)
    (hread : readStruct s core slot g.ctx (readS g sa).toNat = .ok (w, t)) (hlimits : affBad w = none) :
    ScalarCompletes (.aff qn sa) ⟨0x68, qn, sa, 0, 0, none⟩ s core slot g (modQueue t core slot qn.toNat
      (fun q => { reserveEntries [] q with stream := some (.affine (affOf w g.sc.pc)) })) none := by
  refine scalarCompletes_of (Eq.refl (execAff qn sa s)) ?_
  simp only [checkQueue_of_usable hn, hstream, Option.isSome_none, Bool.false_eq_true, if_false, hread, hlimits]

theorem sqend_completes : ScalarCompletes (.sqend qn) ⟨0x71, qn, 0, 0, 0, none⟩ s core slot g
    (modQueue s core slot qn.toNat (fun q => { q with pendingEnd := true })) none := by
  refine scalarCompletes_of (Eq.refl (execSqend qn s)) ?_
  simp only [checkQueue_of_usable hn]

end

/-- All three check the queue before anything else. -/
theorem queue_traps (h : 7 < qn.toNat ∨ (qn.toNat = 7 ∧ (queueOf g 7).nmode = true)) :
    let t : Trap := ⟨0x02, 0, BitVec.ofNat 64 (qn.toNat * 256), none, none⟩
    ScalarTraps (.sqld qn sa sb wide) ⟨0x70, qn, sa, sb, if wide then 1 else 0, none⟩ s core slot g t ∧
    ScalarTraps (.aff qn sa) ⟨0x68, qn, sa, 0, 0, none⟩ s core slot g t ∧
    ScalarTraps (.sqend qn) ⟨0x71, qn, 0, 0, 0, none⟩ s core slot g t := by
  have hcheck := checkQueue_of_unusable qn.isLt h
  refine ⟨scalarTraps_of (Eq.refl (execSqld qn sa sb wide s)) ?_, scalarTraps_of (Eq.refl (execAff qn sa s)) ?_,
    scalarTraps_of (Eq.refl (execSqend qn s)) ?_⟩ <;> simp only [hcheck, trapOf]

end

theorem queueInstructions : Sys2Proof.Rules.QueueInstructions := by
  intro qn sa sb wide s t core slot g es w n q x y z
  exact ⟨fun hn => ⟨sqld_completes sa sb wide hn, aff_completes sa hn, sqend_completes hn⟩, queue_traps sa sb wide⟩

/-! ## The oldest reserved entry (R235) -/

theorem fillFirst_append {filled : List QEntry} (e : QEntry) (rest : List QEntry)
    (hfilled : ∀ x ∈ filled, x.filled = true) (hopen : e.filled = false) :
    fillFirst (filled ++ e :: rest) = filled ++ { e with filled := true } :: rest := by
  induction filled with
  | nil => simp [fillFirst, hopen]
  | cons x l ih =>
    obtain ⟨hx, hl⟩ := List.forall_mem_cons.mp hfilled
    rw [List.cons_append, fillFirst, if_pos hx, ih hl]
    rfl

theorem find?_unfilled {filled : List QEntry} {e : QEntry} {rest : List QEntry} (hfilled : ∀ x ∈ filled, x.filled = true)
    (hopen : e.filled = false) : (filled ++ e :: rest).find? (fun x => !x.filled) = some e := by
  have hnone : filled.find? (fun x => !x.filled) = none := List.find?_eq_none.mpr fun x hx => by simp [hfilled x hx]
  simp [List.find?_append, hnone, hopen]

/-! ## What the queues' streams do (R237, R240, R241, R277) -/

section
variable {core slot n : Nat} {s : State} {g : Group} {a : AffStream} (hg : groupOf s core slot = some g)
include hg

section
variable (hctx : (ctxOf s g.ctx).state ≠ .faulted) (hstream : (queueOf g n).stream = some (.affine a))
  (hfault : a.fault = none) (hsaved : (queueOf g n).saved = [])
  (hroom : (queueOf g n).entries.length + (if a.wide then 2 else 1) ≤ 8)
include hctx hstream hfault hsaved hroom

theorem affRunning_of_room : affRunning s core slot n = some (g, a) := by
  have hruns : a.fault.isNone = true ∧ (ctxOf s g.ctx).state ≠ .faulted ∧
      (if a.wide then 2 else 1) ≤ freeEntries (queueOf g n) := by
    refine ⟨by rw [hfault]; rfl, hctx, ?_⟩
    rw [freeEntries_of_saved_nil hsaved]
    omega
  simp only [affRunning, hg, hstream, if_pos hruns]

theorem affPush_of_fetched {t : State} {es : List QEntry}
    (hfetch : fetchEntries s core slot g (affAddress a) a.lstride a.wide = .ok (es, t)) :
    exec (.affPush core slot n) s = .next (modQueue t core slot n (fun x =>
      { x with entries := x.entries ++ es, stream := (affNext a).map QStream.affine })) := by
  refine (Eq.refl (execAffPush core slot n s)).trans ?_
  simp only [execAffPush, affRunning_of_room hg hctx hstream hfault hsaved hroom, hfetch]

theorem affStreamFault_of_trap {tr : Trap}
    (hfetch : fetchEntries s core slot g (affAddress a) a.lstride a.wide = .error (.trap tr)) :
    exec (.affStreamFault core slot n) s = .next (modScalar
      (modQueue s core slot n (fun x => { x with stream := none, pendingEnd := true })) core slot
      (fun z => { z with deferred := z.deferred ++ [{ tr with site := some ⟨⟨a.at_, 0⟩, false⟩ }] })) := by
  refine (Eq.refl (execAffStreamFault core slot n s)).trans ?_
  simp only [execAffStreamFault, affRunning_of_room hg hctx hstream hfault hsaved hroom, hfetch]

end

theorem queueEntryFill_entry {e : QEntry} {rest filled : List QEntry} (hsaved : (queueOf g n).saved = [])
    (hentries : (queueOf g n).entries = filled ++ e :: rest) (hfilled : ∀ x ∈ filled, x.filled = true)
    (hopen : e.filled = false) :
    exec (.queueEntryFill core slot n) s = .next (if answered s e.tag then
      modQueue s core slot n (fun x => { x with entries := filled ++ { e with filled := true } :: rest }) else s) := by
  have hfill : modQueue s core slot n fillQueue =
      modQueue s core slot n (fun x => { x with entries := filled ++ { e with filled := true } :: rest }) :=
    modQueue_congr hg (by simp only [fillQueue, hsaved, hentries, fillFirst_append e rest hfilled hopen])
  have hwaits : fillWaits s (queueOf g n) = !answered s e.tag := by
    simp only [fillWaits, hsaved, hentries, find?_unfilled hfilled hopen, List.isEmpty_nil, Bool.true_and, Option.any_some]
  refine (Eq.refl (execQueueEntryFill core slot n s)).trans ?_
  simp only [execQueueEntryFill, hg, hwaits, hfill]
  cases answered s e.tag <;> rfl

theorem queueEntryFill_saved {v : List Word} {l : List (List Word)} (hsaved : (queueOf g n).saved = v :: l)
    (hroom : (queueOf g n).entries.length < 8) :
    exec (.queueEntryFill core slot n) s =
      .next (modQueue s core slot n (fun x => { x with entries := x.entries ++ [⟨v, true, none, 0⟩], saved := l })) := by
  have hwaits : fillWaits s (queueOf g n) = false := by simp only [fillWaits, hsaved, List.isEmpty_cons, Bool.false_and]
  refine (Eq.refl (execQueueEntryFill core slot n s)).trans ?_
  simp only [execQueueEntryFill, hg, hwaits, Bool.false_eq_true, if_false]
  exact congrArg Host.Outcome.next (modQueue_congr hg (by simp only [fillQueue, hsaved, if_pos hroom]))

theorem queueEndEffect_of_filled (hend : (queueOf g n).pendingEnd = true) (hstream : (queueOf g n).stream = none)
    (hsaved : (queueOf g n).saved = []) (hfilled : ∀ e ∈ (queueOf g n).entries, e.filled = true) :
    exec (.queueEndEffect core slot n) s =
      .next (modQueue s core slot n (fun x => { x with ended := true, pendingEnd := false })) := by
  refine (Eq.refl (execQueueEndEffect core slot n s)).trans (congrArg Host.Outcome.next (modQueue_congr hg ?_))
  exact if_pos ⟨hend, by rw [hstream]; rfl, by rw [hsaved]; rfl, List.all_eq_true.mpr hfilled⟩

end

theorem queueEvents : Sys2Proof.Rules.QueueEvents := by
  intro core slot n s t g a es tr hg hctx q
  exact ⟨fun hstream hfault hsaved hroom => ⟨affPush_of_fetched hg hctx hstream hfault hsaved hroom,
      affStreamFault_of_trap hg hctx hstream hfault hsaved hroom⟩,
    fun e rest filled => queueEntryFill_entry hg, fun v l => queueEntryFill_saved hg, queueEndEffect_of_filled hg⟩

/-- Settles O26: an instruction by the check of its queue, an event by what its queue holds. -/
theorem queueStreams : Obligations.QueueStreams := ⟨queueInstructions, queueEvents⟩

end Sys2Proof.Proofs
end

section
/-!
SUPPORT and PROOFS of the statements about kick receivers, notices, and the pulls that answer them.
-/
namespace Sys2Proof.Proofs

open Sys2Proof Sys2Proof.Machine Sys2Proof.Safety Sys2Proof.Laws

/-! ## Receivers (R268) -/

/-- No other cohort has the receiver of a core. -/
theorem receiver_not_denied {k : Core} {g : Group} (h : k.receiver = none ∨ ownsReceiver k g = true) :
    ¬ (k.receiver.isSome = true ∧ (!ownsReceiver k g) = true) := by
  rcases h with hnone | howns
  · simp [hnone]
  · simp [howns]

theorem checkAllocation_of_held {k : Core} {g : Group} {off n : Nat} (h : inCohort k g.ctx (cohortKey g) off n = true) :
    checkAllocation k g off n = .ok () := if_pos h

theorem checkAllocation_of_not_held {k : Core} {g : Group} {off n : Nat} (h : inCohort k g.ctx (cohortKey g) off n = false) :
    checkAllocation k g off n = trapOf 0x0D (BitVec.ofNat 64 off) := if_neg (Bool.eq_false_iff.mp h)

section
variable {s : State} {core : Nat} {g : Group} {w : List Nat}

theorem configureReceiver_denied (hreceiver : (coreOf s core).receiver.isSome = true)
    (hother : ownsReceiver (coreOf s core) g = false) : configureReceiver s core g w = trapOf 0x0D (BitVec.ofNat 64 core) :=
  if_pos ⟨hreceiver, by rw [hother]; rfl⟩

variable (hfree : (coreOf s core).receiver = none ∨ ownsReceiver (coreOf s core) g = true)
include hfree

theorem configureReceiver_removes (hzero : w.getD 1 0 = 0) (hnotices : (coreOf s core).notices = [])
    (hpulls : pulling (coreOf s core) = false) :
    configureReceiver s core g w = .ok (modCore s core (fun k => { k with receiver := none })) := by
  refine (if_neg (receiver_not_denied hfree)).trans ((if_pos hzero).trans (if_pos ?_))
  simp [hnotices, hpulls]

variable (hsome : w.getD 1 0 ≠ 0)
include hsome

/-- The landing area is checked first, then the ring. -/
theorem configureReceiver_checks : configureReceiver s core g w =
    (andThen (checkAllocation (coreOf s core) g (w.getD 0 0) (w.getD 1 0))
      (checkAllocation (coreOf s core) g (w.getD 2 0) 256)).map
      (fun _ => modCore s core (fun k =>
        { k with receiver := some ⟨cohortKey g, g.ctx, w.getD 0 0, w.getD 1 0, w.getD 2 0, w.getD 3 0⟩ })) := by
  refine (if_neg (receiver_not_denied hfree)).trans ((if_neg hsome).trans ?_)
  cases andThen (checkAllocation (coreOf s core) g (w.getD 0 0) (w.getD 1 0))
    (checkAllocation (coreOf s core) g (w.getD 2 0) 256) <;> rfl

end

/-- The words of the descriptor that `kcfg` finds. -/
def receiverWords (s : State) (e : Iss) : List Nat :=
  wordsOf (Memory.readBytes (coreOf s e.core).scratch (uni32 s e (fieldAt e.x 1)) 32)

section
variable {f : LaneForm} {s : State} {e : Iss} {qs : List Queue}
  (hstruct : checkStruct (coreOf (issued s e qs) e.core) e.slot e.g (uni32 (issued s e qs) e (fieldAt e.x 1)) 32 = .ok ())
  (hlimits : receiverBad (receiverWords (issued s e qs) e) = none)
include hstruct hlimits

theorem kcfg_completes {t : State}
    (h : configureReceiver (issued s e qs) e.core e.g (receiverWords (issued s e qs) e) = .ok t) :
    Completes (.kcfg f) s e qs (Done.plain t) := by
  rw [receiverWords] at hlimits h
  refine completes_of (Eq.refl (execKcfg f s)) fun _ => ?_
  simp only [hstruct, hlimits, h]

theorem kcfg_traps {t : Trap}
    (h : configureReceiver (issued s e qs) e.core e.g (receiverWords (issued s e qs) e) = .error (.trap t)) :
    Traps (.kcfg f) s e qs t := by
  rw [receiverWords] at hlimits h
  refine traps_of (Eq.refl (execKcfg f s)) fun _ => ?_
  simp only [hstruct, hlimits, h]

end

theorem receivers : Sys2Proof.Rules.Receivers := by
  intro f s e qs s0 k off w x holds hstruct hlimits
  refine ⟨fun hreceiver hother => kcfg_traps hstruct hlimits (configureReceiver_denied hreceiver hother),
    fun hfree => ⟨?removes, ?makes, ?landing, ?ring⟩⟩
  case removes =>
    intro hzero hnotices hpulls
    exact kcfg_completes hstruct hlimits (configureReceiver_removes hfree hzero hnotices hpulls)
  case makes =>
    intro hsome hland hring
    refine kcfg_completes hstruct hlimits ((configureReceiver_checks hfree hsome).trans ?_)
    rw [checkAllocation_of_held hland, checkAllocation_of_held hring]
    rfl
  case landing =>
    intro hsome hland
    refine kcfg_traps hstruct hlimits ((configureReceiver_checks hfree hsome).trans ?_)
    rw [checkAllocation_of_not_held hland]
    rfl
  case ring =>
    intro hsome hland hring
    refine kcfg_traps hstruct hlimits ((configureReceiver_checks hfree hsome).trans ?_)
    rw [checkAllocation_of_held hland, checkAllocation_of_not_held hring]
    rfl

/-! ## Notices (R269, R270) -/

section
variable {s : State} {core slot : Nat} {g : Group} {off target : Nat} {word : DWord}
  (hstruct : checkStruct (coreOf s core) slot g off 32 = .ok ())
  (hlimits : noticeBad (wordsOf (Memory.readBytes (coreOf s core).scratch off 32)) = none)
include hstruct hlimits

theorem noticeFor_outside (hpart : inPartition s g.ctx target = false) :
    noticeFor s core slot g off target word = trapOf 0x0D word := by
  simp only [noticeFor, hstruct, hlimits, hpart, Bool.not_false, if_true]

variable (hpart : inPartition s g.ctx target = true)
include hpart

theorem noticeFor_unreceived (hnone : (coreOf s target).receiver.any (fun r => decide (r.ctx = g.ctx)) = false) :
    noticeFor s core slot g off target word = trapOf 0x0D (BitVec.ofNat 64 target) := by
  simp only [noticeFor, hstruct, hlimits, hpart, hnone, Bool.not_true, Bool.not_false, Bool.false_eq_true, if_false, if_true]

theorem noticeFor_received (hmine : (coreOf s target).receiver.any (fun r => decide (r.ctx = g.ctx)) = true)
    (hroom : (coreOf s target).notices.length < 4) (hrelease : releaseWaits s core .package = false)
    (hpaths : pathsOpen s (dieOf core) (dieOf target) = true) : noticeFor s core slot g off target word =
      .ok ⟨Memory.readBytes (coreOf s core).scratch off 32, core, cohortKey g, g.ctx, false, false⟩ := by
  simp only [noticeFor, hstruct, hlimits, hpart, hmine, hrelease, hpaths, Nat.not_le.mpr hroom, Bool.not_true,
    Bool.false_eq_true, or_self, if_false]

end

/-- The core that a `kick` names. -/
def kickTarget (s : State) (e : Iss) : Nat := uni32 s e (fieldAt e.x 2) % 1024

/-- What comes of its notice. -/
def kickNotice (s : State) (e : Iss) : Res Notice :=
  noticeFor s e.core e.slot e.g (uni32 s e (fieldAt e.x 1)) (kickTarget s e) (BitVec.ofNat 64 (kickTarget s e))

section
variable {f : LaneForm} {s : State} {e : Iss} {qs : List Queue}

theorem kick_completes {n : Notice} (h : kickNotice (issued s e qs) e = .ok n) : Completes (.kick f) s e qs
    (performed (acceptNotice (releaseLane (issued s e qs) e.core e.slot .package e.g).2 (kickTarget (issued s e qs) e) n)
      e .notice) := by
  rw [kickNotice, kickTarget] at h
  refine completes_of (Eq.refl (execKick f s)) fun _ => ?_
  simp only [h, kickTarget]

theorem kick_traps {t : Trap} (h : kickNotice (issued s e qs) e = .error (.trap t)) : Traps (.kick f) s e qs t := by
  rw [kickNotice, kickTarget] at h
  refine traps_of (Eq.refl (execKick f s)) fun _ => ?_
  simp only [h]

end

/-- What comes of the notice of a `skick`. -/
def skickNotice (sa sb : SName) (s : State) (core slot : Nat) (g : Group) : Res Notice :=
  noticeFor s core slot g ((readS g sa).toNat % 2 ^ 19) ((readS g sb).toNat % 1024) (readS g sb)

section
variable {sa sb : SName} {s : State} {core slot : Nat} {g : Group}

theorem skick_completes {n : Notice} (h : skickNotice sa sb s core slot g = .ok n) :
    ScalarCompletes (.skick sa sb) ⟨0xA3, 0, sa, sb, 0, none⟩ s core slot g
      (acceptNotice (modGroup (release s core .package g.sigScalar).2 core slot (fun g => { g with fenceSig := [] }))
        ((readS g sb).toNat % 1024) n) none := by
  rw [skickNotice] at h
  refine scalarCompletes_of (Eq.refl (execSkick sa sb s)) ?_
  simp only [h]

theorem skick_traps {t : Trap} (h : skickNotice sa sb s core slot g = .error (.trap t)) :
    ScalarTraps (.skick sa sb) ⟨0xA3, 0, sa, sb, 0, none⟩ s core slot g t := by
  rw [skickNotice] at h
  refine scalarTraps_of (Eq.refl (execSkick sa sb s)) ?_
  simp only [h]

end

theorem kicks : Sys2Proof.Rules.Kicks := by
  intro f sa sb s e qs core slot g put sound open_ mine s0 off tgt soff sto x
  refine ⟨fun ⟨hstruct, hlimits⟩ => ⟨fun hpart hmine hopen => ?kick, fun hdenied => kick_traps ?denied⟩,
    fun ⟨hstruct, hlimits⟩ => ⟨fun hpart hmine hopen => ?skick, fun hpart hnone => ?unreceived, fun hpart => ?outside⟩,
    Eq.refl (execNoticeAccepted core slot s)⟩
  case kick =>
    obtain ⟨hroom, hrelease, hpaths⟩ := hopen
    exact kick_completes (noticeFor_received hstruct hlimits hpart hmine hroom hrelease hpaths)
  case denied =>
    cases hpart : inPartition s0 e.g.ctx tgt with
    | false => exact noticeFor_outside hstruct hlimits hpart
    | true => exact noticeFor_unreceived hstruct hlimits hpart (hdenied.resolve_left (by simp [hpart]))
  case skick =>
    obtain ⟨hroom, hrelease, hpaths⟩ := hopen
    exact skick_completes (noticeFor_received hstruct hlimits hpart hmine hroom hrelease hpaths)
  case unreceived => exact skick_traps (noticeFor_unreceived hstruct hlimits hpart hnone)
  case outside => exact skick_traps (noticeFor_outside hstruct hlimits hpart)

/-! ## Pulls begun (R271 lines 001 to 004) -/

/-- The package after the engine has taken a notice, by what the first lines of R271 come to. -/
def pullBegun (s : State) (core : Nat) (n : Notice) (rest : List Notice) (v : Receiver) : PullBegin → State
  | .wait => s
  | .drop => takeNotice s core rest (pullCommand s n none [] .start)
  | .read _ lines true t =>
    takeNotice { s with outgoing := t.outgoing } core rest (pullCommand s n (some v) lines (.asked s.fresh))
  | .read data lines false t =>
    takeNotice (landPull t core v n.bytes data) core rest (pullCommand s n (some v) lines .start)

section
variable {core : Nat} {s : State} {n : Notice} {rest : List Notice} {v : Receiver}

theorem exec_pullStart {r : PullBegin} (hnotices : (coreOf s core).notices = n :: rest)
    (hreceiver : (coreOf s core).receiver = some v) (hidle : pulling (coreOf s core) = false)
    (hroom : (coreOf s core).engine.length < 16) (hsource : pullSource { s with turn := .idle } core n = r) :
    exec (.pullStart core) s = .next (claimOps (pullGid n) s.outgoing.length
      { pullBegun { s with turn := .idle } core n rest v r with turn := s.turn }) := by
  have hstart : ¬ (pulling (coreOf s core) = true ∨ engineRoom ≤ (coreOf s core).engine.length) := by
    rw [hidle]
    exact not_or.mpr ⟨Bool.false_ne_true, Nat.not_le.mpr hroom⟩
  refine (Eq.refl (execPullStart core s)).trans ?_
  simp only [execPullStart, hnotices, if_neg hstart, hreceiver, actFor, withTurn, hsource]
  cases r with
  | read bs lines peer t => cases peer <;> rfl
  | _ => rfl

theorem pullSource_of_dropped (hreceiver : (coreOf s core).receiver = some v) (h : n.dropped = true ∨
    v.lsize < noticeWord n.bytes 1 / 2 ^ 32 % 2 ^ 19 + noticeWord n.bytes 1 % 2 ^ 32) : pullSource s core n = .drop := by
  simp only [pullSource, hreceiver, if_pos h]

end

/-! ## Pulls that go on (R271 lines 003 to 007) -/

section
variable {core : Nat} {s : State} {c : EngineCmd} {nb : List Byte} {sender : Nat} {rcv : Option Receiver} {lines : List Nat}
  {recorded : Bool} (hop : c.op = .pull nb sender rcv lines recorded)

theorem exec_pullLanded {r : PullStep} (hwork : pullAtWork (coreOf s core) = some c)
    (hnext : pullNext { s with turn := .idle } core c = .ok r) : exec (.pullLanded core) s =
      .next (claimOps c.gid s.outgoing.length { pullAfter core c r with turn := s.turn }) := by
  refine (Eq.refl (execPullLanded core s)).trans ?_
  simp only [execPullLanded, hwork, actFor, withTurn, hnext]

/-- The last write of a pull (R271 line 007). -/
def pullLast (s : State) (core : Nat) (c : EngineCmd) (bs : List Byte) (v : DWord) (lines : List Nat) : Res PullStep :=
  if noticeWord bs 2 = 0 then .ok (.over s)
  else (pullWord s core c.gid.ctx (noticeWord bs 2) v lines).map PullStep.over

include hop

theorem pullNext_recorded (hrcv : rcv.isSome = true) (hrecorded : recorded = true) :
    pullNext s core c = pullLast s core c nb (BitVec.ofNat 64 (noticeWord nb 3)) lines := by
  cases rcv with
  | none => cases hrcv
  | some v => simp only [pullNext, hop, hrecorded, if_true, pullLast, cmdCtx]

/-- A pull that was dropped, or whose receiver has been released, gives the inverted acknowledgement. -/
theorem pullNext_inverted (h : rcv = none ∨ ∃ v, recorded = false ∧ rcv = some v ∧ stillReceives (coreOf s core) v = false) :
    pullNext s core c = pullLast s core c nb (BitVec.ofNat 64 (noticeWord nb 3) ^^^ (1 : DWord) <<< 63) [] := by
  obtain rfl | ⟨v, rfl, rfl, hgone⟩ := h
  · simp only [pullNext, hop, pullLast, cmdCtx]
    rfl
  · simp only [pullNext, hop, hgone, Bool.false_eq_true, if_false, pullLast, cmdCtx]
    rfl

theorem pullNext_asked {v : Receiver} {tag : Nat} {bs : List Byte} {l : List Nat} {peer : Bool} {t : State}
    (hrcv : rcv = some v) (hreceives : stillReceives (coreOf s core) v = true) (hrecorded : recorded = false)
    (hstage : c.stage = .asked tag) (hanswered : answered s tag = true)
    (hsource : pullSource s core ⟨nb, sender, (c.gid.seq, c.gid.cohort), c.gid.ctx, false, false⟩ = .read bs l peer t) :
    pullNext s core c = .ok (.to .start (landPull { t with outgoing := s.outgoing } core v nb bs)) := by
  simp only [pullNext, hop, hrcv, hrecorded, hreceives, hstage, landAsked, hanswered, hsource, cmdCtx,
    Bool.false_eq_true, Bool.not_true, if_false, if_true]

theorem pullNext_records {v : Receiver} (hrcv : rcv = some v) (hreceives : stillReceives (coreOf s core) v = true)
    (hrecorded : recorded = false) (hstage : ∀ tag, c.stage ≠ .asked tag) :
    pullNext s core c = recordArrival s core c v nb sender lines := by
  simp only [pullNext, hop, hrcv, hrecorded, hreceives, Bool.false_eq_true, if_false, if_true]

theorem pullAfter_recorded (t : State) : pullAfter core c (.recorded t) =
    if noticeWord nb 2 = 0 then modCore t core (fun k => dropCommand k c) else modCommand t core c markRecorded := by
  simp only [pullAfter, hop]

end

theorem pullLast_silent {bs : List Byte} (hack : noticeWord bs 2 = 0) (s : State) (core : Nat) (c : EngineCmd) (v : DWord)
    (lines : List Nat) : pullLast s core c bs v lines = .ok (.over s) := if_pos hack

theorem pullLast_writes {s t : State} {core : Nat} {c : EngineCmd} {bs : List Byte} {v : DWord} {lines : List Nat}
    (hack : noticeWord bs 2 ≠ 0) (hword : pullWord s core c.gid.ctx (noticeWord bs 2) v lines = .ok t) :
    pullLast s core c bs v lines = .ok (.over t) := by
  rw [pullLast, if_neg hack, hword]
  rfl

/-! ## Arrivals (R271 lines 005 and 006) -/

section
variable {s t u : State} {core : Nat} {c : EngineCmd} {v : Receiver} {nb : List Byte} {sender : Nat} {lines : List Nat}

theorem recordArrival_asks (hcount : (arrivalCount s core c v.count).2 = .ask t) :
    recordArrival s core c v nb sender lines = .ok (.to (.counting s.fresh) t) := by
  simp only [recordArrival, hcount]

theorem recordArrival_records (hcount : (arrivalCount s core c v.count).2 = .have u)
    (hword : pullWord (modCore u core (fun k => { k with
        scratch := Memory.writeBytes k.scratch (v.ring + 32 * ((arrivalCount s core c v.count).1.toNat % 8))
          (arrivalSlot nb sender) }))
      core c.gid.ctx v.count ((arrivalCount s core c v.count).1 + 1) lines = .ok t) :
    recordArrival s core c v nb sender lines = .ok (.recorded t) := by
  simp only [recordArrival, hcount, cmdCtx, hword]
  rfl

end

theorem pulls : Sys2Proof.Rules.Pulls := by
  intro core tag s t u n rest v bs c sender nb rcv lines recorded peer s0 k offset landed ack value count begins goes
    staged ends
  refine ⟨fun hnotices hreceiver hidle hroom => ⟨exec_pullStart hnotices hreceiver hidle hroom,
      exec_pullStart hnotices hreceiver hidle hroom,
      fun hdropped => exec_pullStart hnotices hreceiver hidle hroom (pullSource_of_dropped hreceiver hdropped)⟩,
    fun hwork hop => ⟨fun hrcv hreceives hrecorded => ⟨fun hstage hanswered hsource => ?lands, fun hstage => ?records⟩,
      fun hrcv hrecorded hack hword => ?acknowledges, fun hdropped => ?inverts⟩⟩
  case lands => exact exec_pullLanded hwork (pullNext_asked hop hrcv hreceives hrecorded hstage hanswered hsource)
  case records =>
    have hnext := pullNext_records (s := s0) hop hrcv hreceives hrecorded hstage
    refine ⟨fun hcount => exec_pullLanded hwork (hnext.trans (recordArrival_asks hcount)), fun hcount hword => ?_⟩
    have hexec := exec_pullLanded hwork (hnext.trans (recordArrival_records hcount hword))
    rw [pullAfter_recorded hop] at hexec
    exact ⟨fun hack => by rwa [if_pos hack] at hexec, fun hack => by rwa [if_neg hack] at hexec⟩
  case acknowledges =>
    exact exec_pullLanded hwork ((pullNext_recorded hop hrcv hrecorded).trans (pullLast_writes hack hword))
  case inverts =>
    have hnext := pullNext_inverted hop (s := s0) (core := core) (hdropped.imp_right fun h => ⟨v, h⟩)
    exact ⟨fun hack => exec_pullLanded hwork (hnext.trans (pullLast_silent hack ..)),
      fun hack hword => exec_pullLanded hwork (hnext.trans (pullLast_writes hack hword))⟩

/-- Settles O37: `kcfg` by what its descriptor names, a notice by who receives it, a pull by how far it has come. -/
theorem noticesAndPulls : Obligations.NoticesAndPulls := ⟨receivers, kicks, pulls⟩

end Sys2Proof.Proofs
end

section
/-!
SUPPORT and PROOFS of the statements about loads and stores of the lane stream, of main memory and of the scratchpad.
-/
namespace Sys2Proof.Proofs

open Sys2Proof Sys2Proof.Machine Sys2Proof.Safety Sys2Proof.Laws

/-! ## Bytes outside what is written -/

/-- A write reaches its own address alone, in whatever form the memory is listed. -/
theorem read_write_other (m : Memory) (a : Nat) (b : Byte) {k : Nat} (h : k ≠ a) :
    Memory.read (Memory.write m a b) k = Memory.read m k := by
  induction m with
  | nil =>
    simp only [Memory.write]
    split
    · rfl
    · simp only [Memory.read, h.symm, if_false]
  | cons e m ih =>
    obtain ⟨j, v⟩ := e
    simp only [Memory.write]
    split
    · split
      · rfl
      · rw [Memory.read, if_neg h.symm]
    · split
      next hj =>
        subst hj
        split <;> simp only [Memory.read, h.symm, if_false]
      · simp only [Memory.read, ih]

theorem read_writeBytes_outside (m : Memory) (a : Nat) (bs : List Byte) {k : Nat} (h : k < a ∨ a + bs.length ≤ k) :
    Memory.read (Memory.writeBytes m a bs) k = Memory.read m k := by
  induction bs generalizing m a with
  | nil => rfl
  | cons b bs ih =>
    rw [List.length_cons] at h
    rw [Memory.writeBytes, ih _ _ (by omega), read_write_other m a b (by omega)]

/-- What lanes write into a scratchpad leaves every byte outside their ranges. -/
theorem read_writeScratch_outside {bytes : Nat → List Byte} {n k : Nat} (hlen : ∀ l, (bytes l).length = n)
    (os : List (Nat × Nat)) (m : Memory) (h : ∀ x ∈ os, k < x.2 ∨ x.2 + n ≤ k) :
    Memory.read (writeScratch m bytes os) k = Memory.read m k := by
  induction os generalizing m with
  | nil => rfl
  | cons x os ih =>
    obtain ⟨l, off⟩ := x
    have hhead : k < off ∨ off + (bytes l).length ≤ k := by rw [hlen]; exact h _ List.mem_cons_self
    rw [writeScratch, ih _ fun y hy => h y (List.mem_cons_of_mem _ hy), read_writeBytes_outside _ _ _ hhead]

/-! ## Reads that a core's L1 serves (R392, R393) -/

/-- An address below the end of HBM4 is none of an aperture's (R356, R386). -/
theorem isAperture_of_isMemory {pa : Nat} (h : isMemory pa = true) : isAperture pa = false := by
  have hlow : pa < hbmTop := of_decide_eq_true h
  have htop : hbmTop < 2 ^ 45 := by decide
  refine decide_eq_false ?_
  rw [Nat.div_eq_of_lt (hlow.trans htop)]
  decide

theorem mget?_filter_of_kept {α : Type} {m : Map α} {p : Nat × α → Bool} {k : Nat} {x : α} (h : mget? m k = some x)
    (hp : p (k, x) = true) : mget? (m.filter p) k = some x := by
  induction m with
  | nil => cases h
  | cons e m ih =>
    obtain ⟨j, y⟩ := e
    by_cases hj : j = k
    · subst hj
      obtain rfl : y = x := by simpa only [mget?, if_true, Option.some.injEq] using h
      rw [List.filter_cons_of_pos hp, mget?, if_pos rfl]
    · rw [mget?, if_neg hj] at h
      rw [List.filter_cons]
      split
      · rw [mget?, if_neg hj]; exact ih h
      · exact ih h

/-- Drops for no signature take away no copy that may be used. -/
theorem mget_dropMatching_nil {m : Map Sector} {now sec : Nat} (h : usable now (mget m sec emptySector) = true) :
    mget (dropMatching m []) sec emptySector = mget m sec emptySector := by
  have hdrop : dropMatching m [] = m.filter (fun e => decide (e.2.valid ≠ 0)) := by
    simp only [dropMatching, List.any_nil, Bool.false_eq_true, if_false, List.map_id']
  obtain ⟨hvalid, -⟩ := (usable_iff now _).mp h
  cases hm : mget? m sec with
  | none => rw [mget, hm] at hvalid; exact absurd hvalid (by decide)
  | some x =>
    rw [mget, hm] at hvalid
    have hkept : decide (x.valid ≠ 0) = true := by
      rw [show x.valid = BitVec.allOnes 32 from hvalid]
      decide
    rw [hdrop, mget, mget, mget?_filter_of_kept hm hkept, hm]

/-- An L1 serves a read of a translated place: its walk read no signature, and the L1's copy may be used. -/
def ServedByL1 (s : State) (core : Nat) (x : Xlat) : Prop :=
  x.sigs = [] ∧ isMemory x.pa = true ∧ usable s.now (l1Sector s core x.pa) = true

@[simp] theorem mem_acquireDrop (s : State) (core : Nat) (scope : Scope) (sigs : List Sig) :
    (acquireDrop s core scope sigs).mem = s.mem := by
  unfold acquireDrop
  split <;> rfl

@[simp] theorem now_acquireDrop (s : State) (core : Nat) (scope : Scope) (sigs : List Sig) :
    (acquireDrop s core scope sigs).now = s.now := by
  unfold acquireDrop
  split <;> rfl

@[simp] theorem mem_walkAcquire (s : State) (core : Nat) (x : Xlat) : (walkAcquire s core x).mem = s.mem :=
  mem_acquireDrop ..

@[simp] theorem mem_acquireLane (s : State) (core slot : Nat) (scope : Scope) (sigs : List Sig) :
    (acquireLane s core slot scope sigs).mem = s.mem := by simp only [acquireLane, modGroup_mem, mem_acquireDrop]

@[simp] theorem mem_noteLoads (s : State) (core slot : Nat) (sigs : List Sig) : (noteLoads s core slot sigs).mem = s.mem :=
  modGroup_mem ..

section
variable {s : State} {core : Nat} {x : Xlat}

/-- A walk that read no signature leaves the copies that may be used. -/
theorem l1Sector_walkAcquire (hsigs : x.sigs = []) {a : Nat} (h : usable s.now (l1Sector s core a) = true) :
    l1Sector (walkAcquire s core x) core a = l1Sector s core a := by
  have hl1 : (coreOf (walkAcquire s core x) core).l1 = dropMatching (coreOf s core).l1 [] := by
    rw [walkAcquire, hsigs]
    exact congrArg Core.l1 (coreOf_modCore s core (dropL1 []))
  rw [l1Sector, hl1]
  exact mget_dropMatching_nil h

theorem ServedByL1.walkAcquire {y : Xlat} (h : ServedByL1 s core y) (hsigs : x.sigs = []) :
    ServedByL1 (walkAcquire s core x) core y := by
  obtain ⟨hy, hmem, huse⟩ := h
  refine ⟨hy, hmem, ?_⟩
  rw [l1Sector_walkAcquire hsigs huse, Machine.walkAcquire, now_acquireDrop]
  exact huse

/-- A read that the L1 serves changes nothing but what its walk dropped. -/
theorem state_readX_of_served (h : ServedByL1 s core x) (n tag : Nat) :
    (readX s core 0 x n tag).state = walkAcquire s core x := by
  obtain ⟨-, hmem, huse⟩ := h.walkAcquire h.1
  rw [l1Sector] at huse
  simp only [readX, isAperture_of_isMemory hmem, hmem, readLevel, getL1, huse, Bool.false_eq_true, if_false, if_true]

theorem mem_readAll_of_served (size tag : Nat) {level : Nat → Nat} {xs : List (Nat × Xlat)}
    (h : ∀ y ∈ xs, level y.2.leaf = 0 ∧ ServedByL1 s core y.2) : (readAll s core size tag level xs).state.mem = s.mem := by
  induction xs generalizing s with
  | nil => rfl
  | cons y xs ih =>
    obtain ⟨l, x⟩ := y
    obtain ⟨hlevel, hx⟩ := h _ List.mem_cons_self
    have hrest : ∀ y ∈ xs, level y.2.leaf = 0 ∧ ServedByL1 (Machine.walkAcquire s core x) core y.2 := fun y hy =>
      (h y (List.mem_cons_of_mem _ hy)).imp_right fun hy => hy.walkAcquire hx.1
    rw [readAll]
    simp only [hlevel, state_readX_of_served hx]
    rw [ih hrest, mem_walkAcquire]

end

/-! ## The package in which an access takes place -/

@[simp] theorem mem_issued (s : State) (e : Iss) (qs : List Queue) : (issued s e qs).mem = s.mem := by
  unfold issued noteWaits seeFills; split <;> simp

@[simp] theorem now_issued (s : State) (e : Iss) (qs : List Queue) : (issued s e qs).now = s.now := by
  unfold issued noteWaits seeFills; split <;> simp

theorem l1_issued (s : State) (e : Iss) (qs : List Queue) : (coreOf (issued s e qs) e.core).l1 = (coreOf s e.core).l1 := by
  have hgroup := congrArg Core.l1 (coreOf_modGroup (noteWaits s e.core e.g e.x) e.core e.slot (fun g => { g with qs := qs }))
  have hwaits := congrArg Core.l1 (coreOf_noteWaits s e.core e.g e.x)
  exact hgroup.trans hwaits

/-- Reads of lanes that the L1 of their core serves leave home memory as it was. -/
theorem mem_readAll_issued (s : State) (e : Iss) (qs : List Queue) (size : Nat) {level : Nat → Nat} {xs : List (Nat × Xlat)}
    (h : ∀ x ∈ xs, level x.2.leaf = 0 ∧ x.2.sigs = [] ∧ isMemory x.2.pa = true ∧
      usable s.now (mget (coreOf s e.core).l1 (x.2.pa / 32) emptySector) = true) :
    (readAll (issued s e qs) e.core size 400 level xs).state.mem = s.mem := by
  refine (mem_readAll_of_served size 400 fun x hx => ?_).trans (mem_issued s e qs)
  obtain ⟨hlevel, hsigs, hmem, huse⟩ := h x hx
  refine ⟨hlevel, hsigs, hmem, ?_⟩
  rw [now_issued, l1Sector, l1_issued]
  exact huse

/-! ## Loads (R256) -/

theorem loads : Sys2Proof.Rules.Loads := by
  intro f s e qs xs os
  refine ⟨fun hcheck => ⟨?ld, fun hserved => ?ldStays⟩, fun hcheck => ⟨?ldAcq, fun hserved => ?ldAcqStays⟩,
    fun hcheck => ?lds⟩
  case ld =>
    refine completes_of (Eq.refl (execLd f s)) fun _ => ?_
    simp only [hcheck]
  case ldStays => exact mem_readAll_issued s e qs _ hserved
  case ldAcq =>
    refine completes_of (Eq.refl (execLdAcq f s)) fun _ => ?_
    simp only [hcheck]
  case ldAcqStays => exact (mem_acquireLane ..).trans (mem_readAll_issued s e qs _ hserved)
  case lds =>
    refine completes_of (Eq.refl (execLds f s)) fun _ => ?_
    simp only [hcheck]

/-! ## Stores (R257) -/

theorem length_storeData (s : State) (e : Iss) (size lane : Nat) : (storeData s e size lane).length = size :=
  length_natToBytes ..

theorem stores : Sys2Proof.Rules.Stores := by
  intro f s e qs xs os
  refine ⟨fun hcheck => ?st, fun hcheck hways => ?stRel, fun hcheck => ⟨?sts, fun a ha => ?stsStays⟩⟩
  case st =>
    refine completes_of (Eq.refl (execSt f s)) fun _ => ?_
    simp only [hcheck]
  case stRel =>
    refine completes_of (Eq.refl (execStRel f s)) fun _ => ?_
    simp only [hcheck, hways, Bool.false_eq_true, if_false]
  case sts =>
    refine completes_of (Eq.refl (execSts f s)) fun _ => ?_
    simp only [hcheck]
    rfl
  case stsStays => exact read_writeScratch_outside (length_storeData _ _ _) os _ ha

/-- Settles O31: an access once its lanes pass their checks; memory and scratchpad bytes stay by what each write reaches. -/
theorem loadsAndStores : Obligations.LoadsAndStores := ⟨loads, stores⟩

end Sys2Proof.Proofs
end

section
/-!
SUPPORT and PROOFS of the statements about atomics, fences and the line instructions.
-/
namespace Sys2Proof.Proofs

open Sys2Proof Sys2Proof.Machine Sys2Proof.Safety Sys2Proof.Laws

/-! ## What an atomic writes (R261) -/

theorem toSigned_eq_toInt_ofNat (n x : Nat) : toSigned n x = (BitVec.ofNat n x).toInt := by
  rw [← toSigned_toNat, BitVec.toNat_ofNat, toSigned_mod]

section
variable {n : BitVec 8} (a b c : Nat)

theorem atomLess_of_unsigned (h : nSigned n = false) : atomLess n a b = decide (a < b) := by
  rw [atomLess, h]
  rfl

theorem atomLess_of_signed (h : nSigned n = true) : atomLess n a b =
    decide ((BitVec.ofNat (8 * nSize n) a).toInt < (BitVec.ofNat (8 * nSize n) b).toInt) := by
  rw [atomLess, if_pos h, toSigned_eq_toInt_ofNat, toSigned_eq_toInt_ofNat]

theorem atomNew_min_of_unsigned (h : nSigned n = false) : atomNew .min n a b c = min a b := by
  simp only [atomNew, atomLess_of_unsigned _ _ h, decide_eq_true_eq]
  split <;> omega

theorem atomNew_max_of_unsigned (h : nSigned n = false) : atomNew .max n a b c = max a b := by
  simp only [atomNew, atomLess_of_unsigned _ _ h, decide_eq_true_eq]
  split <;> omega

theorem atomNew_min_of_signed (h : nSigned n = true) : atomNew .min n a b c =
    if decide ((BitVec.ofNat (8 * nSize n) b).toInt < (BitVec.ofNat (8 * nSize n) a).toInt) then b else a := by
  rw [atomNew, atomLess_of_signed _ _ h]

theorem atomNew_max_of_signed (h : nSigned n = true) : atomNew .max n a b c =
    if decide ((BitVec.ofNat (8 * nSize n) a).toInt < (BitVec.ofNat (8 * nSize n) b).toInt) then b else a := by
  rw [atomNew, atomLess_of_signed _ _ h]

end

theorem laneAtomics : Sys2Proof.Rules.Atomics := by
  intro f op rop s e qs r n a b c
  refine ⟨fun hlanes => ?atom, fun hlanes => ?ared, fun hint => if_neg (Bool.eq_false_iff.mp hint), fun hfloat => if_pos hfloat,
    fun hunsigned => ⟨atomNew_min_of_unsigned a b c hunsigned, atomNew_max_of_unsigned a b c hunsigned⟩,
    fun hsigned => ⟨atomNew_min_of_signed a b c hsigned, atomNew_max_of_signed a b c hsigned⟩, rfl, rfl, rfl, rfl, rfl⟩
  case atom =>
    refine completes_of (Eq.refl (execAtom op f s)) fun _ => ?_
    simp only [hlanes]
  case ared =>
    refine completes_of (Eq.refl (execAred rop f s)) fun _ => ?_
    simp only [hlanes]

/-! ## Fences (R262) -/

section
variable (f : LaneForm) (s : State) (e : Iss) (qs : List Queue)

/-- A fence that has taken effect on `t`: the group's memory instructions wait until it is complete. -/
def fenced (e : Iss) (t : State) : Done :=
  Done.later (modLane t e.core e.slot (fun l => { l with fence := true }))
    (pendingResult (modLane t e.core e.slot (fun l => { l with fence := true })) e .fence [] 0)

/-- What a fence does, by its kind: 0 publishes and acquires, 1 publishes, 2 acquires. -/
theorem fence_completes (hways : f.src1.toNat / 8 ≠ 2 →
      releaseWaits (issued s e qs) e.core (scopeOfCode (f.src1.toNat % 8)) = false) :
    let scope := scopeOfCode (f.src1.toNat % 8)
    let t := if f.src1.toNat / 8 = 2 then issued s e qs else fenceRelease (issued s e qs) e.core e.slot scope e.g
    Completes (.fence f) s e qs
      (fenced e (if f.src1.toNat / 8 = 1 then t else fenceAcquire t e.core e.slot scope)) := by
  refine completes_of (Eq.refl (execFence f s)) fun _ => if_neg ?_
  rintro ⟨hkind, hwaits⟩
  exact Bool.false_ne_true ((hways hkind).symm.trans hwaits)

/-! ## The instructions on lines (R281) -/

/-- An instruction on lines, once no translation and no write-back of theirs waits. -/
theorem lineOp_completes {i : Instr} {op : Nat → Scope → State → Xlat → State} (hx : exec i s = lineOp i f op s)
    (hwalks : ∀ a ∈ addressesOf (issued s e qs) e f, walkWaits (issued s e qs) e.core e.g.ctx a.2 = false)
    (hlines : ∀ x ∈ addressedLines (issued s e qs) e f lineXlat,
      lineWaits (issued s e qs) e.core (scopeOfCode f.src2.toNat) x = false) :
    Completes i s e qs (performed ((addressedLines (issued s e qs) e f lineXlat).foldl
      (op e.core (scopeOfCode f.src2.toNat)) (issued s e qs)) e .release) := by
  refine completes_of hx fun _ => if_neg ?_
  simp only [List.any_eq_true]
  rintro (⟨a, ha, hwaits⟩ | ⟨x, hline, hwaits⟩)
  · exact Bool.false_ne_true ((hwalks a ha).symm.trans hwaits)
  · exact Bool.false_ne_true ((hlines x hline).symm.trans hwaits)

end

theorem fencesAndLines : Sys2Proof.Rules.FencesAndLines := by
  intro f s e qs
  refine ⟨fun hkind hways => ?both, fun hkind hways => ?publishes, fun hkind => ?acquires,
    completes_of (Eq.refl (execPref f s)) fun _ => rfl,
    fun ⟨hwalks, hlines⟩ => lineOp_completes f s e qs (Eq.refl (execCwb f s)) hwalks hlines,
    fun ⟨hwalks, hlines⟩ => lineOp_completes f s e qs (Eq.refl (execCinv f s)) hwalks hlines⟩
  case both =>
    have h := fence_completes f s e qs fun _ => hways
    simp only [hkind, OfNat.zero_ne_ofNat, zero_ne_one, if_false] at h
    exact h
  case publishes =>
    have h := fence_completes f s e qs fun _ => hways
    simp only [hkind, OfNat.one_ne_ofNat, if_false, if_true] at h
    exact h
  case acquires =>
    have h := fence_completes f s e qs fun hother => absurd hkind hother
    simp only [hkind, OfNat.ofNat_ne_one, if_false, if_true] at h
    exact h

/-- Settles O32: the table of the atomics by how the control field compares, a fence by its kind, the rest by its lines. -/
theorem atomicsAndFences : Obligations.AtomicsAndFences := ⟨laneAtomics, fencesAndLines⟩

end Sys2Proof.Proofs
end

section
/-!
SUPPORT and PROOFS of the statements about copies: the words of a descriptor, the instructions that enqueue it, the copy of a
payload within a scratchpad, and the engine at work.
-/
namespace Sys2Proof.Proofs

open Sys2Proof Sys2Proof.Machine Sys2Proof.Safety Sys2Proof.Laws

/-! ## Bytes of a range -/

theorem length_readBytes (m : Memory) (a n : Nat) : (Memory.readBytes m a n).length = n := by
  induction n generalizing a with
  | zero => rfl
  | succ n ih => rw [Memory.readBytes, List.length_cons, ih]

theorem getElem?_readBytes (m : Memory) (a : Nat) {n i : Nat} (h : i < n) :
    (Memory.readBytes m a n)[i]? = some (Memory.read m (a + i)) := by
  induction n generalizing a i with
  | zero => omega
  | succ n ih =>
    cases i with
    | zero => rfl
    | succ i =>
      rw [Memory.readBytes, List.getElem?_cons_succ, ih _ (by omega)]
      congr 2
      omega

theorem drop_take_readBytes (m : Memory) (a : Nat) {n k j : Nat} (h : k + j ≤ n) :
    ((Memory.readBytes m a n).drop k).take j = Memory.readBytes m (a + k) j := by
  refine List.ext_getElem? fun i => ?_
  by_cases hi : i < j
  · rw [List.getElem?_take_of_lt hi, List.getElem?_drop, getElem?_readBytes m a (by omega), getElem?_readBytes m _ hi,
      Nat.add_assoc]
  · rw [List.getElem?_eq_none (by rw [List.length_take]; omega), List.getElem?_eq_none (by rw [length_readBytes]; omega)]

/-! ## Descriptors (R265) -/

/-- A word of a descriptor is the eight bytes at its offset. -/
theorem getD_scratchWords (k : Core) (off : Nat) {n : Nat} (h : n < 8) :
    (scratchWords k off).getD n 0 = bytesToNat (Memory.readBytes k.scratch (off + 8 * n) 8) := by
  rw [scratchWords, wordsOf, getD_range _ _ _ _ h, drop_take_readBytes _ _ (by omega)]

/-- The offset of a word that breaks a limit fits into the eight bits that the trap's word has for it. -/
theorem copyBad_lt {b : Bool} {w : List Nat} {at8 : Nat} (h : copyBad b w = some at8) : at8 < 256 := by
  unfold copyBad at h
  dsimp only at h
  repeat' split at h
  all_goals cases h
  all_goals decide

/-! ## The instructions (R264, R265) -/

/-- The offset of the descriptor that `cpy` and `cpyw` name. -/
def descriptorAt (s : State) (e : Iss) : Nat := uni32 s e (fieldAt e.x 1)

section
variable {i : Instr} {b : Bool} {s : State} {e : Iss} {qs : List Queue} (hx : exec i s = copyInstr i b s)
include hx

theorem copy_misaligned (halign : descriptorAt (issued s e qs) e % 64 ≠ 0) :
    Traps i s e qs ⟨0x0C, 0, BitVec.ofNat 64 (descriptorAt (issued s e qs) e), none, none⟩ := by
  rw [descriptorAt] at halign
  refine traps_of hx fun _ => ?_
  simp only [checkStruct, ne_eq, halign, not_false_eq_true, if_true, trapOf, descriptorAt]

variable (halign : descriptorAt (issued s e qs) e % 64 = 0)
  (hbounds : checkScratch (coreOf (issued s e qs) e.core) e.slot e.g (descriptorAt (issued s e qs) e) 64 = .ok ())
include halign hbounds

theorem copy_beyond_limits {at8 : Nat}
    (hbad : copyBad b (scratchWords (coreOf (issued s e qs) e.core) (descriptorAt (issued s e qs) e)) = some at8) :
    Traps i s e qs ⟨0x02, 0, BitVec.ofNat 64 (15 + at8 * 256), none, none⟩ := by
  rw [descriptorAt] at halign hbounds hbad
  refine traps_of hx fun _ => ?_
  simp only [checkStruct, ne_eq, halign, not_true_eq_false, if_false, hbounds, hbad, illegalOperand, trapOf,
    Nat.mod_eq_of_lt (copyBad_lt hbad)]

theorem copy_enqueues
    (hlimits : copyBad b (scratchWords (coreOf (issued s e qs) e.core) (descriptorAt (issued s e qs) e)) = none)
    (hranges : checkCopyRanges (coreOf (issued s e qs) e.core) e.slot e.g
      (copyOf b (scratchWords (coreOf (issued s e qs) e.core) (descriptorAt (issued s e qs) e))) = .ok ())
    (hroom : (coreOf (issued s e qs) e.core).engine.length < 16) :
    Completes i s e qs (performed (modCore (issued s e qs) e.core (fun k =>
      { k with engine := k.engine ++ [⟨e.slot, gidOf e.g, e.g.ln.pc, (issued s e qs).fresh,
        copyOf b (scratchWords (coreOf (issued s e qs) e.core) (descriptorAt (issued s e qs) e)), none, .start⟩] }))
      e .engine) := by
  rw [descriptorAt] at halign hbounds hlimits hranges
  have hfree : ¬ engineRoom ≤ (coreOf (issued s e qs) e.core).engine.length := Nat.not_le.mpr hroom
  refine completes_of hx fun _ => ?_
  simp only [checkStruct, ne_eq, halign, not_true_eq_false, if_false, hbounds, hlimits, hranges, enqueueEngine, hfree,
    descriptorAt]

end

theorem copyInstructions : Sys2Proof.Rules.CopyInstructions := by
  intro f s e qs s0 k off w word queued run
  have hword (b : Bool) : word b = copyOf b (scratchWords k off) := by
    have hw {n : Nat} (h : n < 8) : w n = (scratchWords k off).getD n 0 := (getD_scratchWords k off h).symm
    simp only [word, copyOf, hw (show 0 < 8 by decide), hw (show 1 < 8 by decide), hw (show 2 < 8 by decide),
      hw (show 3 < 8 by decide), hw (show 4 < 8 by decide)]
  have hrun {i : Instr} {b : Bool} (hx : exec i s = copyInstr i b s) : run i b := by
    refine ⟨copy_misaligned hx, fun halign hbounds => ⟨fun at8 hbad => copy_beyond_limits hx halign hbounds hbad, ?_⟩⟩
    rw [hword]
    exact copy_enqueues hx halign hbounds
  exact ⟨hrun (Eq.refl (execCpy f s)), hrun (Eq.refl (execCpyw f s))⟩

/-! ## A copy within a scratchpad (R266) -/

/-- A payload of which the source and the destination share no byte is written as it was read. -/
theorem payload_of_unshared (s : State) (at_ : Nat) (bs : List Byte) {shared : List Bool}
    (h : ∀ i, shared.getD i false = false) : payload s at_ bs shared = bs := by
  simp only [payload, h, Bool.false_eq_true, if_false]
  exact List.zipIdx_map_fst 0 bs

theorem overlaps_of_disjoint {d a n : Nat} (h : a + n ≤ d ∨ d + n ≤ a) (i : Nat) :
    (overlaps [(.scratch d, n)] [(.scratch a, n)]).getD i false = false := by
  have hlist : overlaps [(.scratch d, n)] [(.scratch a, n)] =
      (List.range n).map (fun i => inPlaces (.scratch d) i [(.scratch a, n)]) := List.append_nil _
  rw [hlist]
  by_cases hi : i < n
  · rw [getD_range _ _ _ _ hi]
    simp only [inPlaces, List.any_cons, List.any_nil, Bool.or_false, Bool.and_eq_false_iff, decide_eq_false_iff_not]
    omega
  · rw [List.getD_eq_getElem?_getD, List.getElem?_eq_none (by simpa using hi), Option.getD_none]

/-- The package after a copy of bytes to another place of the same scratchpad. -/
def scratchCopied (s : State) (core d a n : Nat) : State :=
  modCore s core (fun k => { k with scratch := Memory.writeBytes k.scratch d (Memory.readBytes (coreOf s core).scratch a n) })

theorem copyPayload_of_scratch {s : State} {core d a n : Nat} {c : EngineCmd} {scope : Scope} {v : DWord}
    (hop : c.op = .copy d a n true true scope none v) (hstage : c.stage = .start) (hdisjoint : a + n ≤ d ∨ d + n ≤ a) :
    copyPayload s core c = .ok (scratchCopied s core d a n, .written s.fresh []) := by
  have htake : (Memory.readBytes (coreOf s core).scratch a n).take n = Memory.readBytes (coreOf s core).scratch a n :=
    List.take_of_length_le (length_readBytes ..).le
  simp only [copyPayload, hop, placesOf, if_true, readPlaces, List.append_nil, fetchOf, hstage, atPeer, List.any_cons,
    List.any_nil, Bool.or_false, Bool.false_eq_true, if_false, payload_of_unshared _ _ _ (overlaps_of_disjoint hdisjoint),
    writePlaces, htake]
  rfl

theorem read_writeBytes_at {m : Memory} (hwf : Memory.wf m = true) (d : Nat) {bs : List Byte} {i : Nat} (h : i < bs.length) :
    some (Memory.read (Memory.writeBytes m d bs) (d + i)) = bs[i]? := by
  have hbytes := readBytes_writeBytes m d bs hwf
  rw [← getElem?_readBytes _ d h, hbytes]

/-- Settles O34: the payload is what was read, and reads back where it was written. -/
theorem scratchCopy : Obligations.ScratchCopy := by
  intro core d a n s c scope v hform hop hstage hdisjoint
  obtain ⟨-, hscratch⟩ := hform
  have hcore : (coreOf (scratchCopied s core d a n) core).scratch =
      Memory.writeBytes (coreOf s core).scratch d (Memory.readBytes (coreOf s core).scratch a n) := by
    rw [scratchCopied, coreOf_modCore]
  refine ⟨_, copyPayload_of_scratch hop hstage hdisjoint, fun i hi => ?copied, fun i hi => ?stays, rfl⟩
  case copied =>
    refine Option.some_injective _ ?_
    rw [hcore, read_writeBytes_at (hscratch core) d (by rwa [length_readBytes]), getElem?_readBytes _ a hi]
  case stays => rw [hcore, read_writeBytes_outside _ _ _ (by rwa [length_readBytes])]

/-! ## The engine at work (R266, R267) -/

section
variable {s t u : State} {core : Nat} {c : EngineCmd}

/-- With one copy at work, it is the one that goes on, for its group. -/
theorem exec_copyComplete (hwork : copiesAtWork (coreOf s core) = [c])
    (hstep : commandStep { s with turn := .idle } core c = t) :
    exec (.copyComplete core) s = .next (claimOps c.gid s.outgoing.length { t with turn := s.turn }) := by
  refine (Eq.refl (execCopyComplete core s)).trans ?_
  simp only [execCopyComplete, hwork, pickFree, actFor, withTurn, hstep]

section
variable {tag : Nat} {lines : List Nat} (hcopy : ∀ va chan n, c.op ≠ .load va chan n)
include hcopy

theorem commandStep_of_copy : commandStep s core c = copyStep s core c := by
  cases hop : c.op with
  | load va chan n => exact absurd hop (hcopy va chan n)
  | _ => simp only [commandStep, hop]

theorem finishCommand_of_copy :
    finishCommand s core c = completeTag (modCore s core (fun k => dropCommand k c)) core c.slot c.tag := by
  cases hop : c.op with
  | load va chan n => exact absurd hop (hcopy va chan n)
  | _ => simp only [finishCommand, hop]

theorem endCopy_finishes (hend : copyEnd s core c tag lines = .ok u) :
    endCopy s core c tag lines = completeTag (modCore u core (fun k => dropCommand k c)) core c.slot c.tag := by
  rw [← finishCommand_of_copy hcopy]
  simp only [endCopy, hend]

end

theorem endCopy_waits {tag : Nat} {lines : List Nat} {r : Stop} (hend : copyEnd s core c tag lines = .error r) :
    endCopy s core c tag lines = modCommand s core c (fun x => { x with stage := .written tag lines }) := by
  simp only [endCopy, hend]

theorem copyStep_of_written {tag : Nat} {lines : List Nat} (hstage : c.stage = .written tag lines) :
    copyStep s core c = endCopy s core c tag lines := by simp only [copyStep, hstage]

section
variable {tag : Nat} {lines : List Nat} (hdone : payloadDone c = false)
include hdone

/-- A payload that is still to be written is written in the step that finds it. -/
theorem copyStep_writes (hpay : copyPayload s core c = .ok (t, .written tag lines)) :
    copyStep s core c = endCopy t core c tag lines := by
  cases hstage : c.stage with
  | written tag lines => rw [payloadDone, hstage] at hdone; exact absurd hdone.symm Bool.false_ne_true
  | _ => simp only [copyStep, hstage, hpay]

theorem copyStep_asks (hpay : copyPayload s core c = .ok (t, .asked tag)) :
    copyStep s core c = modCommand t core c (fun x => { x with stage := .asked tag }) := by
  cases hstage : c.stage with
  | written tag lines => rw [payloadDone, hstage] at hdone; exact absurd hdone.symm Bool.false_ne_true
  | _ => simp only [copyStep, hstage, hpay]

end

/-! An image fetch (R373, R374). -/

section
variable {va chan n : Nat} {ps : List (Place × Nat)} (hop : c.op = .load va chan n)
  (hplaces : placesOf s core c.gid.ctx false .read true va (8 * n) = .ok ps)
include hop

/-- The image is with its load, and the command has left the engine. -/
theorem finishCommand_of_load : finishCommand s core c = modCore s core (fun k => dropCommand k c) := by
  simp only [finishCommand, hop]

include hplaces

theorem commandStep_fetches (hhave : fetchOf s c (atPeer ps) (readPlaces s core 10000 ps).2.2 = .have t) :
    commandStep s core c = modCore (mapSkOps t chan (giveImage c.tag (imageWords (readPlaces s core 10000 ps).1 n))) core
      (fun k => dropCommand k c) := by
  simp only [commandStep, hop, fetchStep, cmdCtx, hplaces, hhave, finishCommand_of_load hop]

theorem commandStep_asks (hask : fetchOf s c (atPeer ps) (readPlaces s core 10000 ps).2.2 = .ask t) :
    commandStep s core c = modCommand t core c (fun x => { x with stage := .asked s.fresh }) := by
  simp only [commandStep, hop, fetchStep, cmdCtx, hplaces, hask]

end

theorem fetchOf_at_home (hstage : c.stage = .start) (read : State) : fetchOf s c false read = .have read := by
  simp only [fetchOf, hstage, Bool.false_eq_true, if_false]

theorem fetchOf_at_peer (hstage : c.stage = .start) (read : State) :
    fetchOf s c true read = .ask { s with outgoing := read.outgoing } := by
  simp only [fetchOf, hstage, if_true]

theorem fetchOf_answered {tag : Nat} (hstage : c.stage = .asked tag) (hanswered : answered s tag = true) (peer : Bool)
    (read : State) : fetchOf s c peer read = .have { read with outgoing := s.outgoing } := by
  simp only [fetchOf, hstage, hanswered, if_true]

/-! Commands that stop and commands that pause (R267). -/

theorem exec_engineAccessFault {kind : AccessKind} {va : Nat} {bad : AddrCheck}
    (hwork : commandsAtWork (coreOf s core) = [c])
    (hbad : firstBad s core (fun a => decide (a = .access)) c = some (kind, va, bad)) :
    exec (.engineAccessFault core) s = .next (reportAccess (completeTag
      (modCore (dropLoad (actFor c.gid (fun s => copyPart s core c) s) c) core (fun k => failFill (dropCommand k c) c))
      core c.slot c.tag) core c va) := by
  refine (Eq.refl (execEngineAccessFault core s)).trans ?_
  have honly : [c].filter (fun c => (firstBad s core (fun a => decide (a = .access)) c).isSome) = [c] :=
    List.filter_cons_of_pos (by rw [hbad]; rfl)
  simp only [execEngineAccessFault, hwork, honly, pickFree, hbad]

theorem exec_enginePageFault {kind : AccessKind} {va sub : Nat} {w : Nat × Nat}
    (hwork : commandsAtWork (coreOf s core) = [c]) (hpull : pullAtWork (coreOf s core) = none)
    (hpage : cmdPage s core c = some (va, kind, sub)) (hfault : pageFault s (dieOf core) c.gid.ctx va kind sub = some (w, t)) :
    exec (.enginePageFault core) s = .next (modCommand t core c (fun x =>
      { x with paused := some ⟨w.1, w.2, pageTrap (BitVec.ofNat 64 va) sub none (some ⟨c.pc, false⟩)⟩ })) := by
  refine (Eq.refl (execEnginePageFault core s)).trans ?_
  have honly : ([c] ++ (none : Option EngineCmd).toList).filter (fun c => (cmdPage s core c).isSome) = [c] :=
    List.filter_cons_of_pos (by rw [hpage]; rfl)
  simp only [execEnginePageFault, hwork, hpull, honly, pickFree, hpage, cmdCtx, hfault]

end

theorem copyCommands : Sys2Proof.Rules.CopyCommands := by
  intro core va sub tag lines s t u c g kind w
  refine ⟨fun hwork => ⟨fun hcopy => ⟨fun hdone hpay => ⟨fun hend => ?finishes, fun r hend => ?waits⟩,
      fun hdone hpay => ?asks, fun hstage hend => ?ends⟩,
    fun at_ chan n ps hop hplaces => ⟨fun hstage hhome => ?fetches, fun hstage hpeer => ?fetchAsks,
      fun hstage hanswered => ?answered⟩⟩,
    fun hwork _ _ hbad => exec_engineAccessFault hwork hbad,
    fun hwork hpull hpage hfault => exec_enginePageFault hwork hpull hpage hfault⟩
  case finishes =>
    exact exec_copyComplete hwork ((commandStep_of_copy hcopy).trans
      ((copyStep_writes hdone hpay).trans (endCopy_finishes hcopy hend)))
  case waits =>
    exact exec_copyComplete hwork ((commandStep_of_copy hcopy).trans
      ((copyStep_writes hdone hpay).trans (endCopy_waits hend)))
  case asks => exact exec_copyComplete hwork ((commandStep_of_copy hcopy).trans (copyStep_asks hdone hpay))
  case ends =>
    exact exec_copyComplete hwork ((commandStep_of_copy hcopy).trans
      ((copyStep_of_written hstage).trans (endCopy_finishes hcopy hend)))
  case fetches =>
    refine exec_copyComplete hwork (commandStep_fetches hop hplaces ?_)
    rw [hhome, fetchOf_at_home hstage]
  case fetchAsks =>
    refine exec_copyComplete hwork (commandStep_asks hop hplaces ?_)
    rw [hpeer, fetchOf_at_peer hstage]
  case answered =>
    exact exec_copyComplete hwork (commandStep_fetches hop hplaces
      (fetchOf_answered (s := { s with turn := .idle }) hstage hanswered _ _))

/-- Settles O36: a descriptor by its checks, a command at work by how far its payload and its word have come. -/
theorem copies : Obligations.Copies := ⟨copyInstructions, copyCommands⟩

end Sys2Proof.Proofs
end

section
/-!
SUPPORT and PROOFS of the statement about textures: the descriptor that a `k` name gives, and what is read by it.
-/
namespace Sys2Proof.Proofs

open Sys2Proof Sys2Proof.Machine Sys2Proof.Safety Sys2Proof.Laws

/-! ## Descriptors that break a limit (R279) -/

/-- The field that names the descriptor is eight bits of the instruction. -/
theorem descriptor_spec_lt {i : Instr} {x : LaneInfo} {s : State} {e : Iss} (hinfo : laneInfo i = some x) (h : Ready i s e) :
    (fieldAt e.x 2).spec < 256 := by
  have hfields := h.fields
  simp only [fieldsOf, hinfo, Option.map_some, Option.some.injEq] at hfields
  rw [← hfields, fieldAt_settleFields_spec]
  exact x.form.src2.isLt

/-- The address of the descriptor. -/
def texPlace (e : Iss) : Nat := (e.g.ln.ks.getD ((fieldAt e.x 2).spec - 144) 0).toNat

theorem readTex_beyond_limits {s : State} {e : Iss} {x : Xlat} (hspec : (fieldAt e.x 2).spec < 256)
    (hcheck : checkOne s e.core e.g.ctx (texPlace e) 32 .read true = .ok x)
    (hbad : texOk (wordsOf (readX s e.core (accessLevel 0 x.leaf) x 32 800).bytes) = false) :
    readTex s e = .error (.trap ⟨0x02, 0, BitVec.ofNat 64 (2 + (fieldAt e.x 2).spec * 256), none, none⟩) := by
  rw [texPlace] at hcheck
  simp only [readTex, hcheck, hbad, Bool.false_eq_true, if_false, illegalOperand, trapOf, Nat.mod_eq_of_lt hspec]

/-- An instruction that reads its descriptor first traps on one that breaks a limit. -/
theorem texture_traps {i : Instr} {info : LaneInfo} {s : State} {e : Iss} {qs : List Queue} {x : Xlat}
    {body : Iss → State → Res Done} (hx : exec i s = runLane i s body) (hinfo : laneInfo i = some info)
    (hbody : ∀ t, readTex (issued s e qs) e = .error (.trap t) → body e (issued s e qs) = .error (.trap t))
    (hcheck : checkOne (issued s e qs) e.core e.g.ctx (texPlace e) 32 .read true = .ok x)
    (hbad : texOk (wordsOf (readX (issued s e qs) e.core (accessLevel 0 x.leaf) x 32 800).bytes) = false) :
    Traps i s e qs ⟨0x02, 0, BitVec.ofNat 64 (2 + (fieldAt e.x 2).spec * 256), none, none⟩ :=
  traps_of hx fun h => hbody _ (readTex_beyond_limits (descriptor_spec_lt hinfo h.toReady) hcheck hbad)

/-! ## The instructions (R280) -/

/-- Settles O35: by what the descriptor's limits say of it, and the texels that it leads to. -/
theorem textures : Obligations.Textures := by
  intro f s s1 e qs t r x
  refine ⟨fun htex => ⟨fun htexels => ?tfet, fun htexels => ?tsmp, ?tsiz⟩,
    fun hcheck hbad => ⟨?tfetTraps, ?tsmpTraps, ?tsizTraps⟩⟩
  case tfet =>
    refine completes_of (Eq.refl (execTfet f s)) fun _ => ?_
    simp only [htex, htexels]
    rfl
  case tsmp =>
    refine completes_of (Eq.refl (execTsmp f s)) fun _ => ?_
    simp only [htex, htexels]
    rfl
  case tsiz =>
    refine completes_of (Eq.refl (execTsiz f s)) fun _ => ?_
    simp only [htex]
  case tfetTraps => exact texture_traps (Eq.refl (execTfet f s)) rfl (fun tr htrap => by simp only [htrap]) hcheck hbad
  case tsmpTraps => exact texture_traps (Eq.refl (execTsmp f s)) rfl (fun tr htrap => by simp only [htrap]) hcheck hbad
  case tsizTraps => exact texture_traps (Eq.refl (execTsiz f s)) rfl (fun tr htrap => by simp only [htrap]) hcheck hbad

end Sys2Proof.Proofs
end

section
/-!
SUPPORT and PROOFS of the statements about remote loads and the traffic of the narrows.
-/
namespace Sys2Proof.Proofs

open Sys2Proof Sys2Proof.Machine Sys2Proof.Safety Sys2Proof.Laws

/-! ## Remote loads (R272, R273) -/

theorem remoteRead_of_memory {s : State} {core : Nat} {x : Xlat} (h : isMemory x.pa = true) (n tag : Nat) :
    (remoteRead s core x n tag).1 = loadHome s x.pa n := by
  simp only [remoteRead, isAperture_of_isMemory h, h, Bool.false_eq_true, if_false, if_true, loadHome, mem_walkAcquire]

theorem checkRld_of_open {s : State} {e : Iss} {va off : Nat} {x : Xlat} (hva : va % 128 = 0) (hoff : off % 128 = 0)
    (hcheck : checkOne s e.core e.g.ctx va 128 .read = .ok x)
    (hbounds : checkScratch (coreOf s e.core) e.slot e.g off 128 = .ok ()) : checkRld s e va off = .ok x := by
  simp only [checkRld, ne_eq, hva, hoff, not_true_eq_false, if_false, hcheck, hbounds]

section
variable {s : State} {core slot idx : Nat}

theorem rldResponse_of_group {g : Group} {r : RemoteLoad} (hg : groupOf s core slot = some g)
    (hplace : (g.rlds.drop idx).head? = some r) (hanswered : answered s r.tag = true) :
    exec (.rldResponse core slot idx) s = .next (completeTag (modGroup (modCore s core (landLoad r)) core slot
      (fun g => { g with rlds := g.rlds.filter (fun x => !decide (x.tag = r.tag)) })) core slot r.tag) := by
  refine (Eq.refl (execRldResponse core slot idx s)).trans ?_
  simp only [execRldResponse, hg, Option.map_some, Option.getD_some, hplace, hanswered, if_true]

theorem rldResponse_of_orphan {o : GroupId × RemoteLoad} (hg : groupOf s core slot = none)
    (hplace : ((coreOf s core).orphans.drop idx).head? = some o) (hanswered : answered s o.2.tag = true) :
    exec (.rldResponse core slot idx) s = .next (modCore s core (landOrphan o)) := by
  refine (Eq.refl (execRldResponse core slot idx s)).trans ?_
  simp only [execRldResponse, hg, Option.map_none, Option.getD_none, List.drop_nil, List.head?_nil, List.length_nil,
    Nat.sub_zero, hplace, hanswered, if_true]

end

theorem landOrphan_of_held {k : Core} {o : GroupId × RemoteLoad}
    (h : inCohort k o.1.ctx (o.1.seq, o.1.cohort) o.2.off 128 = true) : landOrphan o k =
      landLoad o.2 { k with orphans := k.orphans.filter (fun x => !decide (x.2.tag = o.2.tag)) } := if_pos h

theorem remoteLoads : Sys2Proof.Rules.RemoteLoads := by
  intro f s e qs x core slot idx g r o
  refine ⟨fun hmem => ?home, fun hva hoff hcheck hbounds hroom => ?joins, fun hva => ?misaligned,
    fun hg hplace hanswered hheld => ?orphan, fun hg hplace hanswered => rldResponse_of_group hg hplace hanswered⟩
  case home =>
    rw [remoteRead_of_memory hmem, loadHome, mem_issued, loadHome]
  case joins =>
    refine completes_of (Eq.refl (execRld f s)) fun _ => ?_
    simp only [checkRld_of_open hva hoff hcheck hbounds, Nat.not_le.mpr hroom, if_false]
  case misaligned =>
    refine traps_of (Eq.refl (execRld f s)) fun _ => ?_
    simp only [checkRld, ne_eq, hva, not_false_eq_true, if_true, trapOf]
  case orphan =>
    rw [rldResponse_of_orphan hg hplace hanswered, modCore, landOrphan_of_held hheld]
    rfl

/-! ## The narrows (R274 to R277) -/

section
variable {f : LaneForm} {s : State} {e : Iss} {qs : List Queue}

theorem vfput_traps_down (hstate : (quadOf (issued s e qs) (partner e.core)).state = .gated ∨
      (quadOf (issued s e qs) (partner e.core)).state = .waking) :
    Traps (.vfput f) s e qs ⟨0x12, 0, BitVec.ofNat 64 (partner e.core), none, none⟩ := by
  refine traps_of (Eq.refl (execVfput f s)) fun _ => ?_
  rcases hstate with hgated | hwaking
  · simp only [hgated, trapOf]
  · simp only [hwaking, trapOf]

variable (hstate : (quadOf (issued s e qs) (partner e.core)).state = .active)
include hstate

theorem vfput_traps_denied (hdenied : putDenied (issued s e qs) e.core e.g (narrowsOf (issued s e qs) e.core) = true) :
    Traps (.vfput f) s e qs ⟨0x0D, 0, BitVec.ofNat 64 (partner e.core), none, none⟩ := by
  refine traps_of (Eq.refl (execVfput f s)) fun _ => ?_
  simp only [hstate, hdenied, if_true, trapOf]

theorem vfput_completes (hdenied : putDenied (issued s e qs) e.core e.g (narrowsOf (issued s e qs) e.core) = false)
    (hroom : occupied (narrowsOf (issued s e qs) e.core) + slotsPerEntry e.g ≤ 16) :
    Completes (.vfput f) s e qs (Done.plain (modNarrows (issued s e qs) e.core (fun w =>
      { w with waiting := w.waiting ++ putEntries (issued s e qs) e, toUpper := some (isUpper (partner e.core)) }))) := by
  refine completes_of (Eq.refl (execVfput f s)) fun _ => ?_
  simp only [hstate, hdenied, Bool.false_eq_true, if_false, reduceCtorEq, false_or, Nat.not_lt.mpr hroom]

end

theorem narrowsDeliver_moves {s : State} {core c slot : Nat} {g : Group} (hbound : (narrowsOf s core).bound = some (c, slot))
    (hg : groupOf s c slot = some g) (hwhole : slotsPerEntry g ≤ (narrowsOf s core).waiting.length)
    (hroom : freeEntries (queueOf g 7) ≠ 0) : exec (.narrowsDeliver core) s = .next (modNarrows
      (modQueue s c slot 7 (fun q =>
        { q with entries := q.entries ++ [deliveredEntry ((narrowsOf s core).waiting.take (slotsPerEntry g))],
                 narrow := q.narrow + 1 }))
      core (fun w => { w with waiting := w.waiting.drop (slotsPerEntry g), inQ7 := w.inQ7 + slotsPerEntry g })) := by
  refine (Eq.refl (execNarrowsDeliver core s)).trans ?_
  simp only [execNarrowsDeliver, hbound, hg, Nat.not_lt.mpr hwhole, hroom, or_self, if_false]

theorem narrowsTraffic : Sys2Proof.Rules.NarrowsTraffic := by
  intro f s e qs core c slot g
  refine ⟨fun hmode => ?unbinds, fun hmode hallowed => ?binds, fun hmode hdenied => ?bindTraps,
    fun hstate => vfput_traps_down hstate, fun hstate hdenied => vfput_traps_denied hstate hdenied,
    fun hstate hallowed hroom => vfput_completes hstate hallowed hroom,
    fun hbound hg hwhole hroom => narrowsDeliver_moves hbound hg hwhole hroom⟩
  case unbinds => exact completes_of (Eq.refl (execVfcfg f s)) fun _ => if_pos hmode
  case binds =>
    refine completes_of (Eq.refl (execVfcfg f s)) fun _ => ?_
    simp only [hmode, hallowed, Bool.false_eq_true, if_false]
  case bindTraps =>
    refine traps_of (Eq.refl (execVfcfg f s)) fun _ => ?_
    simp only [hmode, hdenied, if_false, if_true, trapOf]

/-- Settles O38: a remote load by its checks, its response by whose it is; the narrows by their bind and the partner's quad. -/
theorem remoteLoadsAndNarrows : Obligations.RemoteLoadsAndNarrows := ⟨remoteLoads, narrowsTraffic⟩

end Sys2Proof.Proofs
end

section
/-!
SUPPORT and PROOFS of the statements about barriers: how a phase ends, who joins, arrives and waits.
-/
namespace Sys2Proof.Proofs

open Sys2Proof Sys2Proof.Machine Sys2Proof.Safety Sys2Proof.Laws

/-! ## Phases (R284, R291, R404) -/

section
variable {b : Barrier}

theorem allExited_iff :
    allExited b = true ↔ (∀ m ∈ b.members, m.exited = true) ∧ b.others.joined ≤ b.others.exited := by
  simp [allExited]

theorem phaseOver_iff : phaseOver b = true ↔ b.count ≤ arrived b ∧ allExited b = false := by simp [phaseOver]

/-- A member is left, here or on another package. -/
theorem allExited_of_left (h : (∃ m ∈ b.members, m.exited = false) ∨ b.others.exited < b.others.joined) :
    allExited b = false := by
  refine Bool.eq_false_iff.mpr fun hall => ?_
  obtain ⟨hhere, hothers⟩ := allExited_iff.mp hall
  rcases h with ⟨m, hm, hleft⟩ | hleft
  · exact Bool.noConfusion (hleft.symm.trans (hhere m hm))
  · omega

theorem nextPhase_of_over (h : phaseOver b = true) (now : Nat) : nextPhase now b =
    { b with phase := b.phase + 1, complete := joinSigs (liveSigs now b.complete) b.arriving, arriving := [],
             others := { b.others with arrived := b.others.exited } } := if_pos h

theorem nextPhase_of_short (h : arrived b < b.count) (now : Nat) : nextPhase now b = b :=
  if_neg fun hover => Nat.not_le.mpr h (phaseOver_iff.mp hover).1

theorem nextPhase_of_allExited (h : allExited b = true) (now : Nat) : nextPhase now b = b :=
  if_neg fun hover => Bool.noConfusion (h.symm.trans (phaseOver_iff.mp hover).2)

end

theorem mem_joinSigs_right {x : Sig} {l : List Sig} (k : List Sig) (h : x ∈ l) : x ∈ joinSigs k l := by
  by_cases hk : x ∈ k
  · exact List.mem_append_left _ hk
  · exact List.mem_append_right _ (List.mem_filter.mpr ⟨h, by simpa using hk⟩)

theorem barrierRelease_of_group {s : State} {core slot : Nat} {g : Group} (hg : groupOf s core slot = some g) :
    exec (.barrierRelease core slot) s = .next
      (modCore { s with barriers := s.barriers.map (fun b => modMember b (gidOf g) (hearPhase b)) } core
        (fun k => modCohort k g (fun c => { c with barrier := modMember c.barrier (gidOf g) (hearPhase c.barrier) }))) := by
  refine (Eq.refl (execBarrierRelease core slot s)).trans ?_
  simp only [execBarrierRelease, hg]

/-- Settles O46, by whether as many as the count says have arrived, and whether one of them is left. -/
theorem barrierPhases : Obligations.BarrierPhases := by
  intro core slot s g id b now
  refine ⟨Eq.refl (execBarrierPhaseComplete id s), fun hcount hleft => ?completes, fun hshort => nextPhase_of_short hshort now,
    fun hhere hothers => nextPhase_of_allExited (allExited_iff.mpr ⟨hhere, hothers⟩) now,
    fun hg => barrierRelease_of_group hg⟩
  case completes =>
    rw [nextPhase_of_over (phaseOver_iff.mpr ⟨hcount, allExited_of_left hleft⟩)]
    exact ⟨rfl, rfl, rfl, rfl, fun _ => mem_joinSigs_right _⟩

/-! ## The checks of a barrier instruction (R286, R288, R290) -/

/-- BARRIER_SCOPE, with the scope that the instruction gives. -/
def wrongScope (f : LaneForm) : Trap := ⟨0x16, 0, BitVec.ofNat 64 (barScope f), none, none⟩

/-- ILLEGAL_OP of an instruction that a handler must not run. -/
def notInHandler (i : Instr) : Trap := ⟨0x01, 6, instrBits i, none, none⟩

section
variable {i : Instr} {e : Iss} {f : LaneForm} {least : Nat}

theorem checkBarrier_of_handler (h : e.g.ln.handler ≠ none) :
    checkBarrier i least e f = .error (.trap (notInHandler i)) := if_pos (Option.isSome_iff_ne_none.mpr h)

theorem checkBarrier_of_narrow (h : e.g.ln.handler = none) (hscope : barScope f < least) :
    checkBarrier i least e f = .error (.trap (wrongScope f)) := (if_neg (by simp [h])).trans (if_pos hscope)

theorem checkBarrier_of_permitted (h : e.g.ln.handler = none) (hscope : least ≤ barScope f) :
    checkBarrier i least e f = .ok () := (if_neg (by simp [h])).trans (if_neg (Nat.not_lt.mpr hscope))

end

section
variable {s : State} {e : Iss} {f : LaneForm} {b : Barrier}

theorem checkMember_of_member {m : Member} (hb : namedBarrier s e.core e.g f = some b) (hm : memberOf b e.g = some m) :
    checkMember s e f = .ok (b, m) := by
  simp only [checkMember, hb, hm]

theorem checkMember_of_outside
    (h : namedBarrier s e.core e.g f = none ∨ (namedBarrier s e.core e.g f = some b ∧ memberOf b e.g = none)) :
    checkMember s e f = .error (.trap (wrongScope f)) := by
  rcases h with hnone | ⟨hb, hout⟩
  · simp only [checkMember, hnone]; rfl
  · simp only [checkMember, hb, hout]; rfl

end

/-! ## Joining (R287) -/

/-- A barrier of wide scope is changed where the package lists it. -/
theorem modBarrier_wide {s : State} {core : Nat} {g : Group} {f : LaneForm} (h : Barrier → Barrier)
    (hscope : 2 ≤ barScope f) : modBarrier s core g f h =
      { s with barriers := s.barriers.map (fun b => if b.id = wideId s core g f then h b else b) } := if_neg (by omega)

/-- The barrier that a `bari` names. -/
abbrev bariId (f : LaneForm) (s : State) (e : Iss) (qs : List Queue) : BarrierId := wideId (issued s e qs) e.core e.g f

/-- The count that a `bari` gives. -/
abbrev bariCount (s : State) (e : Iss) (qs : List Queue) : Nat := uni32 (issued s e qs) e (fieldAt e.x 2)

section
variable {f : LaneForm} {s : State} {e : Iss} {qs : List Queue}

theorem bari_refused {t : Trap} (h : checkBarrier (.bari f) 2 e f = .error (.trap t)) : Traps (.bari f) s e qs t :=
  traps_of (Eq.refl (execBari f s)) fun _ => by simp only [h]

variable {b : Barrier} (hscope : 2 ≤ barScope f) (hplain : e.g.ln.handler = none)
include hscope hplain

theorem bari_traps_count (hcount : bariCount s e qs = 0 ∨ 65535 < bariCount s e qs) :
    Traps (.bari f) s e qs ⟨0x02, 0, BitVec.ofNat 64 (2 + f.src2.toNat * 256), none, none⟩ := by
  refine traps_of (Eq.refl (execBari f s)) fun _ => ?_
  simp only [checkBarrier_of_permitted hplain hscope, hcount, if_true, illegalOperand, Nat.mod_eq_of_lt f.src2.isLt, trapOf]

variable (hcount : ¬ (bariCount s e qs = 0 ∨ 65535 < bariCount s e qs))
include hcount

theorem bari_makes (hnone : wideBarrier (issued s e qs) (bariId f s e qs) = none)
    (hroom : networkUse (issued s e qs) (bariId f s e qs) < 64) :
    Completes (.bari f) s e qs (Done.plain { issued s e qs with barriers := (issued s e qs).barriers ++
      [joining e.g ⟨bariId f s e qs, bariCount s e qs, 0, [], .none, [], []⟩] }) := by
  refine completes_of (Eq.refl (execBari f s)) fun _ => ?_
  simp only [checkBarrier_of_permitted hplain hscope, hcount, if_false, hnone, Nat.not_le.mpr hroom]

variable (hb : wideBarrier (issued s e qs) (bariId f s e qs) = some b)
include hb

theorem bari_stays (hmember : memberOf b e.g ≠ none) : Completes (.bari f) s e qs (Done.plain (issued s e qs)) := by
  refine completes_of (Eq.refl (execBari f s)) fun _ => ?_
  simp only [checkBarrier_of_permitted hplain hscope, hcount, if_false, hb, Option.isSome_iff_ne_none.mpr hmember, if_true]

variable (hnew : memberOf b e.g = none)
include hnew

theorem bari_joins (hroom : joinedOf b < b.count) :
    Completes (.bari f) s e qs (Done.plain { issued s e qs with barriers := (issued s e qs).barriers.map (fun x =>
      if x.id = bariId f s e qs then joining e.g x else x) }) := by
  refine completes_of (Eq.refl (execBari f s)) fun _ => ?_
  simp only [checkBarrier_of_permitted hplain hscope, hcount, if_false, hb, hnew, Option.isSome_none, Bool.false_eq_true,
    Nat.not_le.mpr hroom, modBarrier_wide _ hscope]

theorem bari_traps_full (hfull : b.count ≤ joinedOf b) : Traps (.bari f) s e qs (wrongScope f) := by
  refine traps_of (Eq.refl (execBari f s)) fun _ => ?_
  simp only [checkBarrier_of_permitted hplain hscope, hcount, if_false, hb, hnew, Option.isSome_none, Bool.false_eq_true, hfull,
    if_true, trapOf, wrongScope]

end

theorem barrierJoins : Sys2Proof.Rules.BarrierJoins := by
  intro f s e qs b
  refine ⟨fun hscope hplain hlow hhigh => ?permitted, fun hscope hplain => bari_refused (checkBarrier_of_narrow hplain hscope),
    fun hhandler => bari_refused (checkBarrier_of_handler hhandler), fun hscope hplain => bari_traps_count hscope hplain⟩
  case permitted =>
    have hcount : ¬ (bariCount s e qs = 0 ∨ 65535 < bariCount s e qs) :=
      not_or.mpr ⟨Nat.one_le_iff_ne_zero.mp hlow, Nat.not_lt.mpr hhigh⟩
    exact ⟨fun hb => ⟨bari_stays hscope hplain hcount hb, bari_joins hscope hplain hcount hb,
      bari_traps_full hscope hplain hcount hb⟩, bari_makes hscope hplain hcount⟩

/-! ## Arriving and waiting (R288, R289, R292) -/

section
variable {s : State} {e : Iss} {f : LaneForm} {m : Member}

theorem arrive_of_replayed (h : m.s ≠ 0) :
    arrive s e f m = .ok (setMember s e f (fun m => { m with s := m.s - 1 })) := if_pos h

theorem arrive_counts (hnew : m.s = 0) (hdone : m.a ≤ m.c) (hopen : releaseWaits s e.core (scopeOfCode (barScope f)) = false) :
    let r := releaseLane (publishFills s e f m) e.core e.slot (scopeOfCode (barScope f)) e.g
    arrive s e f m = .ok (modBarrier r.2 e.core e.g f (fun b =>
      { modMember b (gidOf e.g) (fun m => { m with a := m.a + 1 }) with
        arriving := joinSigs (liveSigs s.now b.arriving) r.1 })) :=
  (if_neg (not_not.mpr hnew)).trans (if_neg (by simp [hopen, hdone]))

theorem arrive_stalls (hnew : m.s = 0) (h : m.c < m.a ∨ releaseWaits s e.core (scopeOfCode (barScope f)) = true) :
    arrive s e f m = .error (.stall .barrier) := (if_neg (not_not.mpr hnew)).trans (if_pos h)

theorem waitDone_iff : waitDone m = true ↔ m.a - m.s ≤ m.c := by simp [waitDone]

end

/-- What an instruction of a barrier's member does: its checks, then its act on the barrier and the group's record in it. -/
def asMember (i : Instr) (f : LaneForm) (act : Iss → State → Barrier → Member → Res Done) (e : Iss)
    (s : State) : Res Done :=
  match checkBarrier i 1 e f with
  | .error r => .error r
  | .ok _ =>
    match checkMember s e f with
    | .error r => .error r
    | .ok (b, m) => act e s b m

/-- The act of `barv`. -/
def barvAct (f : LaneForm) (e : Iss) (s : State) (_ : Barrier) (m : Member) : Res Done :=
  match arrive s e f m with
  | .error r => .error r
  | .ok s => .ok { Done.plain s with steps := 1 }

/-- The act of `barw`. -/
def barwAct (f : LaneForm) (e : Iss) (s : State) (b : Barrier) (m : Member) : Res Done :=
  if waitDone m then .ok (Done.plain (acquireBarrier s e f b m)) else .error (.stall .barrier)

/-- The act of `bars`. -/
def barsAct (f : LaneForm) (e : Iss) (s : State) (_ : Barrier) (m : Member) : Res Done :=
  if m.half = some e.g.ln.pc.addr then (if waitDone m then .ok (barsWait s e f) else .error (.stall .barrier))
  else
    match arrive s e f m with
    | .error r => .error r
    | .ok s => .ok (barsWait s e f)

theorem exec_barv (f : LaneForm) (s : State) : exec (.barv f) s = runLane (.barv f) s (asMember (.barv f) f (barvAct f)) := rfl
theorem exec_barw (f : LaneForm) (s : State) : exec (.barw f) s = runLane (.barw f) s (asMember (.barw f) f (barwAct f)) := rfl
theorem exec_bars (f : LaneForm) (s : State) : exec (.bars f) s = runLane (.bars f) s (asMember (.bars f) f (barsAct f)) := rfl

section
variable {i : Instr} {f : LaneForm} {s : State} {e : Iss} {qs : List Queue} {b : Barrier}
  {act : Iss → State → Barrier → Member → Res Done} (hx : exec i s = runLane i s (asMember i f act))
include hx

theorem member_completes {m : Member} {d : Done} (hscope : 1 ≤ barScope f) (hplain : e.g.ln.handler = none)
    (hb : namedBarrier (issued s e qs) e.core e.g f = some b) (hm : memberOf b e.g = some m)
    (hact : act e (issued s e qs) b m = .ok d) : Completes i s e qs d := by
  refine completes_of hx fun _ => ?_
  simp only [asMember, checkBarrier_of_permitted hplain hscope, checkMember_of_member hb hm, hact]

theorem outsider_traps (hscope : 1 ≤ barScope f) (hplain : e.g.ln.handler = none)
    (h : namedBarrier (issued s e qs) e.core e.g f = none ∨
      (namedBarrier (issued s e qs) e.core e.g f = some b ∧ memberOf b e.g = none)) : Traps i s e qs (wrongScope f) := by
  refine traps_of hx fun _ => ?_
  simp only [asMember, checkBarrier_of_permitted hplain hscope, checkMember_of_outside h]

theorem scopeless_traps (hscope : barScope f = 0) (hplain : e.g.ln.handler = none) : Traps i s e qs (wrongScope f) := by
  refine traps_of hx fun _ => ?_
  simp only [asMember, checkBarrier_of_narrow hplain (hscope.trans_lt Nat.zero_lt_one)]

theorem handler_traps (h : e.g.ln.handler ≠ none) : Traps i s e qs (notInHandler i) := by
  refine traps_of hx fun _ => ?_
  simp only [asMember, checkBarrier_of_handler h]

end

section
variable {f : LaneForm} {s : State} {e : Iss} {b : Barrier} {m : Member}

theorem barvAct_of_arrival {t : State} (h : arrive s e f m = .ok t) :
    barvAct f e s b m = .ok { Done.plain t with steps := 1 } := by simp only [barvAct, h]

theorem barsAct_of_arrival {t : State} (hhalf : m.half ≠ some e.g.ln.pc.addr) (h : arrive s e f m = .ok t) :
    barsAct f e s b m = .ok (barsWait t e f) := (if_neg hhalf).trans (by simp only [h])

theorem barsAct_of_arrived (hhalf : m.half = some e.g.ln.pc.addr) (hdone : m.a - m.s ≤ m.c) :
    barsAct f e s b m = .ok (barsWait s e f) := (if_pos hhalf).trans (if_pos (waitDone_iff.mpr hdone))

theorem barwAct_of_done (hdone : m.a - m.s ≤ m.c) :
    barwAct f e s b m = .ok (Done.plain (acquireBarrier s e f b m)) := if_pos (waitDone_iff.mpr hdone)

end

theorem barrierArrivals : Sys2Proof.Rules.BarrierArrivals := by
  intro f s t e qs b m
  refine ⟨fun hmay hb hm => ?member, fun hmay hout => ?outsider, fun hscope hplain => ?scopeless, fun hhandler => ?handler⟩
  case member =>
    obtain ⟨hscope, hplain⟩ := hmay
    exact ⟨fun harr =>
        ⟨member_completes (exec_barv f s) hscope hplain hb hm (barvAct_of_arrival harr),
          fun hhalf => member_completes (exec_bars f s) hscope hplain hb hm (barsAct_of_arrival hhalf harr)⟩,
      arrive_of_replayed, arrive_counts, arrive_stalls,
      fun hhalf hdone => member_completes (exec_bars f s) hscope hplain hb hm (barsAct_of_arrived hhalf hdone),
      fun hdone => member_completes (exec_barw f s) hscope hplain hb hm (barwAct_of_done hdone)⟩
  case outsider =>
    obtain ⟨hscope, hplain⟩ := hmay
    exact ⟨outsider_traps (exec_barv f s) hscope hplain hout, outsider_traps (exec_barw f s) hscope hplain hout,
      outsider_traps (exec_bars f s) hscope hplain hout⟩
  case scopeless =>
    exact ⟨scopeless_traps (exec_barv f s) hscope hplain, scopeless_traps (exec_barw f s) hscope hplain,
      scopeless_traps (exec_bars f s) hscope hplain⟩
  case handler =>
    simp only [List.forall_mem_cons, List.not_mem_nil, false_implies, implies_true, and_true]
    exact ⟨handler_traps (exec_barv f s) hhandler, handler_traps (exec_barw f s) hhandler,
      handler_traps (exec_bars f s) hhandler⟩

/-- Settles O48: each instruction by its checks and by what the group's record in the barrier says. -/
theorem barrierMembers : Obligations.BarrierMembers := ⟨barrierJoins, barrierArrivals⟩

end Sys2Proof.Proofs
end

section
/-!
SUPPORT and PROOFS of the statements about the mailbox's page, poison, link, endpoint, aperture and pod commands.
-/
namespace Sys2Proof.Proofs

open Sys2Proof Sys2Proof.Machine Sys2Proof.Safety Sys2Proof.Laws

/-! ## The range of an invalidation (R354) -/

section
variable {ctx base len : Nat}

theorem invalidRange_of_whole (h : len = 0) : invalidRange ctx base len = .ok ⟨ctx, 0, 2 ^ 48⟩ := if_pos h

theorem invalidRange_of_pages (hlen : len ≠ 0) (hbase : base % 8192 = 0) (hwhole : len % 8192 = 0)
    (hend : base + len ≤ 2 ^ 48) : invalidRange ctx base len = .ok ⟨ctx, base, base + len⟩ :=
  (if_neg hlen).trans ((if_neg (by simp [hbase, hwhole])).trans (if_neg (Nat.not_lt.mpr hend)))

theorem invalidRange_of_bad (hlen : len ≠ 0) (h : base % 8192 ≠ 0 ∨ len % 8192 ≠ 0 ∨ 2 ^ 48 < base + len) :
    ∃ r, invalidRange ctx base len = .error r := by
  by_cases hpages : base % 8192 ≠ 0 ∨ len % 8192 ≠ 0
  · exact ⟨_, (if_neg hlen).trans (if_pos hpages)⟩
  · have hend : 2 ^ 48 < base + len := by tauto
    exact ⟨_, (if_neg hlen).trans ((if_neg hpages).trans (if_pos hend))⟩

end

section
variable {m : Mbox} {s : State}

theorem invalidate_drops {r : VRange} (h : Commands invalWidths m s)
    (hr : invalidRange (ctxArg m) (argOf m 1) (argOf m 2) = .ok r) (hopen : flushWaits s 0 4 = false) :
    Answers (.invalidate m) m s 0 [] (settleInvals (modFw (invalidateRange (flushScope s 0 4) 0 4 r) (fun w =>
      { w with invals := w.invals ++ [⟨ctxArg m, argOf m 1, argOf m 2, m.tag.toNat, s.fresh⟩] }))) :=
  answers_of_wayCommand (Eq.refl (execInvalidate m s)) h (by simp [invalWaits, hopen]) (by simp only [hr, Answer.ok])

theorem invalidate_waits {r : VRange} (h : Commands invalWidths m s)
    (hr : invalidRange (ctxArg m) (argOf m 1) (argOf m 2) = .ok r) (hclosed : flushWaits s 0 4 = true) :
    exec (.invalidate m) s = .next s :=
  waits_of_wayCommand (Eq.refl (execInvalidate m s)) h (by simp only [invalWaits, hr, hclosed, Bool.and_self])

/-- A range that is refused does not wait for a way. -/
theorem invalidate_refused {r : Stop} (h : Commands invalWidths m s)
    (hr : invalidRange (ctxArg m) (argOf m 1) (argOf m 2) = .error r) : Answers (.invalidate m) m s 2 [] s :=
  answers_of_wayCommand (Eq.refl (execInvalidate m s)) h (by simp only [invalWaits, hr, Bool.false_and])
    (by simp only [hr, Answer.bad])

end

/-! ## Pages and poison (R475) -/

theorem faultDie_eq (m : Mbox) : argBits m 0 17 16 = m.a0.toNat / 2 ^ 16 % 4 := rfl

theorem faultId_eq (m : Mbox) : argBits m 0 15 0 = m.a0.toNat % 2 ^ 16 := bits_low _ _

theorem memoryCommands : Sys2Proof.Rules.MemoryCommands := by
  intro m s f
  simp only [← ctxArg_eq m]
  refine ⟨fun h => ⟨fun hfound => ?reply, fun hnone => ?replyBad⟩,
    fun h => ⟨fun hlen hopen => ?whole, fun hlen hbase hwhole hend hopen => ?range, fun hlen hbad => ?rangeBad⟩,
    fun h hlen hclosed => ?waits, fun h => ⟨fun hframe hlisted => ?unpoison, fun hbad => ?unpoisonBad⟩, fun h => ?read⟩
  case reply =>
    refine answers_of_command (Eq.refl (execPfReply m s)) h ?_
    simp only [faultDie_eq, faultId_eq, hfound]
    rfl
  case replyBad =>
    refine answers_of_command (Eq.refl (execPfReply m s)) h ?_
    simp only [faultDie_eq, faultId_eq, hnone, Answer.bad]
  case whole => exact invalidate_drops h (invalidRange_of_whole hlen) hopen
  case range => exact invalidate_drops h (invalidRange_of_pages hlen hbase hwhole hend) hopen
  case rangeBad =>
    obtain ⟨r, hr⟩ := invalidRange_of_bad (ctx := ctxArg m) hlen hbad
    exact invalidate_refused h hr
  case waits => exact invalidate_waits h (invalidRange_of_whole hlen) (Bool.not_eq_false _ ▸ hclosed)
  case unpoison =>
    exact answers_of_command (Eq.refl (execUnpoison m s)) h (if_neg (by simp [hframe, hlisted]))
  case unpoisonBad =>
    exact answers_of_command (Eq.refl (execUnpoison m s)) h (if_pos (by simpa using hbad))
  case read => exact answers_of_command (Eq.refl (execPoisonRead m s)) h rfl

/-! ## Links (R377, R476) -/

section
variable {i : Instr} {m : Mbox} {s t : State} {body : Nat → LinkState → Option (State → State)}
  (hx : exec i s = linkCommand m s body) (h : Commands [12] m s)
include hx h

theorem link_refused_id (hid : ¬ (isLink m.a0.toNat = true ∧ m.a0.toNat / 1024 ≠ 2)) : Answers i m s 2 [] s := by
  refine answers_of_command hx h (if_pos ?_)
  simpa [or_iff_not_imp_left] using hid

variable (hid : isLink m.a0.toNat = true ∧ m.a0.toNat / 1024 ≠ 2)
include hid

theorem link_changes (hbody : (body m.a0.toNat (linkOf s m.a0.toNat).state).map (fun f => f s) = some t) :
    Answers i m s 0 [] t := by
  obtain ⟨hlink, hhost⟩ := hid
  obtain ⟨f, hf, rfl⟩ := Option.map_eq_some_iff.mp hbody
  refine answers_of_command hx h ((if_neg (by simp [hlink, hhost])).trans ?_)
  simp only [argOf_zero, hf, Answer.ok]

theorem link_refused_state (hbody : body m.a0.toNat (linkOf s m.a0.toNat).state = none) : Answers i m s 1 [] s := by
  obtain ⟨hlink, hhost⟩ := hid
  refine answers_of_command hx h ((if_neg (by simp [hlink, hhost])).trans ?_)
  simp only [argOf_zero, hbody, Answer.bad]

end

/-! ## Endpoints and apertures (R385, R386, R476) -/

theorem epBind_binds {m : Mbox} {s : State} (h : Commands [10, 8, 64] m s) (hone : ctxArg m ≠ 0x3FF)
    (hthere : ctxStateOf s (ctxArg m) ≠ none) (hstands : ctxStateOf s (ctxArg m) ≠ some .tornDown) :
    Answers (.epBind m) m s 0 [] (modCtx s (ctxArg m) (fun c => { c with endpoint := some (m.a1.setWidth 8, m.a2) })) := by
  refine answers_of_command (Eq.refl (execEpBind m s)) h ((if_neg hone).trans ?_)
  split
  next hnone => exact absurd hnone hthere
  next htorn => exact absurd htorn hstands
  next => simp only [Answer.ok, argOf_one, BitVec.ofNat_toNat]

/-- The entry that APERTURE gives. -/
def newAperture (m : Mbox) : Aperture :=
  ⟨m.a0.getLsbD 5, m.a0.toNat / 2 ^ 6 % 2 ^ 3, m.a1, m.a2.toNat, m.a3.setWidth 48⟩

theorem rebound_eq (entry : Nat) (a : Aperture) : rebound entry a = fun o => if o.entry = entry ∧ o.sent = false then
    { o with port := a.port, peer := a.peer, ctx := a.ctx, addr := a.base.toNat + o.addr % 2 ^ 40 } else o := by
  funext o
  simp only [rebound, Bool.not_eq_true']

theorem aperture_sets {m : Mbox} {s : State} (h : Commands [9, 64, 10, 48] m s) (hbase : m.a3.toNat % 2 ^ 40 = 0) :
    Answers (.aperture m) m s 0 [] { s with
      apertures := mset s.apertures (m.a0.toNat % 2 ^ 5) (newAperture m),
      outgoing := if (newAperture m).enabled = true
        then s.outgoing.map (rebound (m.a0.toNat % 2 ^ 5) (newAperture m)) else s.outgoing } := by
  have hentry : argBits m 0 4 0 = m.a0.toNat % 2 ^ 5 := bits_low _ _
  refine answers_of_command (Eq.refl (execAperture m s)) h ((if_neg (not_not.mpr hbase)).trans ?_)
  simp only [hentry, argOf_three, BitVec.ofNat_toNat]
  rfl

theorem linkCommands : Sys2Proof.Rules.LinkCommands := by
  intro m s
  simp only [← ctxArg_eq m]
  refine ⟨fun hport hup hfull => ?width,
    fun h => ⟨fun hid => ⟨fun hst => ⟨?enable, ?drainDown, ?disableDown⟩, fun hst => ?carries, fun hst => ?disableTraining,
        fun hst => ?disableDraining⟩,
      fun hno => ⟨link_refused_id (Eq.refl (execLinkEnable m s)) h hno, link_refused_id (Eq.refl (execLinkDrain m s)) h hno,
        link_refused_id (Eq.refl (execLinkDisable m s)) h hno⟩, fun hlink => ?read⟩,
    fun h => ⟨fun hall => ?unbind, fun hone hthere hstands => ?bind, fun hone hgone => ?bindBad⟩,
    fun h => ⟨fun hbase => ?aperture, fun hbase => ?apertureBad⟩, fun h => ⟨fun hlow hhigh => ?pod, fun hbad => ?podBad⟩⟩
  case width => simp only [linkWidth, hup, hport, hfull, if_true, one_ne_zero, if_false]
  case enable => exact link_changes (Eq.refl (execLinkEnable m s)) h hid (by rw [hst]; rfl)
  case drainDown => exact link_refused_state (Eq.refl (execLinkDrain m s)) h hid (by rw [hst])
  case disableDown => exact link_changes (Eq.refl (execLinkDisable m s)) h hid (by rw [hst]; rfl)
  case carries =>
    rcases hst with hst | hst
    all_goals exact ⟨link_refused_state (Eq.refl (execLinkEnable m s)) h hid (by rw [hst]),
      link_changes (Eq.refl (execLinkDrain m s)) h hid (by rw [hst]; rfl),
      link_changes (Eq.refl (execLinkDisable m s)) h hid (by rw [hst]; rfl)⟩
  case disableTraining => exact link_changes (Eq.refl (execLinkDisable m s)) h hid (by rw [hst]; rfl)
  case disableDraining => exact link_changes (Eq.refl (execLinkDisable m s)) h hid (by rw [hst]; rfl)
  case read => exact answers_of_command (Eq.refl (execLinkRead m s)) h (if_neg (by simp [hlink]))
  case unbind => exact answers_of_command (Eq.refl (execEpBind m s)) h (if_pos hall)
  case bind => exact epBind_binds h hone hthere hstands
  case bindBad =>
    refine answers_of_command (Eq.refl (execEpBind m s)) h ((if_neg hone).trans ?_)
    rcases hgone with hgone | hgone <;> simp only [hgone] <;> rfl
  case aperture =>
    have hsets := aperture_sets h hbase
    rw [rebound_eq] at hsets
    exact hsets
  case apertureBad => exact answers_of_command (Eq.refl (execAperture m s)) h (if_pos hbase)
  case pod =>
    refine answers_of_command (Eq.refl (execPodSet m s)) h ((if_neg (by simp [hlow, hhigh])).trans ?_)
    simp only [Answer.ok, modPartition, argOf_zero, argOf_one, argOf_two, BitVec.ofNat_toNat]
  case podBad => exact answers_of_command (Eq.refl (execPodSet m s)) h (if_pos hbad)

/-- Settles O58, one command after the other. -/
theorem memoryAndLinkCommands : Obligations.MemoryAndLinkCommands := ⟨memoryCommands, linkCommands⟩

end Sys2Proof.Proofs
end

section
/-!
SUPPORT and PROOFS of the statements about the modes of the matrix array and about how the plane's instructions enter its queue.
-/
namespace Sys2Proof.Proofs

open Sys2Proof Sys2Proof.Machine Sys2Proof.Safety Sys2Proof.Laws

/-! ## Traps of an instruction -/

/-- The specifier of a field fits into the eight bits that ILLEGAL_OPERAND has for it (R59). -/
theorem illegalOperand_field (α : Type) (idx : Nat) (spec : BitVec 8) : (illegalOperand idx spec.toNat : Res α) =
    .error (.trap ⟨0x02, 0, BitVec.ofNat 64 (idx + spec.toNat * 256), none, none⟩) := by
  rw [illegalOperand, Nat.mod_eq_of_lt spec.isLt, trapOf]

/-! ## The modes of the matrix array (R304, R310, R311, R315) -/

theorem enqueueArray_one {s : State} {e : Iss} (op : ArrayOp) (hroom : (coreOf s e.core).arrayQ.length < 16) :
    enqueueArray s e.core [⟨gidOf e.g, e.slot, s.fresh, op⟩] = .ok (Rules.entered s e op) :=
  if_neg (Nat.not_lt.mpr hroom)

/-- Settles O39: `msync` by what it waits for, `setfmt` by the reserved bits, `phint` by its length. -/
theorem matrixModes : Obligations.MatrixModes := by
  intro f s e qs s0 k mask new len set
  refine ⟨fun hbusy hopen hroom => completes_of (Eq.refl (execMsync f s)) fun _ => ?sync,
    fun hnew => completes_of (Eq.refl (execSetfmt f s)) fun _ => if_neg ?legal,
    fun hnew => traps_of (Eq.refl (execSetfmt f s)) fun _ => (if_pos ?reserved).trans (illegalOperand_field Done 1 f.src1),
    fun hlen => completes_of (Eq.refl (execPhint f s)) fun _ => (if_neg hlen).trans ?hint,
    fun hlen => traps_of (Eq.refl (execPhint f s)) fun _ => if_pos hlen⟩
  case sync =>
    simp only [k, s0] at hbusy hopen hroom
    simp only [hbusy, hopen, Bool.false_eq_true, or_self, if_false, enqueueArray_one _ hroom]
    rfl
  case legal => exact not_not.mpr (Nat.div_eq_of_lt hnew)
  case hint => rw [now_issued]
  case reserved => exact Nat.ne_of_gt (Nat.div_pos hnew (Nat.two_pow_pos 15))

/-! ## The plane's instructions (R319 to R342) -/

/-- Its core's plane is held by the cohort of an issuing group. -/
def Holds (s : State) (e : Iss) : Prop := (coreOf s e.core).plane.holder = some (holderOf e.g)

theorem checkHeld_of_holds {s : State} {e : Iss} (h : Holds s e) : checkHeld s e = .ok () := if_pos h

theorem checkHeld_of_not_holds {s : State} {e : Iss} (h : ¬ Holds s e) :
    checkHeld s e = .error (.trap ⟨0x11, 0, 0, none, none⟩) := if_neg h

/-- An entry for which there is room goes to the end of its queue, a PLANE_FP handler's to those kept ahead. -/
theorem enterPlane_of_room {s : State} {e : Iss} (op : PlaneOp) (h : Rules.planeRoom s e) :
    enterPlane s e op = .ok (Rules.planeQueued s e op) := by
  unfold Rules.planeRoom at h
  unfold enterPlane Rules.planeQueued
  by_cases hhandler : planeHandler (coreOf s e.core) e = true
  · rw [if_pos hhandler] at h
    simp only [hhandler, if_true, if_neg (Nat.not_le.mpr h)]
    rfl
  · rw [if_neg hhandler] at h
    simp only [hhandler, if_false, if_neg (Nat.not_le.mpr h), Bool.false_eq_true]
    rfl

section
variable {i : Instr} {s : State} {e : Iss} {qs : List Queue} {opOf : State → Iss → Res PlaneOp}
  (hx : exec i s = planeInstr i opOf s)
include hx

/-- A plane instruction of the holder whose operands stand enters the plane queue and completes. -/
theorem planeInstr_completes {op : PlaneOp} (hop : opOf (issued s e qs) e = .ok op) (hheld : Holds (issued s e qs) e)
    (hroom : Rules.planeRoom (issued s e qs) e) :
    Completes i s e qs (Done.plain (Rules.planeQueued (issued s e qs) e op)) := by
  refine completes_of hx fun _ => ?_
  simp only [checkHeld_of_holds hheld, hop, enterPlane_of_room op hroom]

theorem planeInstr_not_held (hheld : ¬ Holds (issued s e qs) e) : Traps i s e qs ⟨0x11, 0, 0, none, none⟩ := by
  refine traps_of hx fun _ => ?_
  simp only [checkHeld_of_not_holds hheld]

theorem planeInstr_traps {t : Trap} (hheld : Holds (issued s e qs) e)
    (hop : opOf (issued s e qs) e = .error (.trap t)) : Traps i s e qs t := by
  refine traps_of hx fun _ => ?_
  simp only [checkHeld_of_holds hheld, hop]

end

/-- A two-operand instruction of the cells is a plane instruction. -/
theorem exec_cellInstr {i : Instr} {op : CellOp} {f : LaneForm} (s s0 : State) (e : Iss) (hx : exec i s = cellInstr i op f s) :
    ∃ opOf, exec i s = planeInstr i opOf s ∧
      opOf s0 e = .ok (.bin op (cNumber f.dst) (cNumber f.src1) (cellB s0 e 2)) := ⟨_, hx, rfl⟩

/-- Each arithmetic or moving instruction of the plane is a plane instruction with the entry that the rules give. -/
theorem exec_planeEntryOf {i : Instr} {s s0 : State} {e : Iss} {op : PlaneOp} (h : Rules.planeEntryOf s0 e i = some op) :
    ∃ opOf, exec i s = planeInstr i opOf s ∧ opOf s0 e = .ok op := by
  unfold Rules.planeEntryOf at h
  split at h
  case h_1 f => exact ⟨_, Eq.refl (execPlin f s), congrArg Except.ok (Option.some.inj h)⟩
  case h_2 f => exact ⟨_, Eq.refl (execPlquad f s), congrArg Except.ok (Option.some.inj h)⟩
  case h_3 f => exact ⟨_, Eq.refl (execPlexq f s), congrArg Except.ok (Option.some.inj h)⟩
  case h_4 f => exact Option.some.inj h ▸ exec_cellInstr s s0 e (Eq.refl (execPladd f s))
  case h_5 f => exact Option.some.inj h ▸ exec_cellInstr s s0 e (Eq.refl (execPlsub f s))
  case h_6 f => exact Option.some.inj h ▸ exec_cellInstr s s0 e (Eq.refl (execPlmul f s))
  case h_7 f => exact Option.some.inj h ▸ exec_cellInstr s s0 e (Eq.refl (execPlmin f s))
  case h_8 f => exact Option.some.inj h ▸ exec_cellInstr s s0 e (Eq.refl (execPlmax f s))
  case h_9 c f => exact Option.some.inj h ▸ exec_cellInstr s s0 e (Eq.refl (execPlcmp c f s))
  case h_10 f => exact ⟨_, Eq.refl (execPlfma f s), congrArg Except.ok (Option.some.inj h)⟩
  case h_11 f => exact ⟨_, Eq.refl (execPlmov f s), congrArg Except.ok (Option.some.inj h)⟩
  case h_12 f => exact ⟨_, Eq.refl (execPlsel f s), congrArg Except.ok (Option.some.inj h)⟩
  case h_13 f => exact ⟨_, Eq.refl (execPlclr f s), congrArg Except.ok (Option.some.inj h)⟩
  case h_14 f => exact ⟨_, Eq.refl (execPltrap f s), congrArg Except.ok (Option.some.inj h)⟩
  case h_15 f => exact ⟨_, Eq.refl (execPlwr f s), congrArg Except.ok (Option.some.inj h)⟩
  case h_16 => cases h

theorem planeInstructions : Sys2Proof.Rules.PlaneInstructions := by
  intro i s e qs op s0 hentry
  obtain ⟨opOf, hx, hop⟩ := exec_planeEntryOf (s := s) hentry
  exact ⟨planeInstr_completes hx hop, planeInstr_not_held hx⟩

theorem planeEnables : Sys2Proof.Rules.PlaneEnables := by
  intro f s e qs s0 k depth queued bad hheld
  have hen : exec (.plen f) s = planeInstr (.plen f) _ s := Eq.refl (execPlen f s)
  have hels : exec (.plels f) s = planeInstr (.plels f) _ s := Eq.refl (execPlels f s)
  have hpop : exec (.plpop f) s = planeInstr (.plpop f) _ s := Eq.refl (execPlpop f s)
  refine ⟨fun hdepth hroom => planeInstr_completes hen (if_neg (Nat.not_le.mpr hdepth)) hheld hroom,
    fun hdepth => planeInstr_traps hen hheld (if_pos hdepth),
    fun hdepth hroom => ⟨planeInstr_completes hels (if_neg (Nat.ne_of_gt hdepth)) hheld hroom,
      planeInstr_completes hpop (if_neg (Nat.ne_of_gt hdepth)) hheld hroom⟩,
    fun hdepth => ⟨planeInstr_traps hels hheld (if_pos hdepth), planeInstr_traps hpop hheld (if_pos hdepth)⟩⟩

/-- Settles O43: an instruction by the holder of the plane, an enable by the depth that the entries ahead leave. -/
theorem planeIssue : Obligations.PlaneIssue := ⟨planeInstructions, planeEnables⟩

/-! ## Holding the plane (R319 to R323) -/

/-- What `placq` does once its status area stands (R320). -/
def placqEffect (s : State) (e : Iss) (p off : Nat) : Res Done :=
  if (coreOf s e.core).plane.holder = some (holderOf e.g) then
    .ok (Done.pred (modCore s e.core (fun k => { k with plane := { k.plane with status := off } })) p e.lanes (BitVec.allOnes 64) 0)
  else if (coreOf s e.core).plane.holder.isSome then .ok (Done.pred s p e.lanes 0 0)
  else
    match enterPlane s e .clear with
    | .error r => .error r
    | .ok t =>
      .ok (Done.pred (modCore t e.core (fun k =>
        { k with plane := { k.plane with holder := some (holderOf e.g), status := off } })) p e.lanes (BitVec.allOnes 64) 0)

/-- With a status area in its allocation, `placq` goes by who holds the plane. -/
theorem placq_completes {f : LaneForm} {s : State} {e : Iss} {qs : List Queue} {d : Done}
    (hstatus : statusOk (coreOf (issued s e qs) e.core) e.g (uni32 (issued s e qs) e (fieldAt e.x 1)) = true)
    (hd : placqEffect (issued s e qs) e f.dst.toNat (uni32 (issued s e qs) e (fieldAt e.x 1)) = .ok d) :
    Completes (.placq f) s e qs d := by
  refine completes_of (Eq.refl (execPlacq f s)) fun _ => (if_neg ?_).trans hd
  simp only [hstatus]; decide

theorem placq_acquires {s : State} {e : Iss} (hfree : (coreOf s e.core).plane.holder = none)
    (hroom : Rules.planeRoom s e) (p off : Nat) : placqEffect s e p off =
      .ok (Done.pred (modCore (Rules.planeQueued s e .clear) e.core (fun k => { k with plane := { k.plane with
        holder := some (holderOf e.g), status := off } })) p e.lanes (BitVec.allOnes 64) 0) := by
  simp only [placqEffect, hfree, reduceCtorEq, if_false, Option.isSome_none, Bool.false_eq_true, enterPlane_of_room _ hroom]

/-- An instruction whose effect begins with the check of the hold. -/
theorem not_held_traps {i : Instr} {s : State} {e : Iss} {qs : List Queue} {body : Iss → State → Res Done}
    (hx : exec i s = runLane i s (fun e s => match checkHeld s e with
      | .error r => .error r
      | .ok _ => body e s)) (hheld : ¬ Holds (issued s e qs) e) : Traps i s e qs ⟨0x11, 0, 0, none, none⟩ := by
  refine traps_of hx fun _ => ?_
  simp only [checkHeld_of_not_holds hheld]

/-- The same for one whose effect the holder has. -/
theorem held_completes {i : Instr} {s : State} {e : Iss} {qs : List Queue} {d : Done} {body : Iss → State → Res Done}
    (hx : exec i s = runLane i s (fun e s => match checkHeld s e with
      | .error r => .error r
      | .ok _ => body e s)) (hheld : Holds (issued s e qs) e) (hd : body e (issued s e qs) = .ok d) :
    Completes i s e qs d := by
  refine completes_of hx fun _ => ?_
  simp only [checkHeld_of_holds hheld, hd]

theorem planeHolding : Sys2Proof.Rules.PlaneHolding := by
  intro f s e qs s0 k off mine p mod x y
  have horg : exec (.plorg f) s = planeInstr (.plorg f) _ s := Eq.refl (execPlorg f s)
  refine ⟨fun hstatus => ⟨fun hmine => placq_completes hstatus (if_pos hmine),
      fun hmine hheld => placq_completes hstatus ((if_neg hmine).trans (if_pos hheld)),
      fun hfree hroom => placq_completes hstatus (placq_acquires hfree hroom _ _)⟩,
    fun hstatus => traps_of (Eq.refl (execPlacq f s)) fun _ => if_pos ?outside,
    fun hmine => held_completes (Eq.refl (execPlrel f s)) hmine rfl,
    fun hmine i hi => ?notHeld,
    fun hmine hx hy hroom => planeInstr_completes horg ?origin hmine hroom,
    fun hmine hx => planeInstr_traps horg hmine ((if_pos hx).trans (illegalOperand_field PlaneOp 1 f.src1)),
    fun hmine hx hy => planeInstr_traps horg hmine
      ((if_neg (Nat.not_lt.mpr hx)).trans ((if_pos hy).trans (illegalOperand_field PlaneOp 2 f.src2)))⟩
  case outside => simp only [off, k, s0] at hstatus; simp only [hstatus]; decide
  case origin => exact (if_neg (Nat.not_lt.mpr hx)).trans (if_neg (Nat.not_lt.mpr hy))
  case notHeld =>
    simp only [List.mem_cons, List.not_mem_nil, or_false] at hi
    rcases hi with rfl | rfl | rfl | rfl | rfl | rfl | rfl | rfl
    · exact not_held_traps (Eq.refl (execPlrel f s)) hmine
    · exact planeInstr_not_held horg hmine
    · exact planeInstr_not_held (Eq.refl (execPlen f s)) hmine
    · exact planeInstr_not_held (Eq.refl (execPlels f s)) hmine
    · exact planeInstr_not_held (Eq.refl (execPlpop f s)) hmine
    · exact not_held_traps (Eq.refl (execPlflag f s)) hmine
    · exact not_held_traps (Eq.refl (execPlrd f s)) hmine
    · exact not_held_traps (Eq.refl (execPlcov f s)) hmine

/-! ## Results of the plane (R335, R339, R340, R342) -/

theorem planeResult_of_room {s : State} {e : Iss} (dst : BitVec 8) (op : PlaneOp) (hroom : Rules.planeRoom s e) :
    planeResult s e dst op = .ok (Done.later (Rules.planeQueued s e op) (pendingResult (Rules.planeQueued s e op) e .plane
      (write32 dst.toNat e.lanes (fun _ => 0)) 0)) := by
  simp only [planeResult, enterPlane_of_room op hroom]

/-- A change of a queue of a group is none of its core's plane. -/
theorem plane_modQueue (s : State) (core slot n : Nat) (f : Queue → Queue) :
    (coreOf (modQueue s core slot n f) core).plane = (coreOf s core).plane := by
  rw [modQueue, ← coreOf_modGroup s core slot]

theorem planeRoom_modQueue {s : State} {e : Iss} (n : Nat) (f : Queue → Queue) (h : Rules.planeRoom s e) :
    Rules.planeRoom (modQueue s e.core e.slot n f) e := by
  unfold Rules.planeRoom planeHandler at h ⊢
  rw [plane_modQueue]
  exact h

theorem planeResults : Sys2Proof.Rules.PlaneResults := by
  intro f s e qs s0 n later q c hheld hroom
  refine ⟨held_completes (Eq.refl (execPlflag f s)) hheld ?flags,
    held_completes (Eq.refl (execPlrd f s)) hheld (planeResult_of_room f.dst _ hroom),
    fun hqueue hfree => held_completes (Eq.refl (execPlcov f s)) hheld ((if_neg ?open_).trans ?cover)⟩
  case flags =>
    have hone : decide (f.src1 = 1) = decide (n = 1) := decide_eq_decide.mpr BitVec.toNat_inj.symm
    rw [hone]
    exact planeResult_of_room f.dst _ hroom
  case open_ =>
    rintro ⟨hseven, hmode⟩
    rcases hqueue with hlt | ⟨-, hplain⟩
    · exact absurd hseven (Nat.ne_of_lt hlt)
    · rw [hplain] at hmode; exact Bool.false_ne_true hmode
  case cover =>
    have hidle : ¬ q.stream.isSome = true := by rw [hfree]; decide
    exact (if_neg hidle).trans (planeResult_of_room f.dst _ (planeRoom_modQueue n _ hroom))

/-- Settles O44: `placq` by who holds the plane, the others by whether it is the group's cohort. -/
theorem planeHoldingAndResults : Obligations.PlaneHoldingAndResults := ⟨planeHolding, planeResults⟩

end Sys2Proof.Proofs
end

section
/-!
SUPPORT. What an access to memory leaves of a package beyond `SameButMemory`: of each core all but its L1 and what its next
releases carry, and the canonical form of memory (log 2).
-/
namespace Sys2Proof.Proofs

open Sys2Proof Sys2Proof.Machine Sys2Proof.Safety Sys2Proof.Laws

/-- A core whose L1, attachments and recent writes alone have changed. -/
def SameButL1 (k l : Core) : Prop := { l with l1 := k.l1, l1sigs := k.l1sigs, recent := k.recent } = k

/-- A package as an access to memory leaves it: memory keeps its canonical form, and every core all but its L1. -/
structure Accessed (s t : State) : Prop where
  mem : Memory.wf s.mem = true → Memory.wf t.mem = true
  cores : ∀ c, SameButL1 (coreOf s c) (coreOf t c)

namespace SameButL1

variable {k l m : Core}

theorem trans (h : SameButL1 k l) (g : SameButL1 l m) : SameButL1 k m := by
  unfold SameButL1 at h g ⊢
  exact (congrArg (fun x : Core => { x with l1 := k.l1, l1sigs := k.l1sigs, recent := k.recent }) g).trans h

theorem scratch (h : SameButL1 k l) : l.scratch = k.scratch := by
  have hscratch := congrArg Core.scratch h
  exact hscratch

theorem fills (h : SameButL1 k l) : l.fills = k.fills := by
  have hfills := congrArg Core.fills h
  exact hfills

end SameButL1

namespace Accessed

variable {s t u : State}

/-- What touches neither memory nor a core. -/
theorem of_same (hmem : t.mem = s.mem) (hcores : t.cores = s.cores) : Accessed s t :=
  ⟨fun h => hmem ▸ h, fun c => by rw [coreOf, coreOf, hcores]; rfl⟩

theorem refl (s : State) : Accessed s s := of_same rfl rfl

theorem trans (h : Accessed s t) (g : Accessed t u) : Accessed s u :=
  ⟨fun hs => g.mem (h.mem hs), fun c => (h.cores c).trans (g.cores c)⟩

theorem foldl {α : Type} {f : State → α → State} (hf : ∀ s x, Accessed s (f s x)) (l : List α) (s : State) :
    Accessed s (l.foldl f s) := by
  induction l generalizing s with
  | nil => exact refl s
  | cons x l ih => exact (hf s x).trans (ih (f s x))

theorem modCore (s : State) (core : Nat) (f : Core → Core) (hf : ∀ k, SameButL1 k (f k)) :
    Accessed s (modCore s core f) := by
  refine ⟨id, fun c => ?_⟩
  by_cases hc : c = core
  · rw [hc, coreOf_modCore]; exact hf _
  · rw [coreOf_modCore_other _ _ _ _ hc]; rfl

theorem modStack (s : State) (d : Nat) (f : Stack → Stack) : Accessed s (modStack s d f) := of_same rfl rfl

theorem keepView (s : State) (pa n : Nat) : Accessed s (keepView s pa n) := of_same rfl rfl

theorem stampWords (s : State) (pa n : Nat) : Accessed s (stampWords s pa n) := of_same rfl rfl

theorem noteWrite (s : State) (line place : Nat) : Accessed s (noteWrite s line place) := of_same rfl rfl

theorem sendOp (s : State) (core pa : Nat) (ask : ApertureAsk) : Accessed s (sendOp s core pa ask) := of_same rfl rfl

theorem noteRecent (s : State) (core : Nat) (sigs : List Sig) : Accessed s (noteRecent s core sigs) :=
  modCore s core _ fun _ => by rfl

theorem attach (s : State) (line : Nat) (sigs : List Sig) : Accessed s (attach s line sigs) := by
  cases sigs <;> exact of_same rfl rfl

theorem setMem {m : Memory} (hm : Memory.wf s.mem = true → Memory.wf m = true) : Accessed s { s with mem := m } :=
  ⟨hm, fun _ => rfl⟩

theorem storeHome (s : State) (pa : Nat) (bs : List Byte) (sigs : List Sig) : Accessed s (storeHome s pa bs sigs) := by
  unfold Machine.storeHome
  refine trans ?_ (attach _ _ _)
  refine trans ?_ (noteWrite _ _ _)
  refine trans ?_ (stampWords _ _ _)
  exact (keepView s _ _).trans (setMem (writeBytes_wf _ pa bs))

/-! ## Caches -/

theorem writeBackL2 (s : State) (d sec : Nat) : Accessed s (writeBackL2 s d sec) := by
  unfold Machine.writeBackL2
  split
  · exact refl s
  next x _ =>
    split
    · exact refl s
    · refine trans ?_ (modStack _ _ _)
      refine trans ?_ (noteWrite _ _ _)
      refine trans ?_ (attach _ _ _)
      refine trans ?_ (foldl (fun s e => stampWords s _ 1) _ _)
      refine trans ?_ (setMem (foldl_write_wf (dirtyBytes x) _ _ _))
      exact foldl (fun s e => keepView s _ 1) _ s

theorem evictL2 (s : State) (d sec : Nat) : Accessed s (evictL2 s d sec) := (writeBackL2 s d sec).trans (modStack _ _ _)

theorem roomL2 (s : State) (d line : Nat) : Accessed s (roomL2 s d line) := by
  unfold Machine.roomL2
  dsimp only
  split
  · exact refl s
  · split
    · exact refl s
    · exact foldl (fun s sec => evictL2 s d sec) _ s

theorem putL2 (s : State) (d sec : Nat) (x : Sector) (sigs : List Sig) : Accessed s (putL2 s d sec x sigs) :=
  (roomL2 s d _).trans (modStack _ _ _)

theorem writeBackL1 (s : State) (core sec : Nat) : Accessed s (writeBackL1 s core sec) := by
  unfold Machine.writeBackL1
  split
  · exact refl s
  · split
    · exact refl s
    · refine trans ?_ (modCore _ _ _ fun _ => by rfl)
      refine trans ?_ (noteRecent _ _ _)
      exact ((roomL2 s _ _).trans (putL2 _ _ _ _ _)).trans (noteWrite _ _ _)

theorem evictL1 (s : State) (core sec : Nat) : Accessed s (evictL1 s core sec) :=
  (writeBackL1 s core sec).trans (modCore _ _ _ fun _ => by rfl)

theorem roomL1 (s : State) (core line : Nat) : Accessed s (roomL1 s core line) := by
  unfold Machine.roomL1
  dsimp only
  split
  · exact refl s
  · split
    · exact refl s
    · exact foldl (fun s sec => evictL1 s core sec) _ s

theorem putL1 (s : State) (core sec : Nat) (x : Sector) (sigs : List Sig) : Accessed s (putL1 s core sec x sigs) :=
  (roomL1 s core _).trans (modCore _ _ _ fun _ => by rfl)

theorem getL2 (s : State) (d sec : Nat) : Accessed s (getL2 s d sec).2 := by
  unfold Machine.getL2
  dsimp only
  split
  · exact refl s
  · exact (roomL2 s d _).trans (putL2 _ _ _ _ _)

theorem getL1 (s : State) (core sec : Nat) : Accessed s (getL1 s core sec).2 := by
  unfold Machine.getL1
  dsimp only
  split
  · exact refl s
  · exact ((roomL1 s core _).trans (getL2 _ _ _)).trans (putL1 _ _ _ _ _)

/-! ## Reads, writes, releases and acquires -/

theorem readLevel (s : State) (core level pa n : Nat) : Accessed s (readLevel s core level pa n).state := by
  unfold Machine.readLevel
  dsimp only
  split
  · exact getL1 s core _
  · split
    · exact (evictL1 s core _).trans (getL2 _ _ _)
    · exact (evictL1 s core _).trans (evictL2 _ _ _)

theorem writeLevel (s : State) (core level pa : Nat) (bs : List Byte) (sigs : List Sig) :
    Accessed s (writeLevel s core level pa bs sigs) := by
  unfold Machine.writeLevel
  dsimp only
  split
  · exact (putL1 s core _ _ _).trans (noteWrite _ _ _)
  · split
    · exact (((evictL1 s core _).trans (putL2 _ _ _ _ _)).trans (noteWrite _ _ _)).trans (noteRecent _ _ _)
    · exact (((evictL1 s core _).trans (evictL2 _ _ _)).trans (storeHome _ _ _ _)).trans (noteRecent _ _ _)

theorem release (s : State) (core : Nat) (scope : Scope) (inherited : List Sig) :
    Accessed s (release s core scope inherited).2 := by
  have hflush : Accessed s ((dirtySectors (coreOf s core).l1).foldl (fun s sec => Machine.writeBackL1 s core sec) s) :=
    foldl (fun s sec => writeBackL1 s core sec) _ s
  unfold Machine.release
  dsimp only
  split
  · exact noteRecent s core _
  · exact hflush
  · exact hflush.trans (foldl (fun s sec => writeBackL2 s _ sec) _ _)

theorem acquireDrop (s : State) (core : Nat) (scope : Scope) (sigs : List Sig) : Accessed s (acquireDrop s core scope sigs) := by
  have hdrop : Accessed s (Machine.modCore s core (dropL1 sigs)) := modCore s core _ fun _ => rfl
  unfold Machine.acquireDrop
  split
  · exact refl s
  · exact hdrop
  · exact hdrop.trans (modStack _ _ _)

theorem walkAcquire (s : State) (core : Nat) (x : Xlat) : Accessed s (walkAcquire s core x) := acquireDrop s core _ _

theorem walkSeen (s : State) (core ctx va : Nat) : Accessed s (walkSeen s core ctx va) := by
  unfold Machine.walkSeen
  split
  · exact refl s
  · split
    · exact acquireDrop s core _ _
    · exact acquireDrop s core _ _
    · exact refl s

theorem readX (s : State) (core level : Nat) (x : Xlat) (n tag : Nat) : Accessed s (readX s core level x n tag).state := by
  unfold Machine.readX
  dsimp only
  split
  · exact (walkAcquire s core x).trans (sendOp _ _ _ _)
  · split
    · exact (walkAcquire s core x).trans (readLevel _ _ _ _ _)
    · exact walkAcquire s core x

theorem writeX (s : State) (core level : Nat) (x : Xlat) (bs : List Byte) (sigs : List Sig) :
    Accessed s (writeX s core level x bs sigs) := by
  unfold Machine.writeX
  dsimp only
  split
  · exact (walkAcquire s core x).trans (sendOp _ _ _ _)
  · split
    · exact (walkAcquire s core x).trans (writeLevel _ _ _ _ _ _)
    · exact walkAcquire s core x

theorem releaseWrite (s : State) (core : Nat) (scope : Scope) (x : Xlat) (bs : List Byte) (inherited : List Sig) :
    Accessed s (releaseWrite s core scope x bs inherited) := (release s core scope inherited).trans (writeX _ _ _ _ _ _)

theorem acquireRead (s : State) (core : Nat) (scope : Scope) (x : Xlat) (n tag : Nat) :
    Accessed s (acquireRead s core scope x n tag).state := (readX s core _ x n tag).trans (acquireDrop _ _ _ _)

theorem writeParts (core policy : Nat) (sigs : List Sig) (l : List (Xlat × Nat)) (s : State) (bs : List Byte) :
    Accessed s (writeParts s core policy sigs l bs) := by
  induction l generalizing s bs with
  | nil => exact refl s
  | cons x l ih => exact (writeX s core _ x.1 _ sigs).trans (ih _ _)

theorem readParts (core level tag : Nat) (l : List (Xlat × Nat)) (s : State) :
    Accessed s (readParts s core level tag l).state := by
  induction l generalizing s with
  | nil => exact refl s
  | cons x l ih => exact (readX s core _ x.1 _ _).trans (ih _)

theorem readPlaces (core tag : Nat) (l : List (Place × Nat)) (s : State) : Accessed s (readPlaces s core tag l).2.2 := by
  induction l generalizing s with
  | nil => exact refl s
  | cons x l ih =>
    obtain ⟨place, n⟩ := x
    cases place with
    | scratch off => exact ih s
    | memory x => exact (readX s core _ x n _).trans (ih _)

end Accessed

end Sys2Proof.Proofs
end

section
/-!
SUPPORT and PROOFS of the statements about the matrix array at work: passes, entries that take effect, and fills.
-/
namespace Sys2Proof.Proofs

open Sys2Proof Sys2Proof.Machine Sys2Proof.Safety Sys2Proof.Laws

/-! ## Rows written into the array (R302) -/

theorem mget?_writeRows_other {rows : List (Nat × List (BitVec 36))} {key : Nat} (m : Map (List (BitVec 36)))
    (h : ∀ r ∈ rows, r.1 ≠ key) : mget? (writeRows m rows) key = mget? m key := by
  induction rows generalizing m with
  | nil => rfl
  | cons r rows ih =>
    rw [writeRows, List.foldl_cons, ← writeRows, ih _ fun x hx => h x (List.mem_cons_of_mem _ hx),
      mget?_mset_other _ _ _ _ (h r List.mem_cons_self).symm]

theorem mget?_writeRows_of_mem {rows : List (Nat × List (BitVec 36))} {key : Nat} {row : List (BitVec 36)}
    (m : Map (List (BitVec 36))) (hdistinct : rows.Pairwise (fun a b => a.1 ≠ b.1)) (h : (key, row) ∈ rows) :
    mget? (writeRows m rows) key = some row := by
  induction rows generalizing m with
  | nil => cases h
  | cons r rows ih =>
    obtain ⟨hhead, htail⟩ := List.pairwise_cons.mp hdistinct
    rw [writeRows, List.foldl_cons, ← writeRows]
    rcases List.mem_cons.mp h with rfl | hmem
    · rw [mget?_writeRows_other _ fun x hx => (hhead x hx).symm, mget?_mset_same]
    · exact ih _ htail hmem

/-! ## Passes (R300, R302, R304, R423) -/

/-- Only a pass begins declared bursts. -/
theorem head_of_burstsBegun {k : Core} (h : burstsBegun k ≠ []) :
    ∃ owner slot tag fmt b off qs dones rest, k.arrayQ = ⟨owner, slot, tag, .pass fmt b off qs dones⟩ :: rest := by
  unfold burstsBegun at h
  split at h
  next owner slot tag fmt b off qs dones rest hq => exact ⟨owner, slot, tag, fmt, b, off, qs, dones, rest, hq⟩
  next => exact absurd rfl h

theorem burstWaits_of_gap {s : State} {core : Nat} (hbegun : burstsBegun (coreOf s core) ≠ [])
    (hgap : (coreOf s core).burstGap ≠ 0) : burstWaits s core = true := by
  simp only [burstWaits, List.isEmpty_eq_false_iff.mpr hbegun, hgap, decide_true, Bool.not_false, ne_eq, not_false_eq_true,
    Bool.true_or, Bool.true_and]

theorem matrixPasses : Sys2Proof.Rules.MatrixPasses := by
  intro core slot tag b off key s owner fmt qs dones rest x more k t ran
  refine ⟨fun hhead hgo => ?runs, fun hbegun hgap => ?waits, fun hland => ?lands,
    fun hrows => mget?_writeRows_other _ hrows, fun row hdistinct hrow => mget?_writeRows_of_mem _ hdistinct hrow⟩
  case runs =>
    refine (Eq.refl (execMmaPass core s)).trans ?_
    simp only [execMmaPass, show (coreOf s core).arrayQ = _ from hhead, hgo, Bool.false_eq_true, if_false]
    rfl
  case waits =>
    obtain ⟨_, _, _, _, _, _, _, _, _, hhead⟩ := head_of_burstsBegun hbegun
    refine (Eq.refl (execMmaPass core s)).trans ?_
    simp only [execMmaPass, show (coreOf s core).arrayQ = _ from hhead, burstWaits_of_gap hbegun hgap, if_true]
  case lands =>
    refine (Eq.refl (execAccumulatorWrite core s)).trans ?_
    simp only [execAccumulatorWrite, show (coreOf s core).landing = _ from hland]
    rfl

/-! ## Entries other than passes (R300, R307 to R310) -/

section
variable {core : Nat} {s : State} {x : ArrayEntry} {rest : List ArrayEntry}

/-- The package without the entry at the head of its core's array queue. -/
def entryTaken (s : State) (core : Nat) (rest : List ArrayEntry) : State := setCore s core { coreOf s core with arrayQ := rest }

/-- An entry other than a pass takes effect unless it waits for writes on their way. -/
theorem exec_arrayEntry (hhead : (coreOf s core).arrayQ = x :: rest) (hop : ∀ f b o qs d, x.op ≠ .pass f b o qs d)
    (hland : waitsLanding x.op = false ∨ (coreOf s core).landing = []) :
    exec (.arrayEntry core) s = .next (applyArray (entryTaken s core rest) core x) := by
  have hgo : ¬ (waitsLanding x.op = true ∧ (!(coreOf s core).landing.isEmpty) = true) := by
    rcases hland with h | h <;> simp [h]
  refine (Eq.refl (execArrayEntry core s)).trans ?_
  simp only [execArrayEntry, hhead, hgo, if_false]
  rfl

end

theorem arrayEntries : Sys2Proof.Rules.ArrayEntries := by
  intro core s x rest rows ty cells puts y k out v hhead
  have hout : coreOf out core = { k with arrayQ := rest } := coreOf_setCore s core _
  refine ⟨fun hland => ⟨fun hop => ?zero, fun hop => ?read, fun hop => ?write⟩, fun hop howner => ?fill, fun hop => ?sync⟩
  case zero =>
    rw [exec_arrayEntry hhead (by simp [hop]) (.inr hland)]
    simp only [applyArray, hop]
    rfl
  case read =>
    rw [exec_arrayEntry hhead (by simp [hop]) (.inr hland)]
    simp only [applyArray, hop, readWords, show entryTaken s core rest = out from rfl, hout, List.map_map, v]
    rfl
  case write =>
    rw [exec_arrayEntry hhead (by simp [hop]) (.inr hland)]
    simp only [applyArray, hop]
    rfl
  case fill =>
    rw [exec_arrayEntry hhead (by simp [hop]) (.inl (by rw [hop]; rfl))]
    have hhere : ownerHere (coreOf out core) y = true := by rw [hout]; exact howner
    simp only [applyArray, hop, show entryTaken s core rest = out from rfl, modCore, hhere, if_true]
  case sync =>
    rw [exec_arrayEntry hhead (by simp [hop]) (.inl (by rw [hop]; rfl))]
    simp only [applyArray, hop]
    rfl

/-! ## The bytes of a fill (R309) -/

/-- The bytes of a column. -/
def columnPart (bs : List Byte) (n j : Nat) : List Byte := (bs.drop (j * n)).take n

theorem length_columnPart {bs : List Byte} {n j : Nat} (hlen : bs.length = 64 * n) (hj : j < 64) :
    (columnPart bs n j).length = n := by
  have hle : (j + 1) * n ≤ 64 * n := Nat.mul_le_mul_right n hj
  rw [Nat.add_mul, Nat.one_mul] at hle
  rw [columnPart, List.length_take, List.length_drop, hlen]
  omega

theorem foldl_writeBytes_wf {α : Type} (l : List α) (f : α → Nat) (g : α → List Byte) (m : Memory) (h : Memory.wf m = true) :
    Memory.wf (l.foldl (fun m e => Memory.writeBytes m (f e) (g e)) m) = true := by
  induction l generalizing m with
  | nil => exact h
  | cons e l ih => exact ih _ (writeBytes_wf _ _ _ h)

/-- What the columns of a list have written leaves the bytes of every other column. -/
theorem read_columns_other (b off n : Nat) (bs : List Byte) (hfit : off + n ≤ 2048) {j i : Nat} (hi : i < n) (l : List Nat)
    (hj : j ∉ l) (m : Memory) :
    Memory.read (l.foldl (fun m j => Memory.writeBytes m (bAddress b j off) (columnPart bs n j)) m) (bAddress b j (off + i)) =
      Memory.read m (bAddress b j (off + i)) := by
  induction l generalizing m with
  | nil => rfl
  | cons c l ih =>
    have hc : c ≠ j := fun h => hj (h ▸ List.mem_cons_self)
    have hlen : (columnPart bs n c).length ≤ n := List.length_take_le _ _
    rw [List.foldl_cons, ih fun h => hj (List.mem_cons_of_mem _ h), read_writeBytes_outside]
    unfold bAddress
    rcases Nat.lt_or_gt_of_ne hc with h | h <;> omega

/-- Column `j` of a slot holds its own part of a fill's bytes. -/
theorem read_writeFill {m : Memory} (hwf : Memory.wf m = true) (b : Nat) {off n j i : Nat} {bs : List Byte}
    (hlen : bs.length = 64 * n) (hfit : off + n ≤ 2048) (hj : j < 64) (hi : i < n) :
    Memory.read (writeFill m b off n bs) (bAddress b j (off + i)) = bs.getD (j * n + i) 0 := by
  obtain ⟨before, after, hsplit⟩ := List.append_of_mem (List.mem_range.mpr hj)
  have hnot : j ∉ after := by
    have hnodup : (before ++ j :: after).Nodup := hsplit ▸ List.nodup_range
    exact (List.nodup_cons.mp (List.nodup_append.mp hnodup).2.1).1
  have hlength := length_columnPart hlen hj
  have hkept : Memory.wf (before.foldl (fun m j => Memory.writeBytes m (bAddress b j off) (columnPart bs n j)) m) = true := by
    exact foldl_writeBytes_wf _ _ _ _ hwf
  rw [show writeFill m b off n bs = (List.range 64).foldl
      (fun m j => Memory.writeBytes m (bAddress b j off) (columnPart bs n j)) m from rfl, hsplit, List.foldl_append,
    List.foldl_cons, read_columns_other _ _ _ _ hfit hi _ hnot]
  refine Option.some_injective _ ?_
  rw [show bAddress b j (off + i) = bAddress b j off + i from (Nat.add_assoc _ _ _).symm,
    read_writeBytes_at hkept _ (by rwa [hlength])]
  have hin : j * n + i < bs.length := by
    have hle : (j + 1) * n ≤ 64 * n := Nat.mul_le_mul_right n hj
    rw [Nat.add_mul, Nat.one_mul] at hle
    omega
  rw [columnPart, List.getElem?_take_of_lt hi, List.getElem?_drop, List.getD_eq_getElem?_getD, List.getElem?_eq_getElem hin,
    Option.getD_some]

/-! ## Fills complete (R309, R314, R387) -/

/-- The package after the bytes of a fill have landed in `t`. -/
def fillLanded (t : State) (core b o n : Nat) (c : EngineCmd) (bs : List Byte) : State :=
  completeTag (modCore t core (fun k => dropCommand { k with
    bmem := writeFill k.bmem b o n bs,
    fills := k.fills.map (fun y => if y.tag = c.tag then { y with done := true } else y) } c)) core c.slot c.tag

section
variable {core va b o n : Nat} {s : State} {c : EngineCmd} {l : List (Place × Nat)} (hop : c.op = .fill va b o (64 * n))
include hop

/-- A fill whose bytes have come lands where its slot is still its cohort's. -/
theorem finishCommand_landFill {t : State} (bs : List Byte) (hthere : ∃ y ∈ (coreOf t core).fills, y.tag = c.tag) :
    finishCommand (modCore t core (fun k => landFill k c b o (64 * n / 64) bs)) core c = fillLanded t core b o n c bs := by
  have hlanded : (coreOf t core).fills.any (fun x => decide (x.tag = c.tag)) = true := by simpa using hthere
  simp only [finishCommand, hop, fillLanded, modCore_modCore]
  rw [modCore, landFill, if_pos hlanded, Nat.mul_div_cancel_left n (by decide)]
  rfl

variable (hplaces : placesOf s core c.gid.ctx false .read true va (64 * n) = .ok l)
include hplaces

theorem fillStep_lands {t : State} (hhave : fetchOf s c (atPeer l) (readPlaces s core 10000 l).2.2 = .have t)
    (hthere : ∃ y ∈ (coreOf t core).fills, y.tag = c.tag) :
    fillStep s core c = fillLanded t core b o n c (readPlaces s core 10000 l).1 := by
  simp only [fillStep, hop, fetchStep, cmdCtx, hplaces, hhave, finishCommand_landFill hop _ hthere]

theorem fillStep_asks {t : State} (hask : fetchOf s c (atPeer l) (readPlaces s core 10000 l).2.2 = .ask t) :
    fillStep s core c = modCommand t core c (fun x => { x with stage := .asked s.fresh }) := by
  simp only [fillStep, hop, fetchStep, cmdCtx, hplaces, hask]

end

/-- The one fill at work goes on, for its group. -/
theorem exec_bfillComplete {core : Nat} {s t : State} {c : EngineCmd} (hwork : fillsAtWork (coreOf s core) = [c])
    (hstep : fillStep { s with turn := .idle } core c = t) :
    exec (.bfillComplete core) s = .next (claimOps c.gid s.outgoing.length { t with turn := s.turn }) := by
  refine (Eq.refl (execBfillComplete core s)).trans ?_
  simp only [execBfillComplete, hwork, pickFree, actFor, withTurn, hstep]

theorem fills : Sys2Proof.Rules.Fills := by
  intro core va b o n tag s c l bs j i m s0
  refine ⟨fun hwork hop hthere hplaces => ⟨fun hstage hhome => ?home, fun hstage hpeer => ?asks,
    fun hstage hanswered => ?answered⟩, fun hwf hlen hfit hj hi => read_writeFill hwf b hlen hfit hj hi⟩
  all_goals have hread : (coreOf (readPlaces s0 core 10000 l).2.2 core).fills = (coreOf s core).fills :=
    ((Accessed.readPlaces core 10000 l s0).cores core).fills
  case home =>
    refine exec_bfillComplete hwork (fillStep_lands hop hplaces ?_ (hread ▸ hthere))
    rw [hhome, fetchOf_at_home hstage]
  case asks =>
    refine exec_bfillComplete hwork (fillStep_asks hop hplaces ?_)
    rw [hpeer, fetchOf_at_peer hstage]
  case answered =>
    exact exec_bfillComplete hwork (fillStep_lands hop hplaces
      (fetchOf_answered (s := s0) hstage hanswered _ _) (hread ▸ hthere))

/-- Settles O42: a pass by its bursts, an entry by what it is, a fill by whether its bytes lie at a peer. -/
theorem matrixArray : Obligations.MatrixArray := ⟨matrixPasses, arrayEntries, fills⟩

end Sys2Proof.Proofs
end

section
/-!
SUPPORT and PROOFS of the statements about the plane's entries: their order, and what each of them does to the cells.
-/
namespace Sys2Proof.Proofs

open Sys2Proof Sys2Proof.Machine Sys2Proof.Safety Sys2Proof.Laws

/-! ## Entries in order (R321, R326, R338) -/

theorem nextEntry_of_handler {p : Plane} {x : PlaneEntry} {rest : List PlaneEntry} (h : p.handlerQueue = x :: rest) :
    nextEntry p = some (x, { p with handlerQueue := rest }) := by
  simp only [nextEntry, h]

theorem nextEntry_of_queue {p : Plane} {x : PlaneEntry} {rest : List PlaneEntry} (hhandler : p.handlerQueue = [])
    (hreturned : p.unreturned = none) (hqueue : p.queue = x :: rest) : nextEntry p = some (x, { p with queue := rest }) := by
  simp only [nextEntry, hhandler, hreturned, hqueue, Option.isSome_none, Bool.false_eq_true, if_false]

section
variable {core : Nat} {s : State} {x : PlaneEntry} {p : Plane} (hnext : nextEntry (coreOf s core).plane = some (x, p))
include hnext

/-- The next entry takes effect by the step of its kind. -/
theorem exec_planeStep : (isClear x = false → exec (.planeEntry core) s = .next (applyPlane s core x p)) ∧
    (isClear x = true → exec (.acquisitionClear core) s = .next (applyPlane s core x p)) := by
  refine ⟨fun hclear => (Eq.refl (execPlaneEntry core s)).trans ?_,
    fun hclear => (Eq.refl (execAcquisitionClear core s)).trans ?_⟩
  · simp only [execPlaneEntry, hnext, hclear, Bool.false_eq_true, if_false]
  · simp only [execAcquisitionClear, hnext, hclear, if_true]

end

theorem exec_plcovPush {core slot q : Nat} {s : State} {g : Group} {c : CoverStream} {cells : List Nat}
    (hgroup : groupOf s core slot = some g) (hstream : (queueOf g q).stream = some (.cover c)) (hcells : c.cells = some cells)
    (hfree : freeEntries (queueOf g q) ≠ 0) (hctx : (ctxOf s g.ctx).state ≠ .faulted) :
    exec (.plcovPush core slot q) s = .next (modQueue s core slot q (fun y => { y with
      entries := y.entries ++ [⟨(List.range 64).map (coverElement c.lanes cells), true, c.mark, 0⟩],
      stream := if cells.drop (laneCount c.lanes) = [] then none
        else some (.cover { c with cells := some (cells.drop (laneCount c.lanes)) }) })) := by
  refine (Eq.refl (execPlcovPush core slot q s)).trans ?_
  simp only [execPlcovPush, hgroup, hstream, hcells, hfree, hctx, or_self, if_false, List.isEmpty_iff]

theorem planeSteps : Sys2Proof.Rules.PlaneSteps := by
  intro core slot q s g x rest c cells p wait step
  exact ⟨fun hhandler => exec_planeStep (nextEntry_of_handler hhandler),
    fun hhandler hreturned hqueue => exec_planeStep (nextEntry_of_queue hhandler hreturned hqueue),
    Eq.refl (execPlaneUpkeep core s), fun hgroup hstream hcells hfree hctx => exec_plcovPush hgroup hstream hcells hfree hctx⟩

/-! ## The cells of a plane (R317, R334) -/

/-- The gathered flags of a cell. -/
def flagsAt (p : Plane) (i : Nat) : Flags := p.flags.getD i 0

theorem cellOn_congr {p q : Plane} (h : q.enables = p.enables) (i : Nat) : cellOn q i = cellOn p i := by
  rw [cellOn, cellOn, enabledCells, enabledCells, h]

theorem cellWord_of_mset {p q : Plane} {d : Nat} {l : List Word} (h : q.regs = mset p.regs d l) (n i : Nat) :
    cellWord q n i = if n = d then l.getD i 0 else cellWord p n i := by
  unfold cellWord
  rw [h]
  split
  next h => rw [h, mget_mset_same]
  next h => rw [mget_mset_other _ _ _ _ _ h]

/-! ## Results in the cells (R329 to R332) -/

section
variable {p : Plane} {i : Nat} (hi : i < cellCount)
include hi

theorem cellWord_writeResults (d n : Nat) (r : CellResults) : cellWord (writeResults p d r) n i =
    if n = d then (if cellOn p i = true then (r.getD i (0, 0)).1 else cellWord p d i) else cellWord p n i := by
  rw [cellWord_of_mset (p := p) rfl, getD_range _ _ _ _ hi]

theorem flagsAt_writeResults (d : Nat) (r : CellResults) : flagsAt (writeResults p d r) i =
    flagsAt p i ||| (if cellOn p i = true then (r.getD i (0, 0)).2 else 0) := by
  simp only [flagsAt, writeResults, getD_range _ _ _ _ hi]

theorem getD_cellResults (f : Nat → FRes) : (cellResults f).getD i (0, 0) = (BitVec.ofNat 32 (f i).code, (f i).flags) :=
  getD_range _ _ _ _ hi

end

/-- An entry that computes in the cells writes its results and does nothing else. -/
theorem planeAfter_of_results {p : Plane} {op : PlaneOp} {d : Nat} {r : CellResults} (h : entryResults p op = some (d, r)) :
    planeAfter p op = writeResults p d r := by
  cases op
  case linear => exact congrArg (fun x => match x with | some (d, r) => writeResults p d r | none => p) h
  case quad => exact congrArg (fun x => match x with | some (d, r) => writeResults p d r | none => p) h
  case bin => exact congrArg (fun x => match x with | some (d, r) => writeResults p d r | none => p) h
  case fma => exact congrArg (fun x => match x with | some (d, r) => writeResults p d r | none => p) h
  case mov => exact congrArg (fun x => match x with | some (d, r) => writeResults p d r | none => p) h
  case sel => exact congrArg (fun x => match x with | some (d, r) => writeResults p d r | none => p) h
  all_goals cases h

/-- What an enabled cell gets from an entry that computes `f` in every cell. -/
theorem cell_of_results {p : Plane} {i : Nat} (hi : i < cellCount) (hon : cellOn p i = true) {op : PlaneOp} {d : Nat}
    {f : Nat → FRes} (h : entryResults p op = some (d, cellResults f)) :
    cellWord (planeAfter p op) d i = BitVec.ofNat 32 (f i).code ∧
      flagsAt (planeAfter p op) i = flagsAt p i ||| (f i).flags := by
  rw [planeAfter_of_results h, cellWord_writeResults hi, flagsAt_writeResults hi, if_pos rfl, if_pos hon, if_pos hon,
    getD_cellResults hi]
  exact ⟨rfl, rfl⟩

/-! What each computing entry writes, cell by cell. -/

theorem entryResults_mov (p : Plane) (d : Nat) (b : CellSrc) : entryResults p (.mov d b) =
    some (d, cellResults (fun i => ⟨cellSource p b i, 0⟩)) := rfl

theorem entryResults_sel (p : Plane) (d a : Nat) (b : CellSrc) (c : Nat) : entryResults p (.sel d a b c) =
    some (d, cellResults (fun i => ⟨if cellWord p c i ≠ 0 then (cellWord p a i).toNat else cellSource p b i, 0⟩)) := rfl

theorem entryResults_bin (p : Plane) (op : CellOp) (d a : Nat) (b : CellSrc) : entryResults p (.bin op d a b) =
    some (d, cellResults (fun i => cellBin op (cellWord p a i).toNat (cellSource p b i))) := rfl

theorem entryResults_fma (p : Plane) (d a : Nat) (b c : CellSrc) : entryResults p (.fma d a b c) =
    some (d, cellResults (fun i => cellFma (cellWord p a i).toNat (cellSource p b i) (cellSource p c i))) := rfl

theorem entryResults_linear (p : Plane) (d : Nat) (a b c : Word) : entryResults p (.linear d a b c) =
    some (d, cellResults (fun i => linearAt a.toNat b.toNat c.toNat (cellX p i) (cellY p i))) := rfl

theorem entryResults_quad (p : Plane) (d : Nat) (k6 : List Word) : entryResults p (.quad d k6 false) =
    some (d, cellResults (fun i => quadAt k6 (cellX p i) (cellY p i))) := rfl

theorem entryResults_exp2 (p : Plane) (d : Nat) (k6 : List Word) : entryResults p (.quad d k6 true) =
    some (d, cellResults (fun i => (cellExp2 (quadAt k6 (cellX p i) (cellY p i)).code).or
      (quadAt k6 (cellX p i) (cellY p i)).flags)) := rfl

/-! ## Registers cleared (R333) -/

/-- One register of a clear. -/
def clearReg (m : BitVec 16) (p : Plane) (c : Nat) : Plane :=
  if m.getLsbD c then
    { p with regs := mset p.regs c ((List.range cellCount).map (fun i => if cellOn p i then 0 else cellWord p c i)) }
  else p

theorem planeAfter_clearRegs (p : Plane) (m : BitVec 16) :
    planeAfter p (.clearRegs m) = (List.range 16).foldl (clearReg m) p := rfl

theorem clearReg_rest (m : BitVec 16) (p : Plane) (c : Nat) : ∃ r, clearReg m p c = { p with regs := r } := by
  unfold clearReg
  split
  · exact ⟨_, rfl⟩
  · exact ⟨p.regs, rfl⟩

theorem clearRegs_rest (m : BitVec 16) (l : List Nat) (p : Plane) : ∃ r, l.foldl (clearReg m) p = { p with regs := r } := by
  induction l generalizing p with
  | nil => exact ⟨p.regs, rfl⟩
  | cons c l ih =>
    obtain ⟨r, hr⟩ := clearReg_rest m p c
    obtain ⟨r', hr'⟩ := ih (clearReg m p c)
    exact ⟨r', by rw [List.foldl_cons, hr', hr]⟩

theorem cellWord_clearReg {i : Nat} (hi : i < cellCount) (m : BitVec 16) (p : Plane) (c n : Nat) :
    cellWord (clearReg m p c) n i =
      if n = c ∧ m.getLsbD c = true ∧ cellOn p i = true then 0 else cellWord p n i := by
  unfold clearReg
  split
  next hm =>
    rw [cellWord_of_mset (p := p) rfl, getD_range _ _ _ _ hi]
    by_cases hn : n = c
    · simp [hn, hm]
    · simp [hn]
  next hm => simp [hm]

theorem cellWord_clearRegs {i : Nat} (hi : i < cellCount) (m : BitVec 16) (n : Nat) (l : List Nat) (p : Plane) :
    cellWord (l.foldl (clearReg m) p) n i =
      if n ∈ l ∧ m.getLsbD n = true ∧ cellOn p i = true then 0 else cellWord p n i := by
  induction l generalizing p with
  | nil => simp
  | cons c l ih =>
    obtain ⟨r, hr⟩ := clearReg_rest m p c
    have hon : cellOn (clearReg m p c) i = cellOn p i := cellOn_congr (by rw [hr]) i
    rw [List.foldl_cons, ih, hon, cellWord_clearReg hi]
    by_cases hn : n = c
    · subst hn
      by_cases hset : m.getLsbD n = true ∧ cellOn p i = true <;> simp [hset]
    · simp [hn]

/-! ## Cells written (R339) -/

/-- One cell of a write. -/
def writeCell (c : Nat) (p : Plane) (x : Nat × Word) : Plane :=
  if cellOn p x.1 then { p with regs := mset p.regs c (lset 0 (mget p.regs c []) x.1 x.2) } else p

theorem planeAfter_write (p : Plane) (c : Nat) (cells : List (Nat × Word)) :
    planeAfter p (.write c cells) = cells.foldl (writeCell c) p := rfl

theorem writeCell_rest (c : Nat) (p : Plane) (x : Nat × Word) : ∃ r, writeCell c p x = { p with regs := r } := by
  unfold writeCell
  split
  · exact ⟨_, rfl⟩
  · exact ⟨p.regs, rfl⟩

theorem writeCells_rest (c : Nat) (l : List (Nat × Word)) (p : Plane) :
    ∃ r, l.foldl (writeCell c) p = { p with regs := r } := by
  induction l generalizing p with
  | nil => exact ⟨p.regs, rfl⟩
  | cons x l ih =>
    obtain ⟨r, hr⟩ := writeCell_rest c p x
    obtain ⟨r', hr'⟩ := ih (writeCell c p x)
    exact ⟨r', by rw [List.foldl_cons, hr', hr]⟩

theorem cellWord_writeCell (c : Nat) (p : Plane) (x : Nat × Word) (n i : Nat) : cellWord (writeCell c p x) n i =
    if n = c ∧ i = x.1 ∧ cellOn p i = true then x.2 else cellWord p n i := by
  unfold writeCell
  split
  next hx =>
    rw [cellWord_of_mset (p := p) rfl, lset_getD]
    by_cases hn : n = c
    · subst hn
      by_cases hxi : i = x.1
      · simp [hxi, hx]
      · simp [hxi, cellWord]
    · simp [hn]
  next hx =>
    have hnot : ¬ (n = c ∧ i = x.1 ∧ cellOn p i = true) := fun h => hx (h.2.1 ▸ h.2.2)
    rw [if_neg hnot]

/-- A write leaves the other registers, and cells that are not enabled. -/
theorem cellWord_writeCells {c n i : Nat} {p : Plane} (h : n ≠ c ∨ cellOn p i = false) (l : List (Nat × Word)) :
    cellWord (l.foldl (writeCell c) p) n i = cellWord p n i := by
  induction l generalizing p with
  | nil => rfl
  | cons x l ih =>
    obtain ⟨r, hr⟩ := writeCell_rest c p x
    have hon : cellOn (writeCell c p x) i = cellOn p i := cellOn_congr (by rw [hr]) i
    rw [List.foldl_cons, ih (by rwa [hon]), cellWord_writeCell, if_neg]
    rintro ⟨hn, -, hi⟩
    rcases h with h | h
    · exact h hn
    · rw [h] at hi; cases hi

/-- An enabled cell holds the last word written to it. -/
theorem cellWord_write_last {c i : Nat} {p : Plane} (hon : cellOn p i = true) (l : List (Nat × Word)) (a : Word) :
    cellWord (planeAfter p (.write c (l ++ [(i, a)]))) c i = a := by
  obtain ⟨r, hr⟩ := writeCells_rest c l p
  have hsame : cellOn (l.foldl (writeCell c) p) i = true := (cellOn_congr (by rw [hr]) i).trans hon
  rw [planeAfter_write, List.foldl_append, List.foldl_cons, List.foldl_nil, cellWord_writeCell, if_pos ⟨rfl, rfl, hsame⟩]

/-! ## Enables (R334) -/

theorem pushEnable_rest (p : Plane) (c : Nat) : ∃ l, pushEnable p c = { p with enables := l } := by
  unfold pushEnable
  split
  · exact ⟨p.enables, rfl⟩
  · exact ⟨_, rfl⟩

theorem cellOn_enable {p : Plane} {i : Nat} (hi : i < cellCount) (hdepth : p.enables.length < 8) (u : Nat) :
    cellOn (planeAfter p (.enable u)) i = (cellOn p i && decide (cellWord p u i ≠ 0)) := by
  have hbits : (List.range cellCount).foldl (fun a i => if cellWord p u i ≠ 0 then a + 2 ^ i else a) 0 =
      bitsUp (fun i => decide (cellWord p u i ≠ 0)) cellCount := by simp only [bitsUp, decide_eq_true_eq]
  have hafter : (planeAfter p (.enable u)).enables = (enabledCells p &&&
      BitVec.ofNat 4096 (bitsUp (fun i => decide (cellWord p u i ≠ 0)) cellCount)) :: p.enables := by
    simp only [planeAfter, pushEnable, Nat.not_le.mpr hdepth, if_false, hbits]
  rw [cellOn, enabledCells, hafter, List.headD_cons, BitVec.getLsbD_and, BitVec.getLsbD_ofNat, testBit_bitsUp _ hi,
    decide_eq_true (show i < 4096 from hi), Bool.true_and, cellOn]

theorem cellOn_elseEnable {p : Plane} {i : Nat} (hi : i < 4096) {en : BitVec 4096} {below : List (BitVec 4096)}
    (h : p.enables = en :: below) :
    cellOn (planeAfter p .elseEnable) i = (cellOn { p with enables := below } i && !en.getLsbD i) := by
  have hafter : (planeAfter p .elseEnable).enables = (below.headD (BitVec.allOnes 4096) &&& ~~~ en) :: below := by
    simp only [planeAfter, elseEnables, h]
  rw [cellOn, enabledCells, hafter, List.headD_cons, BitVec.getLsbD_and, BitVec.getLsbD_not, decide_eq_true hi, Bool.true_and]
  rfl

/-! ## Cells that are not enabled (R317) -/

theorem cellWord_off {p : Plane} {i : Nat} (hi : i < cellCount) (hoff : cellOn p i = false) {op : PlaneOp} (hclear : op ≠ .clear)
    (hrestore : ∀ z, op ≠ .restore z) (n : Nat) : cellWord (planeAfter p op) n i = cellWord p n i := by
  have hresults {d r} (h : entryResults p op = some (d, r)) : cellWord (planeAfter p op) n i = cellWord p n i := by
    rw [planeAfter_of_results h, cellWord_writeResults hi]
    split
    next hn => rw [hn, hoff, if_neg Bool.false_ne_true]
    next => rfl
  cases op
  case restore z => exact absurd rfl (hrestore z)
  case clear => exact absurd rfl hclear
  case clearRegs m => rw [planeAfter_clearRegs, cellWord_clearRegs hi, hoff]; simp
  case write c cells => exact cellWord_writeCells (.inr hoff) cells
  case enable u =>
    obtain ⟨l, hl⟩ := pushEnable_rest p u
    rw [show planeAfter p (.enable u) = pushEnable p u from rfl, hl]; rfl
  case flags b => cases b <;> rfl
  case linear => exact hresults rfl
  case quad => exact hresults rfl
  case bin => exact hresults rfl
  case fma => exact hresults rfl
  case mov => exact hresults rfl
  case sel => exact hresults rfl
  all_goals rfl

theorem flagsAt_off {p : Plane} {i : Nat} (hi : i < cellCount) (hoff : cellOn p i = false) {op : PlaneOp} (hclear : op ≠ .clear)
    (hrestore : ∀ z, op ≠ .restore z) (hflags : op ≠ .flags true) : flagsAt (planeAfter p op) i = flagsAt p i := by
  have hresults {d r} (h : entryResults p op = some (d, r)) : flagsAt (planeAfter p op) i = flagsAt p i := by
    rw [planeAfter_of_results h, flagsAt_writeResults hi, hoff, if_neg Bool.false_ne_true]
    exact BitVec.or_zero
  cases op
  case restore z => exact absurd rfl (hrestore z)
  case clear => exact absurd rfl hclear
  case clearRegs m =>
    obtain ⟨r, hr⟩ := clearRegs_rest m (List.range 16) p
    rw [planeAfter_clearRegs, hr]; rfl
  case write c cells =>
    obtain ⟨r, hr⟩ := writeCells_rest c cells p
    rw [planeAfter_write, hr]; rfl
  case enable u =>
    obtain ⟨l, hl⟩ := pushEnable_rest p u
    rw [show planeAfter p (.enable u) = pushEnable p u from rfl, hl]; rfl
  case flags b =>
    cases b with
    | true => exact absurd rfl hflags
    | false => rfl
  case linear => exact hresults rfl
  case quad => exact hresults rfl
  case bin => exact hresults rfl
  case fma => exact hresults rfl
  case mov => exact hresults rfl
  case sel => exact hresults rfl
  all_goals rfl

theorem planeCells : Sys2Proof.Rules.PlaneCells := by
  intro p op r d n u v w i a b c k cond k6 m x y l en below hi on word flags gives src fma column row q u1 u2 w2 s2 r2 quad lin lin2
  have bin (op : CellOp) : on → gives (.bin op d u k) (cellBin op (word p u).toNat src) :=
    fun hon => cell_of_results hi hon (entryResults_bin p op d u k)
  refine ⟨fun hoff hclear hrestore => ⟨fun n => cellWord_off hi (Bool.eq_false_of_not_eq_true hoff) hclear hrestore n,
      fun hflags => flagsAt_off hi (Bool.eq_false_of_not_eq_true hoff) hclear hrestore hflags⟩,
    fun hresults => ⟨fun hn => ?other, fun hon => ?same⟩,
    fun hon => ⟨cell_of_results hi hon (entryResults_mov p d k), cell_of_results hi hon (entryResults_sel p d u k w),
      bin .add hon, bin .sub hon, bin .mul hon, bin .min hon, bin .max hon, bin (.cmp cond) hon,
      cell_of_results hi hon (entryResults_fma p d u k (.reg v)), cell_of_results hi hon (entryResults_fma p d u k (.word c)),
      cell_of_results hi hon (entryResults_linear p d a b c), cell_of_results hi hon (entryResults_quad p d k6),
      cell_of_results hi hon (entryResults_exp2 p d k6), fun hm => ?cleared, cellWord_write_last hon l a⟩,
    fun hm => ?kept, ?clearFlags, ?writeFlags, fun hn => cellWord_writeCells (.inl hn) l, rfl, rfl, rfl, rfl,
    ⟨rfl, rfl, rfl, rfl, rfl, rfl, rfl⟩, rfl, fun hdepth => cellOn_enable hi hdepth u, fun h => cellOn_elseEnable hi h⟩
  case other =>
    exact (congrArg (cellWord · n i) (planeAfter_of_results hresults)).trans
      ((cellWord_writeResults hi d n r).trans (if_neg hn))
  case same =>
    refine ⟨(congrArg (cellWord · d i) (planeAfter_of_results hresults)).trans ?_,
      (congrArg (flagsAt · i) (planeAfter_of_results hresults)).trans ?_⟩
    · rw [cellWord_writeResults hi, if_pos rfl, if_pos hon]
    · rw [flagsAt_writeResults hi, if_pos hon]
      rfl
  case cleared =>
    exact (cellWord_clearRegs hi m d (List.range 16) p).trans
      (if_pos ⟨List.mem_range.mpr (BitVec.lt_of_getLsbD hm), hm, hon⟩)
  case kept =>
    refine (cellWord_clearRegs hi m d (List.range 16) p).trans (if_neg ?_)
    rw [hm]
    exact fun h => Bool.false_ne_true h.2.1
  case clearFlags =>
    obtain ⟨regs, hregs⟩ := clearRegs_rest m (List.range 16) p
    have hflags : flagsAt (planeAfter p (.clearRegs m)) i = flagsAt p i := by rw [planeAfter_clearRegs, hregs]; rfl
    exact hflags
  case writeFlags =>
    obtain ⟨regs, hregs⟩ := writeCells_rest d l p
    have hflags : flagsAt (planeAfter p (.write d l)) i = flagsAt p i := by rw [planeAfter_write, hregs]; rfl
    exact hflags

/-- Settles O45: an entry by its place in the queues, a cell by whether it is enabled. -/
theorem planeEffects : Obligations.PlaneEffects := ⟨planeSteps, planeCells⟩

end Sys2Proof.Proofs
end

section
/-!
SUPPORT and PROOFS of the statements about invalidations and queries of pages.
-/
namespace Sys2Proof.Proofs

open Sys2Proof Sys2Proof.Machine Sys2Proof.Safety Sys2Proof.Laws

/-! ## The instructions (R350, R354, R355) -/

section
variable {f : LaneForm} {s : State} {e : Iss} {qs : List Queue}

/-- An invalidation whose range stands and whose ways are open is performed. -/
theorem xinv_completes {r : VRange}
    (hrange : invalidRange e.g.ctx (uni64 (issued s e qs) e (fieldAt e.x 1)) (uni32 (issued s e qs) e (fieldAt e.x 2)) = .ok r)
    (hways : flushWaits (issued s e qs) e.core f.src3.toNat = false) : Completes (.xinv f) s e qs
      (performed (invalidateRange (flushScope (issued s e qs) e.core f.src3.toNat) e.core f.src3.toNat r) e .invalidate) := by
  refine completes_of (Eq.refl (execXinv f s)) fun _ => ?_
  simp only [hrange, hways, Bool.false_eq_true, if_false]

theorem xinv_traps {t : Trap}
    (hrange : invalidRange e.g.ctx (uni64 (issued s e qs) e (fieldAt e.x 1)) (uni32 (issued s e qs) e (fieldAt e.x 2)) =
      .error (.trap t)) : Traps (.xinv f) s e qs t := by
  refine traps_of (Eq.refl (execXinv f s)) fun _ => ?_
  simp only [hrange]

theorem pgq_completes {r : List (Nat × Nat) × List Sig}
    (hquery : queriesOf (issued s e qs) e.core e.g.ctx (addressesOf (issued s e qs) e f) = .ok r) : Completes (.pgq f) s e qs
      (Done.later (acquireDrop (issued s e qs) e.core .package r.2) (pendingResult (issued s e qs) e .memory
        (write64 f.dst.toNat e.lanes (fun l => ((r.1.find? (fun x => decide (x.1 = l))).map (fun x => x.2)).getD 0)) 0)) := by
  refine completes_of (Eq.refl (execPgq f s)) fun _ => ?_
  simp only [hquery]

end

/-! The range of an invalidation (R354 lines 001 to 004). -/

section
variable {ctx base len : Nat} (hlen : len ≠ 0)
include hlen

theorem invalidRange_misaligned (h : base % 8192 ≠ 0 ∨ len % 8192 ≠ 0) :
    invalidRange ctx base len = .error (.trap ⟨0x0C, 0, BitVec.ofNat 64 base, none, none⟩) :=
  (if_neg hlen).trans (if_pos h)

variable (hbase : base % 8192 = 0) (hunits : len % 8192 = 0)
include hbase hunits

theorem invalidRange_beyond (h : 2 ^ 48 < base + len) :
    invalidRange ctx base len = .error (.trap ⟨0x0D, 0, BitVec.ofNat 64 base, none, none⟩) :=
  (if_neg hlen).trans ((if_neg (by simp [hbase, hunits])).trans (if_pos h))

theorem invalidRange_within (h : base + len ≤ 2 ^ 48) : invalidRange ctx base len = .ok ⟨ctx, base, base + len⟩ :=
  (if_neg hlen).trans ((if_neg (by simp [hbase, hunits])).trans (if_neg (Nat.not_lt.mpr h)))

end

/-- The oldest invalidation of a group of which no earlier access is out completes. -/
theorem exec_invalidationComplete {core slot : Nat} {s : State} {g : Group} {p : Pending} {more : List Pending}
    (hgroup : groupOf (settleInvals s) core slot = some g)
    (hdue : g.ln.outstanding.filter (fun p => decide (p.kind = .invalidate) && !accessOlder (settleInvals s) g.ctx p.tag) =
      p :: more) :
    exec (.invalidationComplete core slot 0) s = .next (completeTag (settleInvals s) core slot p.tag) := by
  refine (Eq.refl (execInvalidationComplete core slot 0 s)).trans ?_
  simp only [execInvalidationComplete, hgroup, hdue, List.drop_zero, List.head?_cons]

theorem pageInstructions : Sys2Proof.Rules.PageInstructions := by
  intro f s e qs r p more g core slot s0 base len drop ways
  exact ⟨fun hzero hways => xinv_completes (if_pos hzero) hways,
    fun hlen hbase hunits hend hways => xinv_completes (invalidRange_within hlen hbase hunits hend) hways,
    fun hlen hwrong => xinv_traps (invalidRange_misaligned hlen hwrong),
    fun hlen hbase hunits hend => xinv_traps (invalidRange_beyond hlen hbase hunits hend),
    fun hgroup hdue => exec_invalidationComplete hgroup hdue, fun hquery => pgq_completes hquery⟩

/-! ## What an invalidation leaves (R350, R352) -/

theorem mget?_mapEntries {α : Type} (m : Map α) (f : Nat → α → α) (n : Nat) :
    mget? (mapEntries m f) n = (mget? m n).map (f n) := by
  induction m with
  | nil => rfl
  | cons e m ih =>
    obtain ⟨k, v⟩ := e
    by_cases hk : k = n
    · subst hk; simp [mapEntries, mget?]
    · simpa [mapEntries, mget?, hk] using ih

theorem mget?_isSome_of_key {α : Type} {m : Map α} {n : Nat} (h : n ∈ m.map (fun e => e.1)) : ∃ x, mget? m n = some x := by
  induction m with
  | nil => cases h
  | cons e m ih =>
    obtain ⟨k, v⟩ := e
    by_cases hk : k = n
    · exact ⟨v, by simp [mget?, hk]⟩
    · obtain ⟨x, hx⟩ := ih (by simpa [Ne.symm hk] using h)
      exact ⟨x, by simp [mget?, hk, hx]⟩

/-- A listed core after every core has been changed by its number. -/
theorem coreOf_mapEntries {s t : State} {f : Nat → Core → Core} (h : t.cores = mapEntries s.cores f) {c : Nat}
    (hc : c ∈ s.cores.map (fun e => e.1)) : coreOf t c = f c (coreOf s c) := by
  obtain ⟨k, hk⟩ := mget?_isSome_of_key hc
  rw [coreOf, mget, h, mget?_mapEntries, coreOf, mget, hk]
  rfl

/-- Any core after such a change: a core that is not listed is as it is after reset. -/
theorem coreOf_mapEntries_or {s t : State} {f : Nat → Core → Core} (h : t.cores = mapEntries s.cores f) (c : Nat) :
    coreOf t c = f c (coreOf s c) ∨ coreOf t c = coreOf s c := by
  rw [coreOf, mget, h, mget?_mapEntries, coreOf, mget]
  cases mget? s.cores c with
  | none => exact .inr rfl
  | some k => exact .inl rfl

theorem mem_tlb_invalidateCore (r : VRange) (k : Core) (t : Translation) :
    t ∈ (invalidateCore r k).tlb ↔ t ∈ k.tlb ∧ coversT r t = false := by
  simp [invalidateCore, List.mem_filter]

theorem mem_icache_invalidateCore (r : VRange) (k : Core) (e : Nat × List Instr) :
    e ∈ (invalidateCore r k).icache ↔ e ∈ k.icache ∧ coversI r e.1 = false := by
  simp [invalidateCore, List.mem_filter]

theorem invalidationLeavesNone : Sys2Proof.Rules.InvalidationLeavesNone := by
  intro s core scope c r t s1
  have hcores : s1.cores = mapEntries s.cores (fun c k => if inScope core scope c then invalidateCore r k else k) := rfl
  refine ⟨fun hlisted hscope => ?_, fun hctx => ?_, rfl⟩
  · rw [coreOf_mapEntries hcores hlisted, if_pos hscope]
    refine ⟨fun ht hctx => ?_, fun e he hctx => ?_⟩
    · obtain ⟨-, hout⟩ := (mem_tlb_invalidateCore r _ t).mp ht
      simp only [coversT, hctx, decide_true, Bool.true_and, Bool.and_eq_false_iff, decide_eq_false_iff_not] at hout
      omega
    · obtain ⟨-, hout⟩ := (mem_icache_invalidateCore r _ e).mp he
      simp only [coversI, hctx, decide_true, Bool.true_and, Bool.and_eq_false_iff, decide_eq_false_iff_not] at hout
      omega
  · have hkept : coversT r t = false := by simp [coversT, hctx]
    rcases coreOf_mapEntries_or hcores c with h | h
    · rw [h]
      split
      · rw [mem_tlb_invalidateCore, hkept, eq_self, and_true]
      · rfl
    · rw [h]

/-- Settles O49: `xinv` by the checks of its range, what it leaves by what its caches' filters keep. -/
theorem pagesAndInvalidation : Obligations.PagesAndInvalidation := ⟨pageInstructions, invalidationLeavesNone⟩

end Sys2Proof.Proofs
end

section
/-!
SUPPORT and PROOFS of the statements about requests to skerries.
-/
namespace Sys2Proof.Proofs

open Sys2Proof Sys2Proof.Machine Sys2Proof.Safety Sys2Proof.Laws

/-! ## A skerry after a change of one skerry -/

theorem skerryOf_modSkerry (s : State) (chan : Nat) (f : Skerry → Skerry) :
    skerryOf (modSkerry s chan f) chan = f (skerryOf s chan) := by
  simp [skerryOf, modSkerry, mget]

theorem skerryOf_modSkerry_other (s : State) {chan d : Nat} (h : d ≠ chan) (f : Skerry → Skerry) :
    skerryOf (modSkerry s chan f) d = skerryOf s d := by
  rw [skerryOf, modSkerry, mget, mget?_mset_other _ _ _ _ h, skerryOf, mget]

/-- A change that makes of a skerry what another makes of it gives the same package. -/
theorem modSkerry_congr {s : State} {chan : Nat} {f g : Skerry → Skerry} (h : f (skerryOf s chan) = g (skerryOf s chan)) :
    modSkerry s chan f = modSkerry s chan g := by
  simp only [modSkerry, h]

/-- Of two changes of a skerry in a row, the second decides what the package holds. -/
theorem modSkerry_modSkerry (s : State) (chan : Nat) (f g : Skerry → Skerry) :
    modSkerry (modSkerry s chan f) chan g = modSkerry s chan (fun k => g (f k)) := by
  simp only [modSkerry, skerryOf, mget, mget?_mset, if_true, Option.getD_some, mset_mset]

/-! ## The instructions (R363, R373 to R376) -/

section
variable {f : LaneForm} {s : State} {e : Iss} {qs : List Queue} {chan : Nat}

theorem fifoFull_of_free {k : Skerry} (h : (k.fifo.filter takesPlace).length +
    (k.requests.filter (fun q => takesPlace q.op)).length < 16) : fifoFull k = false :=
  decide_eq_false (Nat.not_le.mpr h)

theorem sendRequest_ok {dst : Nat} {op : Nat → SkOp} (h : fifoFull (skerryOf s chan) = false) : sendRequest s e dst chan op =
    .ok (Done.later (modSkerry s chan (fun k => { k with requests := k.requests ++ [⟨gidOf e.g, e.core, e.slot, s.fresh, op s.fresh⟩] }))
      (pendingResult s e .skerry (write32 dst e.g.ln.em (fun _ => 0)) 0)) := by
  rw [sendRequest, h]
  rfl

theorem nmlease_completes (hchan : channelAt (issued s e qs) e.core e.g.ctx (uni64 (issued s e qs) e (fieldAt e.x 1)) = .ok chan)
    (hfree : fifoFull (skerryOf (issued s e qs) chan) = false) : Completes (.nmlease f) s e qs
      (Done.later (modSkerry (issued s e qs) chan (fun k => { k with requests := k.requests ++
          [⟨gidOf e.g, e.core, e.slot, (issued s e qs).fresh, .lease (gidOf e.g) e.core e.slot (issued s e qs).fresh⟩] }))
        (pendingResult (issued s e qs) e .skerry (write32 f.dst.toNat e.g.ln.em (fun _ => 0)) 0)) := by
  refine completes_of (Eq.refl (execNmlease f s)) fun _ => ?_
  simp only [hchan, sendRequest_ok hfree]

theorem nmrel_completes (hchan : channelAt (issued s e qs) e.core e.g.ctx (uni64 (issued s e qs) e (fieldAt e.x 1)) = .ok chan)
    (hfree : fifoFull (skerryOf (issued s e qs) chan) = false) : Completes (.nmrel f) s e qs
      (Done.later (modSkerry (issued s e qs) chan (fun k => { k with requests := k.requests ++
          [⟨gidOf e.g, e.core, e.slot, (issued s e qs).fresh, .unlease (gidOf e.g) e.core e.slot (issued s e qs).fresh⟩] }))
        (pendingResult (issued s e qs) e .skerry (write32 f.dst.toNat e.g.ln.em (fun _ => 0)) 0)) := by
  refine completes_of (Eq.refl (execNmrel f s)) fun _ => ?_
  simp only [hchan, sendRequest_ok hfree]

/-! `nmload` (R374). -/

section
variable {n vi : Nat} (hn : uni32 (issued s e qs) e (fieldAt e.x 3) = n) (hvi : uni64 (issued s e qs) e (fieldAt e.x 2) = vi)
include hn

theorem nmload_traps_count (h : n = 0 ∨ 1024 < n) : Traps (.nmload f) s e qs
    ⟨0x02, 0, BitVec.ofNat 64 (3 + f.src3.toNat * 256), none, none⟩ := by
  refine traps_of (Eq.refl (execNmload f s)) fun _ => ?_
  simp only [hn, if_pos h, illegalOperand_field]

variable (hlo : 1 ≤ n) (hhi : n ≤ 1024)
include hvi hlo hhi

theorem nmload_traps_align (h : vi % 8 ≠ 0) : Traps (.nmload f) s e qs ⟨0x0C, 0, BitVec.ofNat 64 vi, none, none⟩ := by
  refine traps_of (Eq.refl (execNmload f s)) fun _ => ?_
  have hcount : ¬(n = 0 ∨ 1024 < n) := by omega
  simp only [hn, hvi, if_neg hcount, if_pos h, trapOf]

theorem nmload_completes (halign : vi % 8 = 0)
    (hpages : pagesFirst (issued s e qs) e.core e.g.ctx ((uni64 (issued s e qs) e (fieldAt e.x 1), .read) ::
      (chunksOf vi (8 * n)).map (fun c => (c.1, .read))) = .ok ())
    (hchan : channelAt (issued s e qs) e.core e.g.ctx (uni64 (issued s e qs) e (fieldAt e.x 1)) = .ok chan)
    (himage : checkImage (issued s e qs) e.core e.g.ctx (chunksOf vi (8 * n)) = .ok ())
    (hroom : (coreOf (issued s e qs) e.core).engine.length < 16) (hfree : fifoFull (skerryOf (issued s e qs) chan) = false) :
    let fetching := modCore (issued s e qs) e.core (fun k =>
      { k with engine := k.engine ++ [⟨e.slot, gidOf e.g, e.g.ln.pc, (issued s e qs).fresh, .load vi chan n, none, .start⟩] })
    Completes (.nmload f) s e qs
      (Done.later (modSkerry fetching chan (fun k => { k with requests := k.requests ++
          [⟨gidOf e.g, e.core, e.slot, fetching.fresh, .load (gidOf e.g) e.core e.slot fetching.fresh n none⟩] }))
        (pendingResult fetching e .skerry (write32 f.dst.toNat e.g.ln.em (fun _ => 0)) 0)) := by
  refine completes_of (Eq.refl (execNmload f s)) fun _ => ?_
  have hcount : ¬(n = 0 ∨ 1024 < n) := by omega
  have hengine : ¬ engineRoom ≤ (coreOf (issued s e qs) e.core).engine.length := Nat.not_le.mpr hroom
  simp only [hn, hvi, if_neg hcount, halign, ne_eq, not_true_eq_false, if_false, hpages, hchan, andThen, himage, enqueueEngine,
    if_neg hengine]
  exact sendRequest_ok hfree

end

/-! `nmcmd` (R363, R375). -/

section
variable (hstruct : checkStruct (coreOf (issued s e qs) e.core) e.slot e.g (uni32 (issued s e qs) e (fieldAt e.x 1)) 64 = .ok ())
include hstruct

theorem nmcmd_traps {at8 : Nat}
    (hbad : commandBad (scratchWords (coreOf (issued s e qs) e.core) (uni32 (issued s e qs) e (fieldAt e.x 1))) = some at8) :
    Traps (.nmcmd f) s e qs ⟨0x02, 0, BitVec.ofNat 64 (15 + at8 % 256 * 256), none, none⟩ := by
  refine traps_of (Eq.refl (execNmcmd f s)) fun _ => ?_
  simp only [hstruct, hbad, illegalOperand, trapOf]

theorem nmcmd_completes {c : SkCmd}
    (hgood : commandBad (scratchWords (coreOf (issued s e qs) e.core) (uni32 (issued s e qs) e (fieldAt e.x 1))) = none)
    (hcommand : commandOf (issued s e qs) e (scratchWords (coreOf (issued s e qs) e.core)
      (uni32 (issued s e qs) e (fieldAt e.x 1))) = .ok c)
    (hother : ∀ d, otherChannel c = some d → fifoFull (skerryOf (issued s e qs) d) = false)
    (hwaits : releaseWaits (issued s e qs) e.core .package = false)
    (hfree : fifoFull (skerryOf (releaseLane (issued s e qs) e.core e.slot .package e.g).2 (channelOf c.row)) = false) :
    let rel := (releaseLane (issued s e qs) e.core e.slot .package e.g).2
    Completes (.nmcmd f) s e qs
      (Done.later (modSkerry rel (channelOf c.row) (fun k => { k with requests := k.requests ++
          [⟨gidOf e.g, e.core, e.slot, rel.fresh, .run c⟩] }))
        (pendingResult rel e .skerry (write32 f.dst.toNat e.g.ln.em (fun _ => 0)) 0)) := by
  refine completes_of (Eq.refl (execNmcmd f s)) fun _ => ?_
  have hany : (otherChannel c).any (fun d => fifoFull (skerryOf (issued s e qs) d)) = false := by
    cases hc : otherChannel c with
    | none => rfl
    | some d => exact hother d hc
  simp only [hstruct, hgood, hcommand, hany, hwaits, Bool.false_eq_true, if_false]
  exact sendRequest_ok (op := fun _ => .run c) hfree

end
end

theorem skerryInstructions : Sys2Proof.Rules.SkerryInstructions := by
  intro f s e qs chan at8 c s0 k va vi n off free sent rel wrong
  refine ⟨fun hchan => ⟨fun hlo hhi halign hpages himage hroom => ?_, fun hfree => ?_⟩, fun hcount => ?_,
    fun hlo hhi halign => ?_, fun hstruct => ⟨fun hbad => ?_, fun hgood hcommand hother hwaits hfree => ?_⟩⟩
  · exact fun hfree => nmload_completes rfl rfl hlo hhi halign hpages hchan himage hroom (fifoFull_of_free hfree)
  · exact ⟨nmlease_completes hchan (fifoFull_of_free hfree), nmrel_completes hchan (fifoFull_of_free hfree)⟩
  · exact nmload_traps_count rfl hcount
  · exact nmload_traps_align rfl rfl hlo hhi halign
  · exact nmcmd_traps hstruct hbad
  · exact nmcmd_completes hstruct hgood hcommand (fun d hd => fifoFull_of_free (hother d hd)) hwaits (fifoFull_of_free hfree)

/-! ## Requests on arrival (R364, R368, R369, R374) -/

/-- The first request whose way is open, where the ways of those before it are closed and none is of its group. -/
theorem firstArrived_append {s : State} {chan : Nat} {q : SkRequest} {l : List SkRequest}
    (hopen : pathsOpen s (dieOf q.core) (channelDie chan) = true) (before seen : List SkRequest)
    (hseen : ∀ r ∈ seen, r.gid ≠ q.gid)
    (hbefore : ∀ r ∈ before, pathsOpen s (dieOf r.core) (channelDie chan) = false ∧ r.gid ≠ q.gid) :
    firstArrived s chan seen (before ++ q :: l) = some q := by
  induction before generalizing seen with
  | nil =>
    have hhere : hasArrived s chan seen q = true := by simpa [hasArrived, hopen] using hseen
    simp only [List.nil_append, firstArrived, hhere, if_true]
  | cons r before ih =>
    obtain ⟨hclosed, hgid⟩ := hbefore r (List.mem_cons_self)
    have hnot : hasArrived s chan seen r = false := by simp [hasArrived, hclosed]
    simp only [List.cons_append, firstArrived, hnot, Bool.false_eq_true, if_false]
    refine ih (seen ++ [r]) (fun x hx => ?_) (fun x hx => hbefore x (List.mem_cons_of_mem r hx))
    rcases List.mem_append.mp hx with hx | hx
    · exact hseen x hx
    · exact List.mem_singleton.mp hx ▸ hgid

/-- Taking a request that no earlier one equals leaves those before and behind it. -/
theorem dropRequest_append {s : State} {chan : Nat} {q : SkRequest} {before l : List SkRequest}
    (hreq : (skerryOf s chan).requests = before ++ q :: l) (hbefore : ∀ r ∈ before, r.gid ≠ q.gid) :
    dropRequest s chan q = modSkerry s chan (fun k => { k with requests := before ++ l }) := by
  refine modSkerry_congr ?_
  have hnot : q ∉ before := fun h => hbefore q h rfl
  rw [hreq, List.erase_append_right _ hnot, List.erase_cons_head]

section
variable {s : State} {chan : Nat} {q : SkRequest} {x : SkCmd} (hone : otherChannel x = none)
include hone

theorem acceptCommand_accepted (hjudge : judge (judged (skerryOf s chan)) x = 0)
    (hroom : ((skerryOf s chan).fifo.filter takesPlace).length < 16) :
    acceptCommand s chan q x = returnStatus (enterFifo (dropRequest s chan q) chan (.run x)) q.core q.slot q.tag 0 := by
  have hfits : ¬ fifoRoom ≤ fifoLoad (skerryOf s chan) := Nat.not_le.mpr hroom
  simp only [acceptCommand, hone, hjudge, true_and, if_neg hfits, if_true]

theorem acceptCommand_refused (hjudge : judge (judged (skerryOf s chan)) x ≠ 0) :
    acceptCommand s chan q x = returnStatus (dropRequest s chan q) q.core q.slot q.tag (judge (judged (skerryOf s chan)) x) := by
  simp only [acceptCommand, hone, hjudge, false_and, if_false]

end

section
variable {s : State} {chan : Nat} {q : SkRequest} {before l : List SkRequest} (hsettled : settleChannel s chan = s)
  (hreq : (skerryOf s chan).requests = before ++ q :: l) (hopen : pathsOpen s (dieOf q.core) (channelDie chan) = true)
  (hbefore : ∀ r ∈ before, pathsOpen s (dieOf r.core) (channelDie chan) = false ∧ r.gid ≠ q.gid)
include hsettled hreq hopen hbefore

theorem skerryAccept_run {x : SkCmd} (hop : q.op = .run x) : exec (.skerryAccept chan) s = .next (acceptCommand s chan q x) := by
  refine (Eq.refl (execSkerryAccept chan s)).trans ?_
  simp only [execSkerryAccept, hsettled, hreq, firstArrived_append hopen before [] (List.forall_mem_nil _) hbefore, hop]

theorem skerryAccept_lease {gid : GroupId} {core slot tag : Nat} (hop : q.op = .lease gid core slot tag)
    (hroom : ((skerryOf s chan).fifo.filter takesPlace).length < 16) :
    exec (.skerryAccept chan) s = .next (settleChannel (enterFifo (dropRequest s chan q) chan q.op) chan) := by
  refine (Eq.refl (execSkerryAccept chan s)).trans ?_
  have hfits : ¬ fifoRoom ≤ fifoLoad (skerryOf s chan) := Nat.not_le.mpr hroom
  simp only [execSkerryAccept, hsettled, hreq, firstArrived_append hopen before [] (List.forall_mem_nil _) hbefore, hop, hfits,
    and_false, if_false]

end

theorem leasedAway_eq_false {lease : Option GroupId} {gid : GroupId} : leasedAway lease gid = false ↔
    (lease = none ∨ lease = some gid) := by
  cases lease <;> simp [leasedAway]

theorem leasedAway_eq_true {lease : Option GroupId} {gid : GroupId} (h : ¬(lease = none ∨ lease = some gid)) :
    leasedAway lease gid = true := by
  rw [← Bool.not_eq_false, leasedAway_eq_false]
  exact h

theorem nmloadApply_installs {s : State} {chan core slot tag n : Nat} {gid : GroupId} {image : List DWord} {rest : List SkOp}
    (hsettled : settleChannel s chan = s) (hruns : runsOf (skerryOf s chan) = [])
    (hfifo : (skerryOf s chan).fifo = .load gid core slot tag n (some image) :: rest)
    (hmine : leasedAway (skerryOf s chan).lease gid = false) :
    exec (.nmloadApply chan) s = .next (settleChannel (returnStatus (modSkerry s chan (fun k =>
      { k with fifo := rest, owner := some gid.ctx, program := image, n := [], z := [], pc := 0 })) core slot tag 0) chan) := by
  refine (Eq.refl (execNmloadApply chan s)).trans ?_
  simp only [execNmloadApply, hsettled, hruns, hfifo, hmine, Bool.false_eq_true, if_false]

/-! The judgement of a command (R364). -/

section
variable {j : Judged} {x : SkCmd}

theorem judge_leased (h : leasedAway j.lease x.gid = true) : judge j x = 1 := if_pos h

theorem judge_not_owner (h : leasedAway j.lease x.gid = false) (howner : j.owner ≠ some x.ctx) : judge j x = 2 := by
  rw [judge, h]
  exact if_pos howner

/-- What is left to judge, of the owner's command that no lease refuses: its kind, then its program. -/
theorem judge_owner (h : leasedAway j.lease x.gid = false) (howner : j.owner = some x.ctx) :
    judge j x = if (x.kind = 0 ∧ j.lease = some x.gid) ∨ (x.kind = 1 ∧ j.lease ≠ some x.gid) then 3
      else if (x.kind = 0 ∧ j.len ≤ x.entry) ∨ (x.kind = 1 ∧ j.len = 0) then 4 else 0 := by
  rw [judge, h]
  exact if_neg (not_not_intro howner)

theorem judge_kinds (h : leasedAway j.lease x.gid = false) (howner : j.owner = some x.ctx) :
    (x.kind = 0 → j.lease = some x.gid → judge j x = 3) ∧ (x.kind = 1 → j.lease = none → judge j x = 3) ∧
    (x.kind = 0 → j.lease = none → j.len ≤ x.entry → judge j x = 4) ∧
    (x.kind = 0 → j.lease = none → x.entry < j.len → judge j x = 0) ∧
    (x.kind = 1 → j.lease = some x.gid → j.len = 0 → judge j x = 4) ∧
    (x.kind = 1 → j.lease = some x.gid → 0 < j.len → judge j x = 0) ∧ (x.kind = 2 → judge j x = 0) := by
  rw [judge_owner h howner]
  refine ⟨fun hk hl => ?_, fun hk hl => ?_, fun hk hl hn => ?_, fun hk hl hn => ?_, fun hk hl hn => ?_, fun hk hl hn => ?_,
    fun hk => ?_⟩
  · simp [hk, hl]
  · simp [hk, hl]
  · simp [hk, hl, hn]
  · simp [hk, hl, hn]
  · simp [hk, hl, hn]
  · simp [hk, hl, Nat.ne_of_gt hn]
  · simp [hk]

end

theorem skerryAcceptance : Sys2Proof.Rules.SkerryAcceptance := by
  intro chan core slot tag n s q before l x j gid image rest k room mine dropped status
  refine ⟨fun hsettled hreq hopen hbefore => ⟨fun hop hone => ⟨fun hjudge hroom => ?_, fun hjudge => ?_⟩, fun hop hroom => ?_⟩,
    fun hsettled hruns hfifo hmine => ?_, fun hmine => ?_, fun hmine howner => ?_, fun hmine howner => ?_⟩
  · rw [skerryAccept_run hsettled hreq hopen hbefore hop, acceptCommand_accepted hone hjudge hroom,
      dropRequest_append hreq (fun r hr => (hbefore r hr).2)]
    rfl
  · rw [skerryAccept_run hsettled hreq hopen hbefore hop, acceptCommand_refused hone hjudge,
      dropRequest_append hreq (fun r hr => (hbefore r hr).2)]
    rfl
  · rw [skerryAccept_lease hsettled hreq hopen hbefore hop hroom, dropRequest_append hreq (fun r hr => (hbefore r hr).2)]
  · exact nmloadApply_installs hsettled hruns hfifo (leasedAway_eq_false.mpr hmine)
  · exact judge_leased (leasedAway_eq_true hmine)
  · exact judge_not_owner (leasedAway_eq_false.mpr hmine) howner
  · exact judge_kinds (leasedAway_eq_false.mpr hmine) howner

/-- Settles O50: the instructions by their checks and the room of the channel, the arrival by the first open way. -/
theorem skerryRequests : Obligations.SkerryRequests := ⟨skerryInstructions, skerryAcceptance⟩

end Sys2Proof.Proofs
end

section
/-!
SUPPORT and PROOFS of the statements about commands at work on a skerry's channel.
-/
namespace Sys2Proof.Proofs

open Sys2Proof Sys2Proof.Machine Sys2Proof.Safety Sys2Proof.Laws

/-! ## A command starts (R365, R370, R371) -/

theorem runsOf_eq_nil {k : Skerry} (h : runsOf k = []) : k.replaying = [] ∧ k.running = none := by
  simpa [runsOf] using h

/-- With no command unfinished, none steps aside. -/
theorem stepAside_idle {k : Skerry} (h : runsOf k = []) : stepAside k = k := by
  simp only [stepAside, (runsOf_eq_nil h).2]

/-- A channel whose first entry is a command has no entry that acts by itself. -/
theorem settleChannel_run {s : State} {chan : Nat} {c : SkCmd} {rest : List SkOp} (hfifo : (skerryOf s chan).fifo = .run c :: rest) :
    settleChannel s chan = s := by
  rw [settleChannel, settleFifo, hfifo, ite_self]

/-- Whether a command heads its channels' FIFOs is a question about the skerries alone. -/
theorem headsBoth_congr {s t : State} (h : ∀ d, skerryOf t d = skerryOf s d) (c : SkCmd) : headsBoth t c = headsBoth s c := by
  simp only [headsBoth, h]

/-- A skerry changed to what it is already: every skerry is as before. -/
theorem skerryOf_modSkerry_id {s : State} {chan : Nat} {f : Skerry → Skerry} (h : f (skerryOf s chan) = skerryOf s chan) (d : Nat) :
    skerryOf (modSkerry s chan f) d = skerryOf s d := by
  by_cases hd : d = chan
  · rw [hd, skerryOf_modSkerry, h]
  · exact skerryOf_modSkerry_other s hd f

theorem skerryCommandStart_starts {s : State} {chan : Nat} {c : SkCmd} {rest : List SkOp} (hruns : runsOf (skerryOf s chan) = [])
    (hfifo : (skerryOf s chan).fifo = .run c :: rest) (hsource : c.source = true) (hheads : headsBoth s c = true) :
    exec (.skerryCommandStart chan) s = .next (modSkerry s chan (fun k =>
      if c.kind = 0 then { k with running := some ⟨c, 0, 0, 0, heldRanges c, [], [], none, 0, none⟩,
                                  cp0 := c.p0, cp1 := c.p1, cp2 := c.p2, pc := c.entry }
      else { k with running := some ⟨c, 0, 0, 0, heldRanges c, [], [], none, 0, none⟩ })) := by
  refine (Eq.refl (execSkerryCommandStart chan s)).trans ?_
  have haside := stepAside_idle hruns
  have hsame := skerryOf_modSkerry_id (s := s) haside
  obtain ⟨hreplay, hrun⟩ := runsOf_eq_nil hruns
  have hgo : c.source = true ∧ headsBoth (modSkerry s chan stepAside) c = true ∧
      (c.kind ≠ 2 ∨ (skerryOf s chan).replaying.isEmpty = true) :=
    ⟨hsource, (headsBoth_congr hsame c).trans hheads, .inr (by rw [hreplay, List.isEmpty_nil])⟩
  have hsettled : settleChannel (modSkerry s chan stepAside) chan = modSkerry s chan stepAside :=
    settleChannel_run ((hsame chan).symm ▸ hfifo)
  simp only [execSkerryCommandStart, hsettled, hsame, hrun, hfifo, if_pos hgo, modSkerry_modSkerry]
  exact congrArg _ (modSkerry_congr (by rw [haside]))

/-! ## A word on every bank (R360, R362, R365, R366) -/

/-- The pointers that a command's word uses: its own column, for a step. -/
def pointersOf (k : Skerry) (c : SkCmd) : Nat × Nat × Nat := if c.kind = 1 then (c.p0, c.p0, c.p0) else (k.cp0, k.cp1, k.cp2)

/-- What is left of a list from one of its elements on begins with it. -/
theorem drop_eq_cons_of_getElem? {α : Type} {l : List α} {n : Nat} {w : α} (h : l[n]? = some w) : ∃ rest, l.drop n = w :: rest := by
  obtain ⟨hlt, hget⟩ := List.getElem?_eq_some_iff.mp h
  exact ⟨_, hget ▸ List.drop_eq_getElem_cons hlt⟩

section
variable {s : State} {chan : Nat} {r : SkRun} {w : DWord} (hrun : (skerryOf s chan).running = some r)
include hrun

theorem stopRun_running (code : Nat) :
    stopRun s chan code = modSkerry s chan (fun k => { k with running := some { r with stop := some code } }) :=
  modSkerry_congr (by rw [hrun, Option.map_some])

variable (hkind : r.cmd.kind ≠ 2) (hstop : r.stop = none) (hfault : r.fault = none)
  (hroom : ∀ b, b < 16 → (missed (skerryOf s chan) b).length < 32)
include hkind hstop hfault hroom

omit hrun in
/-- A command at work, no bank of which has missed 32 words, does not wait. -/
theorem word_not_waits : ¬(r.cmd.kind = 2 ∨ r.stop.isSome = true ∨ r.fault.isSome = true ∨
    (List.range 16).any (fun b => decide (32 ≤ (missed (skerryOf s chan) b).length)) = true) := by
  have hany : (List.range 16).any (fun b => decide (32 ≤ (missed (skerryOf s chan) b).length)) = false :=
    List.any_eq_false.mpr fun b hb => by simpa using hroom b (List.mem_range.mp hb)
  simp [hkind, hstop, hfault, hany]

theorem skerryWord_runs_off (hpc : (skerryOf s chan).program.length ≤ (skerryOf s chan).pc) :
    exec (.skerryWord chan) s = .next (stopRun s chan 7) := by
  refine (Eq.refl (execSkerryWord chan s)).trans ?_
  simp only [execSkerryWord, hrun, if_neg (word_not_waits hkind hstop hfault hroom), List.drop_eq_nil_of_le hpc]

variable (hword : (skerryOf s chan).program[(skerryOf s chan).pc]? = some w)
include hword

theorem skerryWord_bad_word (hbad : badWord (skWord w) = true) : exec (.skerryWord chan) s = .next (stopRun s chan 5) := by
  refine (Eq.refl (execSkerryWord chan s)).trans ?_
  obtain ⟨rest, hdrop⟩ := drop_eq_cons_of_getElem? hword
  simp only [execSkerryWord, hrun, if_neg (word_not_waits hkind hstop hfault hroom), hdrop, hbad, if_true]

variable (hgood : badWord (skWord w) = false)
include hgood

theorem skerryWord_bad_column (hbad : badColumn (skWord w) (pointersOf (skerryOf s chan) r.cmd) = true) :
    exec (.skerryWord chan) s = .next (stopRun s chan 6) := by
  refine (Eq.refl (execSkerryWord chan s)).trans ?_
  obtain ⟨rest, hdrop⟩ := drop_eq_cons_of_getElem? hword
  rw [pointersOf] at hbad
  simp only [execSkerryWord, hrun, if_neg (word_not_waits hkind hstop hfault hroom), hdrop, hgood, hbad, Bool.false_eq_true,
    if_false, if_true]

theorem skerryWord_executes {cps : Nat × Nat × Nat} (hcps : pointersOf (skerryOf s chan) r.cmd = cps)
    (hcolumn : badColumn (skWord w) cps = false)
    (hframe : wordFault s r (skWord w) (pointer cps (skWord w).fptr) (pointer cps (skWord w).wptr) = none) :
    exec (.skerryWord chan) s = .next (modSkerry (wordOnBanks s chan r.cmd.issued w (skWord w) cps) chan (fun k =>
      match k.running with
      | none => k
      | some r => if r.cmd.kind = 1 then stepNext (skWord w) r k else runNext (skWord w) r (advancePointers (skWord w) k))) := by
  refine (Eq.refl (execSkerryWord chan s)).trans ?_
  obtain ⟨rest, hdrop⟩ := drop_eq_cons_of_getElem? hword
  rw [pointersOf] at hcps
  simp only [execSkerryWord, hrun, if_neg (word_not_waits hkind hstop hfault hroom), hdrop, hgood, hcps, hcolumn, hframe,
    Bool.false_eq_true, if_false] <;> rfl

end

/-! ## Missed words (R370) -/

section
variable {s : State} {chan bank : Nat} {r : SkRun} {m : Missed} {more : List Missed}
  (hready : bank ∉ (skerryOf s chan).refreshing) (hmissed : missed (skerryOf s chan) bank = m :: more)
  (hrun : runOf (skerryOf s chan) m.id = some r) (hfault : r.fault = none)
include hready hmissed hrun hfault

/-- A bank that does not refresh replays its oldest missed word for a command that awaits no answer. -/
theorem catchupReplay_eq : exec (.catchupReplay chan bank) s =
    match wordFault s r (skWord m.word) (pointer m.cps (skWord m.word).fptr) (pointer m.cps (skWord m.word).wptr) with
    | some (va, kind) => .next (if r.stop = some 8 then skipWords s chan bank m.id else skFault s chan m.id va kind)
    | none => .next (modSkerry (applyBank s chan m.id (skWord m.word) (pointer m.cps (skWord m.word).fptr)
        (pointer m.cps (skWord m.word).wptr) bank) chan
          (fun k => { k with catchup := if more.isEmpty then merase k.catchup bank else mset k.catchup bank more })) := by
  refine (Eq.refl (execCatchupReplay chan bank s)).trans ?_
  have hgo : ¬((skerryOf s chan).refreshing.contains bank = true ∨ r.fault.isSome = true) := by simp [hready, hfault]
  simp only [execCatchupReplay, hmissed, hrun, Option.bind_some, Option.any_some, if_neg hgo, stoppedUncorr, decide_eq_true_eq] <;> rfl

end

theorem skerryWords : Sys2Proof.Rules.SkerryWords := by
  intro chan bank s c r rest w m more starts bad k x y cps halt run
  refine ⟨fun _ hruns hfifo hsource hheads => skerryCommandStart_starts hruns hfifo hsource hheads,
    fun hrun hkind hstop hfault hroom => ⟨fun hpc => ?_, fun hword => ⟨fun hbad => ?_, fun hgood hbad => ?_,
      fun hgood hcolumn hframe => ?_⟩⟩, ?_, fun hready hmissed hrun hfault => ⟨fun hframe => ?_, fun hframe hstop => ?_,
      fun hframe hstop => ?_⟩⟩
  · rw [skerryWord_runs_off hrun hkind hstop hfault hroom hpc, stopRun_running hrun]
  · rw [skerryWord_bad_word hrun hkind hstop hfault hroom hword hbad, stopRun_running hrun]
  · rw [skerryWord_bad_column hrun hkind hstop hfault hroom hword hgood hbad, stopRun_running hrun]
  · exact skerryWord_executes hrun hkind hstop hfault hroom hword hgood rfl hcolumn hframe
  · refine (Eq.refl (execBankRefresh chan bank starts s)).trans (congrArg _ (modSkerry_congr ?_))
    cases starts
    · simp
    · rfl
  · rw [catchupReplay_eq hready hmissed hrun hfault, hframe]
    simp only [List.isEmpty_iff]
    rfl
  · rw [catchupReplay_eq hready hmissed hrun hfault, hframe]
    simp only [if_pos hstop, skipWords, List.isEmpty_iff]
    rfl
  · rw [catchupReplay_eq hready hmissed hrun hfault, hframe]
    simp only [if_neg hstop]

/-! ## Transfers and ends (R367, R372, R412) -/

/-- The columns that a transfer copies at once. -/
def columnsNow (r : SkRun) : List Nat := if (otherChannel r.cmd).isSome then [r.column] else List.range r.cmd.count

/-- A transfer's state and view after some columns, each read before any is written (R367). -/
def copyColumns (s : State) (r : SkRun) (js : List Nat) : State × SkRun :=
  js.foldl (fun a j => skWriteBytes a (r.cmd.drow + 1024 * (r.cmd.p1 + j)) (columnBytes s r (r.cmd.p0 + j))) (s, r)

/-- The lines of a column that a transfer has copied. -/
def copiedLines (r : SkRun) (j : Nat) : List Nat := (List.range 8).map (fun i => (r.cmd.drow + 1024 * (r.cmd.p1 + j)) / 128 + i)

theorem copyColumns_singleton (s : State) (r : SkRun) (j : Nat) : copyColumns s r [j] =
    skWriteBytes (s, r) (r.cmd.drow + 1024 * (r.cmd.p1 + j)) (columnBytes s r (r.cmd.p0 + j)) := by
  rw [copyColumns, List.foldl_cons, List.foldl_nil]

/-- A transfer that has gone on to column `n`, with more lines written. -/
def copiedTo (chan : Nat) (a : State × SkRun) (lines : List Nat) (n : Nat) (count : Nat) : State :=
  modSkerry a.1 chan (fun k => { k with running := some { a.2 with
    column := n, lines := a.2.lines ++ lines, stop := if count ≤ n then some 0 else none } })

section
variable {s : State} {chan : Nat} {r : SkRun}

theorem transferColumn_copies (hrun : (skerryOf s chan).running = some r) (hkind : r.cmd.kind = 2) (hstop : r.stop = none)
    (hfault : r.fault = none) (hframe : transferFault s r.cmd (columnsNow r) = none) :
    exec (.transferColumn chan) s = .next (copiedTo chan (copyColumns s r (columnsNow r)) ((columnsNow r).map (copiedLines r)).flatten
      (r.column + (columnsNow r).length) r.cmd.count) := by
  refine (Eq.refl (execTransferColumn chan s)).trans ?_
  have hgo : ¬(r.cmd.kind ≠ 2 ∨ r.stop.isSome = true ∨ r.fault.isSome = true) := by simp [hkind, hstop, hfault]
  rw [columnsNow] at hframe
  simp only [execTransferColumn, hrun, if_neg hgo, hframe, List.foldl_map]
  rfl

theorem skerryCommandFinish_leaves (holdest : oldestRun (skerryOf s chan) = some r) (hover : runOver (skerryOf s chan) r = true)
    (hwaits : wordWaits s chan r.cmd = false) (hpoison : wordPoison s r.cmd = none) :
    exec (.skerryCommandFinish chan) s =
      let s1 := r.lines.foldl (fun s l => noteWrite s l 0) s
      let sigs := finishSigs s1 chan r
      .next (settleChannel (writeWords (leaveFifos s1 chan r.cmd sigs) chan r.cmd (statusWord r) sigs) chan) := by
  refine (Eq.refl (execSkerryCommandFinish chan s)).trans ?_
  simp only [execSkerryCommandFinish, holdest, hover, hwaits, hpoison, Bool.not_true, Bool.false_eq_true, or_self, if_false]

end

theorem skerryEnds : Sys2Proof.Rules.SkerryEnds := by
  intro chan d s r k c target column linesOf one all moved s1 sigs gone s2 s3 s4
  have hmoved : ∀ a lines n, moved a lines n = copiedTo chan a lines n r.cmd.count := fun _ _ _ => rfl
  refine ⟨fun hrun hkind hstop hfault => ⟨fun hother hframe => ?_, fun hother hframe => ?_⟩, fun holdest hover hwaits hpoison => ?_⟩
  · have hjs : columnsNow r = [r.column] := by
      rw [columnsNow, show otherChannel r.cmd = some d from hother]
      rfl
    rw [transferColumn_copies hrun hkind hstop hfault (hjs ▸ hframe), hjs, copyColumns_singleton, List.map_singleton,
      List.flatten_singleton, List.length_singleton, hmoved]
    exact congrArg (fun a => Host.Outcome.next (copiedTo chan a (copiedLines r r.column) (r.column + 1) r.cmd.count)) rfl
  · have hjs : columnsNow r = List.range r.cmd.count := by
      rw [columnsNow, show otherChannel r.cmd = none from hother]
      rfl
    rw [transferColumn_copies hrun hkind hstop hfault (hjs ▸ hframe), hjs, List.length_range, hmoved]
    rfl
  · exact skerryCommandFinish_leaves holdest hover hwaits hpoison

/-- Settles O51: the words by the checks that come before them, the ends by what a finishing command does. -/
theorem skerryRuns : Obligations.SkerryRuns := ⟨skerryWords, skerryEnds⟩

end Sys2Proof.Proofs
end

section
/-!
SUPPORT. The canonical form of memory and scratchpads (log 2) under the changes that every part of the model makes: of a core, a
stack, a group, a context, and by an access to memory.
-/
namespace Sys2Proof.Proofs

open Sys2Proof Sys2Proof.Machine Sys2Proof.Safety Sys2Proof.Laws

/-- Memory and every core's scratchpad have the canonical form (log 2). -/
structure Formed (s : State) : Prop where
  mem : Memory.wf s.mem = true
  scratch : ∀ c, Memory.wf (coreOf s c).scratch = true

theorem formed_iff {s : State} : Formed s ↔ MemoryForm s := ⟨fun h => ⟨h.mem, h.scratch⟩, fun h => ⟨h.1, h.2⟩⟩

namespace Formed

variable {s t : State} {core slot ctx d : Nat}

/-! ## One change of the package -/

/-- What touches neither memory nor a core. -/
theorem of_same (h : Formed s) (hmem : t.mem = s.mem) (hcores : t.cores = s.cores) : Formed t :=
  ⟨hmem ▸ h.mem, fun c => by rw [coreOf, hcores]; exact h.scratch c⟩

/-- What an access to memory leaves. -/
theorem accessed (h : Formed s) (a : Accessed s t) : Formed t := ⟨a.mem h.mem, fun c => (a.cores c).scratch ▸ h.scratch c⟩

/-- Either of two packages. -/
theorem ite {c : Prop} {_ : Decidable c} (hs : Formed s) (ht : Formed t) : Formed (if c then s else t) := by
  split
  · exact hs
  · exact ht

theorem setMem (h : Formed s) {m : Memory} (hm : Memory.wf m = true) : Formed { s with mem := m } := ⟨hm, h.scratch⟩

theorem setCore (h : Formed s) {k : Core} (hk : Memory.wf k.scratch = true) : Formed (setCore s core k) := by
  refine ⟨h.mem, fun c => ?_⟩
  by_cases hc : c = core
  · rw [coreOf, Machine.setCore, mget, hc, mget?_mset_same]
    exact hk
  · rw [coreOf, Machine.setCore, mget, mget?_mset_other _ _ _ _ hc]
    exact h.scratch c

/-- A change of a core that writes its scratchpad. -/
theorem modCore_wf (h : Formed s) {f : Core → Core} (hf : Memory.wf (coreOf s core).scratch = true →
    Memory.wf (f (coreOf s core)).scratch = true) : Formed (modCore s core f) :=
  h.setCore (hf (h.scratch core))

/-- A change of a core that leaves its scratchpad. -/
theorem modCore (h : Formed s) {f : Core → Core} (hf : ∀ k, (f k).scratch = k.scratch) :
    Formed (modCore s core f) := h.modCore_wf (fun hwf => (hf _).symm ▸ hwf)

/-- A change of every core that leaves its scratchpad. -/
theorem mapCores (h : Formed s) {f : Nat → Core → Core} (hf : ∀ c k, (f c k).scratch = k.scratch) :
    Formed { s with cores := mapEntries s.cores f } := by
  refine ⟨h.mem, fun c => ?_⟩
  rcases coreOf_mapEntries_or (s := s) (t := { s with cores := mapEntries s.cores f }) rfl c with hc | hc
  · rw [hc, hf]
    exact h.scratch c
  · rw [hc]
    exact h.scratch c

theorem foldl {α : Type} {f : State → α → State} (h : Formed s) (hf : ∀ s x, Formed s → Formed (f s x)) (l : List α) :
    Formed (l.foldl f s) := by
  induction l generalizing s with
  | nil => exact h
  | cons x l ih => exact ih (hf s x h)

theorem setGroup (h : Formed s) (g : Group) : Formed (setGroup s core slot g) := h.modCore fun _ => rfl

theorem modGroup (h : Formed s) (f : Group → Group) : Formed (modGroup s core slot f) := by
  unfold Machine.modGroup
  split
  · exact h.setGroup _
  · exact h

theorem modLane (h : Formed s) (f : Lane → Lane) : Formed (modLane s core slot f) := h.modGroup _

theorem modScalar (h : Formed s) (f : Scalar → Scalar) : Formed (modScalar s core slot f) := h.modGroup _

theorem modCtx (h : Formed s) (f : Context → Context) : Formed (modCtx s ctx f) := h.of_same rfl rfl

theorem modNarrows (h : Formed s) (f : Narrows → Narrows) : Formed (modNarrows s core f) := h.modCore fun _ => rfl

theorem modDie (h : Formed s) (f : Die → Die) : Formed (modDie s d f) := h.of_same rfl rfl

theorem modStack (h : Formed s) (f : Stack → Stack) : Formed (modStack s d f) := h.of_same rfl rfl

/-! ## Events and the trap log (R103, R106, R471) -/

theorem epWrite (h : Formed s) (off : Nat) (bs : List Byte) : Formed (epWrite s off bs) := h.of_same rfl rfl

theorem ringPlace (e : Event) (fuel : Nat) (h : Formed s) (n : Nat) : Formed (ringPlace e fuel n s).2 := by
  induction fuel generalizing n s with
  | zero => exact h
  | succ fuel ih =>
    unfold Machine.ringPlace
    split
    · exact ih (h.epWrite _ _) _
    · exact h

theorem ringWrite (h : Formed s) (e : Event) : Formed (ringWrite s e) := ((h.ringPlace e _ _).epWrite _ _).epWrite _ _

theorem postEvent (h : Formed s) (e : Event) : Formed (postEvent s d e) := by
  unfold Machine.postEvent
  extract_lets lost es found s1
  split
  · exact (h.modDie _).foldl (fun _ e hs => hs.ringWrite e) _
  · split
    · exact h.modDie _
    · split
      · exact (h.modDie _).modDie _
      · split
        · exact h.modDie _
        · exact (h.epWrite _ _).modDie _

theorem post (h : Formed s) (kind status tag : Nat) (ws : List Nat) : Formed (post s d kind status tag ws) := h.postEvent _

theorem releaseHeld (fuel : Nat) (h : Formed s) : Formed (releaseHeld fuel s) := by
  induction fuel generalizing s with
  | zero => exact h
  | succ fuel ih =>
    unfold Machine.releaseHeld
    split
    · exact h
    · split
      · exact h
      · exact ih ((h.modDie _).ringWrite _)
      · exact ih ((h.modDie _).ringWrite _)

theorem settleRing (h : Formed s) : Formed (settleRing s) := h.releaseHeld _

theorem storeHome (h : Formed s) (pa : Nat) (bs : List Byte) (sigs : List Sig) : Formed (storeHome s pa bs sigs) :=
  h.accessed (.storeHome s pa bs sigs)

theorem storeAt (h : Formed s) (pa : Nat) (bs : List Byte) : Formed (storeAt s pa bs) := by
  unfold Machine.storeAt
  split
  · exact h.storeHome _ _ _
  · exact h

theorem logPlace (c : Context) (bs : List Byte) (fuel : Nat) (h : Formed s) (n : Nat) : Formed (logPlace c bs fuel n s).2 := by
  induction fuel generalizing n s with
  | zero => exact h
  | succ fuel ih =>
    unfold Machine.logPlace
    dsimp only
    split
    · exact ih (h.storeAt _ _) _
    · exact h

theorem logRecord (h : Formed s) (bs : List Byte) : Formed (logRecord s ctx bs).1 := by
  unfold Machine.logRecord
  dsimp only
  split
  · exact (h.storeAt _ _).modCtx _
  · exact (((h.logPlace _ _ _ _).storeAt _ _).storeAt _ _).modCtx _

theorem becomeFaulted (h : Formed s) (number : Nat) (dropped : Bool) (tag : Nat) :
    Formed (becomeFaulted s ctx d number dropped tag) := (h.modCtx _).post _ _ _ _

theorem faultContext (h : Formed s) (number : Nat) (dropped : Bool) (tag : Nat) :
    Formed (faultContext s ctx d number dropped tag) := by
  unfold Machine.faultContext
  split
  · exact h
  · exact h.becomeFaulted _ _ _

theorem faultNoRecord (h : Formed s) (tag : Nat) : Formed (faultNoRecord s ctx d tag) := h.faultContext _ _ _

theorem logTrap (h : Formed s) (w : LogWrite) : Formed (logTrap s w) := (h.logRecord _).faultContext _ _ _

/-! ## Accesses to memory -/

theorem withTurn (h : Formed s) {turn : Turn} {f : State → State} (hf : ∀ s, Formed s → Formed (f s)) :
    Formed (withTurn turn f s) := (hf _ (h.of_same (t := { s with turn := turn }) rfl rfl)).of_same rfl rfl

theorem claimOps (h : Formed s) (gid : GroupId) (n : Nat) : Formed (claimOps gid n s) := h.of_same rfl rfl

theorem actFor (h : Formed s) {gid : GroupId} {f : State → State} (hf : ∀ s, Formed s → Formed (f s)) :
    Formed (actFor gid f s) := (h.withTurn hf).claimOps _ _

theorem noteLoads (h : Formed s) (sigs : List Sig) : Formed (noteLoads s core slot sigs) := h.modGroup _

/-! ## Traps and page faults (R103, R250, R347) -/

theorem sendRecord (h : Formed s) (w : LogWrite) : Formed (sendRecord s w) := by
  unfold Machine.sendRecord
  split
  · exact h.logTrap _
  · exact h.of_same rfl rfl

theorem nextLog (h : Formed s) (ht : nextLog s = some t) : Formed t := by
  unfold Machine.nextLog at ht
  split at ht
  · cases ht
    exact (h.of_same (by rfl) (by rfl)).logTrap _
  · cases ht

/-- The record of a trap is written to the group's slot. -/
theorem writeRecord (h : Formed s) (off : Nat) (bs : List Byte) :
    Formed (Machine.modCore s core (fun k => { k with scratch := Memory.writeBytes k.scratch off bs })) :=
  h.modCore_wf (writeBytes_wf _ _ _)

theorem takeTrap (h : Formed s) (st : Stream) (tr : Trap) (tag : Nat) : Formed (takeTrap s core slot st tr tag) := by
  unfold Machine.takeTrap
  split
  · exact h
  · extract_lets bs s1 c s2 s3 hl
    have hrecord : Formed s1 := h.writeRecord _ _
    have hevent : Formed s2 := hrecord.post _ _ _ _
    have hhalted : Formed s3 := .ite (hevent.modCtx _) hevent
    split
    · exact hhalted.modLane _
    · cases st with
      | lane =>
        split
        · exact hrecord.modLane _
        · exact (hrecord.modGroup _).sendRecord _
      | scalar =>
        split
        · exact hrecord.modScalar _
        · exact (hrecord.modGroup _).sendRecord _

theorem raiseTrap (h : Formed s) (st : Stream) (tr : Trap) (tag : Nat) : Formed (raiseTrap s core slot st tr tag) := by
  unfold Machine.raiseTrap
  split
  · exact h
  · split
    · cases st with
      | lane => exact h.modLane _
      | scalar => exact h.modScalar _
    · exact h.takeTrap _ _ _

theorem pageFault {va : Nat} {kind : AccessKind} {sub : Nat} {w : (Nat × Nat) × State} (h : Formed s)
    (hw : pageFault s d ctx va kind sub = some w) : Formed w.2 := by
  unfold Machine.pageFault at hw
  dsimp only at hw
  split at hw
  · cases hw
    exact h
  · split at hw
    · cases hw
    · cases hw
      exact (h.modDie _).post _ _ _ _

end Formed

/-- Settles O11: memory and every scratchpad are empty at reset. -/
theorem resetMemoryForm : Obligations.ResetMemoryForm := ⟨rfl, fun core => by rw [coreOf_reset]; rfl⟩

end Sys2Proof.Proofs
end

section
/-!
SUPPORT. Results and stops that keep the canonical form (log 2): of the package that a wait for a word carries, and of what an
instruction's effect leaves. The checks before an effect carry no package.
-/
namespace Sys2Proof.Proofs

open Sys2Proof Sys2Proof.Machine Sys2Proof.Safety Sys2Proof.Laws

/-- The package that a stop carries, if it carries one, has the canonical form: a wait for a word carries one (R246, R263). -/
def StopFormed : Stop → Prop
  | .sleepWord _ s => Formed s
  | _ => True

/-- A result has a property, and a stop carries no package but a formed one. -/
inductive Ensures {α : Type} (P : α → Prop) : Res α → Prop
  | ok {x : α} (h : P x) : Ensures P (.ok x)
  | stop {r : Stop} (h : StopFormed r) : Ensures P (.error r)

/-- A check, of whose result nothing is asked. -/
abbrev Awake {α : Type} (r : Res α) : Prop := Ensures (fun _ => True) r

namespace Ensures

variable {α β : Type} {P : α → Prop} {Q : β → Prop} {r a b : Res α} {x : α} {stop : Stop}

theorem pass {u : Unit} : Awake (.ok u : Res Unit) := .ok trivial

theorem trap {code : Nat} {w : DWord} : Ensures P (trapOf code w) := .stop trivial

theorem trapSub {code sub : Nat} {w : DWord} : Ensures P (Machine.trapSub code sub w) := .stop trivial

theorem operand {index value : Nat} : Ensures P (illegalOperand index value) := .stop trivial

theorem stall {reason : StallReason} : Ensures P (.error (.stall reason)) := .stop trivial

theorem page {va : DWord} {kind : AccessKind} {sub : Nat} : Ensures P (.error (.page va kind sub)) := .stop trivial

theorem alloc {n : Nat} : Ensures P (.error (.alloc n)) := .stop trivial

theorem stopFormed (h : Ensures P r) (hr : r = .error stop) : StopFormed stop := by
  cases hr ▸ h
  assumption

/-- The stop of a part is the stop of the whole. -/
theorem error (h : Ensures P r) (hr : r = .error stop) : Ensures Q (.error stop : Res β) := .stop (h.stopFormed hr)

theorem result (h : Ensures P r) (hr : r = .ok x) : P x := by
  cases hr ▸ h
  assumption

theorem ite {c : Prop} {_ : Decidable c} (ha : c → Ensures P a) (hb : ¬c → Ensures P b) : Ensures P (if c then a else b) := by
  split
  · exact ha ‹_›
  · exact hb ‹_›

theorem andThen {c : Res Unit} (hc : Awake c) (ha : Ensures P a) : Ensures P (andThen c a) := by
  cases hc with
  | ok => exact ha
  | stop h => exact .stop h

end Ensures

/-! ## Checks -/

section
variable {s : State} {core ctx : Nat} {g : Group} {l : Lane} {e : Iss} {i : Instr} {x : Fields}

/-- A check that passes where a condition holds. -/
theorem awake_ite {c : Prop} {_ : Decidable c} {u : Unit} {b : Res Unit} (hb : Awake b) : Awake (if c then .ok u else b) :=
  .ite (fun _ => .pass) (fun _ => hb)

/-- A check that fails where a condition holds. -/
theorem awake_ite_not {c : Prop} {_ : Decidable c} {u : Unit} {b : Res Unit} (hb : Awake b) : Awake (if c then b else .ok u) :=
  .ite (fun _ => hb) (fun _ => .pass)

theorem firstFail_awake {α : Type} {p : α → Res Unit} (hp : ∀ a, Awake (p a)) (as : List α) : Awake (firstFail p as) := by
  induction as with
  | nil => exact .pass
  | cons a as ih =>
    unfold firstFail
    split
    · exact ih
    · exact (hp a).error ‹_›

theorem checkOne_awake (va size : Nat) (kind : AccessKind) (near : Bool) : Awake (checkOne s core ctx va size kind near) := by
  unfold checkOne
  split
  · exact .ok trivial
  · exact .trap
  · exact .page
  · exact .trap
  · exact .stall

theorem checkLanes_awake (size : Nat) (kind : AccessKind) (as : List (Nat × Nat)) (near : Bool) :
    Awake (checkLanes s core ctx size kind as near) := by
  unfold checkLanes
  extract_lets r
  split
  · exact .trap
  · split
    · exact .page
    · split
      · exact .trap
      · exact .ite (fun _ => .stall) (fun _ => .ok trivial)

theorem checkRange_awake (kind : AccessKind) (near : Bool) (as : List (Nat × Nat)) :
    Awake (checkRange s core ctx kind near as) := by
  induction as with
  | nil => exact .ok trivial
  | cons a as ih =>
    unfold checkRange
    split
    · exact (checkOne_awake _ _ _ _).error ‹_›
    · split
      · exact ih.error ‹_›
      · exact .ok trivial

/-! The checks 3 to 8 of R58. -/

theorem checkField_awake (f : Field) : Awake (checkField l x f) := awake_ite .operand

theorem checkLiteral_awake : Awake (checkLiteral x) := awake_ite_not .operand

theorem checkRaw_awake : Awake (checkRaw i) := by
  unfold checkRaw
  extract_lets rcv
  have hrcv (f : LaneForm) : Awake (rcv f) := awake_ite .operand
  split
  · exact hrcv _
  · exact hrcv _
  · exact awake_ite_not .operand
  · exact awake_ite_not .operand
  · exact .pass

theorem checkMeld_awake (f : Field) : Awake (checkMeld l f) := awake_ite_not .trap

theorem checkRun_awake (f : Field) : Awake (checkRun l f) := awake_ite_not .operand

theorem checkCap_awake (cap n : Nat) : Awake (checkCap cap n) := awake_ite_not .trap

theorem checkArrays_awake (c : Option Cohort) (f : Field) : Awake (checkArrays g c f) := by
  unfold checkArrays
  split
  · exact awake_ite .operand
  · exact awake_ite .operand
  · exact .pass

theorem checkFmt_awake : Awake (checkFmt l i) := awake_ite .trap

theorem checkWidth_awake : Awake (checkWidth g i) := by
  unfold checkWidth
  extract_lets w
  clear_value w
  split
  · exact .pass
  · split
    · exact .trap
    · exact awake_ite_not .trap

theorem checkLanded_awake (a : Nat × Nat) : Awake (checkLanded l a) := awake_ite_not .trap

theorem checkExtra_awake (n : Nat) : Awake (checkExtra i n) := by
  unfold checkExtra
  split
  · exact awake_ite .operand
  · exact .pass

theorem issueChecks_awake (c : Option Cohort) : Awake (issueChecks g c i x) := by
  have hopens : Awake (if g.ln.needCkpt = true ∧ (!opensRegion i) = true then trapSub 0x01 1 (instrBits i) else .ok ()) :=
    awake_ite_not .trapSub
  have hfields := firstFail_awake (checkField_awake (l := g.ln) (x := x)) x.fields
  have hraw := (checkRaw_awake (i := i)).andThen (firstFail_awake (checkExtra_awake (i := i)) (extraNames i))
  have hmeld := firstFail_awake (checkMeld_awake (l := g.ln)) x.fields
  have hrun := firstFail_awake (checkRun_awake (l := g.ln)) x.fields
  have harrays := firstFail_awake (checkArrays_awake (g := g) c) x.fields
  have hlanded := firstFail_awake (checkLanded_awake (l := g.ln)) ((x.fields.map (hazardNames g.ln)).flatten ++
    (hiddenPreds i x).map (fun p => (predName p, predName p)))
  refine hopens.andThen (hfields.andThen (checkLiteral_awake.andThen (hraw.andThen (hmeld.andThen (hrun.andThen ?_)))))
  refine (firstFail_awake (checkCap_awake _) _).andThen (harrays.andThen (checkFmt_awake.andThen (checkWidth_awake.andThen ?_)))
  exact awake_ite_not hlanded

/-! Pops, targets and fetches. -/

theorem popFail_awake {α : Type} {P : α → Prop} (q : Queue) (n : Nat) : Ensures P (popFail q n : Res α) :=
  .ite (fun _ => .trap) (fun _ => .ite (fun _ => .trap) (fun _ => .stall))

theorem popQueue_awake (q : Queue) (n k : Nat) : Awake (popQueue q n k) :=
  .ite (fun _ => popFail_awake _ _) (fun _ => .ite (fun _ => .ok trivial) (fun _ => .stall))

theorem popFields_awake (fmt : Word) (fs : List Field) (qs : List Queue) : Awake (popFields fmt fs qs) := by
  induction fs generalizing qs with
  | nil => exact .ok trivial
  | cons f fs ih =>
    unfold popFields
    split
    · split
      · exact (popQueue_awake _ _ _).error ‹_›
      · split
        · exact (ih _).error ‹_›
        · exact .ok trivial
    · exact ih qs

theorem checkTarget_awake (t : Nat) : Awake (checkTarget t) := .ite (fun _ => .trap) (fun _ => awake_ite_not .trap)

theorem checkAlign_awake (t : Nat) : Awake (checkAlign t) := awake_ite .trap

theorem checkOffset_awake : Awake (checkOffset g i) := by
  unfold checkOffset
  split
  · exact checkAlign_awake _
  · exact checkAlign_awake _
  · exact checkAlign_awake _
  · exact .pass

theorem fetchWords_awake (va n : Nat) : Awake (fetchWords s core ctx va n) := by
  induction n generalizing va with
  | zero => exact .ok trivial
  | succ n ih =>
    unfold fetchWords
    split
    · exact (checkOne_awake _ _ _ _).error ‹_›
    · split
      · exact (ih _).error ‹_›
      · exact .ok trivial

theorem fetchBits_awake (va : Nat) : Awake (fetchBits s core ctx va) := by
  unfold fetchBits
  split
  · exact (fetchWords_awake _ _).error ‹_›
  · exact fetchWords_awake _ _

theorem fetchAt_awake : Awake (fetchAt s core g) := by
  unfold fetchAt
  extract_lets pc
  split
  · exact (checkOne_awake _ _ _ _).error ‹_›
  · refine .ite (fun _ => .ite (fun _ => .trap) (fun _ => ?_)) (fun _ => ?_)
    · split
      · exact .ok trivial
      · exact .ok trivial
    · split
      · exact (fetchBits_awake _).error ‹_›
      · exact .ok trivial

theorem fetchLane_awake : Awake (fetchLane s core g) := by
  unfold fetchLane
  split
  · exact .ok trivial
  · exact fetchAt_awake

end

/-! ## A lane instruction (R51 to R58, R162, R192) -/

section
variable {s : State} {core slot ctx : Nat}

theorem storeRange_ensures (h : Formed s) (va : Nat) (bs : List Byte) : Ensures Formed (storeRange s core ctx va bs) := by
  unfold storeRange
  split
  · exact (checkRange_awake _ _ _).error ‹_›
  · exact .ok (h.accessed (.writeParts core 0 [] _ s bs))

theorem engineStore8_ensures (h : Formed s) (va : Nat) (scope : Scope) (v : DWord) (sigs : List Sig) :
    Ensures Formed (engineStore8 s core ctx va scope v sigs) := by
  unfold engineStore8
  split
  · exact (checkOne_awake _ _ _ _).error ‹_›
  · exact .ite (fun _ => .stall) (fun _ => .ok (h.accessed (.releaseWrite s core scope _ _ sigs)))

/-- The core after its pool has been settled: its scratchpad is as it was. -/
theorem settlePool_scratch {k l : Core} {old new : Group} (h : settlePool k slot old new = .ok l) : l.scratch = k.scratch := by
  unfold settlePool at h
  split at h
  · cases h
    rfl
  · cases h

namespace Formed

theorem walkSeen (h : Formed s) (va : Nat) : Formed (walkSeen s core ctx va) := h.accessed (.walkSeen s core ctx va)

theorem landed {i : Instr} {e : Iss} {d : Done} (h : Formed d.st) : Formed (landed i e d) := by
  unfold Machine.landed
  split
  · exact h
  · extract_lets s1
    have hset : Formed s1 := h.setCore (h.scratch e.core)
    split
    · exact hset
    · exact hset.raiseTrap _ _ _

theorem dropRegs (h : Formed s) : Formed (dropRegs s core slot) := by
  unfold Machine.dropRegs
  split
  · exact h
  · exact h.modCore fun _ => rfl

theorem lanePage (h : Formed s) (keep : Bool) (lanes : Mask) (va : DWord) (kind : AccessKind) (sub : Nat) :
    Formed (lanePage s core slot keep lanes va kind sub) := by
  unfold Machine.lanePage
  split
  · exact h
  · split
    · exact h.modLane _
    next w s' hfault =>
      have hsent : Formed s' := h.pageFault hfault
      exact .ite ((hsent.modLane _).dropRegs) (hsent.modLane _)

theorem stopWalk (h : Formed s) (r : Stop) : Formed (stopWalk s core slot r) := by
  unfold Machine.stopWalk
  split
  · split
    · exact h.walkSeen _
    · exact h
  · split
    · exact .ite (h.walkSeen _) h
    · exact h
  · exact h

theorem stopLane (h : Formed s) (keep : Bool) (lanes : Mask) {r : Stop} (hr : StopFormed r) :
    Formed (stopLane s core slot keep lanes r) := by
  unfold Machine.stopLane
  split
  · exact h.modLane _
  · exact h.modLane _
  · exact Formed.modLane hr _
  · exact ((h.stopWalk _).modLane _).raiseTrap _ _ _
  · exact (h.stopWalk _).lanePage _ _ _ _ _

theorem stopScalar (h : Formed s) {r : Stop} (hr : StopFormed r) : Formed (stopScalar s core slot r) := by
  unfold Machine.stopScalar
  split
  · exact h.modScalar _
  · exact h
  · exact Formed.modScalar hr _
  · exact ((h.stopWalk _).modScalar _).raiseTrap _ _ _
  · split
    · exact h
    · split
      · exact h.modScalar _
      next hfault => exact ((h.stopWalk _).pageFault hfault).modScalar _

theorem seeFills (h : Formed s) (g : Group) (waited : Nat → Bool) : Formed (seeFills s core g waited) := .ite h (h.modCore fun _ => rfl)

theorem noteWaits (h : Formed s) (g : Group) (x : Fields) : Formed (noteWaits s core g x) := h.seeFills _ _

theorem engineTrap (h : Formed s) (lanes : Mask) (va : DWord) : Formed (engineTrap s core slot lanes va) :=
  (h.modGroup _).raiseTrap _ _ _

end Formed

/-- What the effect of a lane instruction leaves of a formed package is formed. -/
def KeepsForm (body : Iss → State → Res Done) : Prop := ∀ e s, Formed s → Ensures (fun d => Formed d.st) (body e s)

theorem finishLane_ensures {i : Instr} {e : Iss} {d : Done} (h : Formed d.st) : Ensures Formed (finishLane i e d) :=
  .ite (fun _ => .ok h.landed) (fun _ => .alloc)

theorem effectLane_ensures {i : Instr} {e : Iss} {body : Iss → State → Res Done} (hbody : KeepsForm body) (h : Formed s) :
    Ensures Formed (effectLane i s e body) := by
  unfold effectLane
  refine .ite (fun _ => finishLane_ensures h) (fun _ => ?_)
  split
  · exact (popFields_awake _ _ _).error ‹_›
  next pops qs _ =>
    have hdone := hbody { e with pops := pops } _ (h.modGroup (core := e.core) (slot := e.slot) (fun g => { g with qs := qs }))
    split
    next hr => exact hdone.error hr
    next hr => exact finishLane_ensures (hdone.result hr)

theorem attemptLane_ensures {i : Instr} {e : Iss} {body : Iss → State → Res Done} (hbody : KeepsForm body) (h : Formed s) :
    Ensures Formed (attemptLane i s e body) := by
  unfold attemptLane
  refine .ite (fun _ => .stall) (fun _ => .ite (fun _ => .stall) (fun _ => ?_))
  split
  · exact ((issueChecks_awake _).andThen checkOffset_awake).error ‹_›
  · exact effectLane_ensures hbody (h.noteWaits _ _)

/-- The package after an outcome has the canonical form. -/
inductive FormedAfter : Host.Outcome State Fault Refusal → Prop
  | next {t : State} (h : Formed t) : FormedAfter (.next t)
  | refused {r : Refusal} : FormedAfter (.refused r)

theorem runLane_formed {i : Instr} {body : Iss → State → Res Done} (h : Formed s) (hbody : KeepsForm body) :
    FormedAfter (runLane i s body) := by
  unfold runLane
  split
  next core slot _ =>
    split
    next g _ _ _ =>
      extract_lets x
      split
      · split
        · exact .next (h.engineTrap _ _)
        · have hattempt := attemptLane_ensures (i := i) (e := issOf s core slot g x) hbody h
          split
          next hr => exact .next (hattempt.result hr)
          next hr => exact .next (h.stopLane _ _ (hattempt.stopFormed hr))
      · exact .next h
    · exact .next h
  · exact .next h

end

/-! ## A scalar instruction (R230, R233) -/

/-- What the effect of a scalar instruction leaves of a formed package is formed. -/
def ScalarKeepsForm (body : Nat → Nat → Group → State → Res SDone) : Prop :=
  ∀ core slot g s, Formed s → Ensures (fun d => Formed d.1) (body core slot g s)

section
variable {s : State} {core slot : Nat}

theorem attemptScalar_ensures {x : ScalarFields} {g : Group} {body : Group → State → Res SDone}
    (hbody : Ensures (fun d => Formed d.1) (body g s)) : Ensures Formed (attemptScalar x s core slot g body) := by
  unfold attemptScalar
  refine .ite (fun _ => .trapSub) (fun _ => ?_)
  split
  · exact hbody.error ‹_›
  next hr => exact .ok ((hbody.result hr).modScalar _)

theorem runScalar_formed {x : ScalarFields} {body : Nat → Nat → Group → State → Res SDone} (h : Formed s)
    (hbody : ScalarKeepsForm body) : FormedAfter (runScalar x s body) := by
  unfold runScalar
  split
  next core slot _ =>
    split
    next g _ =>
      split
      · have hattempt := attemptScalar_ensures (x := x) (core := core) (slot := slot) (hbody core slot g s h)
        split
        next hr => exact .next (hattempt.result hr)
        next hr => exact .next (h.stopScalar (hattempt.stopFormed hr))
      · exact .next h
    · exact .next h
  · exact .next h

end

end Sys2Proof.Proofs
end

section
/-!
SUPPORT. The canonical form (log 2) through the life of a group: regions, the exit of lanes and groups, results that come later,
reconvergence; and the control instructions.
-/
namespace Sys2Proof.Proofs

open Sys2Proof Sys2Proof.Machine Sys2Proof.Safety Sys2Proof.Laws

namespace Formed

variable {s : State} {core slot ctx : Nat}

/-! ## Regions and blocks (R139, R163, R164) -/

theorem modMembers (h : Formed s) (f : Member → Member) : Formed (modMembers s core slot f) := by
  unfold Machine.modMembers
  split
  · exact h
  · exact (h.of_same (t := { s with barriers := _ }) (by rfl) (by rfl)).modCore fun _ => by rfl

theorem releaseSlots (h : Formed s) (g : Group) (n : Nat) : Formed (releaseSlots s core g n) := .ite h (h.modNarrows _)

theorem openRegion (h : Formed s) : Formed (openRegion s core slot) := by
  unfold Machine.openRegion
  split
  · exact h
  · extract_lets q7 s1 s2 s3
    have hmarked : Formed s3 := ((h.releaseSlots _ _).modMembers _).modGroup _
    split
    · exact hmarked
    · exact hmarked.modCore fun _ => rfl

theorem startBlock (h : Formed s) : Formed (startBlock s core slot) := by
  unfold Machine.startBlock
  split
  · exact h
  · split
    · exact h.modLane _
    · exact h.openRegion.modLane _

theorem rewindRegion (h : Formed s) : Formed (rewindRegion s core slot) := by
  unfold Machine.rewindRegion
  split
  · exact h
  · split
    · exact h.modLane _
    · split
      · exact h.modLane _
      · extract_lets g'
        split
        · exact h.modLane _
        · exact h
        next k hk =>
          extract_lets k1 k2
          have hpool : Memory.wf k.scratch = true := settlePool_scratch hk ▸ h.scratch core
          have hwritten : Memory.wf k1.scratch = true := writeBytes_wf _ _ _ hpool
          have hrows : Memory.wf k2.scratch = true := by
            unfold k2
            split
            · exact hwritten
            · exact hwritten
          exact (h.setCore hrows).modMembers _

/-! ## The end of a group (R101, R153, R154) -/

theorem loseSender (h : Formed s) (key : Nat × Nat) : Formed (loseSender s core ctx key) := by
  unfold Machine.loseSender
  exact h.mapCores fun _ k => by split <;> rfl

theorem unbindGone (h : Formed s) (g : Group) : Formed (unbindGone s core slot g) := by
  unfold Machine.unbindGone
  exact (h.releaseSlots _ _).modNarrows _

theorem resetLeases (h : Formed s) (gid : GroupId) : Formed (resetLeases s core gid) := h.of_same rfl rfl

theorem kernelLess (h : Formed s) (n : Nat) : Formed (kernelLess s n) := h.of_same rfl rfl

theorem settleSuspend (h : Formed s) : Formed (settleSuspend s ctx) := by
  unfold Machine.settleSuspend
  split
  · exact .ite h ((h.modCtx _).post _ _ _ _)
  · exact h

theorem modRail (h : Formed s) (rail : Nat) (upper : Bool) (f : RailLayer → RailLayer) : Formed (modRail s rail upper f) := h.of_same rfl rfl

theorem noteRail (h : Formed s) (x : Nat × Bool) : Formed (noteRail s x) := .ite h (h.modRail _ _ _)

theorem noteRails (h : Formed s) : Formed (noteRails s) := h.foldl (fun _ x hs => hs.noteRail x) _

theorem accessGone (h : Formed s) (l : List (DWord × BitVec 48)) : Formed (accessGone s core ctx l) :=
  .ite h (h.foldl (fun _ _ hs => (hs.post _ _ _ _).faultNoRecord _) l)

theorem groupGone (h : Formed s) : Formed (groupGone s core slot) := by
  unfold Machine.groupGone
  split
  · exact h
  · extract_lets s1 s2 s3 s4 s5 s6
    have hbarriers : Formed s2 := (h.modMembers _).of_same rfl rfl
    have hleases : Formed s4 := (hbarriers.unbindGone _).resetLeases _
    have hfreed : Formed s5 := hleases.modCore fun k => by
      extract_lets k1 k2 k3
      split
      · split <;> rfl
      · rfl
    have hlost : Formed s6 := .ite (hfreed.loseSender _) hfreed
    exact ((hlost.accessGone _).settleSuspend).kernelLess _

theorem exitLanes (h : Formed s) (x : Mask) : Formed (exitLanes s core slot x) := by
  unfold Machine.exitLanes
  split
  · exact h
  · extract_lets l1 l2 g1 live g2 s1
    have hreduced : Formed s1 := h.modCore_wf (writeBytes_wf _ _ _)
    exact .ite hreduced.groupGone hreduced

theorem endBlock (h : Formed s) : Formed (endBlock s core slot) := by
  unfold Machine.endBlock
  extract_lets s1
  have hended : Formed s1 := h.modGroup _
  split
  · exact .ite (hended.exitLanes _) hended
  · exact hended

/-! ## Results that come later (R52, R169) -/

theorem completeWith (h : Formed s) (p : Pending) (ws : List RegWrite) (fl : Flags) : Formed (completeWith s core slot p ws fl) := by
  unfold Machine.completeWith
  split
  · exact h
  · extract_lets p1 g1 g2
    split
    · exact h.modLane _
    · exact h
    next k hk =>
      extract_lets s1
      have hset : Formed s1 := h.setCore (settlePool_scratch hk ▸ h.scratch core)
      split
      · exact hset
      · exact hset.raiseTrap _ _ _

theorem completeTag (h : Formed s) (tag : Nat) : Formed (completeTag s core slot tag) := by
  unfold Machine.completeTag
  split
  · exact h.completeWith _ _ _
  · exact h

theorem completeValues (h : Formed s) (tag : Nat) (vals : List (List Word)) : Formed (completeValues s core slot tag vals) := by
  unfold Machine.completeValues
  split
  · exact h.completeWith _ _ _
  · exact h

/-! ## Reconvergence (R149, R171, R179) -/

theorem handlerReturn (h : Formed s) (x : HandlerSave) (pc : BitVec 48) : Formed (handlerReturn s core slot x pc) := by
  unfold Machine.handlerReturn
  exact (h.modCore fun k => by unfold planeReturned; split <;> rfl).modLane _

theorem findLanes (h : Formed s) : Formed (findLanes s core slot) := by
  unfold Machine.findLanes
  split
  · exact h
  · extract_lets l s1
    have hunwound : Formed s1 := h.modLane _
    split
    · exact hunwound
    · split
      · exact hunwound.endBlock
      · extract_lets s2
        have hreturned : Formed s2 := hunwound.handlerReturn _ _
        exact .ite hreturned.endBlock hreturned

theorem restartRegion (h : Formed s) : Formed (restartRegion s core slot) := by
  unfold Machine.restartRegion
  extract_lets s1
  have hrewound : Formed s1 := h.rewindRegion
  split
  · exact hrewound
  · exact .ite hrewound.findLanes hrewound

theorem reconverge (h : Formed s) : Formed (reconverge s core slot) := by
  unfold Machine.reconverge
  split
  · exact h
  · split
    · exact h
    · extract_lets l1 l2 s1
      have happlied : Formed s1 := h.modLane _
      exact .ite happlied.findLanes happlied

/-- The lane stream with the stack that a push or a return has left, in the scratchpad and held. -/
theorem putLane (h : Formed s) {l : Lane} {m : Memory} (hm : Memory.wf m = true) : Formed (putLane s core slot (l, m)) :=
  (h.modCore_wf fun _ => hm).modLane _

theorem wakeWait (h : Formed s) : Formed (wakeWait s core slot) := by
  unfold Machine.wakeWait
  split
  · exact h
  · exact .ite (h.modLane _) h

end Formed

end Sys2Proof.Proofs
end

section
/-!
SUPPORT. The control and group instructions (07_group R172 to R184) keep the canonical form (log 2).
-/
namespace Sys2Proof.Proofs

open Sys2Proof Sys2Proof.Machine Sys2Proof.Safety Sys2Proof.Laws

/-- What a lane instruction's effect leaves is formed. -/
abbrev DoneFormed (r : Res Done) : Prop := Ensures (fun d => Formed d.st) r

namespace Ensures

variable {s : State}

theorem plain (h : Formed s) : DoneFormed (.ok (Done.plain s)) := .ok h

theorem jump (h : Formed s) {pc : BitVec 48} : DoneFormed (.ok (Done.jump s pc)) := .ok h

theorem regs (h : Formed s) {lat : Nat} {w : List RegWrite} {fl : Flags} : DoneFormed (.ok (Done.regs s lat w fl)) := .ok h

theorem pred (h : Formed s) {p : Nat} {lanes vals : Mask} {fl : Flags} : DoneFormed (.ok (Done.pred s p lanes vals fl)) := .ok h

/-- Of what an effect leaves, everything but the package may be changed. -/
theorem updated (h : Formed s) {ws : List RegWrite} {ps : List (Nat × Mask × Mask)} {lat : Nat} {pend : Option Pending} {fl : Flags}
    {flow : Flow} {steps : Nat} : DoneFormed (.ok ⟨(Done.plain s).st, ws, ps, lat, pend, fl, flow, steps⟩) := .ok h

/-- A lane stream with a scratchpad of the canonical form. -/
theorem stack {l : Lane} {m : Memory} (hm : Memory.wf m = true) :
    Ensures (fun r : Lane × Memory => Memory.wf r.2 = true) (.ok (l, m)) := .ok hm

theorem later (h : Formed s) {p : Pending} : DoneFormed (.ok (Done.later s p)) := .ok h

end Ensures

section
variable {s : State} {e : Iss} {l : Lane} {m : Memory}

theorem checkPage_awake (t : Nat) : Awake (checkPage s e t) := by
  unfold checkPage
  split
  · exact .pass
  · exact awake_ite .trap

theorem checkTransfer_awake (t : Nat) : Awake (checkTransfer s e t) := (checkTarget_awake t).andThen (checkPage_awake t)

theorem checkNest_awake : Awake (checkNest l) := awake_ite_not .trap

theorem checkReturn_awake : Awake (checkReturn s e m l) := by
  unfold checkReturn
  split
  · exact .pass
  · exact (checkAlign_awake _).andThen (awake_ite (checkPage_awake _))

theorem frameBytes_awake (f : LaneForm) : Awake (frameBytes f) := .ite (fun _ => .operand) (fun _ => .ok trivial)

/-- A push keeps the scratchpad's form: it spills an entry, or nothing. -/
theorem pushEntry_ensures (h : Memory.wf m = true) (x : StackEntry) : Ensures (fun r => Memory.wf r.2 = true) (pushEntry l m x) := by
  unfold pushEntry
  refine .ite (fun _ => .stack h) (fun _ => .ite (fun _ => .trap) (fun _ => ?_))
  split
  · exact .stack h
  · exact .stack (writeBytes_wf _ _ _ h)

theorem pushPaths_ensures (h : Memory.wf m = true) (fall rpc : BitVec 48) (rest : Mask) :
    Ensures (fun r => Memory.wf r.2 = true) (pushPaths l m fall rpc rest) := by
  unfold pushPaths
  extract_lets first
  have hfirst : Ensures (fun r => Memory.wf r.2 = true) first := .ite (fun _ => .stack h) (fun _ => pushEntry_ensures h _)
  clear_value first
  split
  · exact hfirst.error rfl
  next l' m' =>
    have hm := hfirst.result rfl
    exact .ite (fun _ => .stack hm) (fun _ => pushEntry_ensures hm _)

theorem transfer_formed (h : Formed s) (i : Instr) (target rcv : Nat) : DoneFormed (transfer s e i target rcv) := by
  unfold transfer
  extract_lets l rest rpc
  refine .ite (fun _ => .jump h) (fun _ => ?_)
  have hpush := pushPaths_ensures (l := l) (h.scratch e.core) (followingPc e i).addr rpc rest
  split
  next hr => exact hpush.error hr
  next hr =>
    have hm := hpush.result hr
    exact .jump (h.putLane hm)

theorem leaveSpilled_wf (h : Memory.wf m = true) (x : Mask) : Memory.wf (leaveSpilled l m x) = true := by
  unfold leaveSpilled
  split
  · exact h
  · exact writeBytes_wf _ _ _ h

theorem openSaved_formed (h : Formed s) (i : Instr) (low : BitVec 32) (pairs : BitVec 48) : DoneFormed (openSaved s e i low pairs) := by
  unfold openSaved
  refine .ite (fun _ => .stall) (fun _ => ?_)
  extract_lets sv bs base
  refine .ite (fun _ => .trap) (fun _ => ?_)
  have hstore := storeRange_ensures (core := e.core) (ctx := e.g.ctx) h base bs
  split
  · exact hstore.error ‹_›
  next hr => exact .plain (((hstore.result hr).openRegion.seeFills _ _).modLane _)

end

section
variable {s : State} (h : Formed s) (f : LaneForm)
include h

theorem execBra_formed : FormedAfter (execBra f s) := by
  refine runLane_formed h fun e s hs => ?_
  extract_lets t
  split
  · exact (checkNest_awake.andThen (checkTransfer_awake _)).error ‹_›
  · exact .ite (fun _ => transfer_formed hs _ _ _) (fun _ => .jump hs)

theorem execBrau_formed : FormedAfter (execBrau f s) := by
  refine runLane_formed h fun e s hs => ?_
  extract_lets l t p c
  split
  · exact checkNest_awake.error ‹_›
  · refine .ite (fun _ => ?_) (fun _ => .ite (fun _ => .plain hs) (fun _ => .trap))
    split
    · exact (checkTransfer_awake _).error ‹_›
    · exact .jump hs

theorem execJmpi_formed : FormedAfter (execJmpi f s) := by
  refine runLane_formed h fun e s hs => ?_
  extract_lets src t dissent
  split
  · exact checkNest_awake.error ‹_›
  · refine .ite (fun _ => .trap) (fun _ => ?_)
    split
    · exact (checkTransfer_awake _).error ‹_›
    · exact .ite (fun _ => transfer_formed hs _ _ _) (fun _ => .jump hs)

theorem execCall_formed : FormedAfter (execCall f s) := by
  refine runLane_formed h fun e s hs => ?_
  extract_lets l t page back
  have hpage : Awake page := awake_ite (checkPage_awake _)
  split
  · exact (checkNest_awake.andThen ((checkTarget_awake _).andThen hpage)).error ‹_›
  · have hpush := pushEntry_ensures (l := l) (hs.scratch e.core) ⟨.call, back, 0, l.em, l.fmt⟩
    split
    · exact hpush.error ‹_›
    next hr =>
      have hm := hpush.result hr
      exact .jump (hs.putLane hm)

theorem execRet_formed : FormedAfter (execRet f s) := by
  refine runLane_formed h fun e s hs => ?_
  extract_lets l m m1 l1 s1
  have hput : Formed s1 := hs.putLane (leaveSpilled_wf (hs.scratch e.core) _)
  split
  · exact checkNest_awake.error ‹_›
  · refine .ite (fun _ => .trapSub) (fun _ => ?_)
    split
    · exact checkReturn_awake.error ‹_›
    · exact .ite (fun _ => .updated hput) (fun _ => .updated hput.findLanes)

theorem execMeld_formed : FormedAfter (execMeld f s) := by
  refine runLane_formed h fun e s hs => ?_
  extract_lets l fin
  split
  · exact checkNest_awake.error ‹_›
  · have hpush := pushEntry_ensures (l := l) (hs.scratch e.core) ⟨.meld, 0, fin, l.em, l.fmt⟩
    split
    · exact hpush.error ‹_›
    next hr =>
      have hm := hpush.result hr
      exact .plain (hs.putLane hm)

theorem execMtab_formed : FormedAfter (execMtab f s) := by
  refine runLane_formed h fun e s hs => ?_
  extract_lets first
  split
  · exact checkNest_awake.error ‹_›
  · exact .plain (hs.modLane _)

theorem execLend_formed : FormedAfter (execLend f s) :=
  runLane_formed h fun _ _ hs => .ite (fun _ => .trapSub) (fun _ => .updated hs.endBlock)

theorem execExit_formed : FormedAfter (execExit f s) := by
  refine runLane_formed h fun e s hs => ?_
  extract_lets s1
  have hleft : Formed s1 := hs.exitLanes _
  split
  · exact .plain hleft
  · exact .ite (fun _ => .plain hleft) (fun _ => .updated hleft.findLanes)

theorem execCkpt_formed : FormedAfter (execCkpt f s) := runLane_formed h fun _ _ hs => openSaved_formed hs _ _ _

theorem execCkptx_formed (f : CkptxForm) : FormedAfter (execCkptx f s) := runLane_formed h fun _ _ hs => openSaved_formed hs _ _ _

theorem execWait_formed : FormedAfter (execWait f s) :=
  runLane_formed h fun _ _ hs => .ite (fun _ => .plain hs) (fun _ => .plain (hs.modLane _))

theorem execNop_formed : FormedAfter (execNop f s) := runLane_formed h fun _ _ hs => .plain hs

theorem execNopShort_formed (f : ShortForm) : FormedAfter (execNopShort f s) := runLane_formed h fun _ _ hs => .plain hs

theorem execYield_formed : FormedAfter (execYield f s) := runLane_formed h fun _ _ hs => .plain (hs.modGroup _)

theorem execWaitExpire_formed (core slot : Nat) : FormedAfter (execWaitExpire core slot s) := .next h.wakeWait

theorem execEmrd_formed : FormedAfter (execEmrd f s) := runLane_formed h fun _ _ hs => .regs hs

theorem execEmwr_formed : FormedAfter (execEmwr f s) :=
  runLane_formed h fun _ _ hs => .ite (fun _ => .operand) (fun _ => .plain (hs.modLane _))

theorem execSalloc_formed : FormedAfter (execSalloc f s) := by
  refine runLane_formed h fun e s hs => ?_
  split
  · exact (frameBytes_awake f).error ‹_›
  · exact .ite (fun _ => .trap) (fun _ => .plain (hs.modLane _))

theorem execSfree_formed : FormedAfter (execSfree f s) := by
  refine runLane_formed h fun e s hs => ?_
  split
  · exact (frameBytes_awake f).error ‹_›
  · exact .ite (fun _ => .trap) (fun _ => .plain (hs.modLane _))

theorem execTrap_formed : FormedAfter (execTrap f s) := runLane_formed h fun _ _ _ => .trap

theorem execBrk_formed : FormedAfter (execBrk f s) := runLane_formed h fun _ _ _ => .trap

theorem execTret_formed : FormedAfter (execTret f s) := by
  refine runLane_formed h fun e s hs => ?_
  split
  · exact .trapSub
  · extract_lets pc s1
    have hreturned : Formed s1 := hs.handlerReturn _ _
    exact .ite (fun _ => .trap) (fun _ => .ite (fun _ => .updated hreturned.findLanes) (fun _ => .updated hreturned))

omit f in
theorem execDeferredTrap_formed (core slot : Nat) : FormedAfter (execDeferredTrap core slot s) := by
  unfold execDeferredTrap
  split
  · exact .next h
  · split
    · split
      · exact .next ((h.modLane _).takeTrap _ _ _)
      · exact .next h
    · split
      · exact .next ((h.modScalar _).takeTrap _ _ _)
      · exact .next h
    · exact .next h

end

end Sys2Proof.Proofs
end

section
/-!
SUPPORT. The canonical form (log 2) before an instruction: translated words, the helper image, what comes before a lane stream's
next instruction; and the lane instructions of fixed latency.
-/
namespace Sys2Proof.Proofs

open Sys2Proof Sys2Proof.Machine Sys2Proof.Safety Sys2Proof.Laws

theorem settlePool_awake {k : Core} {slot : Nat} {old new : Group} : Awake (settlePool k slot old new) :=
  .ite (fun _ => .ok trivial) (fun _ => .alloc)

namespace Formed

variable {s : State} {core slot ctx : Nat}

/-! ## Casnis code and the helper image (R433, R441) -/

theorem walkAcquire (h : Formed s) (x : Xlat) : Formed (walkAcquire s core x) := h.accessed (.walkAcquire s core x)

theorem fillWord (h : Formed s) (va : Nat) : Formed (fillWord s core ctx va) := by
  unfold Machine.fillWord
  split
  · exact .ite ((h.walkAcquire _).modCore fun _ => rfl) h
  · exact h

theorem fillLine (h : Formed s) (va : Nat) : Formed (fillLine s core ctx va) := h.foldl (fun _ _ hs => hs.fillWord _) _

theorem helperReturn (h : Formed s) : Formed (helperReturn s core slot) := (h.modLane _).findLanes

theorem helperWrites (h : Formed s) (g : Group) (ws : List RegWrite) {after : State → State}
    (hafter : ∀ s, Formed s → Formed (after s)) : Formed (helperWrites s core slot g ws after) := by
  unfold Machine.helperWrites
  split
  next hr => exact h.stopLane _ _ (settlePool_awake.stopFormed hr)
  next hr => exact hafter _ (h.setCore (settlePool_scratch hr ▸ h.scratch core))

theorem runHelper (h : Formed s) (g : Group) (w : HelperWord) : Formed (runHelper s core slot g w) := by
  unfold Machine.runHelper
  extract_lets l
  split
  · have hpush := pushEntry_ensures (l := l) (h.scratch core) ⟨.call, l.pc.addr + 12, 0, l.em, l.fmt⟩
    split
    next hr => exact h.stopLane _ _ (hpush.stopFormed hr)
    next hr =>
      have hm := hpush.result hr
      exact h.putLane hm
  · exact h.helperWrites _ _ (fun _ hs => hs.helperReturn)
  · exact h.helperWrites _ _ (fun _ hs => hs.modLane _)
  · exact h.helperReturn

theorem helperStep (h : Formed s) {g : Group} {t : State} (ht : helperStep s core slot g = some t) : Formed t := by
  unfold Machine.helperStep at ht
  split at ht
  · cases ht
  · extract_lets u at ht
    have hseen : Formed u := h.walkSeen _
    clear_value u
    split at ht
    next hr =>
      cases ht
      exact hseen.stopLane _ _ ((checkOne_awake _ _ _ _).stopFormed hr)
    · split at ht
      · cases ht
        exact hseen.runHelper _ _
      · cases ht

theorem fetchSeen (h : Formed s) (va : Nat) : Formed (fetchSeen s core ctx va) := by
  unfold Machine.fetchSeen
  extract_lets s1
  have hseen : Formed s1 := h.walkSeen _
  split
  · exact hseen.walkSeen _
  · exact hseen

/-! ## Before a lane stream's next instruction (R139, R149, R163, R169) -/

theorem retryResult (h : Formed s) (p : Pending) : Formed (retryResult s core slot p) := by
  unfold Machine.retryResult
  exact (h.modLane _).completeWith _ _ _

theorem beforeLane (h : Formed s) {t : State} (ht : beforeLane s core slot = some t) : Formed t := by
  unfold Machine.beforeLane at ht
  split at ht
  · cases ht
  · split at ht
    · cases ht
      exact h.retryResult _
    · split at ht
      · cases ht
        exact .ite (h.modLane _) h.restartRegion
      · split at ht
        · split at ht
          · cases ht
            exact h.modLane _
          · split at ht
            · cases ht
              exact h.exitLanes _
            · cases ht
              exact h.startBlock
        · split at ht
          · cases ht
            exact h.reconverge
          · cases ht

theorem beforeAll (fuel : Nat) (h : Formed s) : Formed (beforeAll core slot fuel s) := by
  induction fuel generalizing s with
  | zero => exact h
  | succ fuel ih =>
    unfold Machine.beforeAll
    split
    · exact h
    · split
      next ht => exact ih (h.beforeLane ht)
      · exact h

theorem laneSeen (h : Formed s) (g : Group) : Formed (laneSeen s core g) := .ite h (h.fetchSeen _)

end Formed

section
variable {s : State} (h : Formed s)
include h

theorem execCasnisFill_formed (core ctx va : Nat) : FormedAfter (execCasnisFill core ctx va s) := .next (h.fillLine _)

theorem execUnassignedOpcode_formed (st : Stream) (w : BitVec 64) : FormedAfter (execUnassignedOpcode st w s) := by
  unfold execUnassignedOpcode
  split
  · exact runLane_formed h fun _ _ _ => .trap
  · exact runScalar_formed h fun _ _ _ _ _ => .trap

theorem execLegacyWord_formed (k : LegacyKind) (w : BitVec 64) (c : Ctl) : FormedAfter (execLegacyWord k w c s) := by
  refine runLane_formed h fun e s hs => ?_
  cases k with
  | legacy sub => exact .trapSub
  | illegalOp => exact .stop trivial
  | illegalOperand i v => exact .stop trivial

/-! ## Instructions of fixed latency (R196 to R225) -/

theorem float1_formed (i : Instr) (a lat : Nat) (op : FEnv → Nat → FRes) : FormedAfter (float1 i a lat op s) :=
  runLane_formed h fun _ _ hs => .regs hs

theorem float2_formed (i : Instr) (a b lat : Nat) (op : FEnv → Nat → Nat → FRes) : FormedAfter (float2 i a b lat op s) :=
  runLane_formed h fun _ _ hs => .regs hs

theorem float3_formed (i : Instr) (lat : Nat) (op : FEnv → Nat → Nat → Nat → FRes) : FormedAfter (float3 i lat op s) :=
  runLane_formed h fun _ _ hs => .regs hs

theorem predOp_formed (i : Instr) (f : LaneForm) (op : Mask → Mask → Mask) : FormedAfter (predOp i f op s) :=
  runLane_formed h fun _ _ hs => .pred hs

theorem execFcmp_formed (c : FCond) (f : LaneForm) : FormedAfter (execFcmp c f s) := runLane_formed h fun _ _ hs => .pred hs

theorem execSetfpc_formed (f : LaneForm) : FormedAfter (execSetfpc f s) :=
  runLane_formed h fun _ _ hs => .ite (fun _ => .operand) (fun _ => .regs (hs.modLane _))

theorem execRngseed_formed (f : LaneForm) : FormedAfter (execRngseed f s) := runLane_formed h fun _ _ hs => .updated (hs.modLane _)

theorem execCvt_formed (rm : RM) (f : LaneForm) : FormedAfter (execCvt rm f s) := runLane_formed h fun _ _ hs => .regs hs

theorem execCvtSr_formed (f : LaneForm) : FormedAfter (execCvtSr f s) := runLane_formed h fun _ _ hs => .later (hs.modLane _)

theorem execPk2Sr_formed (x : Half) (f : LaneForm) : FormedAfter (execPk2Sr x f s) :=
  runLane_formed h fun _ _ hs => .later (hs.modLane _)

theorem execUpk2_formed (x : Half) (f : LaneForm) : FormedAfter (execUpk2 x f s) := runLane_formed h fun _ _ hs => .regs hs

theorem execPcat_formed (f : LaneForm) : FormedAfter (execPcat f s) := runLane_formed h fun _ _ hs => .regs hs

theorem execPsplit_formed (f : LaneForm) : FormedAfter (execPsplit f s) := runLane_formed h fun _ _ hs => .updated hs

theorem execPmov_formed (f : LaneForm) : FormedAfter (execPmov f s) := runLane_formed h fun _ _ hs => .pred hs

end

end Sys2Proof.Proofs
end

section
/-!
SUPPORT. The scalar stream's instructions and the queues (09_scalar_stream) keep the canonical form (log 2).
-/
namespace Sys2Proof.Proofs

open Sys2Proof Sys2Proof.Machine Sys2Proof.Safety Sys2Proof.Laws

namespace Ensures

variable {α : Type} {s : State}

/-- A scalar instruction's package, wherever its stream goes. -/
theorem scalar (h : Formed s) {pc : Option (BitVec 48)} : Ensures (fun d : SDone => Formed d.1) (.ok (s, pc)) := .ok h

/-- A value with a package. -/
theorem withState (h : Formed s) {a : α} : Ensures (fun r : α × State => Formed r.2) (.ok (a, s)) := .ok h

end Ensures

namespace Formed

variable {s : State} {core slot ctx : Nat}

theorem putS (h : Formed s) (n : SName) (v : DWord) : Formed (putS s core slot n v) := h.modScalar _

theorem inheritScalar (h : Formed s) (sigs : List Sig) : Formed (inheritScalar s core slot sigs) := h.modGroup _

theorem modQueue (h : Formed s) (n : Nat) (f : Queue → Queue) : Formed (modQueue s core slot n f) := h.modGroup _

theorem readX (h : Formed s) (level : Nat) (x : Xlat) (n tag : Nat) : Formed (readX s core level x n tag).state :=
  h.accessed (.readX s core level x n tag)

theorem writeX (h : Formed s) (level : Nat) (x : Xlat) (bs : List Byte) (sigs : List Sig) : Formed (writeX s core level x bs sigs) :=
  h.accessed (.writeX s core level x bs sigs)

theorem acquireRead (h : Formed s) (scope : Scope) (x : Xlat) (n tag : Nat) : Formed (acquireRead s core scope x n tag).state :=
  h.accessed (.acquireRead s core scope x n tag)

theorem releaseWrite (h : Formed s) (scope : Scope) (x : Xlat) (bs : List Byte) (sigs : List Sig) :
    Formed (releaseWrite s core scope x bs sigs) := h.accessed (.releaseWrite s core scope x bs sigs)

theorem readParts (h : Formed s) (level tag : Nat) (l : List (Xlat × Nat)) : Formed (readParts s core level tag l).state :=
  h.accessed (.readParts core level tag l s)

theorem writeParts (h : Formed s) (policy : Nat) (sigs : List Sig) (l : List (Xlat × Nat)) (bs : List Byte) :
    Formed (writeParts s core policy sigs l bs) := h.accessed (.writeParts core policy sigs l s bs)

theorem readLanes (size tag : Nat) (l : List (Nat × Xlat)) (h : Formed s) : Formed (readLanes s core size tag l).2.2 := by
  induction l generalizing s with
  | nil => exact h
  | cons x l ih => exact ih (h.readX _ _ _ _)

end Formed

/-! ## Checks and reads (R228, R231, R233, R238, R239) -/

section
variable {s : State} {core slot ctx : Nat} {g : Group}

theorem checkScalarTarget_awake (t : DWord) : Awake (checkScalarTarget t) := .ite (fun _ => .trap) (fun _ => awake_ite_not .trap)

theorem checkScalarPage_awake (t : DWord) : Awake (checkScalarPage s core g t) := by
  unfold checkScalarPage
  split
  · exact (checkScalarTarget_awake t).error ‹_›
  · exact awake_ite_not .trap

theorem checkMode_awake (m : BitVec 6) : Awake (checkMode m) := awake_ite_not .operand

theorem checkQueue_awake (n : Nat) : Awake (checkQueue g n) := awake_ite_not .operand

theorem checkBlockPage_awake (t : Nat) : Awake (checkBlockPage s core g t) := by
  unfold checkBlockPage
  split
  · exact awake_ite_not .trap
  · exact .pass

theorem scalarLoad_ensures (h : Formed s) (va size scope : Nat) :
    Ensures (fun r => Formed r.2) (scalarLoad s core slot ctx va size scope) := by
  unfold scalarLoad
  split
  · exact (checkOne_awake _ _ _ _).error ‹_›
  · extract_lets r q
    exact .ite (fun _ => .withState ((h.readX _ _ _ _).noteLoads _)) (fun _ => .withState ((h.acquireRead _ _ _ _).inheritScalar _))

theorem fetchEntries_ensures (h : Formed s) (base stride : DWord) (wide : Bool) :
    Ensures (fun r => Formed r.2) (fetchEntries s core slot g base stride wide) := by
  unfold fetchEntries
  extract_lets size
  split
  · exact (checkLanes_awake _ _ _ _).error ‹_›
  next xs _ =>
    extract_lets r
    have hread : Formed r.2.2 := Formed.readLanes _ _ _ (h.of_same (t := { s with turn := .idle }) rfl rfl)
    have hclaimed : Formed (claimOps (gidOf g) s.outgoing.length { r.2.2 with turn := s.turn }) :=
      (hread.of_same (t := { r.2.2 with turn := s.turn }) rfl rfl).claimOps _ _
    exact .withState (hclaimed.noteLoads _)

theorem readStruct_ensures (h : Formed s) (va : Nat) : Ensures (fun r => Formed r.2) (readStruct s core slot ctx va) := by
  unfold readStruct
  split
  · exact (checkOne_awake _ _ _ _).error ‹_›
  · split
    · exact (checkRange_awake _ _ _).error ‹_›
    · exact .withState ((h.readParts _ _ _).noteLoads _)

/-- A wait for a word carries the package that its read has left. -/
theorem waitRead_ensures {x : Xlat} {watch : Option WordWait} {w : WordWait} {read : Read} (h : Formed read.state) :
    Ensures (fun r => Formed r.state) (waitRead s x watch w read) := by
  unfold waitRead
  refine .ite (fun _ => .ok h) (fun _ => ?_)
  split
  · exact .stop h
  · exact .ite (fun _ => .ok (h.of_same rfl rfl)) (fun _ => .stall)

end

/-! ## The instructions (R229 to R234) -/

section
variable {s : State} (h : Formed s)
include h

theorem salu_formed (x : ScalarFields) (b : Group → DWord) (f : DWord → DWord → DWord) : FormedAfter (salu x b f s) :=
  runScalar_formed h fun _ _ _ _ hs => .scalar (hs.putS _ _)

theorem execScalarStepLimit_formed (word : BitVec 64) : FormedAfter (execScalarStepLimit word s) := by
  unfold execScalarStepLimit
  split
  · split
    · split
      · exact .next (h.stopScalar trivial)
      · exact .next h
    · exact .next h
  · exact .next h

theorem sbranch_formed (x : ScalarFields) (off : DWord) (cond : Group → Bool) : FormedAfter (sbranch x off cond s) := by
  refine runScalar_formed h fun core _ g s hs => ?_
  extract_lets t
  refine .ite (fun _ => .trap) (fun _ => .ite (fun _ => ?_) (fun _ => .scalar hs))
  split
  · exact (checkScalarPage_awake _).error ‹_›
  · exact .scalar hs

theorem scallTo_formed (x : ScalarFields) (off : DWord) : FormedAfter (scallTo x off s) := by
  refine runScalar_formed h fun core slot g s hs => ?_
  extract_lets t back
  split
  · exact (checkScalarPage_awake _).error ‹_›
  · exact .ite (fun _ => .trap) (fun _ => .scalar (hs.modScalar _))

theorem execSret_formed : FormedAfter (execSret s) := by
  refine runScalar_formed h fun core slot g s hs => ?_
  extract_lets z pc
  refine .ite (fun _ => ?_) (fun _ => .ite (fun _ => ?_) (fun _ => .trapSub))
  · split
    · exact (checkScalarPage_awake _).error ‹_›
    · exact .scalar (hs.modScalar _)
  · split
    · exact (checkScalarPage_awake _).error ‹_›
    · exact .scalar (hs.modScalar _)

theorem sloadAt_formed (x : ScalarFields) (m : BitVec 6) (off : DWord) : FormedAfter (sloadAt x m off s) := by
  refine runScalar_formed h fun core slot g s hs => ?_
  split
  · exact (checkMode_awake m).error ‹_›
  · have hload := scalarLoad_ensures (core := core) (slot := slot) (ctx := g.ctx) hs (readS g x.sa + off).toNat (modeSize m) (modeScope m)
    split
    · exact hload.error ‹_›
    next hr =>
      have hread := hload.result hr
      exact .scalar (hread.putS _ _)

theorem sstoreAt_formed (x : ScalarFields) (m : BitVec 6) (off : DWord) : FormedAfter (sstoreAt x m off s) := by
  refine runScalar_formed h fun core slot g s hs => ?_
  extract_lets bs
  split
  · exact (checkMode_awake m).error ‹_›
  · split
    · exact (checkOne_awake _ _ _ _).error ‹_›
    · refine .ite (fun _ => .scalar (hs.writeX _ _ _ _)) (fun _ => .ite (fun _ => .stall) (fun _ => ?_))
      exact .scalar ((hs.releaseWrite _ _ _ _).modGroup _)

/-! ## Queues (R235 to R242) -/

theorem execSqld_formed (qn : BitVec 6) (sa sb : SName) (wide : Bool) : FormedAfter (execSqld qn sa sb wide s) := by
  refine runScalar_formed h fun core slot g s hs => ?_
  extract_lets q
  split
  · exact (checkQueue_awake _).error ‹_›
  · refine .ite (fun _ => .stall) (fun _ => ?_)
    have hfetch := fetchEntries_ensures (core := core) (slot := slot) (g := g) hs (readS g sa) (readS g sb) wide
    split
    · exact hfetch.error ‹_›
    next hr =>
      have hread := hfetch.result hr
      exact .scalar (hread.modQueue _ _)

theorem execAff_formed (qn : BitVec 6) (sa : SName) : FormedAfter (execAff qn sa s) := by
  refine runScalar_formed h fun core slot g s hs => ?_
  split
  · exact (checkQueue_awake _).error ‹_›
  · refine .ite (fun _ => .stall) (fun _ => ?_)
    have hstruct := readStruct_ensures (core := core) (slot := slot) (ctx := g.ctx) hs (readS g sa).toNat
    split
    · exact hstruct.error ‹_›
    next hr =>
      have hread := hstruct.result hr
      split
      · exact .operand
      · exact .scalar (hread.modQueue _ _)

theorem execAffPush_formed (core slot q : Nat) : FormedAfter (execAffPush core slot q s) := by
  unfold execAffPush
  split
  · exact .next h
  next g a _ =>
    have hfetch := fetchEntries_ensures (core := core) (slot := slot) (g := g) h (affAddress a) a.lstride a.wide
    split
    next hr =>
      have hread := hfetch.result hr
      exact .next (hread.modQueue _ _)
    · exact .next h

theorem execAffStreamFault_formed (core slot q : Nat) : FormedAfter (execAffStreamFault core slot q s) := by
  unfold execAffStreamFault
  split
  · exact .next h
  · split
    · exact .next h
    · split
      · exact .next h
      next hfault => exact .next ((h.pageFault hfault).modQueue _ _)
    · exact .next ((h.modQueue _ _).modScalar _)
    · exact .next h

theorem execQueueEntryFill_formed (core slot q : Nat) : FormedAfter (execQueueEntryFill core slot q s) := by
  unfold execQueueEntryFill
  split
  · exact .next h
  · exact .next (.ite h (h.modQueue _ _))

theorem execSqend_formed (qn : BitVec 6) : FormedAfter (execSqend qn s) := by
  refine runScalar_formed h fun core slot g s hs => ?_
  split
  · exact (checkQueue_awake _).error ‹_›
  · exact .scalar (hs.modQueue _ _)

theorem execQueueEndEffect_formed (core slot q : Nat) : FormedAfter (execQueueEndEffect core slot q s) := .next (h.modQueue _ _)

/-! ## Lane blocks, system registers and waits (R243 to R248) -/

theorem lrunAt_formed (x : ScalarFields) (first : SName) (count : BitVec 6) (off : Nat) : FormedAfter (lrunAt x first count off s) := by
  refine runScalar_formed h fun core slot g s hs => ?_
  extract_lets t ks
  refine .ite (fun _ => .stall) (fun _ => .ite (fun _ => .trap) (fun _ => .ite (fun _ => .trap) (fun _ => ?_)))
  split
  · exact (checkBlockPage_awake _).error ‹_›
  · exact .scalar (hs.modGroup _)

theorem execLsync_formed : FormedAfter (execLsync s) :=
  runScalar_formed h fun _ _ _ _ hs => .ite (fun _ => .scalar (hs.modGroup _)) (fun _ => .stall)

theorem execSrd_formed (sd : SName) (number : BitVec 10) : FormedAfter (execSrd sd number s) := by
  refine runScalar_formed h fun core slot g s hs => ?_
  split
  · exact .scalar (hs.putS _ _)
  · exact .trap

theorem execSwr_formed (number : BitVec 10) (sa : SName) : FormedAfter (execSwr number sa s) :=
  runScalar_formed h fun _ _ _ _ _ => .trap

theorem execGrSp_formed (sa : SName) : FormedAfter (execGrSp sa s) :=
  runScalar_formed h fun _ _ _ _ hs => .ite (fun _ => .scalar (hs.modLane _)) (fun _ => .trap)

theorem execGrStklim_formed (sa : SName) : FormedAfter (execGrStklim sa s) :=
  runScalar_formed h fun _ _ _ _ hs => .ite (fun _ => .scalar (hs.modLane _)) (fun _ => .trap)

theorem swaitwAt_formed (x : ScalarFields) : FormedAfter (swaitwAt x s) := by
  refine runScalar_formed h fun core slot g s hs => ?_
  extract_lets va
  split
  · exact (checkOne_awake _ _ _ _).error ‹_›
  next t _ =>
    extract_lets w
    have hwait := waitRead_ensures (s := s) (x := t) (watch := g.sc.watch) (w := w) (hs.acquireRead (core := core) .package t 8 100)
    split
    · exact hwait.error ‹_›
    next hr =>
      have hread := hwait.result hr
      exact .ite (fun _ => .stop (hread.inheritScalar _)) (fun _ => .scalar ((hread.inheritScalar _).putS _ _))

theorem execSwaitwWake_formed (core slot : Nat) (timeout : Bool) : FormedAfter (execSwaitwWake core slot timeout s) := by
  unfold execSwaitwWake
  split
  · exact .next h
  · split
    · exact .next h
    · split
      · exact .next (h.modScalar _)
      · exact .next h

theorem execSexit_formed : FormedAfter (execSexit s) := by
  refine runScalar_formed h fun core slot g s hs => ?_
  extract_lets s1
  have hended : Formed s1 := hs.modGroup _
  split
  · exact .scalar (.ite (hended.exitLanes _) hended)
  · exact .scalar hended

end

end Sys2Proof.Proofs
end

section
/-!
SUPPORT. The lane stream's memory instructions (10_memory_ops R251 to R263, R281) keep the canonical form (log 2).
-/
namespace Sys2Proof.Proofs

open Sys2Proof Sys2Proof.Machine Sys2Proof.Safety Sys2Proof.Laws

namespace Formed

variable {s : State} {core slot ctx d : Nat}

theorem readAll (size tag : Nat) (level : Nat → Nat) (l : List (Nat × Xlat)) (h : Formed s) :
    Formed (readAll s core size tag level l).state := by
  induction l generalizing s with
  | nil => exact h
  | cons x l ih => exact ih (h.readX _ _ _ _)

theorem writeAll (level : Nat → Nat) (sigs : List Sig) (bytes : Nat → List Byte) (l : List (Nat × Xlat)) (h : Formed s) :
    Formed (writeAll s core level sigs bytes l) := by
  induction l generalizing s with
  | nil => exact h
  | cons x l ih => exact ih (h.writeX _ _ _ _)

theorem acquireDrop (h : Formed s) (scope : Scope) (sigs : List Sig) : Formed (acquireDrop s core scope sigs) :=
  h.accessed (.acquireDrop s core scope sigs)

theorem release (h : Formed s) (scope : Scope) (sigs : List Sig) : Formed (release s core scope sigs).2 :=
  h.accessed (.release s core scope sigs)

theorem acquireLane (h : Formed s) (scope : Scope) (sigs : List Sig) : Formed (acquireLane s core slot scope sigs) :=
  (h.acquireDrop _ _).modGroup _

theorem releaseLane (h : Formed s) (scope : Scope) (g : Group) : Formed (releaseLane s core slot scope g).2 :=
  (h.release _ _).modGroup _

theorem sendOp (h : Formed s) (pa : Nat) (ask : ApertureAsk) : Formed (sendOp s core pa ask) := h.of_same rfl rfl

theorem readLevel (h : Formed s) (level pa n : Nat) : Formed (readLevel s core level pa n).state :=
  h.accessed (.readLevel s core level pa n)

theorem writeLevel (h : Formed s) (level pa : Nat) (bs : List Byte) (sigs : List Sig) :
    Formed (writeLevel s core level pa bs sigs) := h.accessed (.writeLevel s core level pa bs sigs)

theorem atomOne (h : Formed s) (level : Nat) (x : Xlat) (n : BitVec 8) (op : AtomOp) (b c tag : Nat) (sigs : List Sig) :
    Formed (atomOne s core level x n op b c tag sigs).state := by
  unfold Machine.atomOne
  extract_lets size s1 r old
  have hwalked : Formed s1 := h.walkAcquire x
  have hread : Formed r.state := hwalked.readLevel _ _ _
  split
  · exact hwalked.sendOp _ _
  · split
    · exact hwalked
    · split
      · exact hread
      · exact hread.writeLevel _ _ _ _

theorem atomLanes (n : BitVec 8) (op : AtomOp) (b c : Nat → Nat) (sigs : List Sig) (l : List (Nat × Xlat)) (h : Formed s) :
    Formed (atomLanes s core n op b c sigs l).state := by
  induction l generalizing s with
  | nil => exact h
  | cons x l ih => exact ih (h.atomOne _ _ _ _ _ _ _ _)

theorem fenceAcquire (h : Formed s) (scope : Scope) : Formed (fenceAcquire s core slot scope) := by
  unfold Machine.fenceAcquire
  split
  · exact h
  · exact .ite h ((h.acquireLane _ _).modGroup _)

theorem fenceRelease (h : Formed s) (scope : Scope) (g : Group) : Formed (fenceRelease s core slot scope g) := by
  unfold Machine.fenceRelease
  exact (h.release _ _).modGroup _

theorem writeBackL1 (h : Formed s) (sec : Nat) : Formed (writeBackL1 s core sec) := h.accessed (.writeBackL1 s core sec)

theorem writeBackL2 (h : Formed s) (sec : Nat) : Formed (writeBackL2 s d sec) := h.accessed (.writeBackL2 s d sec)

theorem prefetchLine (h : Formed s) (level : Nat) (x : Xlat) : Formed (prefetchLine core level s x) :=
  .ite h (h.foldl (fun s sec hs => .ite (hs.accessed (.getL1 s core sec)) (.ite (hs.accessed (.getL2 s _ sec)) hs)) _)

theorem writeBackLine (h : Formed s) (scope : Scope) (x : Xlat) : Formed (writeBackLine core scope s x) := by
  refine h.foldl (fun s sec hs => ?_) _
  split
  · exact hs
  · exact hs.writeBackL1 _
  · exact (hs.writeBackL1 _).writeBackL2 _

theorem invalidateLine (h : Formed s) (scope : Scope) (x : Xlat) : Formed (invalidateLine core scope s x) := by
  unfold Machine.invalidateLine
  extract_lets s1 s2
  have hdropped : Formed s2 := (h.writeBackLine scope x).modCore fun _ => rfl
  exact .ite (hdropped.modStack _) hdropped

theorem completeKind (h : Formed s) (idx : Nat) (kinds : PendingKind → Bool) : Formed (completeKind s core slot idx kinds) := by
  unfold Machine.completeKind
  split
  · exact h
  · split
    · exact h.completeTag _
    · exact h

end Formed

theorem writeScratch_wf {m : Memory} (bytes : Nat → List Byte) (l : List (Nat × Nat)) (h : Memory.wf m = true) :
    Memory.wf (writeScratch m bytes l) = true := by
  induction l generalizing m with
  | nil => exact h
  | cons x l ih => exact ih (writeBytes_wf _ _ _ h)

section
variable {s : State} {e : Iss} {f : LaneForm}

theorem checkScratch_awake {k : Core} {slot : Nat} {g : Group} (off n : Nat) : Awake (checkScratch k slot g off n) := awake_ite .trap

theorem checkOffsets_awake (size : Nat) : Awake (checkOffsets s e f size) := by
  unfold checkOffsets
  extract_lets l
  split
  · exact .trap
  · split
    · exact .trap
    · exact .ok trivial

theorem checkApertureOp_awake (n : BitVec 8) (op : AtomOp) (xs : List (Nat × Xlat)) : Awake (checkApertureOp n op s e f xs) := by
  unfold checkApertureOp
  refine awake_ite ?_
  split
  · exact .trap
  · exact .pass

theorem performed_formed (h : Formed s) (kind : PendingKind) : DoneFormed (.ok (performed s e kind)) := by
  unfold performed
  split
  · exact .later h
  · exact .plain h

theorem atomics_ensures (h : Formed s) (op : AtomOp) (n : BitVec 8) : Ensures (fun r => Formed r.state) (atomics s e f op n) := by
  unfold atomics
  split
  · exact (checkLanes_awake _ _ _ _).error ‹_›
  · split
    · exact (checkApertureOp_awake _ _ _).error ‹_›
    · refine .ite (fun _ => .stall) (fun _ => ?_)
      extract_lets rel mask q
      have hrel : Formed rel.2 := by
        unfold rel
        split
        · exact h.releaseLane _ _
        · exact h
      have hmodified : Formed q.state := hrel.atomLanes _ _ _ _ _ _
      refine .ok ?_
      split
      · exact hmodified.acquireLane _ _
      · exact hmodified

end

section
variable {s : State} (h : Formed s)
include h

theorem execLd_formed (f : LaneForm) : FormedAfter (execLd f s) := by
  refine runLane_formed h fun e s hs => ?_
  extract_lets m
  split
  · exact (checkLanes_awake _ _ _ _).error ‹_›
  · exact .later ((hs.readAll _ _ _ _).noteLoads _)

theorem execLdAcq_formed (f : LaneForm) : FormedAfter (execLdAcq f s) := by
  refine runLane_formed h fun e s hs => ?_
  extract_lets m
  split
  · exact (checkLanes_awake _ _ _ _).error ‹_›
  · exact .later ((hs.readAll _ _ _ _).acquireLane _ _)

theorem execSt_formed (f : LaneForm) : FormedAfter (execSt f s) := by
  refine runLane_formed h fun e s hs => ?_
  extract_lets m
  split
  · exact (checkLanes_awake _ _ _ _).error ‹_›
  · exact performed_formed (hs.writeAll _ _ _ _) _

theorem execStRel_formed (f : LaneForm) : FormedAfter (execStRel f s) := by
  refine runLane_formed h fun e s hs => ?_
  extract_lets m
  split
  · exact (checkLanes_awake _ _ _ _).error ‹_›
  · exact .ite (fun _ => .stall) (fun _ => performed_formed ((hs.releaseLane _ _).writeAll _ _ _ _) _)

theorem execLds_formed (f : LaneForm) : FormedAfter (execLds f s) := by
  refine runLane_formed h fun e s hs => ?_
  extract_lets m
  split
  · exact (checkOffsets_awake _).error ‹_›
  · exact .later hs

theorem execSts_formed (f : LaneForm) : FormedAfter (execSts f s) := by
  refine runLane_formed h fun e s hs => ?_
  split
  · exact (checkOffsets_awake _).error ‹_›
  · exact performed_formed (hs.modCore_wf (writeScratch_wf _ _)) _

theorem execAtom_formed (op : AtomOp) (f : LaneForm) : FormedAfter (execAtom op f s) := by
  refine runLane_formed h fun e s hs => ?_
  have hatomics := atomics_ensures (e := e) (f := f) hs op f.src3
  split
  · exact hatomics.error ‹_›
  next hr => exact .later (hatomics.result hr)

theorem execAred_formed (op : AredOp) (f : LaneForm) : FormedAfter (execAred op f s) := by
  refine runLane_formed h fun e s hs => ?_
  have hatomics := atomics_ensures (e := e) (f := f) hs (aredAs op) f.src3
  split
  · exact hatomics.error ‹_›
  next hr => exact performed_formed (hatomics.result hr) _

theorem execFence_formed (f : LaneForm) : FormedAfter (execFence f s) := by
  refine runLane_formed h fun e s hs => ?_
  extract_lets scope kind s1 s2 s3
  have hreleased : Formed s1 := .ite hs (hs.fenceRelease _ _)
  have hacquired : Formed s2 := .ite hreleased (hreleased.fenceAcquire _)
  exact .ite (fun _ => .stall) (fun _ => .later (hacquired.modLane _))

theorem execWaitw_formed (f : LaneForm) : FormedAfter (execWaitw f s) := by
  refine runLane_formed h fun e s hs => ?_
  extract_lets l0 va
  refine .ite (fun _ => .trap) (fun _ => ?_)
  split
  · exact (checkOne_awake _ _ _ _).error ‹_›
  next x _ =>
    extract_lets w
    have hwait := waitRead_ensures (s := s) (x := x) (watch := e.g.ln.watch) (w := w) (hs.readX (core := e.core) 2 x 8 600)
    split
    · exact hwait.error ‹_›
    next hr =>
      have hread := hwait.result hr
      exact .ite (fun _ => .stop (hread.acquireLane _ _)) (fun _ => .regs (hread.acquireLane _ _))

theorem execWaitwWake_formed (core slot : Nat) (timeout : Bool) : FormedAfter (execWaitwWake core slot timeout s) := by
  unfold execWaitwWake
  split
  · exact .next h
  · split
    · split
      · exact .next (h.modLane _)
      · exact .next h
    · exact .next h

theorem execPref_formed (f : LaneForm) : FormedAfter (execPref f s) :=
  runLane_formed h fun _ _ hs => .plain (hs.foldl (fun _ _ ht => ht.prefetchLine _ _) _)

/-- An instruction that does something to each addressed line. -/
theorem lineOp_formed (i : Instr) (f : LaneForm) {op : Nat → Scope → State → Xlat → State}
    (hop : ∀ core scope s x, Formed s → Formed (op core scope s x)) : FormedAfter (lineOp i f op s) :=
  runLane_formed h fun _ _ hs => .ite (fun _ => .stall) (fun _ => performed_formed (hs.foldl (fun _ _ ht => hop _ _ _ _ ht) _) _)

theorem execCwb_formed (f : LaneForm) : FormedAfter (execCwb f s) := lineOp_formed h _ f fun _ scope _ x hs => hs.writeBackLine scope x

theorem execCinv_formed (f : LaneForm) : FormedAfter (execCinv f s) := lineOp_formed h _ f fun _ scope _ x hs => hs.invalidateLine scope x

theorem execMemoryAccessComplete_formed (core slot idx : Nat) : FormedAfter (execMemoryAccessComplete core slot idx s) :=
  .next (h.completeKind _ _)

theorem execReleaseComplete_formed (core slot idx : Nat) : FormedAfter (execReleaseComplete core slot idx s) :=
  .next ((h.completeKind _ _).modLane _)

end

end Sys2Proof.Proofs
end

section
/-!
SUPPORT. Launch (06_kernel R110 to R136) and barriers (11_barrier) keep the canonical form (log 2).
-/
namespace Sys2Proof.Proofs

open Sys2Proof Sys2Proof.Machine Sys2Proof.Safety Sys2Proof.Laws

namespace Formed

variable {s : State} {core slot ctx d : Nat}

/-- A change of every core that leaves its scratchpad, with changes elsewhere. -/
theorem remapped (h : Formed s) {t : State} (hcores : ∃ f : Nat → Core → Core, t.cores = mapEntries s.cores f ∧
    ∀ c k, (f c k).scratch = k.scratch) (hmem : t.mem = s.mem) : Formed t := by
  obtain ⟨f, ht, hf⟩ := hcores
  exact (h.mapCores hf).of_same hmem ht

theorem unitAcquire (h : Formed s) (x : Xlat) : Formed (unitAcquire s d x) := h.modStack _

theorem unitRead (h : Formed s) (x : Xlat) (n tag : Nat) : Formed (unitRead s d x n tag).state := by
  unfold Machine.unitRead
  extract_lets s1
  have hs : Formed s1 := h.unitAcquire x
  split
  · exact hs.sendOp _ _
  · split
    · exact hs
    · exact hs

theorem unitStore (h : Formed s) (x : Xlat) (bs : List Byte) (sigs : List Sig) : Formed (unitStore s d x bs sigs) := by
  unfold Machine.unitStore
  extract_lets s1
  have hs : Formed s1 := h.unitAcquire x
  exact .ite (hs.sendOp _ _) (.ite (hs.storeHome _ _ _) hs)

theorem addKernel (h : Formed s) (k : Kernel) : Formed (addKernel s k) := by
  unfold Machine.addKernel
  extract_lets s1
  have hs : Formed s1 := h.modCtx _
  exact hs.of_same rfl rfl

theorem modHostQueue (h : Formed s) (q : Nat) (f : HostQueue → HostQueue) : Formed (modHostQueue s q f) := h.of_same rfl rfl

theorem haltQueue (h : Formed s) (n status word tag : Nat) : Formed (haltQueue s n status word tag) := by
  unfold Machine.haltQueue
  split
  · exact h
  · exact (h.modHostQueue _ _).post _ _ _ _

theorem settleQueue (h : Formed s) (n : Nat) : Formed (settleQueue s n) := by
  unfold Machine.settleQueue
  split
  · exact h
  · split
    · exact h.modHostQueue _ _
    · exact .ite ((h.modHostQueue _ _).post _ _ _ _) h
    · exact .ite ((h.of_same (t := { s with queues := merase s.queues n }) rfl rfl).post _ _ _ _) h
    · exact h

theorem acceptRecord (h : Formed s) (n : Nat) (q : HostQueue) (bs : List Byte) : Formed (acceptRecord s n q bs) := by
  unfold Machine.acceptRecord
  extract_lets k bad k' key s1
  have hs : Formed s1 := ((h.addKernel _).modHostQueue _ _).settleQueue _
  exact .ite (hs.post _ _ _ _) hs

theorem modKernel (h : Formed s) (n : Nat) (f : Kernel → Kernel) : Formed (modKernel s n f) := h.of_same rfl rfl

theorem leaveWindow (h : Formed s) (n : Nat) (k : Kernel) : Formed (leaveWindow s n k) := by
  unfold Machine.leaveWindow
  split
  · exact h
  · exact (h.modHostQueue _ _).settleQueue _

theorem makeReady (h : Formed s) (n : Nat) : Formed (makeReady s n) := by
  unfold Machine.makeReady
  split
  · exact h
  · exact (h.modKernel _ _).leaveWindow _ _

theorem endKernels (fuel : Nat) (l : List Nat) (how : KernelState) (sigs : List Sig) (h : Formed s) :
    Formed (endKernels fuel l how sigs s) := by
  induction fuel generalizing s l with
  | zero => exact h
  | succ fuel ih =>
    cases l with
    | nil => exact h
    | cons n l =>
      unfold Machine.endKernels
      split
      · exact ih _ h
      · next k _ =>
        split
        · exact ih _ h
        · extract_lets s1 s2 s3 waits stops s4 free
          have hs1 : Formed s1 := h.modKernel _ _
          have hs2 : Formed s2 := by
            unfold s2
            split
            · exact hs1
            · exact hs1.modHostQueue _ _
          have hs4 : Formed s4 := (hs2.leaveWindow n k).of_same rfl rfl
          exact ih _ (hs4.foldl (fun _ n hs => hs.makeReady n) _)

theorem endKernel (h : Formed s) (n : Nat) (how : KernelState) (sigs : List Sig) : Formed (endKernel s n how sigs) := h.endKernels _ _ _ _

theorem settleLaunch (h : Formed s) (k : Kernel) : Formed (settleLaunch s k) := by
  unfold Machine.settleLaunch
  split
  · exact h
  · refine .ite h ?_
    split
    · exact h.completeTag _
    · exact h

theorem writeFlag (h : Formed s) (n : Nat) (k : Kernel) (x : Xlat) (sigs : List Sig) : Formed (writeFlag s n k x sigs) := by
  unfold Machine.writeFlag
  extract_lets s1
  have hs : Formed s1 := h.actFor fun _ hs => hs.unitStore _ _ _
  exact .ite (hs.modKernel _ _) (hs.endKernel _ _ _)

theorem flushAll (h : Formed s) : Formed (flushAll s).2 := by
  unfold Machine.flushAll
  generalize skerrySigs s = sigs
  induction s.cores generalizing s sigs with
  | nil => exact h
  | cons c l ih => exact ih (h.release _ _) _

theorem declareChildren (h : Formed s) (tag : Nat) (g : Group) (sigs : List Sig) (rs : List (Nat × (List Byte ⊕ Nat))) :
    Formed (declareChildren s core tag g sigs rs) := by
  refine h.foldl (fun s r hs => ?_) rs
  split
  · exact hs
  · exact hs.addKernel _

/-! ## Barriers -/

theorem modBarrier (h : Formed s) (g : Group) (f : LaneForm) (b : Barrier → Barrier) : Formed (modBarrier s core g f b) :=
  .ite (h.modCore fun _ => rfl) (h.of_same rfl rfl)

theorem setMember (h : Formed s) (e : Iss) (f : LaneForm) (m : Member → Member) : Formed (setMember s e f m) := h.modBarrier _ _ _

theorem publishFills (h : Formed s) (e : Iss) (f : LaneForm) (m : Member) : Formed (publishFills s e f m) := .ite (h.modCore fun _ => rfl) h

theorem learnFills (h : Formed s) (e : Iss) (f : LaneForm) (m : Member) : Formed (learnFills s e f m) := .ite (h.modCore fun _ => rfl) h

theorem acquireBarrier (h : Formed s) (e : Iss) (f : LaneForm) (b : Barrier) (m : Member) : Formed (acquireBarrier s e f b m) :=
  (h.learnFills _ _ _).acquireLane _ _

theorem barsWait (h : Formed s) (e : Iss) (f : LaneForm) : Formed (barsWait s e f).st := by
  unfold Machine.barsWait
  split
  · exact h
  · split
    · exact h
    · split
      · exact (h.setMember _ _ _).acquireBarrier _ _ _ _
      · dsimp only [Done.plain]
        exact (h.setMember _ _ _).modLane _

end Formed

section
variable {s : State} {e : Iss} (h : Formed s)
include h

/-- What a scheduler does once its address translates, or fails. -/
theorem unlessHeld_formed {a : AddrCheck} {ok : Xlat → Host.Outcome State Fault Refusal} {bad : Host.Outcome State Fault Refusal}
    (hok : ∀ x, FormedAfter (ok x)) (hbad : FormedAfter bad) : FormedAfter (unlessHeld s a ok bad) := by
  unfold unlessHeld
  split
  · exact hok _
  · exact .next h
  · exact hbad

theorem execQueueTailWrite_formed (n : Nat) : FormedAfter (execQueueTailWrite n s) := by
  unfold execQueueTailWrite
  split
  · exact .next h
  · split
    · refine unlessHeld_formed h (fun x => ?_) (.next (h.haltQueue _ _ _ _))
      extract_lets r t
      have hr : Formed r.state := h.unitRead x 8 64
      split
      · exact .next hr
      · split
        · exact .next (hr.haltQueue _ _ _ _)
        · exact .next (hr.modHostQueue _ _)
    · exact .next h

theorem readRecord_formed (n : Nat) (q : HostQueue) : FormedAfter (readRecord s n q) := by
  unfold readRecord
  extract_lets ring
  split
  · exact .next h
  · refine unlessHeld_formed h (fun x => unlessHeld_formed h (fun y => ?_) (.next (h.haltQueue _ _ _ _))) (.next (h.haltQueue _ _ _ _))
    exact .next (((h.unitRead x 256 65).unitStore y _ _).acceptRecord _ _ _)

theorem execRecordRead_formed (die : Nat) : FormedAfter (execRecordRead die s) := by
  unfold execRecordRead
  split
  · exact readRecord_formed h _ _
  · split
    · exact .next h
    · exact .next (h.modHostQueue _ _)

theorem execKernelDeclare_formed (n : Nat) : FormedAfter (execKernelDeclare n s) := by
  unfold execKernelDeclare
  split
  · exact .next h
  · split
    · exact .next ((Formed.ite (h.makeReady n) (h.modKernel n _)).settleLaunch _)
    · exact .next h

theorem execKernelComplete_formed (n : Nat) : FormedAfter (execKernelComplete n s) := by
  unfold execKernelComplete
  split
  · exact .next h
  · split
    · exact .next h
    · split
      next hflush =>
      have hflushed := hflush ▸ h.flushAll
      split
      · exact .next (hflushed.endKernel _ _ _)
      · split
        · exact .next hflushed
        · exact unlessHeld_formed hflushed (fun x => .next (hflushed.writeFlag _ _ _ _))
            (.next ((hflushed.post _ _ _ _).endKernel _ _ _))

theorem fetchRecord_ensures (core ctx va tag : Nat) : Ensures (fun r => Formed r.2) (fetchRecord s core ctx va tag) := by
  unfold fetchRecord
  split
  · extract_lets r
    have hr : Formed r.state := h.readParts _ _ _
    split
    · exact .withState hr
    · exact .withState hr
  · exact .stall
  · exact .withState h

omit h in
theorem fetchRecords_ensures (core ctx : Nat) (l : List (Nat × Nat)) (h : Formed s) :
    Ensures (fun r => Formed r.2) (fetchRecords s core ctx l) := by
  induction l generalizing s with
  | nil => exact .withState h
  | cons a l ih =>
    unfold fetchRecords
    split
    · exact (fetchRecord_ensures h _ _ _ _).error ‹_›
    · next hr =>
      have hs := (fetchRecord_ensures h _ _ _ _).result hr
      split
      · exact (ih hs).error ‹_›
      · next hrs => exact .withState ((ih hs).result hrs)

theorem execKlaunch_formed (f : LaneForm) : FormedAfter (execKlaunch f s) := by
  refine runLane_formed h fun e s hs => ?_
  extract_lets lanes r
  refine .ite (fun _ => .stall) (fun _ => .ite (fun _ => .stall) (fun _ => ?_))
  have hr : Formed r.2 := hs.releaseLane _ _
  split
  · exact (fetchRecords_ensures _ _ _ hr).error ‹_›
  · next hrs =>
    have hread := (fetchRecords_ensures _ _ _ hr).result hrs
    split
    · exact .trapSub
    · exact .later (hread.declareChildren _ _ _ _)

theorem execKwait_formed (f : LaneForm) : FormedAfter (execKwait f s) := by
  refine runLane_formed h fun e s hs => ?_
  extract_lets l v
  exact .ite (fun _ => .ok hs) (fun _ => .updated (hs.modLane _))

theorem execKwaitWake_formed (core slot : Nat) : FormedAfter (execKwaitWake core slot s) := by
  unfold execKwaitWake
  split
  · exact .next h
  · split
    · exact .next (h.modLane _)
    · exact .next h

/-! ## Barriers -/

omit h in
theorem checkBarrier_awake (i : Instr) (least : Nat) (f : LaneForm) : Awake (checkBarrier i least e f) :=
  .ite (fun _ => .trapSub) (fun _ => awake_ite_not .trap)

omit h in
theorem checkMember_awake (f : LaneForm) : Awake (checkMember s e f) := by
  unfold checkMember
  split
  · exact .trap
  · split
    · exact .trap
    · exact .ok trivial

theorem arrive_ensures (f : LaneForm) (m : Member) : Ensures Formed (arrive s e f m) := by
  unfold arrive
  refine .ite (fun _ => .ok (h.setMember _ _ _)) (fun _ => .ite (fun _ => .stall) (fun _ => ?_))
  exact .ok (((h.publishFills _ _ _).releaseLane _ _).modBarrier _ _ _)

theorem execBari_formed (f : LaneForm) : FormedAfter (execBari f s) := by
  refine runLane_formed h fun e s hs => ?_
  split
  · exact (checkBarrier_awake _ _ _).error ‹_›
  · extract_lets count id
    refine .ite (fun _ => .operand) (fun _ => ?_)
    split
    · exact .ite (fun _ => .plain hs) (fun _ => .ite (fun _ => .trap) (fun _ => .plain (hs.modBarrier _ _ _)))
    · exact .ite (fun _ => .stall) (fun _ => .plain (hs.of_same rfl rfl))

theorem execBarv_formed (f : LaneForm) : FormedAfter (execBarv f s) := by
  refine runLane_formed h fun e s hs => ?_
  split
  · exact (checkBarrier_awake _ _ _).error ‹_›
  · split
    · exact (checkMember_awake _).error ‹_›
    · split
      · exact (arrive_ensures hs _ _).error ‹_›
      · next ha => exact .updated ((arrive_ensures hs _ _).result ha)

theorem execBarw_formed (f : LaneForm) : FormedAfter (execBarw f s) := by
  refine runLane_formed h fun e s hs => ?_
  split
  · exact (checkBarrier_awake _ _ _).error ‹_›
  · split
    · exact (checkMember_awake _).error ‹_›
    · exact .ite (fun _ => .plain (hs.acquireBarrier _ _ _ _)) (fun _ => .stall)

theorem execBars_formed (f : LaneForm) : FormedAfter (execBars f s) := by
  refine runLane_formed h fun e s hs => ?_
  split
  · exact (checkBarrier_awake _ _ _).error ‹_›
  · split
    · exact (checkMember_awake _).error ‹_›
    · refine .ite (fun _ => .ite (fun _ => .ok (hs.barsWait _ _)) (fun _ => .stall)) (fun _ => ?_)
      split
      · exact (arrive_ensures hs _ _).error ‹_›
      · next ha => exact .ok (((arrive_ensures hs _ _).result ha).barsWait _ _)

theorem execBarrierPhaseComplete_formed (b : BarrierId) : FormedAfter (execBarrierPhaseComplete b s) := by
  refine .next (h.remapped ⟨_, by dsimp only, ?_⟩ rfl)
  intros
  rfl

theorem execBarrierRelease_formed (core slot : Nat) : FormedAfter (execBarrierRelease core slot s) := by
  unfold execBarrierRelease
  split
  · exact .next h
  · exact .next (Formed.modCore (h.of_same (by rfl) (by rfl)) fun _ => by rfl)

end

end Sys2Proof.Proofs
end

section
/-!
SUPPORT. The copy engine, notices and pulls, remote loads and the narrows (10_memory_ops R264 to R278) keep the canonical form (log 2).
-/
namespace Sys2Proof.Proofs

open Sys2Proof Sys2Proof.Machine Sys2Proof.Safety Sys2Proof.Laws

/-- A read of a command has not been made, or has left a formed package. -/
inductive FetchFormed : Fetch → Prop
  | wait : FetchFormed .wait
  | ask {t : State} (h : Formed t) : FetchFormed (.ask t)
  | have {t : State} (h : Formed t) : FetchFormed (.have t)

theorem FetchFormed.of_ask {t : State} : FetchFormed (.ask t) → Formed t
  | .ask h => h

theorem FetchFormed.of_have {t : State} : FetchFormed (.have t) → Formed t
  | .have h => h

theorem fetchOf_formed {s read : State} (h : Formed s) (hread : Formed read) (c : EngineCmd) (peer : Bool) :
    FetchFormed (fetchOf s c peer read) := by
  unfold fetchOf
  split
  · split
    · exact .have (hread.of_same rfl rfl)
    · exact .wait
  · split
    · exact .ask (h.of_same rfl rfl)
    · exact .have hread

section
variable {s : State} {core slot ctx : Nat} {g : Group} {k : Core}

theorem checkStruct_awake (off n : Nat) : Awake (checkStruct k slot g off n) := .ite (fun _ => .trap) (fun _ => checkScratch_awake _ _)

theorem checkCopyRanges_awake (op : EngineOp) : Awake (checkCopyRanges k slot g op) := by
  unfold checkCopyRanges
  split
  · exact (Ensures.ite (fun _ => checkScratch_awake _ _) (fun _ => .pass)).andThen
      (.ite (fun _ => checkScratch_awake _ _) (fun _ => .pass))
  · exact .pass

theorem placesOf_awake (space : Bool) (kind : AccessKind) (near : Bool) (va n : Nat) :
    Awake (placesOf s core ctx space kind near va n) := by
  refine .ite (fun _ => .ok trivial) (fun _ => ?_)
  split
  · exact (checkRange_awake _ _ _).error ‹_›
  · exact .ok trivial

theorem checkAllocation_awake (off n : Nat) : Awake (checkAllocation k g off n) := awake_ite .trap

theorem noticeFor_awake (off target : Nat) (word : DWord) : Awake (noticeFor s core slot g off target word) := by
  unfold noticeFor
  extract_lets k bs
  split
  · exact (checkStruct_awake _ _).error ‹_›
  · split
    · exact .operand
    · exact .ite (fun _ => .trap) (fun _ => .ite (fun _ => .trap) (fun _ => .ite (fun _ => .stall)
        (fun _ => .ite (fun _ => .stall) (fun _ => .ok trivial))))

theorem checkRld_awake (e : Iss) (va off : Nat) : Awake (checkRld s e va off) := by
  refine .ite (fun _ => .trap) (fun _ => .ite (fun _ => .trap) (fun _ => ?_))
  split
  · exact (checkOne_awake _ _ _ _).error ‹_›
  · split
    · exact (checkScratch_awake _ _).error ‹_›
    · exact .ok trivial

end

namespace Formed

variable {s : State} {core slot ctx d : Nat}

theorem modCommand (h : Formed s) (c : EngineCmd) (f : EngineCmd → EngineCmd) : Formed (modCommand s core c f) := h.modCore fun _ => rfl

theorem readPlaces (h : Formed s) (tag : Nat) (l : List (Place × Nat)) : Formed (readPlaces s core tag l).2.2 :=
  h.accessed (.readPlaces core tag l s)

/-- Bytes written to a core's scratchpad. -/
theorem writeScratch (h : Formed s) (off : Nat) (bs : List Byte) :
    Formed (Machine.modCore s core (fun k => { k with scratch := Memory.writeBytes k.scratch off bs })) :=
  h.writeRecord off bs

theorem writePlaces (level : Nat) (l : List (Place × Nat)) (bs : List Byte) (h : Formed s) : Formed (writePlaces s core level l bs) := by
  induction l generalizing s bs with
  | nil => exact h
  | cons x l ih =>
    obtain ⟨p, n⟩ := x
    cases p with
    | scratch off => exact ih _ (h.writeScratch _ _)
    | memory x => exact ih _ ((h.writeX _ _ _ _).modCore fun _ => rfl)

theorem dropLoad (h : Formed s) (c : EngineCmd) : Formed (dropLoad s c) := by
  unfold Machine.dropLoad
  split
  · exact h.of_same rfl rfl
  · exact h

theorem finishCommand (h : Formed s) (c : EngineCmd) : Formed (finishCommand s core c) := by
  unfold Machine.finishCommand
  extract_lets s1
  have hs : Formed s1 := h.modCore fun _ => rfl
  split
  · exact hs
  · exact hs.completeTag _

end Formed

theorem copyPayload_ensures {s : State} {core : Nat} (h : Formed s) (c : EngineCmd) :
    Ensures (fun r => Formed r.1) (copyPayload s core c) := by
  unfold copyPayload
  split
  · split
    · extract_lets r
      have hr : Formed r.2.2 := h.readPlaces _ _
      split
      · exact .stall
      · next hf => exact .ok (hf ▸ fetchOf_formed h hr c _).of_ask
      · next hf => exact .ok ((hf ▸ fetchOf_formed h hr c _).of_have.writePlaces _ _ _)
    · exact (placesOf_awake _ _ _ _ _).error ‹_›
    · exact (placesOf_awake _ _ _ _ _).error ‹_›
  · exact .ok h

theorem copyEnd_ensures {s : State} {core : Nat} (h : Formed s) (c : EngineCmd) (tag : Nat) (lines : List Nat) :
    Ensures Formed (copyEnd s core c tag lines) := by
  refine .ite (fun _ => .stall) (fun _ => ?_)
  split
  · exact engineStore8_ensures h _ _ _ _
  · exact .ok h

namespace Formed

variable {s : State} {core slot ctx d : Nat}

theorem endCopy (h : Formed s) (c : EngineCmd) (tag : Nat) (lines : List Nat) : Formed (endCopy s core c tag lines) := by
  unfold Machine.endCopy
  split
  · next hr => exact ((copyEnd_ensures h c tag lines).result hr).finishCommand c
  · exact h.modCommand _ _

theorem copyStep (h : Formed s) (c : EngineCmd) : Formed (copyStep s core c) := by
  unfold Machine.copyStep
  split
  · exact h.endCopy _ _ _
  · split
    · exact h
    · next hr => exact Formed.endCopy ((copyPayload_ensures h c).result hr) _ _ _
    · next hr => exact Formed.modCommand ((copyPayload_ensures h c).result hr) _ _

theorem fetchStep (h : Formed s) (c : EngineCmd) (va n : Nat) {take : List Byte → State → State}
    (htake : ∀ bs s, Formed s → Formed (take bs s)) : Formed (fetchStep s core c va n take) := by
  unfold Machine.fetchStep
  split
  · exact h
  · extract_lets r
    have hr : Formed r.2.2 := h.readPlaces _ _
    split
    · exact h
    · next hf => exact (hf ▸ fetchOf_formed h hr c _).of_ask.modCommand _ _
    · next hf => exact (htake _ _ (hf ▸ fetchOf_formed h hr c _).of_have).finishCommand _

theorem commandStep (h : Formed s) (c : EngineCmd) : Formed (commandStep s core c) := by
  unfold Machine.commandStep
  split
  · exact h.fetchStep _ _ _ fun _ _ hs => hs.of_same rfl rfl
  · exact h.copyStep _

theorem copyUnit (h : Formed s) (c : EngineCmd) (dest source : Nat) (dspace sspace : Bool) (level : Nat)
    (whole : List (Place × Nat)) (i : Nat) : Formed (copyUnit core c dest source dspace sspace level whole s i) := by
  refine .ite ?_ h
  split
  · exact (h.readPlaces _ _).writePlaces _ _ _
  · exact h

theorem copyPart (h : Formed s) (c : EngineCmd) : Formed (copyPart s core c) := by
  unfold Machine.copyPart
  split
  · exact .ite h (h.foldl (fun _ i hs => hs.copyUnit c _ _ _ _ _ _ i) _)
  · exact h

theorem reportAccess (h : Formed s) (c : EngineCmd) (va : Nat) : Formed (reportAccess s core c va) :=
  .ite (h.modGroup _) (h.accessGone _)

theorem acceptNotice (h : Formed s) (target : Nat) (n : Notice) : Formed (acceptNotice s target n) := h.modCore fun _ => rfl

theorem landPull (h : Formed s) (v : Receiver) (bs data : List Byte) : Formed (landPull s core v bs data) := h.writeScratch _ _

theorem takeNotice (h : Formed s) (rest : List Notice) (c : EngineCmd) : Formed (takeNotice s core rest c) := h.modCore fun _ => rfl

theorem remoteRead (h : Formed s) (x : Xlat) (n tag : Nat) : Formed (remoteRead s core x n tag).2 := by
  unfold Machine.remoteRead
  extract_lets s1
  have hs : Formed s1 := h.walkAcquire x
  split
  · exact hs.sendOp _ _
  · split
    · exact hs
    · exact hs

theorem unbindGroup (h : Formed s) : Formed (unbindGroup s core slot) := by
  unfold Machine.unbindGroup
  exact (h.modNarrows _).modQueue _ _

end Formed

theorem landLoad_wf {k : Core} (r : RemoteLoad) (h : Memory.wf k.scratch = true) : Memory.wf (landLoad r k).scratch = true :=
  writeBytes_wf _ _ _ h

theorem landOrphan_wf {k : Core} (r : GroupId × RemoteLoad) (h : Memory.wf k.scratch = true) :
    Memory.wf (landOrphan r k).scratch = true := by
  unfold landOrphan
  extract_lets k'
  split
  · exact landLoad_wf _ h
  · exact h

/-! ## Pulls (R271) -/

/-- What a pull has read, it has left a formed package. -/
theorem pullSource_formed {s t : State} {core : Nat} {n : Notice} {bs : List Byte} {lines : List Nat} {peer : Bool} (h : Formed s)
    (hr : pullSource s core n = .read bs lines peer t) : Formed t := by
  unfold pullSource at hr
  extract_lets src len land at hr
  split at hr
  · cases hr
  · split at hr
    · cases hr
    · split at hr
      · split at hr
        · cases hr
        · split at hr
          · cases hr
          · cases hr
            exact h
      · split at hr
        · cases hr
          exact h.readParts _ _ _
        · cases hr
        · cases hr

/-- The package in which a pull stands after what it has done. -/
def pullState : PullStep → State
  | .over s => s
  | .recorded s => s
  | .to _ s => s
  | .dropped s => s

section
variable {s : State} {core ctx : Nat} (h : Formed s)
include h

theorem pullStore_ensures (va : Nat) (v : DWord) (lines : List Nat) : Ensures Formed (pullStore s core ctx va v lines) := by
  unfold pullStore
  split
  · exact (checkOne_awake _ _ _ _).error ‹_›
  · exact .ite (fun _ => .stall) (fun _ => .ok ((h.release _ _).writeX _ _ _ _))

theorem pullWord_ensures (va : Nat) (v : DWord) (lines : List Nat) : Ensures Formed (pullWord s core ctx va v lines) := by
  unfold pullWord
  split
  · exact .ok (h.post _ _ _ _)
  · exact pullStore_ensures h _ _ _

/-- A word of a pull, and what it leaves. -/
theorem pullWord_map_ensures (va : Nat) (v : DWord) (lines : List Nat) {step : State → PullStep} (hstep : ∀ t, pullState (step t) = t) :
    Ensures (fun r => Formed (pullState r)) ((pullWord s core ctx va v lines).map step) := by
  cases hr : pullWord s core ctx va v lines with
  | error => exact (pullWord_ensures h va v lines).error ‹_›
  | ok t =>
    have ht := (pullWord_ensures h va v lines).result hr
    exact .ok (by rwa [hstep])

theorem arrivalCount_formed (c : EngineCmd) (va : Nat) : FetchFormed (arrivalCount s core c va).2 := by
  unfold arrivalCount
  split
  · exact fetchOf_formed h (h.readX _ _ _ _) _ _
  · exact .have h

theorem recordArrival_ensures (c : EngineCmd) (v : Receiver) (bs : List Byte) (sender : Nat) (lines : List Nat) :
    Ensures (fun r => Formed (pullState r)) (recordArrival s core c v bs sender lines) := by
  unfold recordArrival
  extract_lets r
  have hr : FetchFormed r.2 := arrivalCount_formed h c _
  split
  · exact .stall
  · next hf => exact .ok (hf ▸ hr).of_ask
  · next hf => exact pullWord_map_ensures ((hf ▸ hr).of_have.writeScratch _ _) _ _ _ fun _ => rfl

theorem landAsked_ensures (tag : Nat) (c : EngineCmd) (v : Receiver) (bs : List Byte) (sender : Nat) :
    Ensures (fun r => Formed (pullState r)) (landAsked s core tag c v bs sender) := by
  refine .ite (fun _ => .stall) (fun _ => ?_)
  split
  · exact .stall
  · exact .ok h
  · next hr => exact .ok (((pullSource_formed h hr).of_same (by rfl) (by rfl)).landPull _ _ _)

theorem pullNext_ensures (c : EngineCmd) : Ensures (fun r => Formed (pullState r)) (pullNext s core c) := by
  unfold pullNext
  split
  · extract_lets ack value last
    have hlast (v : DWord) (lines : List Nat) : Ensures (fun r => Formed (pullState r)) (last v lines) :=
      .ite (fun _ => .ok h) (fun _ => pullWord_map_ensures h _ _ _ fun _ => rfl)
    split
    · refine .ite (fun _ => hlast _ _) (fun _ => .ite (fun _ => ?_) (fun _ => hlast _ _))
      split
      · exact landAsked_ensures h _ _ _ _ _
      · exact recordArrival_ensures h _ _ _ _ _
    · exact hlast _ _
  · exact .ok h

omit h in
theorem pullAfter_formed (c : EngineCmd) : ∀ {r : PullStep}, Formed (pullState r) → Formed (pullAfter core c r)
  | .over s, h => h.modCore (f := fun k => dropCommand k c) fun _ => rfl
  | .recorded s, h => by
    unfold pullAfter
    dsimp only
    have hs : Formed s := h
    split
    · exact .ite (hs.modCore fun _ => rfl) (hs.modCommand _ _)
    · exact hs
  | .to _ s, h => h.modCommand (s := s) _ _
  | .dropped s, h => h.modCommand (s := s) _ _

end

/-! ## The instructions and what the engine does -/

section
variable {s : State} {e : Iss} (h : Formed s)
include h

theorem enqueueEngine_ensures (op : EngineOp) : Ensures Formed (enqueueEngine s e op) := .ite (fun _ => .stall) (fun _ => .ok (h.modCore fun _ => rfl))

theorem copyInstr_formed (i : Instr) (completes : Bool) : FormedAfter (copyInstr i completes s) := by
  refine runLane_formed h fun e s hs => ?_
  extract_lets off k w
  split
  · exact (checkStruct_awake _ _).error ‹_›
  · split
    · exact .operand
    · split
      · exact (checkCopyRanges_awake _).error ‹_›
      · split
        · exact (enqueueEngine_ensures hs _).error ‹_›
        · next hr => exact performed_formed ((enqueueEngine_ensures hs _).result hr) _

theorem execCopyComplete_formed (core : Nat) : FormedAfter (execCopyComplete core s) := by
  unfold execCopyComplete
  split
  · exact .next h
  · exact .next (h.actFor fun _ hs => hs.commandStep _)

theorem execEngineAccessFault_formed (core : Nat) : FormedAfter (execEngineAccessFault core s) := by
  unfold execEngineAccessFault
  extract_lets bad
  split
  · exact .next h
  · next c _ =>
    split
    · exact .next h
    · extract_lets s1 s2
      have hs1 : Formed s1 := (h.actFor fun _ hs => hs.copyPart c).dropLoad c
      have hs2 : Formed s2 := hs1.modCore fun _ => rfl
      exact .next ((hs2.completeTag _).reportAccess _ _)

theorem execKick_formed (f : LaneForm) : FormedAfter (execKick f s) := by
  refine runLane_formed h fun e s hs => ?_
  extract_lets target
  split
  · exact (noticeFor_awake _ _ _).error ‹_›
  · exact performed_formed ((hs.releaseLane _ _).acceptNotice _ _) _

theorem execSkick_formed (sa sb : SName) : FormedAfter (execSkick sa sb s) := by
  refine runScalar_formed h fun core slot g s hs => ?_
  extract_lets target
  split
  · exact (noticeFor_awake _ _ _).error ‹_›
  · exact .scalar (((hs.release _ _).modGroup _).acceptNotice _ _)

theorem execNoticeAccepted_formed (core slot : Nat) : FormedAfter (execNoticeAccepted core slot s) := .next (h.completeKind _ _)

theorem configureReceiver_ensures (core : Nat) (g : Group) (w : List Nat) : Ensures Formed (configureReceiver s core g w) := by
  unfold configureReceiver
  extract_lets k x
  refine .ite (fun _ => .trap) (fun _ => .ite (fun _ => .ite (fun _ => .ok (h.modCore fun _ => rfl)) (fun _ => .stall)) (fun _ => ?_))
  split
  · exact ((checkAllocation_awake _ _).andThen (checkAllocation_awake _ _)).error ‹_›
  · exact .ok (h.modCore fun _ => rfl)

theorem execKcfg_formed (f : LaneForm) : FormedAfter (execKcfg f s) := by
  refine runLane_formed h fun e s hs => ?_
  extract_lets off k w
  split
  · exact (checkStruct_awake _ _).error ‹_›
  · split
    · exact .operand
    · split
      · exact (configureReceiver_ensures hs _ _ _).error ‹_›
      · next hr => exact .plain ((configureReceiver_ensures hs _ _ _).result hr)

theorem execPullStart_formed (core : Nat) : FormedAfter (execPullStart core s) := by
  unfold execPullStart
  extract_lets k
  split
  · exact .next h
  · split
    · exact .next h
    · refine .next (h.actFor fun s hs => ?_)
      split
      · exact hs
      · exact Formed.takeNotice (hs.of_same (by rfl) (by rfl)) _ _
      · next hr _ => exact (Formed.landPull (pullSource_formed hs hr) _ _ _).takeNotice _ _
      · exact hs.takeNotice _ _

theorem execPullLanded_formed (core : Nat) : FormedAfter (execPullLanded core s) := by
  unfold execPullLanded
  split
  · exact .next h
  · refine .next (h.actFor fun s hs => ?_)
    split
    · next hr => exact pullAfter_formed _ ((pullNext_ensures hs _).result hr)
    · exact hs

theorem execEnginePageFault_formed (core : Nat) : FormedAfter (execEnginePageFault core s) := by
  unfold execEnginePageFault
  extract_lets k cmds
  split
  · exact .next h
  · split
    · exact .next h
    · split
      · exact .next h
      · next hw => exact .next (Formed.modCommand (h.pageFault hw) _ _)

theorem execRld_formed (f : LaneForm) : FormedAfter (execRld f s) := by
  refine runLane_formed h fun e s hs => ?_
  extract_lets off
  split
  · exact (checkRld_awake _ _ _).error ‹_›
  · exact .ite (fun _ => .stall) (fun _ => performed_formed ((hs.remoteRead _ _ _).modGroup _) _)

theorem execRldResponse_formed (core slot idx : Nat) : FormedAfter (execRldResponse core slot idx s) := by
  unfold execRldResponse
  extract_lets own
  split
  · next r _ =>
    split
    · exact .next (((h.modCore_wf (landLoad_wf r)).modGroup _).completeTag _)
    · exact .next h
  · split
    · next r _ =>
      split
      · exact .next (h.modCore_wf (landOrphan_wf r))
      · exact .next h
    · exact .next h

/-! ## The narrows -/

theorem execVfput_formed (f : LaneForm) : FormedAfter (execVfput f s) := by
  refine runLane_formed h fun e s hs => ?_
  extract_lets w there
  split
  · exact .trap
  · exact .trap
  · exact .ite (fun _ => .trap) (fun _ => .ite (fun _ => .stall) (fun _ => .plain (hs.modNarrows _)))

theorem execVfcfg_formed (f : LaneForm) : FormedAfter (execVfcfg f s) := by
  refine runLane_formed h fun e s hs => ?_
  exact .ite (fun _ => .plain hs.unbindGroup) (fun _ => .ite (fun _ => .trap)
    (fun _ => .plain ((hs.modNarrows _).modQueue _ _)))

theorem execNarrowsDeliver_formed (core : Nat) : FormedAfter (execNarrowsDeliver core s) := by
  unfold execNarrowsDeliver
  extract_lets w
  split
  · exact .next h
  · split
    · exact .next h
    · extract_lets n
      split
      · exact .next h
      · exact .next ((h.modQueue _ _).modNarrows _)

end

end Sys2Proof.Proofs
end

section
/-!
SUPPORT. The matrix array (12_matrix) and the placing, pre-empting and restoring of cohorts (06_kernel R131 to R133, 07_group R165)
keep the canonical form (log 2).
-/
namespace Sys2Proof.Proofs

open Sys2Proof Sys2Proof.Machine Sys2Proof.Safety Sys2Proof.Laws

/-! ## Scratchpads of cohorts -/

theorem filter_sortedFrom (p : Host.Cell → Bool) (m : Memory) (lo : Nat) (h : Memory.sortedFrom lo m = true) :
    Memory.sortedFrom lo (m.filter p) = true := by
  induction m generalizing lo with
  | nil => rfl
  | cons e m ih =>
    obtain ⟨hle, hv, hm⟩ := (sortedFrom_cons lo e.1 e.2 m).1 h
    have hm := ih _ hm
    rw [List.filter_cons]
    split
    · exact (sortedFrom_cons _ _ _ _).2 ⟨hle, hv, hm⟩
    · exact sortedFrom_le _ _ _ hm (by omega)

theorem pasteMemory_wf {m : Memory} (lo n : Nat) (x : Memory) (h : Memory.wf m = true) : Memory.wf (pasteMemory m lo n x) = true :=
  foldl_write_wf _ (fun c : Host.Cell => c.1 + lo) (fun c => c.2) _ (filter_sortedFrom _ _ _ h)

/-- What folds over a core and leaves its scratchpad. -/
theorem foldl_scratch {α : Type} {f : Core → α → Core} (l : List α) (k : Core)
    (hf : ∀ k x, (f k x).scratch = k.scratch) : (l.foldl f k).scratch = k.scratch := by
  induction l generalizing k with
  | nil => rfl
  | cons x l ih => exact (ih _).trans (hf _ _)

theorem removeCohort_scratch (k : Core) (c : Cohort) : (removeCohort k c).scratch = k.scratch :=
  by
  unfold removeCohort
  exact foldl_scratch _ _ fun _ _ => rfl

namespace Formed

variable {s : State} {core slot ctx d : Nat}

/-- A core put in the place of one with the same scratchpad. -/
theorem keepCore (h : Formed s) {k : Core} (hk : k.scratch = (coreOf s core).scratch) : Formed (Machine.setCore s core k) :=
  h.setCore (hk ▸ h.scratch core)

/-! ## The matrix array -/

theorem spaceStarts (h : Formed s) : Formed (spaceStarts s core) := by
  unfold Machine.spaceStarts
  refine h.mapCores fun c k => ?_
  split
  · rfl
  · rfl

theorem raiseMatrix (h : Formed s) (f : BitVec 6) : Formed (raiseMatrix s core slot f) := h.modLane _

theorem applyArray (h : Formed s) (x : ArrayEntry) : Formed (applyArray s core x) := by
  unfold Machine.applyArray
  split
  · exact (h.modCore fun _ => by rfl).completeTag _
  · exact (h.raiseMatrix _).completeValues _ _
  · exact (h.modCore fun _ => by rfl).completeTag _
  · exact h.modCore fun _ => rfl
  · exact h
  · exact h

theorem fillStep (h : Formed s) (c : EngineCmd) : Formed (fillStep s core c) := by
  unfold Machine.fillStep
  split
  · refine h.fetchStep _ _ _ fun _ _ hs => hs.modCore fun k => ?_
    unfold landFill
    split
    · rfl
    · rfl
  · exact h

/-! ## Placement -/

theorem leaveNarrows (h : Formed s) (gs : List (Nat × Group)) : Formed (leaveNarrows s core gs) :=
  h.foldl (fun _ _ hs => (hs.releaseSlots _ _).modNarrows _) gs

theorem preemptCohort (h : Formed s) (c : Cohort) : Formed (preemptCohort s core c) := by
  unfold Machine.preemptCohort
  extract_lets gs r s1 v s2 s3 s4
  have hs2 : Formed s2 := (h.release _ _).leaveNarrows _
  have hs3 : Formed s3 := (hs2.modCore fun k => removeCohort_scratch k c).loseSender _
  have hs4 : Formed s4 := Formed.modKernel (hs3.of_same (by rfl) (by rfl)) _ _
  exact hs4.settleSuspend

theorem startAcquire (h : Formed s) (sigs : List Sig) : Formed (startAcquire s core sigs) :=
  .ite (h.acquireDrop _ _) ((h.acquireDrop _ _).modCore fun _ => rfl)

theorem placeCohort (h : Formed s) (key : Nat) (k : Kernel) : Formed (placeCohort s core key k) := by
  unfold Machine.placeCohort
  extract_lets number s1 c base co put c1
  have hs1 : Formed s1 := h.startAcquire _
  have hc1 : c1.scratch = c.scratch := foldl_scratch _ _ fun _ _ => rfl
  exact (hs1.setCore (hc1 ▸ hs1.scratch core)).modKernel _ _

theorem restoreCohort (h : Formed s) (id : Nat) (v : SavedCohort) : Formed (restoreCohort s core id v) := by
  unfold Machine.restoreCohort
  extract_lets sigs s1 s2 k src barrier c put k1 rows k2 stored s3
  have hs2 : Formed s2 := ((h.startAcquire _).modCore fun _ => by rfl).modStack _
  have hk1 : k1.scratch = k.scratch := foldl_scratch _ _ fun _ _ => rfl
  have hk2 : Memory.wf k2.scratch = true := pasteMemory_wf _ _ _ (hk1 ▸ hs2.scratch core)
  have hs3 : Formed s3 := (hs2.setCore (core := core) hk2).of_same rfl rfl
  exact hs3.modKernel _ _

theorem putCohort (h : Formed s) (n : Nat) (k : Kernel) (v : Option (Nat × SavedCohort)) : Formed (putCohort s n core k v) := by
  unfold Machine.putCohort
  split
  · exact h.restoreCohort _ _
  · exact h.placeCohort _ _

theorem expressPreempt (h : Formed s) (n : Nat) (k : Kernel) (v : Option (Nat × SavedCohort)) : Formed (expressPreempt s n k v) := by
  unfold Machine.expressPreempt
  split
  · exact h
  · exact h.foldl (fun _ c hs => .ite (hs.preemptCohort c) hs) _

theorem placeFirst (h : Formed s) (l : List (Nat × Kernel)) : Formed (placeFirst s l) := by
  induction l with
  | nil => exact h
  | cons x l ih =>
    unfold Machine.placeFirst
    extract_lets v
    split
    · exact h.putCohort _ _ _
    · exact .ite (h.expressPreempt _ _ _) ih

theorem noteFirst (h : Formed s) : Formed (noteFirst s) := h.of_same rfl rfl

end Formed

section
variable {s : State} {e : Iss} (h : Formed s)
include h

/-! ## The matrix array -/

theorem enqueueArray_ensures (core : Nat) (l : List ArrayEntry) : Ensures Formed (enqueueArray s core l) :=
  .ite (fun _ => .stall) (fun _ => .ok (h.modCore fun _ => rfl))

theorem arrayInstr_formed (op : ArrayOp) : DoneFormed (arrayInstr s e op) := by
  unfold arrayInstr
  split
  · exact (enqueueArray_ensures h _ _).error ‹_›
  · next hr => exact performed_formed ((enqueueArray_ensures h _ _).result hr) _

theorem execMma_formed (f : LaneForm) : FormedAfter (execMma f s) := by
  refine runLane_formed h fun e s hs => ?_
  extract_lets v
  split
  · exact .plain hs
  · exact .ite (fun _ => .trap) (fun _ => .ite (fun _ => .operand) (fun _ => .ite (fun _ => .stall) (fun _ => .later (hs.modCore fun _ => by rfl))))

theorem execMmz_formed (f : LaneForm) : FormedAfter (execMmz f s) := by
  refine runLane_formed h fun e s hs => ?_
  split
  · exact .plain hs
  · exact arrayInstr_formed hs _

theorem execMmrd_formed (f : LaneForm) : FormedAfter (execMmrd f s) := by
  refine runLane_formed h fun e s hs => ?_
  split
  · exact .plain hs
  · extract_lets cells
    split
    · exact (enqueueArray_ensures hs _ _).error ‹_›
    · next hr => exact .later ((enqueueArray_ensures hs _ _).result hr)

theorem execMmwr_formed (f : LaneForm) : FormedAfter (execMmwr f s) := by
  refine runLane_formed h fun e s hs => ?_
  split
  · exact .plain hs
  · exact arrayInstr_formed hs _

theorem execBfill_formed (f : LaneForm) : FormedAfter (execBfill f s) := by
  refine runLane_formed h fun e s hs => ?_
  extract_lets va w
  split
  · exact .plain hs
  · extract_lets b n
    refine .ite (fun _ => .operand) (fun _ => .ite (fun _ => .trap) (fun _ => .ite (fun _ => .trap) (fun _ => ?_)))
    split
    · exact (enqueueArray_ensures hs _ _).error ‹_›
    · next hr =>
      have hqueued := (enqueueArray_ensures hs _ _).result hr
      split
      · exact (enqueueEngine_ensures hqueued _).error ‹_›
      · next hr => exact performed_formed ((enqueueEngine_ensures hqueued _).result hr) _

theorem execMsync_formed (f : LaneForm) : FormedAfter (execMsync f s) := by
  refine runLane_formed h fun e s hs => ?_
  extract_lets k
  refine .ite (fun _ => .stall) (fun _ => ?_)
  split
  · exact (enqueueArray_ensures hs _ _).error ‹_›
  · next hr => exact .regs ((((enqueueArray_ensures hs _ _).result hr).modCore fun _ => by rfl).modLane _)

theorem execSetfmt_formed (f : LaneForm) : FormedAfter (execSetfmt f s) := by
  refine runLane_formed h fun e s hs => ?_
  extract_lets mask new
  exact .ite (fun _ => .operand) (fun _ => .regs (hs.modLane _))

theorem execPhint_formed (f : LaneForm) : FormedAfter (execPhint f s) := by
  refine runLane_formed h fun e s hs => ?_
  extract_lets length hint
  exact .ite (fun _ => .operand) (fun _ => .plain (hs.modLane _))

theorem execMmaPass_formed (core : Nat) : FormedAfter (execMmaPass core s) := by
  unfold execMmaPass
  extract_lets k
  split
  · split
    · exact .next h
    · extract_lets begun t
      have ht : Formed t := h.keepCore rfl
      exact .next (.ite ht ht.spaceStarts)
  · exact .next h

theorem execAccumulatorWrite_formed (core : Nat) : FormedAfter (execAccumulatorWrite core s) := by
  unfold execAccumulatorWrite
  split
  · exact .next h
  · extract_lets s1 s2
    have hs1 : Formed s1 := h.modCore fun _ => rfl
    have hs2 : Formed s2 := hs1.foldl (fun _ _ hs => hs.raiseMatrix _) _
    exact .next (hs2.foldl (fun _ _ hs => hs.completeTag _) _)

theorem execArrayEntry_formed (core : Nat) : FormedAfter (execArrayEntry core s) := by
  unfold execArrayEntry
  extract_lets k
  split
  · exact .next h
  · split
    · exact .next h
    · split
      · exact .next h
      · exact .next ((h.keepCore (by rfl)).applyArray _)

theorem execBfillComplete_formed (core : Nat) : FormedAfter (execBfillComplete core s) := by
  unfold execBfillComplete
  split
  · exact .next h
  · exact .next (h.actFor fun _ hs => hs.fillStep _)

/-! ## Placement -/

theorem execCohortPreempt_formed (core first : Nat) : FormedAfter (execCohortPreempt core first s) := by
  unfold execCohortPreempt
  split
  · exact .next h
  · split
    · exact .next (h.preemptCohort _)
    · exact .next h

theorem execPlacementStep_formed (die : Nat) : FormedAfter (execPlacementStep die s) := .next (h.placeFirst _)

theorem execPlacementAging_formed (n : Nat) : FormedAfter (execPlacementAging n s) := by
  unfold execPlacementAging
  split
  · exact .next h
  · split
    · exact .next ((Formed.ite (h.modKernel n _) h).modKernel _ _)
    · exact .next h

theorem execCohortRestore_formed (saved core : Nat) : FormedAfter (execCohortRestore saved core s) := by
  unfold execCohortRestore
  split
  · exact .next h
  · split
    · exact .next h
    · split
      · exact .next (h.restoreCohort _ _)
      · exact .next h

theorem execGroupFormed_formed (core slot : Nat) : FormedAfter (execGroupFormed core slot s) := by
  unfold execGroupFormed
  split
  · exact .next h
  · split
    · exact .next h
    · split
      · exact .next (h.setGroup _)
      · exact .next (h.setGroup _)

end

end Sys2Proof.Proofs
end

section
/-!
SUPPORT. The lane stream's integer and cross-lane instructions (08_lane_ops), pages and invalidation (14_page) and links (16_link) keep
the canonical form (log 2).
-/
namespace Sys2Proof.Proofs

open Sys2Proof Sys2Proof.Machine Sys2Proof.Safety Sys2Proof.Laws

namespace Formed

variable {s : State} {core slot ctx d : Nat}

/-! ## Pages -/

theorem invalidateRange (h : Formed s) (scope : Nat) (r : VRange) : Formed (invalidateRange s core scope r) := by
  refine h.remapped ⟨_, by dsimp only [Machine.invalidateRange], fun c k => ?_⟩ rfl
  split
  · rfl
  · rfl

theorem freshWalks (h : Formed s) (page : Nat) : Formed (freshWalks s ctx page) := by
  refine h.remapped ⟨_, by dsimp only [Machine.freshWalks], fun c k => ?_⟩ rfl
  rfl

theorem flushScope (h : Formed s) (scope : Nat) : Formed (flushScope s core scope) := by
  unfold Machine.flushScope
  split
  · exact h
  · extract_lets s1
    have hs1 : Formed s1 := h.foldl (fun _ c hs => hs.foldl (fun _ sec hs => hs.writeBackL1 (core := c) sec) _) _
    split
    · exact hs1.foldl (fun _ d hs => hs.foldl (fun _ sec hs => hs.writeBackL2 (d := d) sec) _) _
    · exact hs1

theorem settleInvals (h : Formed s) : Formed (settleInvals s) := by
  unfold Machine.settleInvals
  extract_lets due fw t
  have ht : Formed t := h.of_same rfl rfl
  exact ht.foldl (fun _ v hs => hs.post _ _ _ _) _

theorem dropFrame (h : Formed s) (frame : Nat) : Formed (dropFrame s frame) := by
  refine h.remapped ⟨_, by dsimp only [Machine.dropFrame], fun c k => ?_⟩ rfl
  rfl

theorem stopSkerries (h : Formed s) (pa : Nat) : Formed (stopSkerries s ctx pa) := h.of_same rfl rfl

theorem raiseUncorrectable (h : Formed s) (pa : Nat) (reader : Reader) : Formed (raiseUncorrectable s d pa reader) := by
  unfold Machine.raiseUncorrectable
  split
  · exact h
  · exact Formed.stopSkerries (.ite (h.faultNoRecord _) h) _
  · exact h.raiseTrap _ _ _

/-! ## Links -/

theorem modLink (h : Formed s) (id : Nat) (f : Link → Link) : Formed (modLink s id f) := h.of_same rfl rfl

theorem setLink (h : Formed s) (id : Nat) (st : LinkState) : Formed (setLink s id st) := by
  unfold Machine.setLink
  split
  · exact h
  · extract_lets s1 l s2
    have hs2 : Formed s2 := (h.modLink _ _).post _ _ _ _
    split
    · exact hs2
    · exact hs2
    · exact hs2.modLink _ _

theorem startTraining (h : Formed s) (id : Nat) : Formed (startTraining s id) := (h.modLink _ _).setLink _ _

theorem trainAtStart (h : Formed s) (id : Nat) : Formed (trainAtStart s id) := (h.modLink _ _).startTraining _

theorem sendBootFails (h : Formed s) : Formed (sendBootFails s) := .ite h (h.of_same rfl rfl)

theorem linkTrained (h : Formed s) (id : Nat) (full : Bool) : Formed (linkTrained s id full) := by
  unfold Machine.linkTrained
  extract_lets s1
  have hs1 : Formed s1 := ((h.modLink _ _).setLink _ _).sendBootFails
  exact .ite ((hs1.modLink _ _).setLink _ _) hs1

theorem linkFatal (h : Formed s) (id : Nat) : Formed (linkFatal s id) := by
  unfold Machine.linkFatal
  extract_lets live s1 fw s2
  have hs1 : Formed s1 := h.foldl (fun _ c hs => hs.becomeFaulted _ _ _) _
  have hs2 : Formed s2 := hs1.of_same rfl rfl
  exact .ite (hs2.post _ _ _ _) hs2

/-! ## RMA operations -/

theorem reply (h : Formed s) (r : Reply) : Formed (reply s r) := h.of_same rfl rfl

theorem rmaError (h : Formed s) (va port : Nat) : Formed (rmaError s ctx va port) := (h.post _ _ _ _).reply _

theorem rmaStore (sigs : List Sig) (pick : Nat → Bool) (i : Nat) (l : List (Nat × Nat × AddrCheck)) (bs : List Byte) (h : Formed s) :
    Formed (rmaStore d sigs pick i l bs s) := by
  induction l generalizing s i bs with
  | nil => exact h
  | cons c l ih =>
    refine ih _ _ ?_
    split
    · exact .ite (h.unitStore _ _ _) h
    · exact h

theorem noteRma (h : Formed s) (sigs : List Sig) : Formed (noteRma s ctx sigs) := h.modCtx _

theorem rmaLoad (l : List (Xlat × Nat)) (h : Formed s) : Formed (rmaLoad d l s).2 := by
  induction l generalizing s with
  | nil => exact h
  | cons x l ih => exact ih (h.unitRead x.1 x.2 761)

theorem rmaWrite (h : Formed s) (o : RmaOp) (bs : List Byte) : Formed (rmaWrite s o bs) := by
  unfold Machine.rmaWrite
  extract_lets l sigs
  split
  · exact ((h.noteRma _).rmaStore _ _ _ _ _).rmaError _ _
  · exact ((h.noteRma _).rmaStore _ _ _ _ _).reply _

theorem rmaRead (h : Formed s) (o : RmaOp) (n : Nat) : Formed (rmaRead s o n) := by
  unfold Machine.rmaRead
  extract_lets l r
  split
  · exact h.rmaError _ _
  · exact (h.rmaLoad _).reply _

theorem rmaAtomic (h : Formed s) (o : RmaOp) (cas : Bool) (operand compare : DWord) : Formed (rmaAtomic s o cas operand compare) := by
  unfold Machine.rmaAtomic
  split
  · extract_lets r old sigs s1
    have hs1 : Formed s1 := (h.unitRead _ _ _).noteRma _
    exact (Formed.ite hs1 (hs1.unitStore _ _ _)).reply _
  · exact h.reply _
  · exact h.rmaError _ _

theorem performRma (h : Formed s) (o : RmaOp) : Formed (performRma s o) := by
  refine .ite (h.reply _) ?_
  split
  · exact h.rmaWrite _ _
  · exact h.rmaRead _ _
  · exact h.rmaAtomic _ _ _ _

theorem arriveRma (h : Formed s) (o : RmaOp) : Formed (arriveRma s o) := .ite (h.of_same rfl rfl) (h.performRma _)

theorem nextRma (h : Formed s) {t : State} (ht : nextRma s = some t) : Formed t := by
  unfold Machine.nextRma at ht
  obtain ⟨r, -, rfl⟩ := Option.map_eq_some_iff.1 ht
  exact Formed.performRma (h.of_same (by rfl) (by rfl)) _

theorem rmaWriteMailbox (h : Formed s) (off : Nat) (bs : List Byte) : Formed (rmaWriteMailbox s off bs) := by
  refine .ite ?_ h
  exact Formed.reply (Formed.settleRing (h.of_same (by rfl) (by rfl))) _

end Formed

section
variable {s : State} {e : Iss}

theorem invalidRange_awake (ctx base length : Nat) : Awake (invalidRange ctx base length) :=
  .ite (fun _ => .ok trivial) (fun _ => .ite (fun _ => .trap) (fun _ => .ite (fun _ => .trap) (fun _ => .ok trivial)))

theorem queryOf_awake (core ctx va : Nat) : Awake (queryOf s core ctx va) := by
  refine .ite (fun _ => .ok trivial) (fun _ => ?_)
  split
  · exact .ok trivial
  · exact .stall
  · exact .ok trivial

theorem queriesOf_awake (core ctx : Nat) (l : List (Nat × Nat)) : Awake (queriesOf s core ctx l) := by
  induction l with
  | nil => exact .ok trivial
  | cons a l ih =>
    unfold queriesOf
    split
    · exact .ok trivial
    · exact (queryOf_awake _ _ _).error ‹_›
    · exact ih.error ‹_›

variable (h : Formed s)
include h

/-! ## Integer and cross-lane instructions -/

theorem alu1_formed (i : Instr) (a lat : Nat) (op : Lane → Nat → Nat) : FormedAfter (alu1 i a lat op s) :=
  runLane_formed h fun _ _ hs => .regs hs

theorem alu2_formed (i : Instr) (a b lat : Nat) (op : Lane → Nat → Nat → Nat) : FormedAfter (alu2 i a b lat op s) :=
  runLane_formed h fun _ _ hs => .regs hs

theorem alu3_formed (i : Instr) (lat : Nat) (op : Nat → Nat → Nat → Nat) : FormedAfter (alu3 i lat op s) :=
  runLane_formed h fun _ _ hs => .regs hs

theorem aluPair_formed (i : Instr) (op : Nat → Nat → Nat) : FormedAfter (aluPair i op s) := runLane_formed h fun _ _ hs => .regs hs

theorem execSel_formed (f : LaneForm) : FormedAfter (execSel f s) := runLane_formed h fun _ _ hs => .regs hs

theorem execIcmp_formed (c : ICond) (f : LaneForm) : FormedAfter (execIcmp c f s) := runLane_formed h fun _ _ hs => .pred hs

theorem execShfl_formed (k : ShflKind) (f : LaneForm) : FormedAfter (execShfl k f s) := runLane_formed h fun _ _ hs => .regs hs

theorem execSwp_formed (f : LaneForm) : FormedAfter (execSwp f s) := runLane_formed h fun _ _ hs => .regs hs

theorem execVoteAny_formed (f : LaneForm) : FormedAfter (execVoteAny f s) := runLane_formed h fun _ _ hs => .pred hs

theorem execVoteAll_formed (f : LaneForm) : FormedAfter (execVoteAll f s) := runLane_formed h fun _ _ hs => .pred hs

theorem execVoteBal_formed (f : LaneForm) : FormedAfter (execVoteBal f s) := runLane_formed h fun _ _ hs => .regs hs

theorem execRed_formed (op : RedOp) (f : LaneForm) : FormedAfter (execRed op f s) := runLane_formed h fun _ _ hs => .regs hs

theorem execScan_formed (op : RedOp) (f : LaneForm) : FormedAfter (execScan op f s) := runLane_formed h fun _ _ hs => .regs hs

/-! ## Pages and caches -/

theorem execTableWalk_formed (core ctx va : Nat) : FormedAfter (execTableWalk core ctx va s) := by
  unfold execTableWalk
  extract_lets d
  split
  · exact .next h
  · split
    · exact .next (h.acquireDrop _ _)
    · exact .next h
    · exact .next (((h.acquireDrop _ _).modCore fun _ => by rfl).modStack _)

theorem execXinv_formed (f : LaneForm) : FormedAfter (execXinv f s) := by
  refine runLane_formed h fun e s hs => ?_
  split
  · exact (invalidRange_awake _ _ _).error ‹_›
  · exact .ite (fun _ => .stall) (fun _ => performed_formed ((hs.flushScope _).invalidateRange _ _) _)

theorem execInvalidationComplete_formed (core slot idx : Nat) : FormedAfter (execInvalidationComplete core slot idx s) := by
  unfold execInvalidationComplete
  extract_lets s1
  have hs1 : Formed s1 := h.settleInvals
  split
  · exact .next hs1
  · split
    · exact .next (hs1.completeTag _)
    · exact .next hs1

theorem execPgq_formed (f : LaneForm) : FormedAfter (execPgq f s) := by
  refine runLane_formed h fun e s hs => ?_
  split
  · exact (queriesOf_awake _ _ _).error ‹_›
  · exact .later (hs.acquireDrop _ _)

theorem execUncorrectableError_formed (pa : Nat) (reader : Reader) : FormedAfter (execUncorrectableError pa reader s) := by
  unfold execUncorrectableError
  extract_lets d l adds s1 ctx
  have hs1 : Formed s1 := .ite ((h.modDie _).dropFrame _) h
  split
  · exact .next h
  · exact .next ((hs1.raiseUncorrectable _ _).post _ _ _ _)

theorem execCopyExpiry_formed (core line : Nat) : FormedAfter (execCopyExpiry core line s) := .next ((h.modCore fun _ => by rfl).modStack _)

theorem execSignatureExpiry_formed (line : Nat) : FormedAfter (execSignatureExpiry line s) := .next (h.of_same rfl rfl)

theorem execCacheEviction_formed (core line : Nat) (l2 : Bool) : FormedAfter (execCacheEviction core line l2 s) := by
  unfold execCacheEviction
  split
  · exact .next (h.foldl (fun _ i hs => .ite (hs.accessed (.evictL2 _ _ _)) (hs.accessed (.evictL1 _ _ _))) _)
  · exact .next h

/-! ## Links -/

theorem execLinkTrained_formed (id : Nat) (full : Bool) : FormedAfter (execLinkTrained id full s) := by
  unfold execLinkTrained
  split
  · exact .next (h.linkTrained _ _)
  · exact .next h

theorem execLinkTrainingFailed_formed (id : Nat) : FormedAfter (execLinkTrainingFailed id s) := by
  unfold execLinkTrainingFailed
  split
  · split
    · exact .next (h.modLink _ _)
    · exact .next (.ite ((h.setLink _ _).linkFatal _) (h.setLink _ _))
  · exact .next h

theorem execFlitReplay_formed (id : Nat) : FormedAfter (execFlitReplay id s) := by
  unfold execFlitReplay
  split
  · exact .next (h.modLink _ _)
  · exact .next h

theorem execLinkErrorsOverLimit_formed (id : Nat) : FormedAfter (execLinkErrorsOverLimit id s) := by
  unfold execLinkErrorsOverLimit
  split
  · exact .next ((h.modLink _ _).startTraining _)
  · exact .next h

theorem execLinkDrained_formed (id : Nat) : FormedAfter (execLinkDrained id s) := by
  unfold execLinkDrained
  split
  · exact .next (h.setLink _ _)
  · exact .next h

theorem execUnsupportedDelivery_formed (port : Nat) : FormedAfter (execUnsupportedDelivery port s) := by
  unfold execUnsupportedDelivery
  split
  · exact .next (h.of_same rfl rfl)
  · exact .next h

/-! ## RMA operations -/

theorem atPort_formed (port n : Nat) {body : State → State} (hbody : ∀ s, Formed s → Formed (body s)) :
    FormedAfter (atPort s port n body) := by
  unfold atPort
  split
  · exact .next h
  · split
    · exact .next (h.reply _)
    · exact .next (hbody _ h)

theorem execRmaWrite_formed (ep : RmaTarget) (port addr : Nat) (bytes : List Byte) : FormedAfter (execRmaWrite ep port addr bytes s) := by
  refine atPort_formed h _ _ fun s hs => ?_
  split
  · exact hs.rmaWriteMailbox _ _
  · exact hs.arriveRma _

theorem execRmaRead_formed (ep : RmaTarget) (port addr len : Nat) : FormedAfter (execRmaRead ep port addr len s) := by
  refine atPort_formed h _ _ fun s hs => ?_
  split
  · exact .ite (hs.reply _) hs
  · exact hs.arriveRma _

theorem execRmaAtomic_formed (ctx port addr : Nat) (cas : Bool) (operand compare : DWord) :
    FormedAfter (execRmaAtomic ctx port addr cas operand compare s) := atPort_formed h _ _ fun _ hs => hs.arriveRma _

end

end Sys2Proof.Proofs
end

section
/-!
SUPPORT. The cell plane (13_plane), issue opportunities and operand grants (07_group R140 to R144, R169) and power (18_power) keep the
canonical form (log 2).
-/
namespace Sys2Proof.Proofs

open Sys2Proof Sys2Proof.Machine Sys2Proof.Safety Sys2Proof.Laws

/-! ## Cores after an ac -/

theorem freeCollected_scratch (k : Core) (c : Collector) : (freeCollected k c).scratch = k.scratch := by
  unfold freeCollected
  split
  · rfl
  · dsimp only

theorem coreGranted_scratch (k : Core) : (coreGranted k).scratch = k.scratch := by
  unfold coreGranted
  extract_lets l collected
  clear_value l
  exact foldl_scratch (l.filter (fun c => c.reads.isEmpty)) k freeCollected_scratch

namespace Formed

variable {s : State} {core slot ctx d : Nat}

/-! ## The plane -/

theorem planeTrap (h : Formed s) (p : Plane) (x : PlaneEntry) : Formed (planeTrap s core p x) := by
  unfold Machine.planeTrap
  split
  · exact h
  · extract_lets raising s1
    have hs1 : Formed s1 := h.writeScratch _ _
    split
    · exact h
    · split
      · exact hs1
      · exact Formed.raiseTrap (.ite (hs1.modCore fun _ => by rfl) hs1) _ _ _

theorem startCover (h : Formed s) (p : Plane) (x : PlaneEntry) (n : Nat) : Formed (startCover s core p x n) := by
  unfold Machine.startCover
  split
  · exact h
  · split
    · exact .ite ((h.modQueue _ _).completeValues _ _) h
    · exact h

theorem planeDeliver (h : Formed s) (p : Plane) (x : PlaneEntry) : Formed (planeDeliver s core p x) := by
  unfold Machine.planeDeliver
  split
  · exact h.completeValues _ _
  · exact h.completeValues _ _
  · exact h.startCover _ _ _
  · exact h

theorem applyPlane (h : Formed s) (x : PlaneEntry) (p : Plane) : Formed (applyPlane s core x p) := by
  unfold Machine.applyPlane
  extract_lets s1
  have hs1 : Formed s1 := h.modCore fun _ => rfl
  exact (hs1.planeDeliver _ _).planeTrap _ _

/-! ## Opportunities -/

theorem tick (h : Formed s) : Formed (tick s) := h.noteFirst.noteRails.of_same rfl rfl

theorem noteStalls (h : Formed s) (trial : Trial) : Formed (noteStalls trial s core) := h.modCore fun _ => rfl

theorem noteScalarStalls (h : Formed s) (trial : Trial) : Formed (noteScalarStalls trial s core) := h.modCore fun _ => rfl

theorem giveLane (h : Formed s) (l issued : List (Nat × Group)) : Formed (giveLane s core l issued) := by
  unfold Machine.giveLane
  split
  · exact h.of_same rfl rfl
  · extract_lets issued t
    have ht : Formed t := h.modCore fun _ => rfl
    exact ht.of_same rfl rfl

theorem giveScalar (h : Formed s) : Formed (giveScalar s core) := by
  unfold Machine.giveScalar
  extract_lets l t
  have ht : Formed t := h.modCore fun _ => rfl
  split
  · exact h.of_same rfl rfl
  · exact ht.of_same rfl rfl

theorem countPassed (h : Formed s) (f : Group → Group) : Formed (countPassed s core f) := by
  unfold Machine.countPassed
  extract_lets s1
  have hs1 : Formed s1 := h.modCore fun _ => rfl
  exact hs1.of_same rfl rfl

theorem nextTurn (h : Formed s) : Formed (nextTurn core s) := by
  unfold Machine.nextTurn
  split
  · exact h.of_same rfl rfl
  · exact h.of_same rfl rfl

theorem afterTurn (h : Formed s) (t : Turn) : Formed (afterTurn t s) := by
  unfold Machine.afterTurn
  split
  · exact Formed.nextTurn (.ite (h.modLane _) (((h.modLane _).modGroup _).countPassed _))
  · exact Formed.nextTurn (.ite h ((h.modGroup _).countPassed _))
  · exact h

theorem afterBefore (h : Formed s) : Formed (afterBefore core slot s) := .ite (h.modLane _).nextTurn h

theorem coreAc (h : Formed s) : Formed (coreAc s core) := by
  refine h.modCore fun k => ?_
  extract_lets k'
  have hk : k'.scratch = k.scratch := by
    unfold k'
    split
    · rfl
    · exact coreGranted_scratch k
  exact hk

theorem preemptAlone (h : Formed s) (g : Group) : Formed (preemptAlone s core slot g) := by
  unfold Machine.preemptAlone
  exact (h.leaveNarrows _).modCore fun _ => rfl

/-! ## Power -/

theorem modQuad (h : Formed s) (q : Nat) (f : Quad → Quad) : Formed (modQuad s q f) := h.of_same rfl rfl

theorem offerAc (h : Formed s) (cancelled shunted : Bool) : Formed (offerAc s core cancelled shunted) := by
  unfold Machine.offerAc
  exact h.modCore fun _ => rfl

theorem offerHolm (h : Formed s) (holm : Nat) (cancelled : List Nat) (shunted : Bool) : Formed (offerHolm s holm cancelled shunted) := by
  unfold Machine.offerHolm
  extract_lets t
  have ht : Formed t := h.foldl (fun _ c hs => hs.offerAc _ _) _
  exact .ite (ht.of_same rfl rfl) ht

theorem chargeShunt (h : Formed s) (energy : BitVec 64) (l : List Nat) : Formed (chargeShunt s energy l) :=
  h.foldl (fun _ _ hs => hs.modCtx _) l

end Formed

section
variable {s : State} {e : Iss}

theorem checkHeld_awake : Awake (checkHeld s e) := awake_ite .trap

variable (h : Formed s)
include h

/-! ## The plane -/

theorem enterPlane_ensures (op : PlaneOp) : Ensures Formed (enterPlane s e op) := by
  unfold enterPlane
  extract_lets k x
  exact .ite (fun _ => .ite (fun _ => .stall) (fun _ => .ok (h.keepCore rfl))) (fun _ => .ite (fun _ => .stall) (fun _ => .ok (h.keepCore rfl)))

theorem planeInstr_formed (i : Instr) {op : State → Iss → Res PlaneOp} (hop : ∀ s e, Awake (op s e)) : FormedAfter (planeInstr i op s) := by
  refine runLane_formed h fun e s hs => ?_
  split
  · exact checkHeld_awake.error ‹_›
  · split
    · exact (hop s e).error ‹_›
    · split
      · exact (enterPlane_ensures hs _).error ‹_›
      · next hr => exact .plain ((enterPlane_ensures hs _).result hr)

theorem execPlacq_formed (f : LaneForm) : FormedAfter (execPlacq f s) := by
  refine runLane_formed h fun e s hs => ?_
  extract_lets off k p
  refine .ite (fun _ => .trap) (fun _ => .ite (fun _ => .pred (hs.modCore fun _ => by rfl)) (fun _ => .ite (fun _ => .pred hs) (fun _ => ?_)))
  split
  · exact (enterPlane_ensures hs _).error ‹_›
  · next hr => exact .pred (Formed.modCore ((enterPlane_ensures hs _).result hr) fun _ => by rfl)

theorem execPlrel_formed (f : LaneForm) : FormedAfter (execPlrel f s) := by
  refine runLane_formed h fun e s hs => ?_
  split
  · exact checkHeld_awake.error ‹_›
  · exact .plain (hs.modCore fun _ => rfl)

theorem execPlorg_formed (f : LaneForm) : FormedAfter (execPlorg f s) :=
  planeInstr_formed h _ fun _ _ => .ite (fun _ => .operand) (fun _ => .ite (fun _ => .operand) (fun _ => .ok trivial))

/-- A plane instruction whose entry needs no check. -/
theorem planeInstr_ok_formed (i : Instr) (op : State → Iss → PlaneOp) : FormedAfter (planeInstr i (fun s e => .ok (op s e)) s) :=
  planeInstr_formed h _ fun _ _ => .ok trivial

theorem execPlen_formed (f : LaneForm) : FormedAfter (execPlen f s) :=
  planeInstr_formed h _ fun _ _ => .ite (fun _ => .trapSub) (fun _ => .ok trivial)

theorem execPlels_formed (f : LaneForm) : FormedAfter (execPlels f s) :=
  planeInstr_formed h _ fun _ _ => .ite (fun _ => .trapSub) (fun _ => .ok trivial)

theorem execPlpop_formed (f : LaneForm) : FormedAfter (execPlpop f s) :=
  planeInstr_formed h _ fun _ _ => .ite (fun _ => .trapSub) (fun _ => .ok trivial)

theorem planeResult_formed (dst : BitVec 8) (op : PlaneOp) : DoneFormed (planeResult s e dst op) := by
  unfold planeResult
  split
  · exact (enterPlane_ensures h _).error ‹_›
  · next hr => exact .later ((enterPlane_ensures h _).result hr)

theorem execPlflag_formed (f : LaneForm) : FormedAfter (execPlflag f s) := by
  refine runLane_formed h fun e s hs => ?_
  split
  · exact checkHeld_awake.error ‹_›
  · exact planeResult_formed hs _ _

theorem execPlrd_formed (f : LaneForm) : FormedAfter (execPlrd f s) := by
  refine runLane_formed h fun e s hs => ?_
  split
  · exact checkHeld_awake.error ‹_›
  · exact planeResult_formed hs _ _

theorem execPlcov_formed (f : LaneForm) : FormedAfter (execPlcov f s) := by
  refine runLane_formed h fun e s hs => ?_
  extract_lets n pc q c s1
  split
  · exact checkHeld_awake.error ‹_›
  · exact .ite (fun _ => .operand) (fun _ => .ite (fun _ => .stall) (fun _ => planeResult_formed (hs.modQueue _ _) _ _))

theorem execPlaneEntry_formed (core : Nat) : FormedAfter (execPlaneEntry core s) := by
  unfold execPlaneEntry
  split
  · split
    · exact .next h
    · exact .next (h.applyPlane _ _)
  · exact .next h

theorem execAcquisitionClear_formed (core : Nat) : FormedAfter (execAcquisitionClear core s) := by
  unfold execAcquisitionClear
  split
  · split
    · exact .next (h.applyPlane _ _)
    · exact .next h
  · exact .next h

theorem execPlcovPush_formed (core slot q : Nat) : FormedAfter (execPlcovPush core slot q s) := by
  unfold execPlcovPush
  split
  · exact .next h
  · extract_lets x
    split
    · split
      · split
        · exact .next h
        · exact .next (h.modQueue _ _)
      · exact .next h
    · exact .next h

/-! ## Opportunities -/

theorem execLaneIssueOpportunity_formed (core : Nat) : FormedAfter (execLaneIssueOpportunity core s) :=
  .next (.ite h (h.giveLane _ _))

theorem execOperandGrant_formed (core : Nat) : FormedAfter (execOperandGrant core s) :=
  .next (.ite h (h.keepCore (coreGranted_scratch _)))

theorem execAllocationReserve_formed (core : Nat) : FormedAfter (execAllocationReserve core s) := by
  unfold execAllocationReserve
  extract_lets k l
  have hk : Formed (setCore s core k) := h.keepCore rfl
  split
  · split
    · exact .next hk
    · split
      · exact .next (h.keepCore rfl)
      · split
        · exact .next hk
        · exact .next (hk.preemptAlone _)
  · exact .next hk

/-! ## Power -/

theorem execHolmBalance_formed (holm : Nat) (moving : BitVec 8) (energy : BitVec 64) :
    FormedAfter (execHolmBalance holm moving energy s) := by
  unfold execHolmBalance
  split
  · exact .next h
  · split
    · exact .next (h.offerHolm _ _ _)
    · split
      next b shunt _ =>
      extract_lets heavier t1 t2
      have ht1 : Formed t1 := h.offerHolm _ _ _
      have ht2 : Formed t2 := .ite (ht1.chargeShunt _ _) ht1
      split
      · exact .next ht2
      · exact .next (ht2.modQuad _ _)

theorem execUndeclaredBurst_formed (core : Nat) : FormedAfter (execUndeclaredBurst core s) := by
  unfold execUndeclaredBurst
  split
  · exact .next h
  · split
    · exact .next h
    · extract_lets s1
      have hs1 : Formed s1 := h.modQuad _ _
      split
      · exact .next hs1
      · exact .next (hs1.modCtx _)

theorem execPassDemandExpiry_formed (quad : Nat) (which : PassDemand) : FormedAfter (execPassDemandExpiry quad which s) := by
  unfold execPassDemandExpiry
  split
  · exact .next h
  · split
    · exact .next (h.modQuad _ _)
    · exact .next (h.modQuad _ _)
    · exact .next (.ite h (h.modQuad _ _))

theorem execHintOnset_formed (core slot : Nat) : FormedAfter (execHintOnset core slot s) := .next (h.modLane _)

theorem execHintEnd_formed (core slot : Nat) : FormedAfter (execHintEnd core slot s) := .next (h.modLane _)

theorem execRailStep_formed (rail : Nat) (upper : Bool) : FormedAfter (execRailStep rail upper s) := by
  unfold execRailStep
  split
  · exact .next h
  · exact .next (h.modRail _ _ _)

theorem execRailHoldExpiry_formed (rail : Nat) (upper : Bool) : FormedAfter (execRailHoldExpiry rail upper s) := by
  unfold execRailHoldExpiry
  split
  · exact .next h
  · exact .next (h.modRail _ _ _)

theorem execBankTempCompare_formed (core : Nat) (t0 t1 : BitVec 8) : FormedAfter (execBankTempCompare core t0 t1 s) := by
  unfold execBankTempCompare
  split
  · exact .next h
  · exact .next (h.modCore fun _ => rfl)

theorem execEnergyUpdate_formed (ctx : Nat) (nj : BitVec 64) : FormedAfter (execEnergyUpdate ctx nj s) := .next (h.modCtx _)

theorem execThermalLevelChange_formed (stack : Nat) (temp : BitVec 8) : FormedAfter (execThermalLevelChange stack temp s) := by
  unfold execThermalLevelChange
  split
  · exact .next h
  · extract_lets b level s1
    have hs1 : Formed s1 := h.of_same rfl rfl
    exact .next (.ite hs1 (hs1.post _ _ _ _))

theorem execStackThermalDemand_formed (stack : Nat) (temp : BitVec 8) : FormedAfter (execStackThermalDemand stack temp s) := by
  unfold execStackThermalDemand
  split
  · exact .next h
  · extract_lets was hot s1
    have hs1 : Formed s1 := h.modStack _
    split
    · exact .next hs1
    · exact .next (hs1.foldl (fun _ i hs => hs.modQuad _ _) _)

theorem execQuadGateClose_formed (quad : Nat) : FormedAfter (execQuadGateClose quad s) := by
  unfold execQuadGateClose
  split
  · extract_lets s1 s2
    have hs1 : Formed s1 := h.foldl (fun _ id hs => hs.setLink _ _) _
    have hs2 : Formed s2 := hs1.post _ _ _ _
    exact .next (hs2.modQuad _ _)
  · exact .next h

theorem execQuadWakeDone_formed (quad : Nat) : FormedAfter (execQuadWakeDone quad s) := by
  unfold execQuadWakeDone
  split
  · extract_lets s1 s2
    have hs1 : Formed s1 := h.foldl (fun _ id hs => .ite (hs.linkTrained _ _) hs) _
    have hs2 : Formed s2 := hs1.post _ _ _ _
    exact .next (hs2.modQuad _ _)
  · exact .next h

end

end Sys2Proof.Proofs
end

section
/-!
SUPPORT. Skerries (15_skerries) keep the canonical form (log 2).
-/
namespace Sys2Proof.Proofs

open Sys2Proof Sys2Proof.Machine Sys2Proof.Safety Sys2Proof.Laws

/-! ## Writes of a running command -/

theorem skWrite_formed {a : State × SkRun} (h : Formed a.1) (pa : Nat) (b : Byte) : Formed (skWrite a pa b).1 := by
  unfold skWrite
  split
  · exact h
  · exact Formed.accessed (h.setMem (write_wf _ pa b h.mem)) (.stampWords _ _ _)

/-- What folds over a package and a running command and keeps the package formed. -/
theorem foldl_run_formed {α : Type} {f : State × SkRun → α → State × SkRun} (hf : ∀ a x, Formed a.1 → Formed (f a x).1) (l : List α)
    {a : State × SkRun} (h : Formed a.1) : Formed (l.foldl f a).1 := by
  induction l generalizing a with
  | nil => exact h
  | cons x l ih => exact ih (hf _ _ h)

theorem skWriteBytes_formed {a : State × SkRun} (h : Formed a.1) (pa : Nat) (bs : List Byte) : Formed (skWriteBytes a pa bs).1 :=
  foldl_run_formed (fun _ _ h => skWrite_formed h _ _) _ h

namespace Formed

variable {s : State} {core slot ctx d : Nat}

theorem modSkerry (h : Formed s) (c : Nat) (f : Skerry → Skerry) : Formed (modSkerry s c f) := h.of_same rfl rfl

theorem applyBank (h : Formed s) (c id : Nat) (x : SkWord) (fcol wcol bank : Nat) : Formed (applyBank s c id x fcol wcol bank) := by
  unfold Machine.applyBank
  extract_lets k
  split
  · exact h
  · next r _ =>
    extract_lets b a new r'
    have ha : Formed a.1 := foldl_run_formed (fun _ _ h => skWriteBytes_formed h _ _) _ h
    exact ha.modSkerry _ _

theorem skFault (h : Formed s) (chan id va : Nat) (kind : AccessKind) : Formed (skFault s chan id va kind) := by
  unfold Machine.skFault
  split
  · exact h
  · split
    · exact h
    · next hw => exact Formed.modSkerry (h.pageFault hw) _ _

theorem returnStatus (h : Formed s) (tag code : Nat) : Formed (returnStatus s core slot tag code) := h.completeValues _ _

theorem settleFifo (c fuel : Nat) (h : Formed s) : Formed (settleFifo c fuel s) := by
  induction fuel generalizing s with
  | zero => exact h
  | succ fuel ih =>
    unfold Machine.settleFifo
    extract_lets k
    split
    · exact h
    · split
      · split
        · exact ih ((h.modSkerry _ _).returnStatus _ _)
        · exact ih ((h.modSkerry _ _).returnStatus _ _)
      · exact ih ((h.modSkerry _ _).returnStatus _ _)
      · exact ih (h.modSkerry _ _)
      · exact h

theorem settleChannel (h : Formed s) (c : Nat) : Formed (settleChannel s c) := h.settleFifo _ _

theorem enterFifo (h : Formed s) (c : Nat) (op : SkOp) : Formed (enterFifo s c op) := h.modSkerry _ _

theorem dropRequest (h : Formed s) (c : Nat) (q : SkRequest) : Formed (dropRequest s c q) := h.modSkerry _ _

theorem acceptCommand (h : Formed s) (c : Nat) (q : SkRequest) (x : SkCmd) : Formed (acceptCommand s c q x) := by
  unfold Machine.acceptCommand
  extract_lets drop here s1
  have hdrop : Formed (drop s) := h.dropRequest _ _
  split
  · exact .ite h (returnStatus (.ite (hdrop.enterFifo _ _) hdrop) _ _)
  · exact .ite (hdrop.returnStatus _ _) (.ite h (((hdrop.enterFifo _ _).enterFifo _ _).returnStatus _ _))

theorem stopRun (h : Formed s) (chan code : Nat) : Formed (stopRun s chan code) := h.modSkerry _ _

theorem wordOnBanks (h : Formed s) (chan id : Nat) (w : DWord) (x : SkWord) (cps : Nat × Nat × Nat) :
    Formed (wordOnBanks s chan id w x cps) :=
  h.foldl (fun _ bank hs => .ite (hs.modSkerry _ _) (hs.applyBank chan id x _ _ bank)) _

theorem skipWords (h : Formed s) (chan bank id : Nat) : Formed (skipWords s chan bank id) := h.modSkerry _ _

theorem noteWrite (h : Formed s) (line place : Nat) : Formed (noteWrite s line place) := h.of_same rfl rfl

theorem skStore (h : Formed s) (chan : Nat) (inL2 : Bool) (pa : Nat) (v : DWord) (sigs : List Sig) :
    Formed (skStore s chan inL2 pa v sigs) := by
  unfold Machine.skStore
  extract_lets d x
  split
  · exact h.sendOp _ _
  · exact .ite h (.ite ((h.accessed (.putL2 _ _ _ _ _)).noteWrite _ _) (h.storeHome _ _ _))

theorem leaveFifos (h : Formed s) (chan : Nat) (c : SkCmd) (sigs : List Sig) : Formed (leaveFifos s chan c sigs) := by
  unfold Machine.leaveFifos
  extract_lets s1
  have hs1 : Formed s1 := h.modSkerry _ _
  split
  · exact hs1
  · exact hs1.modSkerry _ _

theorem writeWords (h : Formed s) (chan : Nat) (c : SkCmd) (status : DWord) (sigs : List Sig) :
    Formed (writeWords s chan c status sigs) := by
  refine h.actFor fun s hs => ?_
  extract_lets s1
  have hs1 : Formed s1 := by
    unfold s1
    split
    · exact hs.skStore _ _ _ _ _
    · exact hs
  split
  · exact hs1.skStore _ _ _ _ _
  · exact hs1

end Formed

section
variable {s : State} {e : Iss} {core ctx : Nat}

/-! ## Checks -/

theorem permitOne_awake (va : Nat) (kind : AccessKind) : Awake (permitOne s core ctx va kind) := by
  unfold permitOne
  split
  · exact .ok trivial
  · exact .page
  · exact .stall
  · exact .trap

theorem channelAt_awake (va : Nat) : Awake (channelAt s core ctx va) := by
  unfold channelAt
  split
  · exact (permitOne_awake _ _).error ‹_›
  · exact .ite (fun _ => .ok trivial) (fun _ => .trap)

theorem pagesFirst_awake (l : List (Nat × AccessKind)) : Awake (pagesFirst s core ctx l) := by
  unfold pagesFirst
  split
  · exact .page
  · exact .stall
  · exact .ok trivial

theorem rowAt_awake (v : Nat) (kinds : List AccessKind) : Awake (rowAt s core ctx v kinds) := by
  unfold rowAt
  extract_lets refuse r
  have hrefuse : Awake refuse := .trap
  refine .ite (fun _ => hrefuse) (fun _ => ?_)
  split
  · exact .page
  · exact .stall
  · split
    · exact .ite (fun _ => .ok trivial) (fun _ => hrefuse)
    · exact hrefuse

theorem checkImage_awake (l : List (Nat × Nat)) : Awake (checkImage s core ctx l) := by
  induction l with
  | nil => exact .pass
  | cons a l ih =>
    unfold checkImage
    split
    · exact (permitOne_awake _ _).error ‹_›
    · exact ih

theorem wordAt_awake (va : Nat) : Awake (wordAt s core ctx va) := by
  refine .ite (fun _ => .ok trivial) (fun _ => ?_)
  split
  · exact (permitOne_awake _ _).error ‹_›
  · exact .ok trivial

theorem rowsAt_awake (kind row drow : Nat) : Awake (rowsAt s core ctx kind row drow) := by
  refine .ite (fun _ => ?_) (fun _ => ?_)
  · split
    · exact (rowAt_awake _ _).error ‹_›
    · split
      · exact (rowAt_awake _ _).error ‹_›
      · exact .ite (fun _ => .ok trivial) (fun _ => .trap)
  · split
    · exact (rowAt_awake _ _).error ‹_›
    · exact .ok trivial

theorem commandOf_awake (w : List Nat) : Awake (commandOf s e w) := by
  unfold commandOf
  extract_lets x kind
  split
  · exact ((pagesFirst_awake _).andThen (rowsAt_awake _ _ _)).error ‹_›
  · split
    · exact (wordAt_awake _).error ‹_›
    · split
      · exact (wordAt_awake _).error ‹_›
      · exact .ok trivial

variable (h : Formed s)
include h

/-! ## What a skerry does -/

theorem execSkerryAccept_formed (chan : Nat) : FormedAfter (execSkerryAccept chan s) := by
  unfold execSkerryAccept
  extract_lets s1
  have hs1 : Formed s1 := h.settleChannel _
  split
  · exact .next hs1
  · split
    · exact .next (hs1.acceptCommand _ _ _)
    · split
      · exact .next hs1
      · exact .next (((hs1.dropRequest _ _).enterFifo _ _).settleChannel _)

theorem execNmloadApply_formed (chan : Nat) : FormedAfter (execNmloadApply chan s) := by
  unfold execNmloadApply
  extract_lets s1 k
  have hs1 : Formed s1 := h.settleChannel _
  split
  · split
    · exact .next (((hs1.modSkerry _ _).returnStatus _ _).settleChannel _)
    · exact .next (((hs1.modSkerry _ _).returnStatus _ _).settleChannel _)
  · exact .next hs1

theorem execSkerryCommandStart_formed (chan : Nat) : FormedAfter (execSkerryCommandStart chan s) := by
  unfold execSkerryCommandStart
  extract_lets s1 k
  have hs1 : Formed s1 := (h.modSkerry _ _).settleChannel _
  split
  · split
    · exact .next (hs1.modSkerry _ _)
    · exact .next hs1
  · exact .next hs1

theorem execSkerryWord_formed (chan : Nat) : FormedAfter (execSkerryWord chan s) := by
  unfold execSkerryWord
  extract_lets k
  split
  · exact .next h
  · split
    · exact .next h
    · split
      · exact .next (h.stopRun _ _)
      · extract_lets x cps
        split
        · exact .next (h.stopRun _ _)
        · split
          · exact .next (h.stopRun _ _)
          · split
            · exact .next (h.skFault _ _ _ _)
            · exact .next ((h.wordOnBanks _ _ _ _ _).modSkerry _ _)

theorem execBankRefresh_formed (chan bank : Nat) (starts : Bool) : FormedAfter (execBankRefresh chan bank starts s) :=
  .next (h.modSkerry _ _)

theorem execCatchupReplay_formed (chan bank : Nat) : FormedAfter (execCatchupReplay chan bank s) := by
  unfold execCatchupReplay
  extract_lets k
  split
  · exact .next h
  · extract_lets x fault s1
    have hs1 : Formed s1 := h.applyBank _ _ _ _ _ _
    clear_value fault s1
    split
    · exact .next h
    · split
      · exact .next (.ite (h.skipWords _ _ _) (h.skFault _ _ _ _))
      · exact .next (hs1.modSkerry _ _)

theorem execTransferColumn_formed (chan : Nat) : FormedAfter (execTransferColumn chan s) := by
  unfold execTransferColumn
  split
  · exact .next h
  · extract_lets c js
    split
    · exact .next h
    · split
      · exact .next (h.skFault _ _ _ _)
      · exact .next (Formed.modSkerry (foldl_run_formed (fun _ _ h => skWriteBytes_formed h _ _) _ h) _ _)

theorem execSkerryCommandFinish_formed (chan : Nat) : FormedAfter (execSkerryCommandFinish chan s) := by
  unfold execSkerryCommandFinish
  extract_lets k
  split
  · exact .next h
  · extract_lets c noted sigs
    have hnoted : Formed noted := h.foldl (fun _ _ hs => hs.noteWrite _ _) _
    split
    · exact .next h
    · split
      · exact .next (h.skFault _ _ _ _)
      · exact .next (((hnoted.leaveFifos _ _ _).writeWords _ _ _ _).settleChannel _)

/-! ## The instructions -/

theorem sendRequest_formed (dst chan : Nat) (op : Nat → SkOp) : DoneFormed (sendRequest s e dst chan op) :=
  .ite (fun _ => .stall) (fun _ => .later (h.modSkerry _ _))

theorem execNmload_formed (f : LaneForm) : FormedAfter (execNmload f s) := by
  refine runLane_formed h fun e s hs => ?_
  extract_lets va vi n
  refine .ite (fun _ => .operand) (fun _ => .ite (fun _ => .trap) (fun _ => ?_))
  split
  · exact ((pagesFirst_awake _).andThen (channelAt_awake _)).error ‹_›
  · split
    · exact (checkImage_awake _).error ‹_›
    · split
      · exact (enqueueEngine_ensures hs _).error ‹_›
      · next hr => exact sendRequest_formed ((enqueueEngine_ensures hs _).result hr) _ _ _

theorem execNmcmd_formed (f : LaneForm) : FormedAfter (execNmcmd f s) := by
  refine runLane_formed h fun e s hs => ?_
  extract_lets off k w
  split
  · exact (checkStruct_awake _ _).error ‹_›
  · split
    · exact .operand
    · split
      · exact (commandOf_awake _).error ‹_›
      · exact .ite (fun _ => .stall) (fun _ => .ite (fun _ => .stall) (fun _ => sendRequest_formed (hs.releaseLane _ _) _ _ _))

theorem execNmlease_formed (f : LaneForm) : FormedAfter (execNmlease f s) := by
  refine runLane_formed h fun e s hs => ?_
  split
  · exact (channelAt_awake _).error ‹_›
  · exact sendRequest_formed hs _ _ _

theorem execNmrel_formed (f : LaneForm) : FormedAfter (execNmrel f s) := by
  refine runLane_formed h fun e s hs => ?_
  split
  · exact (channelAt_awake _).error ‹_›
  · exact sendRequest_formed hs _ _ _

end

end Sys2Proof.Proofs
end

section
/-!
SUPPORT. Teardown, the start sequence and the mailbox's commands (06_kernel R101, 21_start) keep the canonical form (log 2).
-/
namespace Sys2Proof.Proofs

open Sys2Proof Sys2Proof.Machine Sys2Proof.Safety Sys2Proof.Laws

theorem formed_reset : Formed State.reset := formed_iff.2 resetMemoryForm

/-- The package that an answer leaves has the canonical form. -/
def AnswerFormed (a : Answer) : Prop := Formed a.state

namespace AnswerFormed

variable {s : State} {a b : Answer}

theorem ok (h : Formed s) : AnswerFormed (.ok s) := h

theorem bad (h : Formed s) {status : Nat} : AnswerFormed (.bad s status) := h

/-- An answer with results that leaves the package as it is. -/
theorem tell (h : Formed s) {status : Nat} {results : List Nat} : AnswerFormed ⟨status, results, s⟩ := h

theorem ite {c : Prop} {_ : Decidable c} (ha : AnswerFormed a) (hb : AnswerFormed b) : AnswerFormed (if c then a else b) := by
  split
  · exact ha
  · exact hb

end AnswerFormed

namespace Formed

variable {s : State} {core slot ctx d : Nat}

/-! ## Teardown -/

/-- Kernels that end one after the other. -/
theorem endAll (h : Formed s) (l : List Nat) : Formed (l.foldl (fun s k => Machine.endKernel s k .faulted []) s) :=
  h.foldl (fun _ _ hs => hs.endKernel _ _ _) l

theorem teardownQueue (h : Formed s) (n tag : Nat) : Formed (teardownQueue s n tag) := by
  unfold Machine.teardownQueue
  split
  · exact h
  · exact ((h.modHostQueue _ _).endAll _).settleQueue _

theorem stopGroups (h : Formed s) : Formed (stopGroups s ctx) := by
  unfold Machine.stopGroups
  exact h.foldl (fun _ _ hs => hs.groupGone) _

theorem dropWaiting (h : Formed s) : Formed (dropWaiting s ctx) := h.mapCores fun _ _ => rfl

theorem faultKernels (h : Formed s) : Formed (faultKernels s ctx) := h.endAll _

theorem stopContext (h : Formed s) (tag : Nat) : Formed (stopContext s ctx tag) := by
  unfold Machine.stopContext
  extract_lets s1 l s2 s3 s4 s5 s6
  have hs1 : Formed s1 := h.modCtx _
  have hs2 : Formed s2 := hs1.of_same rfl rfl
  have hs4 : Formed s4 := (hs2.endAll _).stopGroups.dropWaiting
  have hs5 : Formed s5 := hs4.foldl (fun _ _ hs => hs.resetLeases _) _
  have hs6 : Formed s6 := hs5.of_same rfl rfl
  exact hs6.faultKernels

theorem teardownContexts (h : Formed s) (l : List (Nat × Nat)) : Formed (teardownContexts s l) := by
  unfold Machine.teardownContexts
  extract_lets s1
  have hs1 : Formed s1 := h.foldl (fun _ _ hs => hs.stopContext _) _
  exact hs1.foldl (fun _ _ hs => (hs.modHostQueue _ _).settleQueue _) _

theorem discardCommands (h : Formed s) : Formed (discardCommands s ctx) := by
  refine h.remapped ⟨_, by dsimp only [Machine.discardCommands], fun c k => ?_⟩ rfl
  rfl

theorem finishTeardown (h : Formed s) : Formed (finishTeardown s ctx) := by
  unfold Machine.finishTeardown
  split
  · exact h
  · extract_lets discarded s1
    have hs1 : Formed s1 := Formed.settleInvals (h.discardCommands.of_same rfl rfl)
    exact (hs1.modCtx _).post _ _ _ _

/-! ## The start sequence -/

theorem modFw (h : Formed s) (f : Firmware → Firmware) : Formed (modFw s f) := h.of_same rfl rfl

theorem trainStraits (h : Formed s) : Formed (trainStraits s) := by
  unfold Machine.trainStraits
  extract_lets s1
  have hs1 : Formed s1 := h.modFw _
  refine hs1.foldl (fun s id hs => ?_) _
  split
  · exact (hs.trainAtStart _).linkTrained _ _
  · exact hs.trainAtStart _

theorem saveTraining (h : Formed s) : Formed (saveTraining s) := h.modFw _

/-- The ports begin to train. -/
theorem trainPorts (h : Formed s) : Formed (ports.foldl Machine.trainAtStart s) := h.foldl (fun _ _ hs => hs.trainAtStart _) _

theorem enterStep (h : Formed s) (n : Nat) : Formed (enterStep s n) := by
  unfold Machine.enterStep
  extract_lets s1
  have hs1 : Formed s1 := h.modFw _
  exact .ite hs1.trainStraits (.ite hs1.trainPorts hs1)

theorem bootFail (h : Formed s) (n tag : Nat) (why : BootFailure) : Formed (bootFail s n tag why) := by
  unfold Machine.bootFail
  exact ((h.postEvent _).modFw _).sendBootFails

theorem enterRecovery (h : Formed s) (n : Nat) (why : BootFailure) : Formed (enterRecovery s n why) := by
  unfold Machine.enterRecovery
  extract_lets s1
  have hs1 : Formed s1 := .ite h.trainPorts h
  exact (hs1.modFw _).bootFail _ _ _

theorem coldState (s : State) : Formed (coldState s) := formed_reset.of_same rfl rfl

theorem coldStart (s : State) (tag : Nat) : Formed (coldStart s tag) := ((coldState s).modFw _).enterStep _

theorem warmStart (h : Formed s) (hash : BitVec 256) (tag : Nat) : Formed (warmStart s hash tag) := by
  unfold Machine.warmStart
  extract_lets live s1 torn s2 skip
  have hs1 : Formed s1 := h.teardownContexts _
  have hs2 : Formed s2 := Formed.foldl (hs1.of_same (by rfl) (by rfl)) (fun _ _ hs => hs.finishTeardown) _
  exact (hs2.modFw _).enterStep _

theorem grendexStarts (h : Formed s) : Formed (grendexStarts s) := by
  unfold Machine.grendexStarts
  extract_lets s1 s2 x s3
  have hs1 : Formed s1 := Formed.of_same (h.setMem (writeBytes_wf _ _ _ h.mem)) rfl rfl
  have hs3 : Formed s3 := (hs1.modFw _).post _ _ _ _
  exact (hs3.modFw _).foldl (fun _ _ hs => hs.linkFatal _) _

theorem stepDone (h : Formed s) (n : Nat) : Formed (stepDone s n) :=
  .ite (Formed.enterStep (.ite h (h.of_same (by rfl) (by rfl))) _) (.ite (h.saveTraining.enterStep _)
    (.ite ((h.modFw _).enterStep _) (.ite h.grendexStarts (h.enterStep _))))

/-! ## Mailbox commands -/

theorem passSlot (h : Formed s) (m : Mbox) : Formed (passSlot s m) := .ite (h.modFw _) h

theorem writeSlot (h : Formed s) (m : Mbox) (status : Nat) (results : List Nat) : Formed (writeSlot s m status results) := by
  unfold Machine.writeSlot
  exact (h.epWrite _ _).epWrite _ _

theorem respond (m : Mbox) {a : Answer} (h : AnswerFormed a) : Formed (respond m a) :=
  (Formed.writeSlot h m _ _).passSlot _

theorem resumeGroups (h : Formed s) : Formed (resumeGroups s ctx) := by
  unfold Machine.resumeGroups
  exact h.foldl (fun _ _ hs => .ite (hs.exitLanes _) (hs.modGroup _)) _

theorem teardownContext (h : Formed s) (tag : Nat) : Formed (teardownContext s ctx tag) := h.teardownContexts _

theorem createQueue (h : Formed s) (m : Mbox) : Formed (createQueue s m) := by
  unfold Machine.createQueue
  extract_lets q t
  have ht : Formed t := h.of_same rfl rfl
  split
  · exact ht.unitStore _ _ _
  · exact ht.haltQueue _ _ _ _

theorem startQueue (h : Formed s) (n tag : Nat) (q : HostQueue) : Formed (startQueue s n tag q) := by
  unfold Machine.startQueue
  split
  · exact .ite ((h.unitRead _ _ _).haltQueue _ _ _ _) ((h.unitRead _ _ _).modHostQueue _ _)
  · exact h.haltQueue _ _ _ _

theorem drainQueue (h : Formed s) (n tag : Nat) (q : HostQueue) : Formed (drainQueue s n tag q) :=
  .ite ((h.modHostQueue _ _).post _ _ _ _) (.ite (h.modHostQueue _ _) ((h.modHostQueue _ _).settleQueue _))

theorem clearWaits (h : Formed s) (die id : Nat) : Formed (clearWaits s die id) := by
  refine h.remapped ⟨_, by dsimp only [Machine.clearWaits], fun c k => ?_⟩ rfl
  rfl

theorem replayFault (h : Formed s) (die : Nat) (f : FaultEntry) : Formed (replayFault s die f) := (h.freshWalks _).clearWaits _ _

theorem declineTrap (h : Formed s) (st : Stream) (w : FaultWait) : Formed (declineTrap s core slot st w) := h.raiseTrap _ _ _

theorem declineCommand (h : Formed s) (c : EngineCmd) (w : FaultWait) : Formed (declineCommand s core c w) := by
  unfold Machine.declineCommand
  extract_lets s1
  have hs1 : Formed s1 := (h.dropLoad _).modCore fun _ => rfl
  split
  · exact .ite (hs1.declineTrap _ _) hs1
  · exact hs1

theorem declineFault (h : Formed s) (die tag : Nat) (f : FaultEntry) : Formed (declineFault s die tag f) := by
  unfold Machine.declineFault
  extract_lets gs es s1 s2 s3
  have hs1 : Formed s1 := .ite (h.faultContext _ _ _) h
  have hs2 : Formed s2 := hs1.foldl (fun _ _ hs => hs.declineTrap _ _) _
  have hs3 : Formed s3 := hs2.foldl (fun _ _ hs => hs.declineCommand _ _) _
  exact Formed.clearWaits (hs3.of_same (by rfl) (by rfl)) _ _

theorem tagLink (h : Formed s) (id : Nat) (m : Mbox) : Formed (tagLink s id m) := h.modLink _ _

theorem modPartition (h : Formed s) (p : Nat) (f : Partition → Partition) : Formed (modPartition s p f) := h.of_same rfl rfl

theorem gateQuad (h : Formed s) (q tag : Nat) : Formed (gateQuad s q tag) := by
  unfold Machine.gateQuad
  exact (h.modQuad _ _).foldl (fun _ _ hs => .ite ((hs.modLink _ _).setLink _ _) hs) _

theorem wakeQuad (h : Formed s) (q tag : Nat) : Formed (wakeQuad s q tag) := by
  unfold Machine.wakeQuad
  extract_lets s1
  have hs1 : Formed s1 := h.modQuad _ _
  exact .ite hs1 (hs1.foldl (fun _ _ hs => .ite ((hs.modLink _ _).startTraining _) hs) _)

theorem coldRequest (tag : Nat) (s : State) : Formed (coldRequest tag s) := by
  unfold Machine.coldRequest
  extract_lets t fw
  have ht : Formed t := coldStart s tag
  exact ht.of_same rfl rfl

end Formed

section
variable {s : State} (h : Formed s)
include h

/-! ## Starts and images -/

theorem execCxTeardownDone_formed (ctx : Nat) : FormedAfter (execCxTeardownDone ctx s) := .next (.ite h h.finishTeardown)

omit h in
theorem execPowerOn_formed (s : State) : FormedAfter (execPowerOn s) := .next (.coldStart s 0)

theorem execStartStepDone_formed (failure : Option BootFailure) : FormedAfter (execStartStepDone failure s) := by
  unfold execStartStepDone
  split
  · split
    · exact .next (h.enterRecovery _ _)
    · exact .next (.ite (h.stepDone _) h)
  · exact .next h

theorem execImageFetch_formed (img : Image) : FormedAfter (execImageFetch img s) := by
  unfold execImageFetch
  split
  · split
    · exact .next (h.enterRecovery _ _)
    · exact .next ((h.modFw _).enterStep _)
  · exact .next h

theorem execPortRetry_formed (port : Nat) (trained : Bool) : FormedAfter (execPortRetry port trained s) := by
  unfold execPortRetry
  split
  · exact .next (.ite ((h.trainAtStart _).linkTrained _ _) (h.trainAtStart _))
  · exact .next h

theorem execRecoveryImage_formed (img : Image) : FormedAfter (execRecoveryImage img s) := by
  unfold execRecoveryImage
  split
  · exact .next h
  · split
    · exact .next h
    · split
      · exact .next (h.reply _)
      · split
        · exact .next (h.bootFail _ _ _)
        · exact .next ((h.modFw _).enterStep _)

theorem execEventSinkUpdate_formed : FormedAfter (execEventSinkUpdate s) := by
  unfold execEventSinkUpdate
  split
  · exact .next h
  · extract_lets n
    split
    · exact .next h
    · exact .next (h.modFw _)

theorem execEventConsumedWrite_formed (count : BitVec 64) : FormedAfter (execEventConsumedWrite count s) :=
  .next (.ite (h.epWrite _ _).settleRing h)

/-! ## Mailbox commands -/

theorem command_formed (ws : List Nat) (m : Mbox) {body : State → Answer} (hbody : ∀ s, Formed s → AnswerFormed (body s)) :
    FormedAfter (command ws m s body) := by
  unfold command
  split
  · exact .next h
  · split
    · exact .next (.respond m (.bad h))
    · split
      · exact .next (.respond m (.bad h))
      · exact .next (.respond m (hbody s h))

theorem wayCommand_formed (ws : List Nat) (m : Mbox) (waits : State → Bool) {body : State → Answer}
    (hbody : ∀ s, Formed s → AnswerFormed (body s)) : FormedAfter (wayCommand ws m s waits body) := by
  unfold wayCommand
  split
  · exact .next h
  · exact command_formed h ws m hbody

theorem startCommand_formed (ws : List Nat) (m : Mbox) {start : State → State} (hstart : ∀ s, Formed s → Formed (start s)) :
    FormedAfter (startCommand ws m s start) := by
  unfold startCommand
  split
  · exact .next h
  · split
    · exact .next (.respond m (.bad h))
    · exact .next (hstart _ (.respond m (.ok h)))

theorem execBadCmd_formed (m : Mbox) : FormedAfter (execBadCmd m s) := command_formed h _ m fun _ hs => .tell hs

theorem execCxCreate_formed (m : Mbox) : FormedAfter (execCxCreate m s) :=
  command_formed h _ m fun _ hs => .ite (.ok (hs.of_same rfl rfl)) (.bad hs)

theorem execCxBind_formed (m : Mbox) : FormedAfter (execCxBind m s) :=
  wayCommand_formed h _ m _ fun _ hs => .ite (.ok (((hs.storeAt _ _).storeAt _ _).modCtx _)) (.bad hs)

theorem execCxStart_formed (m : Mbox) : FormedAfter (execCxStart m s) :=
  command_formed h _ m fun _ hs => .ite (.ok (hs.modCtx _)) (.bad hs)

theorem execCxSuspend_formed (m : Mbox) : FormedAfter (execCxSuspend m s) :=
  command_formed h _ m fun _ hs => .ite (.ok (hs.modCtx _).settleSuspend) (.bad hs)

theorem execCxResume_formed (m : Mbox) : FormedAfter (execCxResume m s) := by
  refine command_formed h _ m fun s hs => .ite ?_ (.bad hs)
  exact .ok (Formed.resumeGroups (Formed.modCtx (hs.of_same (by rfl) (by rfl)) _))

theorem execCxTeardown_formed (m : Mbox) : FormedAfter (execCxTeardown m s) := by
  refine command_formed h _ m fun s hs => ?_
  extract_lets n
  split
  · exact hs
  · exact hs
  · exact .ok (hs.teardownContext _)

theorem execCxSet_formed (m : Mbox) : FormedAfter (execCxSet m s) :=
  command_formed h _ m fun _ hs => .ite (.bad hs) (.ite (.ok (hs.modCtx _)) hs)

theorem execCxClear_formed (m : Mbox) : FormedAfter (execCxClear m s) :=
  command_formed h _ m fun _ hs => .ite (.bad hs) (.ok (hs.modCtx _))

theorem execCxRead_formed (m : Mbox) : FormedAfter (execCxRead m s) := by
  refine command_formed h _ m fun s hs => ?_
  split
  · exact hs
  · exact hs

theorem execQCreate_formed (m : Mbox) : FormedAfter (execQCreate m s) :=
  wayCommand_formed h _ m _ fun _ hs => .ite (.bad hs) (.ite (.bad hs) (.ok (hs.createQueue _)))

theorem execQStart_formed (m : Mbox) : FormedAfter (execQStart m s) := by
  refine wayCommand_formed h _ m _ fun s hs => ?_
  split
  · exact hs
  · exact .ok (hs.startQueue _ _ _)

theorem execQHalt_formed (m : Mbox) : FormedAfter (execQHalt m s) := by
  refine command_formed h _ m fun s hs => ?_
  split
  · exact hs
  · exact .ite (.ok (hs.modHostQueue _ _)) (.bad hs)

theorem execQDrain_formed (m : Mbox) : FormedAfter (execQDrain m s) := by
  refine command_formed h _ m fun s hs => ?_
  split
  · exact hs
  · exact .ite (.ok (hs.drainQueue _ _ _)) (.bad hs)

theorem execQTeardown_formed (m : Mbox) : FormedAfter (execQTeardown m s) := by
  refine command_formed h _ m fun s hs => ?_
  split
  · exact hs
  · exact .ite (.ok (hs.teardownQueue _ _)) (.bad hs)

theorem execQPrio_formed (m : Mbox) : FormedAfter (execQPrio m s) := by
  refine command_formed h _ m fun s hs => ?_
  split
  · exact hs
  · exact .ok (hs.modHostQueue _ _)

theorem execQRead_formed (m : Mbox) : FormedAfter (execQRead m s) := by
  refine command_formed h _ m fun s hs => ?_
  split
  · exact hs
  · exact hs

theorem execPfReply_formed (m : Mbox) : FormedAfter (execPfReply m s) := by
  refine command_formed h _ m fun s hs => ?_
  extract_lets die id
  split
  · exact hs
  · exact .ok (.ite ((hs.modDie _).declineFault _ _ _) ((hs.modDie _).replayFault _ _))

theorem execInvalidate_formed (m : Mbox) : FormedAfter (execInvalidate m s) := by
  refine wayCommand_formed h _ m _ fun s hs => ?_
  split
  · exact hs
  · exact .ok (((hs.flushScope _).invalidateRange _ _).modFw _).settleInvals

theorem execUnpoison_formed (m : Mbox) : FormedAfter (execUnpoison m s) :=
  command_formed h _ m fun _ hs => .ite (.bad hs) (.ok (hs.modDie _))

theorem execPoisonRead_formed (m : Mbox) : FormedAfter (execPoisonRead m s) := command_formed h _ m fun _ hs => .tell hs

theorem linkCommand_formed (m : Mbox) {body : Nat → LinkState → Option (State → State)}
    (hbody : ∀ id st f, body id st = some f → ∀ s, Formed s → Formed (f s)) : FormedAfter (linkCommand m s body) := by
  refine command_formed h _ m fun s hs => ?_
  extract_lets id
  refine .ite (.bad hs) ?_
  split
  · exact hs
  · next hf => exact .ok (hbody _ _ _ hf s hs)

theorem execLinkEnable_formed (m : Mbox) : FormedAfter (execLinkEnable m s) := by
  refine linkCommand_formed h m fun id st f hf s hs => ?_
  split at hf <;> cases hf
  exact (hs.tagLink _ _).startTraining _

theorem execLinkDrain_formed (m : Mbox) : FormedAfter (execLinkDrain m s) := by
  refine linkCommand_formed h m fun id st f hf s hs => ?_
  split at hf <;> cases hf
  · exact (hs.tagLink _ _).setLink _ _
  · exact (hs.tagLink _ _).setLink _ _

theorem execLinkDisable_formed (m : Mbox) : FormedAfter (execLinkDisable m s) := by
  refine linkCommand_formed h m fun id st f hf s hs => ?_
  split at hf <;> cases hf
  · exact hs
  · exact (hs.tagLink _ _).setLink _ _
  · exact hs
  · exact (hs.tagLink _ _).setLink _ _

theorem execLinkRead_formed (m : Mbox) : FormedAfter (execLinkRead m s) := command_formed h _ m fun _ hs => .ite (.bad hs) (.tell hs)

theorem execEpBind_formed (m : Mbox) : FormedAfter (execEpBind m s) := by
  refine command_formed h _ m fun s hs => .ite (.ok (hs.of_same rfl rfl)) ?_
  split
  · exact hs
  · exact hs
  · exact .ok (hs.modCtx _)

theorem execAperture_formed (m : Mbox) : FormedAfter (execAperture m s) :=
  command_formed h _ m fun _ hs => .ite (.bad hs) (.ok (hs.of_same rfl rfl))

theorem execPodSet_formed (m : Mbox) : FormedAfter (execPodSet m s) :=
  command_formed h _ m fun _ hs => .ite (.bad hs) (.ok (hs.modPartition _ _))

theorem execGate_formed (m : Mbox) : FormedAfter (execGate m s) := by
  refine command_formed h _ m fun s hs => ?_
  split
  · exact .ok (hs.gateQuad _ _)
  · exact hs
  · exact hs

theorem execUngate_formed (m : Mbox) : FormedAfter (execUngate m s) := by
  refine command_formed h _ m fun s hs => ?_
  split
  · exact .ok (hs.wakeQuad _ _)
  · exact hs
  · exact hs

theorem execPassfloor_formed (m : Mbox) : FormedAfter (execPassfloor m s) :=
  command_formed h _ m fun _ hs => .ite (.ok (hs.modQuad _ _)) (.bad hs)

theorem execVote_formed (m : Mbox) : FormedAfter (execVote m s) :=
  command_formed h _ m fun _ hs => .ite (.ok (hs.modPartition _ _)) (.bad hs)

theorem execShare_formed (m : Mbox) : FormedAfter (execShare m s) :=
  command_formed h _ m fun _ hs => .ite (.ok (hs.modPartition _ _)) (.bad hs)

theorem execCoreset_formed (m : Mbox) : FormedAfter (execCoreset m s) :=
  wayCommand_formed h _ m _ fun _ hs => .ite (.bad hs) (.ok (hs.modPartition _ _))

theorem execPartition_formed (m : Mbox) : FormedAfter (execPartition m s) :=
  command_formed h _ m fun _ hs => .ite (.bad hs) (.ok (hs.modPartition _ _))

theorem execWarm_formed (m : Mbox) : FormedAfter (execWarm m s) := startCommand_formed h _ m fun _ hs => hs.warmStart _ _

theorem execCold_formed (m : Mbox) : FormedAfter (execCold m s) := by
  unfold execCold
  split
  · exact .next (.ite (.coldRequest _ _) h)
  · exact startCommand_formed h _ m fun _ _ => .coldRequest _ _

theorem execQuote_formed (m : Mbox) : FormedAfter (execQuote m s) := by
  unfold execQuote
  split
  · exact .next h
  · split
    · exact .next (.respond m (.bad h))
    · split
      · exact .next (.respond m (.bad h))
      · exact .next ((h.modFw _).passSlot _)

theorem execQuoteSigned_formed : FormedAfter (execQuoteSigned s) := by
  unfold execQuoteSigned
  split
  · exact .next h
  · extract_lets body s1
    have hs1 : Formed s1 := h.epWrite _ _
    exact .next ((hs1.modFw _).writeSlot _ _ _)

theorem execIdkey_formed (m : Mbox) : FormedAfter (execIdkey m s) := command_formed h _ m fun _ hs => .tell hs

theorem execImage_formed (m : Mbox) : FormedAfter (execImage m s) :=
  wayCommand_formed h _ m _ fun _ hs => .ite (.bad hs) (.ite (.bad hs) (.ok (hs.modFw _)))

theorem execEvsink_formed (m : Mbox) : FormedAfter (execEvsink m s) := command_formed h _ m fun _ hs => .ok (hs.modFw _)

theorem execHelpers_formed (m : Mbox) : FormedAfter (execHelpers m s) := command_formed h _ m fun _ hs => .tell hs

end

end Sys2Proof.Proofs
end

section
/-!
SUPPORT. The special functions, `chain` (08_lane_ops R210 to R216) and texture instructions (10_memory_ops R279, R280) keep the
canonical form (log 2).
-/
namespace Sys2Proof.Proofs

open Sys2Proof Sys2Proof.Machine Sys2Proof.Safety Sys2Proof.Laws

section
variable {s : State} {e : Iss} (h : Formed s)
include h

theorem sfuInstr_formed (i : Instr) (fn : SfuFn) : FormedAfter (sfuInstr i fn s) := runLane_formed h fun _ _ hs => .later hs

theorem execSfuResult_formed (core slot : Nat) : FormedAfter (execSfuResult core slot s) := by
  unfold execSfuResult
  split
  · exact .next h
  · split
    · exact .next (h.completeTag _)
    · exact .next h

theorem execSrResult_formed (core slot idx : Nat) : FormedAfter (execSrResult core slot idx s) := by
  unfold execSrResult
  split
  · exact .next h
  · split
    · exact .next (h.completeTag _)
    · exact .next h

theorem execChain_formed (f : ChainForm) : FormedAfter (execChain f s) := by
  refine runLane_formed h fun e s hs => ?_
  extract_lets slots r
  have hd : Formed (floatDone s e (2 * slots.length + 2) r).st := hs
  exact .ok hd

/-! ## Textures -/

theorem readTex_ensures : Ensures (fun r => Formed r.2) (readTex s e) := by
  unfold readTex
  extract_lets spec
  split
  · exact (checkOne_awake _ _ _ _).error ‹_›
  · exact .ite (fun _ => .withState ((h.readX _ _ _ _).noteLoads _)) (fun _ => .operand)

theorem readTexels_ensures (t : Tex) (want : Nat → List (Option (Nat × Nat))) :
    Ensures (fun r => Formed r.state) (readTexels s e t want) := by
  unfold readTexels
  extract_lets l
  split
  · exact (checkLanes_awake _ _ _ _).error ‹_›
  · have hr := h.readAll (core := e.core) (texelBytes t) 10000 (accessLevel 0)
    exact .ok (Formed.noteLoads (hr _) _)

theorem execTsmp_formed (f : LaneForm) : FormedAfter (execTsmp f s) := by
  refine runLane_formed h fun e s hs => ?_
  split
  · exact (readTex_ensures hs).error ‹_›
  · next hr =>
    have hread := (readTex_ensures hs).result hr
    extract_lets x y pair want
    split
    · exact (readTexels_ensures hread _ _).error ‹_›
    · next hr => exact .later ((readTexels_ensures hread _ _).result hr)

theorem execTfet_formed (f : LaneForm) : FormedAfter (execTfet f s) := by
  refine runLane_formed h fun e s hs => ?_
  split
  · exact (readTex_ensures hs).error ‹_›
  · next hr =>
    have hread := (readTex_ensures hs).result hr
    extract_lets want
    split
    · exact (readTexels_ensures hread _ _).error ‹_›
    · next hr => exact .later ((readTexels_ensures hread _ _).result hr)

theorem execTsiz_formed (f : LaneForm) : FormedAfter (execTsiz f s) := by
  refine runLane_formed h fun e s hs => ?_
  split
  · exact (readTex_ensures hs).error ‹_›
  · next hr => exact .later ((readTex_ensures hs).result hr)

end

end Sys2Proof.Proofs
end

section
/-!
SUPPORT. Every instruction, hardware step and command keeps the canonical form (log 2).
-/
namespace Sys2Proof.Proofs

open Sys2Proof Sys2Proof.Machine Sys2Proof.Safety Sys2Proof.Laws

theorem exec_formed {s : State} (h : Formed s) (i : Instr) : FormedAfter (exec i s) := by
  cases i with
  | iadd | iaddShort | isub | isubShort | imul | imulShort | imulh | imin | imax | iminI32Short | imaxI32Short |
      iminN32Short | imaxN32Short | iaddSat | isubSat | and | andShort | or | orShort | xor | xorShort | andn | andnShort
      | shl | shlShort | shr | shrShort | sar | sarShort | rot | rotShort | bfx =>
    dsimp only [exec]
    exact alu2_formed h ..
  | imad | bfi =>
    dsimp only [exec]
    exact alu3_formed h ..
  | iabs | iabsShort | not | notShort | mov | movShort | popc | popcShort | clz | clzShort | ctz | ctzShort | brev |
      brevShort =>
    dsimp only [exec]
    exact alu1_formed h ..
  | add64 | sub64 =>
    dsimp only [exec]
    exact aluPair_formed h ..
  | sel => exact execSel_formed h ..
  | icmp => exact execIcmp_formed h ..
  | fadd | faddShort | fsub | fsubShort | fmul | fmulShort | fmin | fminShort | fmax | fmaxShort | hadd2 | hadd2F16Short |
      hadd2Bf16Short | hsub2 | hmul2 | hmul2F16Short | hmul2Bf16Short | hmin2 | hmax2 | pk2 =>
    dsimp only [exec]
    exact float2_formed h ..
  | ffma | hfma2 =>
    dsimp only [exec]
    exact float3_formed h ..
  | fabs | fabsShort | fneg | fnegShort | frnd | fclass =>
    dsimp only [exec]
    exact float1_formed h ..
  | fcmp => exact execFcmp_formed h ..
  | setfpc => exact execSetfpc_formed h ..
  | cvt => exact execCvt_formed h ..
  | cvtSr => exact execCvtSr_formed h ..
  | pk2Sr => exact execPk2Sr_formed h ..
  | upk2 => exact execUpk2_formed h ..
  | rngseed => exact execRngseed_formed h ..
  | rcp | rsq | sqt | ex2 | lg2 | sinr | cosr | tnh =>
    dsimp only [exec]
    exact sfuInstr_formed h ..
  | chain => exact execChain_formed h ..
  | shfl => exact execShfl_formed h ..
  | swp => exact execSwp_formed h ..
  | voteAny => exact execVoteAny_formed h ..
  | voteAll => exact execVoteAll_formed h ..
  | voteBal => exact execVoteBal_formed h ..
  | red => exact execRed_formed h ..
  | scan => exact execScan_formed h ..
  | pand | por | pxor | pnot =>
    dsimp only [exec]
    exact predOp_formed h ..
  | pcat => exact execPcat_formed h ..
  | psplit => exact execPsplit_formed h ..
  | pmov => exact execPmov_formed h ..
  | bra => exact execBra_formed h ..
  | brau => exact execBrau_formed h ..
  | jmpi => exact execJmpi_formed h ..
  | call => exact execCall_formed h ..
  | ret => exact execRet_formed h ..
  | meld => exact execMeld_formed h ..
  | mtab => exact execMtab_formed h ..
  | lend => exact execLend_formed h ..
  | exit => exact execExit_formed h ..
  | ckpt => exact execCkpt_formed h ..
  | ckptx => exact execCkptx_formed h ..
  | wait => exact execWait_formed h ..
  | nop => exact execNop_formed h ..
  | nopShort => exact execNopShort_formed h ..
  | yield => exact execYield_formed h ..
  | emrd => exact execEmrd_formed h ..
  | emwr => exact execEmwr_formed h ..
  | salloc => exact execSalloc_formed h ..
  | sfree => exact execSfree_formed h ..
  | trap => exact execTrap_formed h ..
  | tret => exact execTret_formed h ..
  | brk => exact execBrk_formed h ..
  | ld => exact execLd_formed h ..
  | ldAcq => exact execLdAcq_formed h ..
  | st => exact execSt_formed h ..
  | stRel => exact execStRel_formed h ..
  | lds => exact execLds_formed h ..
  | sts => exact execSts_formed h ..
  | atom => exact execAtom_formed h ..
  | ared => exact execAred_formed h ..
  | fence => exact execFence_formed h ..
  | waitw => exact execWaitw_formed h ..
  | cpy | cpyw =>
    dsimp only [exec]
    exact copyInstr_formed h ..
  | kick => exact execKick_formed h ..
  | kcfg => exact execKcfg_formed h ..
  | rld => exact execRld_formed h ..
  | vfput => exact execVfput_formed h ..
  | vfcfg => exact execVfcfg_formed h ..
  | tsmp => exact execTsmp_formed h ..
  | tfet => exact execTfet_formed h ..
  | tsiz => exact execTsiz_formed h ..
  | pref => exact execPref_formed h ..
  | cwb => exact execCwb_formed h ..
  | cinv => exact execCinv_formed h ..
  | mma => exact execMma_formed h ..
  | mmz => exact execMmz_formed h ..
  | mmrd => exact execMmrd_formed h ..
  | mmwr => exact execMmwr_formed h ..
  | bfill => exact execBfill_formed h ..
  | msync => exact execMsync_formed h ..
  | setfmt => exact execSetfmt_formed h ..
  | phint => exact execPhint_formed h ..
  | placq => exact execPlacq_formed h ..
  | plrel => exact execPlrel_formed h ..
  | plorg => exact execPlorg_formed h ..
  | plin | plquad | plexq | pladd | plsub | plmul | plfma | plmin | plmax | plmov | plsel | plcmp | plclr | pltrap | plwr
      =>
    dsimp only [exec]
    exact planeInstr_ok_formed h ..
  | plen => exact execPlen_formed h ..
  | plels => exact execPlels_formed h ..
  | plpop => exact execPlpop_formed h ..
  | plflag => exact execPlflag_formed h ..
  | plrd => exact execPlrd_formed h ..
  | plcov => exact execPlcov_formed h ..
  | barv => exact execBarv_formed h ..
  | barw => exact execBarw_formed h ..
  | bars => exact execBars_formed h ..
  | bari => exact execBari_formed h ..
  | klaunch => exact execKlaunch_formed h ..
  | kwait => exact execKwait_formed h ..
  | xinv => exact execXinv_formed h ..
  | pgq => exact execPgq_formed h ..
  | nmload => exact execNmload_formed h ..
  | nmcmd => exact execNmcmd_formed h ..
  | nmlease => exact execNmlease_formed h ..
  | nmrel => exact execNmrel_formed h ..
  | unassignedOpcode => exact execUnassignedOpcode_formed h ..
  | legacyWord => exact execLegacyWord_formed h ..
  | sfuResult => exact execSfuResult_formed h ..
  | srResult => exact execSrResult_formed h ..
  | waitExpire => exact execWaitExpire_formed h ..
  | memoryAccessComplete => exact execMemoryAccessComplete_formed h ..
  | waitwWake => exact execWaitwWake_formed h ..
  | copyComplete => exact execCopyComplete_formed h ..
  | engineAccessFault => exact execEngineAccessFault_formed h ..
  | enginePageFault => exact execEnginePageFault_formed h ..
  | pullStart => exact execPullStart_formed h ..
  | pullLanded => exact execPullLanded_formed h ..
  | rldResponse => exact execRldResponse_formed h ..
  | narrowsDeliver => exact execNarrowsDeliver_formed h ..
  | bfillComplete => exact execBfillComplete_formed h ..
  | mmaPass => exact execMmaPass_formed h ..
  | accumulatorWrite => exact execAccumulatorWrite_formed h ..
  | arrayEntry => exact execArrayEntry_formed h ..
  | planeEntry => exact execPlaneEntry_formed h ..
  | acquisitionClear => exact execAcquisitionClear_formed h ..
  | planeUpkeep =>
    dsimp only [exec]
    exact .next h
  | plcovPush => exact execPlcovPush_formed h ..
  | barrierPhaseComplete => exact execBarrierPhaseComplete_formed h ..
  | barrierRelease => exact execBarrierRelease_formed h ..
  | kwaitWake => exact execKwaitWake_formed h ..
  | invalidationComplete => exact execInvalidationComplete_formed h ..
  | sadd | ssub | smul | smulhI64 | smulhN64 | sand | sor | sxor | sshl | sshr | ssar | sminI64 | sminN64 | smaxI64 |
      smaxN64 | saddImm | ssubImm | smulImm | smulhI64Imm | smulhN64Imm | sandImm | sorImm | sxorImm | sshlImm | sshrImm |
      ssarImm | sminI64Imm | sminN64Imm | smaxI64Imm | smaxN64Imm | saddImmS64 | ssubImmS64 | smulImmS64 | smulhI64ImmS64
      | smulhN64ImmS64 | sandImmS64 | sorImmS64 | sxorImmS64 | sshlImmS64 | sshrImmS64 | ssarImmS64 | sminI64ImmS64 |
      sminN64ImmS64 | smaxI64ImmS64 | smaxN64ImmS64 | smov | sli | sliS64 =>
    dsimp only [exec]
    exact salu_formed h ..
  | sbeq | sbne | sblt | sbge | sbltn | sbgen | sbeqS64 | sbneS64 | sbltS64 | sbgeS64 | sbltnS64 | sbgenS64 | sjmp |
      sjmpS64 =>
    dsimp only [exec]
    exact sbranch_formed h ..
  | scall | scallS64 =>
    dsimp only [exec]
    exact scallTo_formed h ..
  | sret => exact execSret_formed h ..
  | sld | sldS64 =>
    dsimp only [exec]
    exact sloadAt_formed h ..
  | sst | sstS64 =>
    dsimp only [exec]
    exact sstoreAt_formed h ..
  | aff => exact execAff_formed h ..
  | affPush => exact execAffPush_formed h ..
  | affStreamFault => exact execAffStreamFault_formed h ..
  | sqld => exact execSqld_formed h ..
  | queueEntryFill => exact execQueueEntryFill_formed h ..
  | sqend => exact execSqend_formed h ..
  | queueEndEffect => exact execQueueEndEffect_formed h ..
  | lrun | lrunS64 =>
    dsimp only [exec]
    exact lrunAt_formed h ..
  | lsync => exact execLsync_formed h ..
  | srd => exact execSrd_formed h ..
  | swr => exact execSwr_formed h ..
  | grSp => exact execGrSp_formed h ..
  | grStklim => exact execGrStklim_formed h ..
  | swaitw | swaitwS64 =>
    dsimp only [exec]
    exact swaitwAt_formed h ..
  | swaitwWake => exact execSwaitwWake_formed h ..
  | skick => exact execSkick_formed h ..
  | sexit => exact execSexit_formed h ..
  | scalarStepLimit => exact execScalarStepLimit_formed h ..
  | laneIssueOpportunity => exact execLaneIssueOpportunity_formed h ..
  | operandGrant => exact execOperandGrant_formed h ..
  | deferredTrap => exact execDeferredTrap_formed h ..
  | groupFormed => exact execGroupFormed_formed h ..
  | allocationReserve => exact execAllocationReserve_formed h ..
  | cohortPreempt => exact execCohortPreempt_formed h ..
  | cohortRestore => exact execCohortRestore_formed h ..
  | queueTailWrite => exact execQueueTailWrite_formed h ..
  | recordRead => exact execRecordRead_formed h ..
  | kernelDeclare => exact execKernelDeclare_formed h ..
  | placementStep => exact execPlacementStep_formed h ..
  | placementAging => exact execPlacementAging_formed h ..
  | kernelComplete => exact execKernelComplete_formed h ..
  | cxTeardownDone => exact execCxTeardownDone_formed h ..
  | tableWalk => exact execTableWalk_formed h ..
  | uncorrectableError => exact execUncorrectableError_formed h ..
  | copyExpiry => exact execCopyExpiry_formed h ..
  | signatureExpiry => exact execSignatureExpiry_formed h ..
  | cacheEviction => exact execCacheEviction_formed h ..
  | casnisFill => exact execCasnisFill_formed h ..
  | skerryAccept => exact execSkerryAccept_formed h ..
  | nmloadApply => exact execNmloadApply_formed h ..
  | skerryCommandStart => exact execSkerryCommandStart_formed h ..
  | skerryWord => exact execSkerryWord_formed h ..
  | bankRefresh => exact execBankRefresh_formed h ..
  | catchupReplay => exact execCatchupReplay_formed h ..
  | transferColumn => exact execTransferColumn_formed h ..
  | skerryCommandFinish => exact execSkerryCommandFinish_formed h ..
  | linkTrained => exact execLinkTrained_formed h ..
  | linkTrainingFailed => exact execLinkTrainingFailed_formed h ..
  | linkErrorsOverLimit => exact execLinkErrorsOverLimit_formed h ..
  | linkDrained => exact execLinkDrained_formed h ..
  | flitReplay => exact execFlitReplay_formed h ..
  | rmaWrite => exact execRmaWrite_formed h ..
  | rmaRead => exact execRmaRead_formed h ..
  | rmaAtomic => exact execRmaAtomic_formed h ..
  | unsupportedDelivery => exact execUnsupportedDelivery_formed h ..
  | holmBalance => exact execHolmBalance_formed h ..
  | undeclaredBurst => exact execUndeclaredBurst_formed h ..
  | passDemandExpiry => exact execPassDemandExpiry_formed h ..
  | hintOnset => exact execHintOnset_formed h ..
  | hintEnd => exact execHintEnd_formed h ..
  | railStep => exact execRailStep_formed h ..
  | railHoldExpiry => exact execRailHoldExpiry_formed h ..
  | bankTempCompare => exact execBankTempCompare_formed h ..
  | energyUpdate => exact execEnergyUpdate_formed h ..
  | thermalLevelChange => exact execThermalLevelChange_formed h ..
  | stackThermalDemand => exact execStackThermalDemand_formed h ..
  | quadGateClose => exact execQuadGateClose_formed h ..
  | quadWakeDone => exact execQuadWakeDone_formed h ..
  | powerOn => exact execPowerOn_formed s
  | startStepDone => exact execStartStepDone_formed h ..
  | imageFetch => exact execImageFetch_formed h ..
  | portRetry => exact execPortRetry_formed h ..
  | recoveryImage => exact execRecoveryImage_formed h ..
  | quoteSigned => exact execQuoteSigned_formed h ..
  | eventSinkUpdate => exact execEventSinkUpdate_formed h ..
  | eventConsumedWrite => exact execEventConsumedWrite_formed h ..
  | badCmd => exact execBadCmd_formed h ..
  | cxCreate => exact execCxCreate_formed h ..
  | cxBind => exact execCxBind_formed h ..
  | cxStart => exact execCxStart_formed h ..
  | cxSuspend => exact execCxSuspend_formed h ..
  | cxResume => exact execCxResume_formed h ..
  | cxTeardown => exact execCxTeardown_formed h ..
  | cxSet => exact execCxSet_formed h ..
  | cxClear => exact execCxClear_formed h ..
  | cxRead => exact execCxRead_formed h ..
  | qCreate => exact execQCreate_formed h ..
  | qStart => exact execQStart_formed h ..
  | qHalt => exact execQHalt_formed h ..
  | qDrain => exact execQDrain_formed h ..
  | qTeardown => exact execQTeardown_formed h ..
  | qPrio => exact execQPrio_formed h ..
  | qRead => exact execQRead_formed h ..
  | pfReply => exact execPfReply_formed h ..
  | invalidate => exact execInvalidate_formed h ..
  | unpoison => exact execUnpoison_formed h ..
  | poisonRead => exact execPoisonRead_formed h ..
  | linkEnable => exact execLinkEnable_formed h ..
  | linkDrain => exact execLinkDrain_formed h ..
  | linkDisable => exact execLinkDisable_formed h ..
  | linkRead => exact execLinkRead_formed h ..
  | epBind => exact execEpBind_formed h ..
  | aperture => exact execAperture_formed h ..
  | podSet => exact execPodSet_formed h ..
  | gate => exact execGate_formed h ..
  | ungate => exact execUngate_formed h ..
  | passfloor => exact execPassfloor_formed h ..
  | vote => exact execVote_formed h ..
  | share => exact execShare_formed h ..
  | coreset => exact execCoreset_formed h ..
  | partition => exact execPartition_formed h ..
  | warm => exact execWarm_formed h ..
  | cold => exact execCold_formed h ..
  | quote => exact execQuote_formed h ..
  | idkey => exact execIdkey_formed h ..
  | image => exact execImage_formed h ..
  | evsink => exact execEvsink_formed h ..
  | helpers => exact execHelpers_formed h ..
  | noticeAccepted => exact execNoticeAccepted_formed h ..
  | releaseComplete => exact execReleaseComplete_formed h ..
end Sys2Proof.Proofs
end

section
/-!
SUPPORT. Every turn and every step of the package keeps the canonical form (log 2) of memory and of every scratchpad.
-/
namespace Sys2Proof.Proofs

open Sys2Proof Sys2Proof.Machine Sys2Proof.Safety Sys2Proof.Laws

theorem fetchScalar_awake {s : State} {core : Nat} {g : Group} : Awake (fetchScalar s core g) := by
  unfold fetchScalar
  extract_lets va
  split
  · exact (checkOne_awake _ _ _ _).error ‹_›
  · exact .ite (fun _ => .trap) (fun _ => fetchBits_awake _)

namespace FormedAfter

theorem state {o : Host.Outcome State Fault Refusal} {t : State} (h : FormedAfter o) (ht : o = .next t) : Formed t := by
  cases h with
  | next h =>
    cases ht
    exact h
  | refused => cases ht

theorem andNext {o : Host.Outcome State Fault Refusal} {f : State → State} (h : FormedAfter o) (hf : ∀ s, Formed s → Formed (f s)) :
    FormedAfter (andNext f o) := by
  cases h with
  | next h => exact .next (hf _ h)
  | refused => exact .refused

theorem ite {c : Prop} {_ : Decidable c} {o p : Host.Outcome State Fault Refusal} (ho : FormedAfter o) (hp : FormedAfter p) :
    FormedAfter (if c then o else p) := by
  split
  · exact ho
  · exact hp

end FormedAfter

/-! ## The streams' turns (R137 to R142) -/

section
variable {s : State} {core slot : Nat} (h : Formed s)
include h

theorem fetchIssue_formed (g : Group) : FormedAfter (fetchIssue s core slot g) := by
  unfold fetchIssue
  split
  next he => exact .next (h.stopLane _ _ (fetchLane_awake.stopFormed he))
  · exact exec_formed h _
  · exact exec_formed h _
  · exact exec_formed h _

theorem laneIssue_formed (g : Group) : FormedAfter (laneIssue s core slot g) := by
  refine .ite (exec_formed h _) (.ite (.next h) (.ite (.next (h.modLane _)) ?_))
  split
  next ht => exact .next (h.helperStep ht)
  · exact fetchIssue_formed (h.laneSeen g) g

theorem laneStep_formed : FormedAfter (laneStep s core slot) := by
  unfold laneStep
  split
  next ht => exact .next (h.beforeLane ht)
  · split
    · exact .next h
    · exact laneIssue_formed h _

theorem scalarStep_formed : FormedAfter (scalarStep s core slot) := by
  unfold scalarStep
  split
  · exact .next h
  next g _ =>
    extract_lets seen
    have hseen : Formed seen := h.fetchSeen _
    refine .ite (exec_formed h _) (.ite (.next h) ?_)
    split
    next he => exact .next (hseen.stopScalar (fetchScalar_awake.stopFormed he))
    · exact exec_formed hseen _

theorem laneTurn_formed : FormedAfter (laneTurn s core slot) := by
  refine (laneStep_formed h).andNext fun t ht => ?_
  split
  · exact ht.afterBefore
  · exact ht.afterTurn _

theorem scalarTurn_formed : FormedAfter (scalarTurn s core slot) := (scalarStep_formed h).andNext fun _ ht => ht.afterTurn _

end

/-! ## The ac of a holm (R141, R416, R417) -/

namespace Formed

variable {s : State} {core slot holm : Nat} (h : Formed s)
include h

theorem dueTaken : Formed (dueTaken s core slot) := by
  unfold Machine.dueTaken
  split
  next ht => exact (execDeferredTrap_formed h core slot).state ht
  · exact h

theorem wordFilled : Formed (wordFilled s core slot) := by
  unfold Machine.wordFilled
  split
  · exact h
  · split
    · exact h.fillLine _
    · exact h

theorem settleSlot : Formed (settleSlot core s slot) := by
  unfold Machine.settleSlot
  extract_lets taken before
  have htaken : Formed taken := h.wakeWait.dueTaken.dueTaken
  have hbefore : Formed before := Formed.beforeAll _ (htaken.modLane _)
  exact hbefore.wordFilled

theorem settleCore : Formed (settleCore s core) := h.foldl (fun _ _ hs => hs.settleSlot) _

theorem noteCore : Formed (noteCore s core) := (h.noteStalls _).noteScalarStalls _

theorem beginAc : Formed (beginAc s holm) :=
  ((h.foldl (fun _ _ hs => hs.coreAc) _).foldl (fun _ _ hs => hs.settleCore) _).foldl (fun _ _ hs => hs.noteCore) _

theorem prepare (i : Instr) : Formed (prepare i s) := by
  unfold Machine.prepare
  split
  · exact .ite h.beginAc h
  · exact h

theorem turnTo : Formed (turnTo core s) := .ite h (h.of_same rfl rfl)

theorem nextWaiting {t : State} (ht : nextWaiting s = some t) : Formed t := by
  unfold Machine.nextWaiting at ht
  split at ht
  next hlog =>
    cases ht
    exact h.nextLog hlog
  · exact h.nextRma ht

end Formed

/-! ## The package's step -/

section
variable {s : State} (h : Formed s)
include h

theorem acStep_formed (holm : Nat) : FormedAfter (acStep s holm) :=
  (exec_formed (h.prepare _) _).andNext fun _ ht => ht.of_same rfl rfl

theorem offerStep_formed (core : Nat) : FormedAfter (offerStep s core) := by
  refine .ite (exec_formed h _) (.ite (.next h.giveScalar) ?_)
  split
  · exact .next (h.of_same rfl rfl)
  · exact .ite (acStep_formed h _) (.next (h.of_same rfl rfl))

theorem ownStep_formed : FormedAfter (ownStep s) := by
  unfold ownStep
  split
  next ht => exact .next (h.nextWaiting ht)
  · split
    · exact exec_formed h _
    · split
      · exact laneTurn_formed h
      · exact scalarTurn_formed h
      · exact offerStep_formed h _
      · exact .next h

theorem step_formed : FormedAfter (step s) := by
  unfold step
  split
  · exact ownStep_formed h.tick
  next l _ =>
    have hrest : Formed { s with agenda := l } := h.of_same rfl rfl
    split
    · exact ownStep_formed h.turnTo.tick
    · exact .ite (exec_formed (hrest.tick.prepare _) _) (.next hrest.tick)

end

/-- Settles O12: memory and scratchpads change by `Memory.write` or by a reset, which both give the form; so it is kept by every
operation, instruction (`exec_formed`), turn and step (`step_formed`). -/
theorem stepKeepsMemoryForm : Obligations.StepKeepsMemoryForm := by
  intro s t hs ht
  exact formed_iff.mp ((step_formed (formed_iff.mpr hs)).state ht)

end Sys2Proof.Proofs
end

section
/-!
PROOFS of the statements about the encoding: each layout of 02_encoding is read back field by field, and the opcode maps of
the decoder hold exactly the rows that the encoder writes.
-/
namespace Sys2Proof.Proofs

open Sys2Proof Sys2Proof.Machine Sys2Proof.Laws

/-! ## Fields of a word -/

theorem ofNat_eq_of_mod {n : Nat} {x : BitVec n} {v : Nat} (h : v % 2 ^ n = x.toNat) : BitVec.ofNat n v = x :=
  BitVec.eq_of_toNat_eq (by rw [BitVec.toNat_ofNat, h])

theorem decide_bit_eq {b : Bool} {v : Nat} (h : v % 2 = b.toNat) : decide (v % 2 = 1) = b := by
  cases b <;> simp_all

theorem toNat_decide_of_lt_two {v : Nat} (h : v < 2) : (decide (v = 1)).toNat = v := by
  interval_cases v <;> rfl

theorem toNat_decide_bit (v : Nat) : (decide (v % 2 = 1)).toNat = v % 2 :=
  toNat_decide_of_lt_two (Nat.mod_lt v (by decide))

theorem literal_eq {lit : Option (BitVec 32)} {w v yes no : Nat} (hne : no ≠ yes) (hw : w = if lit.isSome then yes else no)
    (hv : v % 2 ^ 32 = (lit.getD 0).toNat) : (if w = yes then some (BitVec.ofNat 32 v) else none) = lit := by
  cases lit with
  | none => exact if_neg (hw ▸ hne)
  | some lit => exact (if_pos hw).trans (congrArg some (ofNat_eq_of_mod hv))

/-- The number of bits of a word is 32, 64 or 96, by its first two bits (R30). -/
theorem lengthOf_of_mod {w : Nat} : (w % 4 < 2 → lengthOf w = 32) ∧ (w % 4 = 2 → lengthOf w = 64) ∧
    (w % 4 = 3 → lengthOf w = 96) := by
  unfold lengthOf
  refine ⟨fun h => ?_, fun h => ?_, fun h => ?_⟩
  · rw [if_neg (by omega), if_neg (by omega)]
  · rw [if_neg (by omega), if_pos h]
  · rw [if_pos h]

/-! ## The layouts, from their fields and back (R34 to R40) -/

section
variable (f : LaneForm) {op : Nat} (hop : op < 1024)
include hop

theorem laneForm_laneWord : laneForm (laneWord op f) = f := by
  obtain ⟨dst, src1, src2, src3, ⟨stall, wait, set, last, gpred, gneg, gen⟩, lit⟩ := f
  have := dst.isLt; have := src1.isLt; have := src2.isLt; have := src3.isLt; have := stall.isLt; have := wait.isLt
  have := set.isLt; have := last.isLt; have := gpred.isLt; have := gneg.toNat_lt; have := gen.toNat_lt
  have := (lit.getD 0).isLt
  simp only [laneForm, laneWord, LaneForm.mk.injEq, Ctl.mk.injEq]
  refine ⟨ofNat_eq_of_mod ?_, ofNat_eq_of_mod ?_, ofNat_eq_of_mod ?_, ofNat_eq_of_mod ?_, ⟨ofNat_eq_of_mod ?_,
    ofNat_eq_of_mod ?_, ofNat_eq_of_mod ?_, ofNat_eq_of_mod ?_, ofNat_eq_of_mod ?_, decide_bit_eq ?_, decide_bit_eq ?_⟩,
    literal_eq (no := 2) (by decide) ?_ ?_⟩
  all_goals split <;> omega

theorem laneWord_fields : laneWord op f % 4 = (if f.lit.isSome then 3 else 2) ∧ laneWord op f / 4 % 1024 = op ∧
    laneWord op f < 2 ^ (if f.lit.isSome then 96 else 64) := by
  obtain ⟨dst, src1, src2, src3, ⟨stall, wait, set, last, gpred, gneg, gen⟩, lit⟩ := f
  have := dst.isLt; have := src1.isLt; have := src2.isLt; have := src3.isLt; have := stall.isLt; have := wait.isLt
  have := set.isLt; have := last.isLt; have := gpred.isLt; have := gneg.toNat_lt; have := gen.toNat_lt
  cases lit with
  | none => simp [laneWord]; omega
  | some lit =>
    have := lit.isLt
    simp [laneWord]; omega

end

theorem laneWord_laneForm {w : Nat} (h : 2 ≤ w % 4) (hw : w < 2 ^ lengthOf w) :
    laneWord (w / 4 % 1024) (laneForm w) = w := by
  simp only [laneForm, laneWord, BitVec.toNat_ofNat, toNat_decide_bit]
  rcases (by omega : w % 4 = 2 ∨ w % 4 = 3) with hlen | hlen
  · rw [lengthOf_of_mod.2.1 hlen] at hw
    simp [hlen]; omega
  · rw [lengthOf_of_mod.2.2 hlen] at hw
    simp [hlen]; omega

section
variable (f : ShortForm) {slot : Nat} (hslot : slot < 128)
include hslot

theorem shortForm_shortWord : shortForm (shortWord slot f) = f := by
  obtain ⟨dst, src, stall, lastDst, lastSrc, waitAll⟩ := f
  have := dst.isLt; have := src.isLt; have := stall.isLt; have := lastDst.toNat_lt; have := lastSrc.toNat_lt
  have := waitAll.toNat_lt
  have hhigh : slot / 64 < 2 := by omega
  have hlow : slot % 64 < 64 := by omega
  simp only [shortForm, shortWord, ShortForm.mk.injEq]
  refine ⟨ofNat_eq_of_mod ?_, ofNat_eq_of_mod ?_, ofNat_eq_of_mod ?_, decide_bit_eq ?_, decide_bit_eq ?_, decide_bit_eq ?_⟩
  all_goals
    generalize slot / 64 = high, slot % 64 = low at *
    omega

theorem shortWord_fields : shortWord slot f % 4 = slot / 64 ∧ shortWord slot f / 4 % 64 = slot % 64 ∧
    shortWord slot f < 2 ^ 30 := by
  obtain ⟨dst, src, stall, lastDst, lastSrc, waitAll⟩ := f
  have := dst.isLt; have := src.isLt; have := stall.isLt; have := lastDst.toNat_lt; have := lastSrc.toNat_lt
  have := waitAll.toNat_lt
  have hhigh : slot / 64 < 2 := by omega
  have hlow : slot % 64 < 64 := by omega
  simp only [shortWord]
  generalize slot / 64 = high, slot % 64 = low at *
  omega

end

theorem shortWord_shortForm {w : Nat} (h : w % 4 < 2) (hw : w < 2 ^ 30) :
    shortWord (w % 2 * 64 + w / 4 % 64) (shortForm w) = w := by
  have hhigh : (w % 2 * 64 + w / 4 % 64) / 64 = w % 4 := by omega
  have hlow : (w % 2 * 64 + w / 4 % 64) % 64 = w / 4 % 64 := by omega
  simp only [shortForm, shortWord, BitVec.toNat_ofNat, toNat_decide_bit, hhigh, hlow]
  omega

section
variable (f : ChainForm)

theorem chainForm_chainWord : chainForm (chainWord f) = f := by
  obtain ⟨dst, in0, in1, in2, in3, waitAll, slots⟩ := f
  have := dst.isLt; have := in0.isLt; have := in1.isLt; have := in2.isLt; have := in3.isLt; have := slots.isLt
  have := waitAll.toNat_lt
  simp only [chainForm, chainWord, ChainForm.mk.injEq]
  refine ⟨ofNat_eq_of_mod ?_, ofNat_eq_of_mod ?_, ofNat_eq_of_mod ?_, ofNat_eq_of_mod ?_, ofNat_eq_of_mod ?_, ?wait,
    ofNat_eq_of_mod ?_⟩
  case wait => cases waitAll <;> simp <;> omega
  all_goals omega

theorem chainWord_fields : chainWord f % 4 = 3 ∧ chainWord f / 4 % 1024 = 0x1F0 ∧ chainWord f / 2 ^ 52 % 4 < 2 ∧
    chainWord f < 2 ^ 96 := by
  obtain ⟨dst, in0, in1, in2, in3, waitAll, slots⟩ := f
  have := dst.isLt; have := in0.isLt; have := in1.isLt; have := in2.isLt; have := in3.isLt; have := slots.isLt
  have := waitAll.toNat_lt
  simp only [chainWord]
  omega

end

theorem chainWord_chainForm {w : Nat} (hlen : w % 4 = 3) (hop : w / 4 % 1024 = 0x1F0) (hwait : w / 2 ^ 52 % 4 < 2)
    (hw : w < 2 ^ 96) : chainWord (chainForm w) = w := by
  simp only [chainForm, chainWord, BitVec.toNat_ofNat, toNat_decide_of_lt_two hwait]
  omega

section
variable (f : CkptxForm)

theorem ckptxWord_fields : ckptxWord f % 4 = 3 ∧ ckptxWord f / 4 % 1024 = 0x255 ∧ ckptxWord f / 2 ^ 63 % 2 ^ 33 = 0 ∧
    ckptxWord f < 2 ^ 96 ∧ BitVec.ofNat 48 (ckptxWord f / 2 ^ 12) = f.pairs ∧
    BitVec.ofNat 3 (ckptxWord f / 2 ^ 60) = f.stall := by
  have := f.pairs.isLt; have := f.stall.isLt
  simp only [ckptxWord]
  refine ⟨?_, ?_, ?_, ?_, ofNat_eq_of_mod ?_, ofNat_eq_of_mod ?_⟩
  all_goals omega

end

theorem ckptxWord_of_fields {w : Nat} (hlen : w % 4 = 3) (hop : w / 4 % 1024 = 0x255) (hrest : w / 2 ^ 63 % 2 ^ 33 = 0)
    (hw : w < 2 ^ 96) : ckptxWord ⟨BitVec.ofNat 48 (w / 2 ^ 12), BitVec.ofNat 3 (w / 2 ^ 60)⟩ = w := by
  simp only [ckptxWord, BitVec.toNat_ofNat]
  omega

section
variable (f : ScalarFields) (hop : f.op < 256)
include hop

theorem scalarForm_scalarWord : scalarForm (scalarWord f) = f := by
  obtain ⟨op, sd, sa, sb, imm4, lit⟩ := f
  have := sd.isLt; have := sa.isLt; have := sb.isLt; have := imm4.isLt
  have := (lit.getD 0).isLt
  simp only at hop
  simp only [scalarForm, scalarWord, ScalarFields.mk.injEq]
  refine ⟨?_, ofNat_eq_of_mod ?_, ofNat_eq_of_mod ?_, ofNat_eq_of_mod ?_, ofNat_eq_of_mod ?_,
    literal_eq (no := 0) (by decide) ?_ ?_⟩
  all_goals split <;> omega

theorem scalarWord_fields : scalarWord f % 4 = (if f.lit.isSome then 2 else 0) ∧
    scalarWord f < 2 ^ (if f.lit.isSome then 64 else 32) := by
  obtain ⟨op, sd, sa, sb, imm4, lit⟩ := f
  have := sd.isLt; have := sa.isLt; have := sb.isLt; have := imm4.isLt
  simp only at hop
  cases lit with
  | none => simp [scalarWord]; omega
  | some lit =>
    have := lit.isLt
    simp [scalarWord]; omega

end

theorem scalarWord_scalarForm {w : Nat} (h : w % 4 = 0 ∨ w % 4 = 2) (hw : w < 2 ^ lengthOf w) :
    scalarWord (scalarForm w) = w := by
  simp only [scalarForm, scalarWord, BitVec.toNat_ofNat]
  rcases h with hlen | hlen
  · rw [lengthOf_of_mod.1 (by omega)] at hw
    simp [hlen]; omega
  · rw [lengthOf_of_mod.2.1 hlen] at hw
    simp [hlen]; omega

/-! ## The opcode maps (R63 to R65) -/

theorem lookupOp_append {α : Type} (l m : List (Nat × α)) (n : Nat) :
    lookupOp (l ++ m) n = (lookupOp l n).or (lookupOp m n) := by
  induction l with
  | nil => rfl
  | cons r l ih =>
    simp only [List.cons_append, lookupOp]
    split
    · rfl
    · exact ih

theorem mem_of_lookupOp {α : Type} {l : List (Nat × α)} {n : Nat} {x : α} (h : lookupOp l n = some x) : (n, x) ∈ l := by
  induction l with
  | nil => cases h
  | cons r l ih =>
    simp only [lookupOp] at h
    split at h
    next hr => cases h; subst hr; exact List.mem_cons_self
    · exact List.mem_cons_of_mem _ (ih h)

theorem lookupOp_laneOps (n : Nat) :
    lookupOp laneOps n = ((lookupOp opsIntegerAndLogic n).or <| (lookupOp opsFloatingPoint n).or <|
      (lookupOp opsCrossLaneAndPredicate n).or <| (lookupOp opsControlAndGroup n).or <| (lookupOp opsMemory n).or <|
      (lookupOp opsMatrixArray n).or <| (lookupOp opsCellPlane n).or <| lookupOp opsBarrier n) := by
  simp only [laneOps, lookupOp_append, Option.or_assoc]

/-- The decoder's row of an op10 code is the encoder's: what it makes of a form has that code and that form. The code has
ten bits and is none of the two that have layouts of their own. -/
structure IsLaneRow (r : Nat × (LaneForm → Instr)) : Prop where
  code : r.1 < 1024 ∧ r.1 ≠ 0x1F0 ∧ r.1 ≠ 0x255
  form : ∀ f, (laneInfo (r.2 f)).map (fun x => (x.op, x.form)) = some (r.1, f)

theorem laneOps_rows : ∀ r ∈ laneOps, IsLaneRow r := by
  simp only [laneOps, List.forall_mem_append]
  and_intros
  all_goals
    repeat refine List.forall_mem_cons.mpr ⟨⟨by decide, fun _ => rfl⟩, ?_⟩
    exact List.forall_mem_nil _

/-- The encoder's row of a lane instruction is the decoder's. -/
theorem lookupOp_of_laneInfo {i : Instr} {x : LaneInfo} (h : laneInfo i = some x) :
    (lookupOp laneOps x.op).map (fun mk => mk x.form) = some i := by
  rw [lookupOp_laneOps]
  cases i <;> cases h
  case imulh v f => cases v <;> rfl
  case imin v f => cases v <;> rfl
  case imax v f => cases v <;> rfl
  case iaddSat v f => cases v <;> rfl
  case isubSat v f => cases v <;> rfl
  case bfx v f => cases v <;> rfl
  case icmp c f => cases c <;> rfl
  case fadd rm f => cases rm <;> rfl
  case fsub rm f => cases rm <;> rfl
  case fmul rm f => cases rm <;> rfl
  case ffma rm f => cases rm <;> rfl
  case frnd rm f => cases rm <;> rfl
  case fcmp c f => cases c <;> rfl
  case hadd2 t f => cases t <;> rfl
  case hsub2 t f => cases t <;> rfl
  case hmul2 t f => cases t <;> rfl
  case hfma2 t f => cases t <;> rfl
  case hmin2 t f => cases t <;> rfl
  case hmax2 t f => cases t <;> rfl
  case cvt rm f => cases rm <;> rfl
  case pk2 t f => cases t <;> rfl
  case pk2Sr t f => cases t <;> rfl
  case upk2 t f => cases t <;> rfl
  case shfl k f => cases k <;> rfl
  case red op f => cases op <;> rfl
  case scan op f => cases op <;> rfl
  case atom op f => cases op <;> rfl
  case ared op f => cases op <;> rfl
  case plcmp c f => cases c <;> rfl
  all_goals rfl

/-- The decoder's row of a slot of the short map is the encoder's. -/
structure IsShortRow (r : Nat × (ShortForm → Instr)) : Prop where
  noLane : ∀ f, laneInfo (r.2 f) = none
  form : ∀ f, shortInfo (r.2 f) = some (r.1, f)

theorem shortOps_rows : ∀ r ∈ shortOps, IsShortRow r := by
  repeat refine List.forall_mem_cons.mpr ⟨⟨fun _ => rfl, fun _ => rfl⟩, ?_⟩
  exact List.forall_mem_nil _

theorem lookupOp_of_shortInfo {i : Instr} {slot : Nat} {f : ShortForm} (h : shortInfo i = some (slot, f)) :
    (lookupOp shortOps slot).map (fun mk => mk f) = some i ∧ slot < 128 := by
  cases i <;> cases h
  all_goals exact ⟨rfl, by decide⟩

theorem imm10_high4_low6 (x : BitVec 10) : imm10 (high4 x) (low6 x) = x := by
  have := x.isLt
  exact ofNat_eq_of_mod (by simp only [high4, low6, BitVec.toNat_ofNat]; omega)

/-- An instruction with scalar fields has no lane form, and an op8 code. -/
theorem scalar_forms {i : Instr} {f : ScalarFields} (h : scalarFields i = some f) :
    laneInfo i = none ∧ shortInfo i = none ∧ f.op < 256 := by
  cases i <;> cases h
  all_goals exact ⟨rfl, rfl, by simp⟩

/-- The decoder's candidate for the fields of an accepted scalar instruction is that instruction. -/
theorem scalarCandidate_of_scalarFields {i : Instr} {f : ScalarFields} (ha : accepts i = true)
    (h : scalarFields i = some f) : scalarCandidate f = some i := by
  cases i <;> cases h
  case swr number sa =>
    obtain ⟨hsp, hlim⟩ : number ≠ 0x050 ∧ number ≠ 0x051 := by
      simpa using (show (decide (number ≠ 0x050) && decide (number ≠ 0x051)) = true from ha)
    have hswr : swrInstr number sa = .swr number sa := by rw [swrInstr, if_neg hsp, if_neg hlim]
    simp [scalarCandidate, scalarAlu, Sys2Proof.scalarBranches, lookupOp, decodeOther32, imm10_high4_low6, hswr]
  case grSp sa => rfl
  case grStklim sa => rfl
  case sqld qn sa sb wide => cases wide <;> rfl
  all_goals
    simp [scalarCandidate, scalarAlu, Sys2Proof.scalarBranches, lookupOp, decodeOther32, decodeOther64, imm10_high4_low6]

/-! ## Words of an instruction -/

theorem encode_lane {i : Instr} {x : LaneInfo} (h : laneInfo i = some x) :
    encode i = some (.lane, if x.form.lit.isSome then 96 else 64, laneWord x.op x.form) := by
  simp only [encode, h]

theorem encode_short {i : Instr} {slot : Nat} {f : ShortForm} (hl : laneInfo i = none) (h : shortInfo i = some (slot, f)) :
    encode i = some (.lane, 32, shortWord slot f) := by
  simp only [encode, hl, h]

theorem encode_scalar {i : Instr} {f : ScalarFields} (h : scalarFields i = some f) :
    encode i = some (.scalar, if f.lit.isSome then 64 else 32, scalarWord f) := by
  obtain ⟨hl, hs, -⟩ := scalar_forms h
  simp only [encode, hl, hs, h]

/-- An instruction with an encoding is of one of five layouts. -/
theorem encode_cases {i : Instr} {r : Stream × Nat × Nat} (h : encode i = some r) :
    (∃ x, laneInfo i = some x ∧ r = (.lane, if x.form.lit.isSome then 96 else 64, laneWord x.op x.form)) ∨
    (∃ slot f, laneInfo i = none ∧ shortInfo i = some (slot, f) ∧ r = (.lane, 32, shortWord slot f)) ∨
    (∃ f, scalarFields i = some f ∧ r = (.scalar, if f.lit.isSome then 64 else 32, scalarWord f)) ∨
    (∃ f, i = .chain f ∧ r = (.lane, 96, chainWord f)) ∨ (∃ f, i = .ckptx f ∧ r = (.lane, 96, ckptxWord f)) := by
  unfold encode at h
  split at h
  next x hx => exact .inl ⟨x, hx, (Option.some.inj h).symm⟩
  next hl =>
    split at h
    next slot f hf => exact .inr (.inl ⟨slot, f, hl, hf, (Option.some.inj h).symm⟩)
    · split at h
      next f hf => exact .inr (.inr (.inl ⟨f, hf, (Option.some.inj h).symm⟩))
      · split at h
        next f _ _ => exact .inr (.inr (.inr (.inl ⟨f, rfl, (Option.some.inj h).symm⟩)))
        next f _ _ => exact .inr (.inr (.inr (.inr ⟨f, rfl, (Option.some.inj h).symm⟩)))
        · cases h

/-! ## Every accepted instruction is read back -/

theorem accepted_of_accepts {i : Instr} (h : accepts i = true) : accepted i = some i := by rw [accepted, if_pos h]

theorem of_accepted {i j : Instr} (h : accepted i = some j) : i = j := by
  unfold accepted at h
  split at h
  · exact Option.some.inj h
  · cases h

/-- A word that is read as an instruction, and whose own bits say how long it is. -/
structure ReadsAs (st : Stream) (n w : Nat) (i : Instr) : Prop where
  bound : w < 2 ^ n
  length : lengthOf w = n
  instr : decodeWord st w = some i

theorem readsAs_lane {i : Instr} {x : LaneInfo} (ha : accepts i = true) (h : laneInfo i = some x) :
    ReadsAs .lane (if x.form.lit.isSome then 96 else 64) (laneWord x.op x.form) i := by
  obtain ⟨mk, hmk, hi⟩ := Option.map_eq_some_iff.mp (lookupOp_of_laneInfo h)
  obtain ⟨hop, hchain, hckptx⟩ := (laneOps_rows _ (mem_of_lookupOp hmk)).code
  obtain ⟨hcode, hfield, hw⟩ := laneWord_fields x.form hop
  refine ⟨hw, ?_, ?_⟩
  · split at hcode
    next hlit => rw [if_pos hlit, lengthOf_of_mod.2.2 hcode]
    next hlit => rw [if_neg hlit, lengthOf_of_mod.2.1 hcode]
  · have hlong : ¬ laneWord x.op x.form % 4 < 2 := by rw [hcode]; split <;> decide
    simp only [decodeWord, decodeLane, if_neg hlong, hfield, if_neg hchain, if_neg hckptx, hmk,
      laneForm_laneWord x.form hop, hi, accepted_of_accepts ha]

theorem readsAs_short {i : Instr} {slot : Nat} {f : ShortForm} (h : shortInfo i = some (slot, f)) :
    ReadsAs .lane 32 (shortWord slot f) i := by
  obtain ⟨hmap, hslot⟩ := lookupOp_of_shortInfo h
  obtain ⟨mk, hmk, hi⟩ := Option.map_eq_some_iff.mp hmap
  obtain ⟨hcode, hlow, hw⟩ := shortWord_fields f hslot
  have hshort : shortWord slot f % 4 < 2 := by omega
  have htop : shortWord slot f / 2 ^ 30 % 4 = 0 := by rw [Nat.div_eq_of_lt hw]
  have hfield : shortWord slot f % 2 * 64 + shortWord slot f / 4 % 64 = slot := by omega
  refine ⟨by omega, lengthOf_of_mod.1 hshort, ?_⟩
  simp only [decodeWord, decodeLane, if_pos hshort, decodeShort, if_pos htop, hfield, hmk, shortForm_shortWord f hslot, hi]

theorem readsAs_chain {f : ChainForm} (ha : accepts (.chain f) = true) : ReadsAs .lane 96 (chainWord f) (.chain f) := by
  obtain ⟨hcode, hop, hwait, hw⟩ := chainWord_fields f
  refine ⟨hw, lengthOf_of_mod.2.2 hcode, ?_⟩
  have hlong : ¬ chainWord f % 4 < 2 := by omega
  simp only [decodeWord, decodeLane, if_neg hlong, if_pos hop, decodeChain, if_pos (And.intro hcode hwait),
    chainForm_chainWord, accepted_of_accepts ha]

theorem readsAs_ckptx (f : CkptxForm) : ReadsAs .lane 96 (ckptxWord f) (.ckptx f) := by
  obtain ⟨hcode, hop, hrest, hw, hpairs, hstall⟩ := ckptxWord_fields f
  refine ⟨hw, lengthOf_of_mod.2.2 hcode, ?_⟩
  have hlong : ¬ ckptxWord f % 4 < 2 := by omega
  have hchain : ckptxWord f / 4 % 1024 ≠ 0x1F0 := by omega
  simp only [decodeWord, decodeLane, if_neg hlong, if_neg hchain, if_pos hop, decodeCkptx, if_pos (And.intro hcode hrest),
    hpairs, hstall]

theorem readsAs_scalar {i : Instr} {f : ScalarFields} (ha : accepts i = true) (h : scalarFields i = some f) :
    ReadsAs .scalar (if f.lit.isSome then 64 else 32) (scalarWord f) i := by
  obtain ⟨-, -, hop⟩ := scalar_forms h
  obtain ⟨hcode, hw⟩ := scalarWord_fields f hop
  refine ⟨hw, ?_, ?_⟩
  · split at hcode
    next hlit => rw [if_pos hlit, lengthOf_of_mod.2.1 hcode]
    next hlit => rw [if_neg hlit, lengthOf_of_mod.1 (by omega)]
  · have hlen : scalarWord f % 4 = 0 ∨ scalarWord f % 4 = 2 := by rw [hcode]; split <;> decide
    simp only [decodeWord, decodeScalar, if_pos hlen, scalarForm_scalarWord f hop, scalarCandidate_of_scalarFields ha h, h,
      if_true, accepted_of_accepts ha]

/-- An accepted instruction is what its own word decodes to, layout by layout. -/
theorem readsAs_of_encode {i : Instr} {st : Stream} {n w : Nat} (ha : accepts i = true) (h : encode i = some (st, n, w)) :
    ReadsAs st n w i := by
  obtain ⟨x, hx, hr⟩ | ⟨slot, f, -, hf, hr⟩ | ⟨f, hf, hr⟩ | ⟨f, rfl, hr⟩ | ⟨f, rfl, hr⟩ := encode_cases h <;> cases hr
  · exact readsAs_lane ha hx
  · exact readsAs_short hf
  · exact readsAs_scalar ha hf
  · exact readsAs_chain ha
  · exact readsAs_ckptx f

/-! ## Bytes of a word (R2) -/

@[simp] theorem length_bytesOfWord (n w : Nat) : (bytesOfWord n w).length = n := by
  induction n generalizing w with
  | zero => rfl
  | succ n ih => simp [bytesOfWord, ih]

theorem wordOfBytes_bytesOfWord (n w : Nat) : wordOfBytes (bytesOfWord n w) = w % 256 ^ n := by
  induction n generalizing w with
  | zero => simp [bytesOfWord, wordOfBytes, Nat.mod_one]
  | succ n ih =>
    rw [bytesOfWord, wordOfBytes, ih, BitVec.toNat_ofNat, pow_succ' 256 n, Nat.mod_mul]

theorem take_bytesOfWord (k n w : Nat) (h : k ≤ n) : (bytesOfWord n w).take k = bytesOfWord k w := by
  induction k generalizing n w with
  | zero => rfl
  | succ k ih =>
    cases n with
    | zero => omega
    | succ n => simp only [bytesOfWord, List.take_succ_cons, ih n (w / 256) (by omega)]

theorem lengthOf_mod (w : Nat) : lengthOf (w % 256 ^ 4) = lengthOf w := by
  have : w % 256 ^ 4 % 4 = w % 4 := Nat.mod_mod_of_dvd w (by decide)
  simp only [lengthOf, this]

theorem lengthOf_cases (w : Nat) : lengthOf w = 32 ∨ lengthOf w = 64 ∨ lengthOf w = 96 := by
  unfold lengthOf
  split
  · exact .inr (.inr rfl)
  · split
    · exact .inr (.inl rfl)
    · exact .inl rfl

/-- The decoder reads a word from its bytes, whatever follows them. -/
theorem decode_bytesOfWord {st : Stream} {n w : Nat} {i : Instr} (h : ReadsAs st n w i) (rest : List Byte) :
    decode st (bytesOfWord (n / 8) w ++ rest) = some (i, n / 8) := by
  obtain ⟨hw, hn, hi⟩ := h
  have hbytes : 4 ≤ n / 8 ∧ 256 ^ (n / 8) = 2 ^ n := by rcases lengthOf_cases w with h | h | h <;> rw [← hn, h] <;> decide
  obtain ⟨hfour, hpow⟩ := hbytes
  have hfirst : lengthOf (wordOfBytes ((bytesOfWord (n / 8) w ++ rest).take 4)) = n := by
    rw [List.take_append_of_le_length (by rw [length_bytesOfWord]; exact hfour), take_bytesOfWord _ _ _ hfour,
      wordOfBytes_bytesOfWord, lengthOf_mod, hn]
  have hall : wordOfBytes ((bytesOfWord (n / 8) w ++ rest).take (n / 8)) = w := by
    rw [List.take_append_of_le_length (by rw [length_bytesOfWord]), take_bytesOfWord _ _ _ (Nat.le_refl _),
      wordOfBytes_bytesOfWord, hpow, Nat.mod_eq_of_lt hw]
  have hlong : ¬ ((bytesOfWord (n / 8) w ++ rest).length < 4 ∨ (bytesOfWord (n / 8) w ++ rest).length < n / 8) := by
    rw [List.length_append, length_bytesOfWord]; omega
  simp only [decode, hfirst, if_neg hlong, hall, hi]

/-- Settles O8: each of the five layouts is read back field by field, and the opcode maps hold its row. -/
theorem decodeEncode : Obligations.DecodeEncode := by
  intro i st n w rest ha h
  exact decode_bytesOfWord (readsAs_of_encode ha h) rest

/-! ## Every word that decodes is the encoding of its instruction -/

theorem encode_of_decodeShort {w : Nat} {i : Instr} (hlen : w % 4 < 2) (hw : w < 2 ^ 32) (h : decodeShort w = some i) :
    encode i = some (.lane, 32, w) := by
  unfold decodeShort at h
  split at h
  next htop =>
    split at h
    next mk hmk =>
      have hrow := shortOps_rows _ (mem_of_lookupOp hmk)
      cases h
      rw [encode_short (hrow.noLane _) (hrow.form _), shortWord_shortForm hlen (by omega)]
    · cases h
  · cases h

theorem encode_of_decodeChain {w : Nat} {i : Instr} (hop : w / 4 % 1024 = 0x1F0) (hw : w < 2 ^ lengthOf w)
    (h : decodeChain w = some i) : encode i = some (.lane, lengthOf w, w) := by
  unfold decodeChain at h
  split at h
  next hc =>
    obtain ⟨hlen, hwait⟩ := hc
    rw [lengthOf_of_mod.2.2 hlen] at hw ⊢
    cases of_accepted h
    exact congrArg (fun w => some (Stream.lane, 96, w)) (chainWord_chainForm hlen hop hwait hw)
  · cases h

theorem encode_of_decodeCkptx {w : Nat} {i : Instr} (hop : w / 4 % 1024 = 0x255) (hw : w < 2 ^ lengthOf w)
    (h : decodeCkptx w = some i) : encode i = some (.lane, lengthOf w, w) := by
  unfold decodeCkptx at h
  split at h
  next hc =>
    obtain ⟨hlen, hrest⟩ := hc
    rw [lengthOf_of_mod.2.2 hlen] at hw ⊢
    cases h
    exact congrArg (fun w => some (Stream.lane, 96, w)) (ckptxWord_of_fields hlen hop hrest hw)
  · cases h

theorem encode_of_decodeLane {w : Nat} {i : Instr} (hw : w < 2 ^ lengthOf w) (h : decodeLane w = some i) :
    encode i = some (.lane, lengthOf w, w) := by
  unfold decodeLane at h
  split at h
  next hlen =>
    rw [lengthOf_of_mod.1 hlen] at hw ⊢
    exact encode_of_decodeShort hlen hw h
  next hlen =>
    split at h
    next hop => exact encode_of_decodeChain hop hw h
    · split at h
      next hop => exact encode_of_decodeCkptx hop hw h
      · split at h
        next mk hmk =>
          obtain ⟨x, hx, hform⟩ := Option.map_eq_some_iff.mp ((laneOps_rows _ (mem_of_lookupOp hmk)).form (laneForm w))
          obtain ⟨hop, hf⟩ := Prod.mk.inj hform
          cases of_accepted h
          rw [encode_lane hx, hop, hf, laneWord_laneForm (by omega) hw]
          have hlit : (if (laneForm w).lit.isSome then 96 else 64) = lengthOf w := by
            rcases (by omega : w % 4 = 2 ∨ w % 4 = 3) with h | h
            · simp [laneForm, h, lengthOf]
            · simp [laneForm, h, lengthOf]
          rw [hlit]
        · cases h

theorem encode_of_decodeScalar {w : Nat} {i : Instr} (hw : w < 2 ^ lengthOf w) (h : decodeScalar w = some i) :
    encode i = some (.scalar, lengthOf w, w) := by
  unfold decodeScalar at h
  split at h
  next hlen =>
    split at h
    · split at h
      next hfields =>
        cases of_accepted h
        have hlit : (if (scalarForm w).lit.isSome then 64 else 32) = lengthOf w := by
          rcases hlen with h | h <;> simp [scalarForm, h, lengthOf]
        rw [encode_scalar hfields, scalarWord_scalarForm hlen hw, hlit]
      · cases h
    · cases h
  · cases h

/-- Settles O9: what the decoder takes from a word is all that the encoder puts into one, layout by layout. -/
theorem encodeDecode : Obligations.EncodeDecode := by
  intro st w i hw h
  cases st with
  | scalar => exact encode_of_decodeScalar hw h
  | lane => exact encode_of_decodeLane hw h

/-! ## Words written out (R34 to R40) -/

/-- Settles O6: each word is the encoding of an instruction that check 2 accepts. -/
theorem decodesWords : Obligations.DecodesWords := by
  refine ⟨?_, ?_, ?_, ?_, ?_, ?_, ?_, ?_, ?_⟩
  all_goals exact (readsAs_of_encode (by decide) rfl).instr

/-- Settles O7: without a scalar instruction, what is fetched is the word that traps ILLEGAL_OP. -/
theorem lengthCodes : Obligations.LengthCodes := by
  intro w s core slot g
  obtain ⟨hshort, hlong, hlonger⟩ := lengthOf_of_mod (w := w)
  refine ⟨hshort, hlong, hlonger, fun h => ?_⟩
  have hnone : decodeWord .scalar w = none := if_neg (by omega)
  refine ⟨hnone, ?_⟩
  simp only [fetched, hnone]
  exact scalarTraps_of (body := fun _ _ _ _ => trapOf 0x01 (BitVec.ofNat 64 w))
    (Eq.refl (execUnassignedOpcode .scalar (BitVec.ofNat 64 w) s)) rfl

end Sys2Proof.Proofs
end

section
/-!
PROOFS of the statement about steps: which instruction a stream's turn runs, and what runs before it.
-/
namespace Sys2Proof.Proofs

open Sys2Proof Sys2Proof.Machine Sys2Proof.Laws Sys2Proof.Safety

/-! ## The bits of an instruction at an address (R30, R31) -/

theorem bytesToNat_eq_wordOfBytes (bs : List Byte) : bytesToNat bs = wordOfBytes bs := by
  induction bs with
  | nil => rfl
  | cons b bs ih => rw [bytesToNat, wordOfBytes, ih]

theorem wordOfBytes_append (bs cs : List Byte) :
    wordOfBytes (bs ++ cs) = wordOfBytes bs + 256 ^ bs.length * wordOfBytes cs := by
  induction bs with
  | nil => simp [wordOfBytes]
  | cons b bs ih => simp only [List.cons_append, wordOfBytes, ih, List.length_cons]; ring

section
variable {s : State} {core ctx va : Nat} {bs : List Byte} (h : Rules.codeAt s core ctx va bs)
include h

theorem codeAt_drop : Rules.codeAt s core ctx (va + 4) (bs.drop 4) := by
  intro j hj
  rw [List.length_drop] at hj
  obtain ⟨x, hx, hbytes⟩ := h (j + 1) (by omega)
  exact ⟨x, by rw [← hx]; congr 1; omega, by rw [hbytes, List.drop_drop]; congr 2; omega⟩

end

/-- The words fetched from an address are those of the bytes that a core fetches there. -/
theorem fetchWords_of_codeAt {s : State} {core ctx va : Nat} {bs : List Byte} (h : Rules.codeAt s core ctx va bs) (n : Nat)
    (hn : 4 * n ≤ bs.length) : fetchWords s core ctx va n = .ok (wordOfBytes (bs.take (4 * n))) := by
  induction n generalizing va bs with
  | zero => rfl
  | succ n ih =>
    obtain ⟨x, hx, hbytes⟩ := h 0 (by omega)
    have hrest := ih (codeAt_drop h) (by rw [List.length_drop]; omega)
    have hfirst : (bs.take 4).length = 4 := by rw [List.length_take]; omega
    have htake : bs.take (4 * (n + 1)) = bs.take 4 ++ (bs.drop 4).take (4 * n) := by
      rw [← List.take_add]; congr 1; omega
    simp only [Nat.mul_zero, Nat.add_zero, List.drop_zero] at hx hbytes
    simp only [fetchWords, hx, hbytes, hrest, bytesToNat_eq_wordOfBytes, htake, wordOfBytes_append, hfirst]
    rfl

/-- A core fetches the instruction that fills the bytes at an address, whose first word gives their number. -/
theorem fetchBits_of_codeAt {s : State} {core ctx va : Nat} {bs : List Byte} (h : Rules.codeAt s core ctx va bs)
    (hfour : 4 ≤ bs.length) (hlen : 8 * bs.length = lengthOf (wordOfBytes (bs.take 4))) :
    fetchBits s core ctx va = .ok (wordOfBytes bs) := by
  have hfirst := fetchWords_of_codeAt h 1 hfour
  have hall := fetchWords_of_codeAt h (bs.length / 4) (by omega)
  have hwords : lengthOf (wordOfBytes (bs.take 4)) / 32 = bs.length / 4 := by omega
  have hbytes : 4 * (bs.length / 4) = bs.length := by
    rcases lengthOf_cases (wordOfBytes (bs.take 4)) with h | h | h <;> omega
  rw [hbytes, List.take_length] at hall
  simp only [fetchBits, hfirst, Nat.mul_one, hwords, hall]

/-- What a decoder reads from bytes that one instruction fills. -/
theorem decode_whole {st : Stream} {bs : List Byte} {i : Instr} (h : decode st bs = some (i, bs.length)) :
    4 ≤ bs.length ∧ 8 * bs.length = lengthOf (wordOfBytes (bs.take 4)) ∧ decodeWord st (wordOfBytes bs) = some i := by
  unfold decode at h
  extract_lets n at h
  split at h
  · cases h
  next hlong =>
    split at h
    next j hj =>
      obtain ⟨rfl, hn⟩ := Prod.mk.inj (Option.some.inj h)
      rw [hn, List.take_length] at hj
      refine ⟨by omega, ?_, hj⟩
      rcases lengthOf_cases (wordOfBytes (bs.take 4)) with h | h | h <;> omega
    · cases h

/-! ## The lane stream's turn (R137) -/

/-- With no input and nothing that waits, the lane stream of a group has the turn, and its next instruction may issue. -/
structure LaneTurn (s : State) (core slot : Nat) (g : Group) : Prop where
  agenda : s.agenda = []
  waiting : nextWaiting (tick s) = none
  command : nextCommand (tick s) = none
  group : groupOf (tick s) core slot = some g
  turn : s.turn = .lane core slot
  before : beforeLane (tick s) core slot = none
  due : dueLane (tick s) g = false
  can : canIssue (tick s) g = true
  granted : ungranted (tick s) core slot = false
  helper : helperStep (tick s) core slot g = none

theorem LaneTurn.step_eq {s : State} {core slot : Nat} {g : Group} (h : LaneTurn s core slot g) :
    step s = andNext (afterTurn (.lane core slot)) (fetchIssue (laneSeen (tick s) core g) core slot g) := by
  rw [step_lane h.agenda h.waiting h.command h.turn]
  simp [laneTurn, laneStep, laneIssue, h.before, h.group, h.due, h.can, h.granted, h.helper]

section
variable {s : State} {core slot : Nat} {g : Group} {w : Nat} {bs : List Byte}

theorem fetchIssue_translated {i : Instr} (h : fetchLane s core g = .ok (.translated i)) :
    fetchIssue s core slot g = exec i s := by
  simp only [fetchIssue, h]

/-- A native word at the lane stream's address runs as what it decodes to, or as the word that traps ILLEGAL_OP. -/
theorem fetchIssue_native (hsub : g.ln.pc.sub = 0) (hnative : Rules.nativeAt s core g.ctx g.ln.pc.addr.toNat)
    (hcode : Rules.codeAt s core g.ctx g.ln.pc.addr.toNat bs) (hfour : 4 ≤ bs.length)
    (hlen : 8 * bs.length = lengthOf (wordOfBytes (bs.take 4))) :
    fetchIssue s core slot g = exec (fetched .lane (wordOfBytes bs)) s := by
  obtain ⟨x, hx, hleaf⟩ := hnative
  have hfetch : fetchLane s core g = .ok (.native (wordOfBytes bs)) := by
    simp [fetchLane, withinWord, hsub, fetchAt, hx, hleaf, fetchBits_of_codeAt hcode hfour hlen]
  simp only [fetchIssue, hfetch]

end

/-! ## The scalar stream's turn (R230) -/

/-- With no input and nothing that waits, the scalar stream of a group has the turn, and its next instruction may issue. -/
structure ScalarTurn (s : State) (core slot : Nat) (g : Group) : Prop where
  agenda : s.agenda = []
  waiting : nextWaiting (tick s) = none
  command : nextCommand (tick s) = none
  group : groupOf (tick s) core slot = some g
  turn : s.turn = .scalar core slot
  due : dueScalar (tick s) g = false
  can : canScalar (tick s) g = true

theorem ScalarTurn.step_eq {s : State} {core slot : Nat} {g : Group} {bs : List Byte} (h : ScalarTurn s core slot g)
    (hnative : Rules.nativeAt (fetchSeen (tick s) core g.ctx g.sc.pc.toNat) core g.ctx g.sc.pc.toNat)
    (hcode : Rules.codeAt (fetchSeen (tick s) core g.ctx g.sc.pc.toNat) core g.ctx g.sc.pc.toNat bs) (hfour : 4 ≤ bs.length)
    (hlen : 8 * bs.length = lengthOf (wordOfBytes (bs.take 4))) :
    step s = andNext (afterTurn (.scalar core slot))
      (exec (fetched .scalar (wordOfBytes bs)) (fetchSeen (tick s) core g.ctx g.sc.pc.toNat)) := by
  obtain ⟨x, hx, hleaf⟩ := hnative
  have hfetch : fetchScalar (fetchSeen (tick s) core g.ctx g.sc.pc.toNat) core g = .ok (wordOfBytes bs) := by
    simp [fetchScalar, hx, hleaf, fetchBits_of_codeAt hcode hfour hlen]
  simp only [step, h.agenda, ownStep, h.waiting, h.command, turn_tick, h.turn, scalarTurn, scalarStep, h.group, h.due, h.can,
    hfetch, Bool.not_true, Bool.false_eq_true, if_false]

/-! ## What runs -/

/-- With no input, what has waited goes on (R106, R121). -/
theorem step_waiting {s t : State} (hagenda : s.agenda = []) (hwaiting : nextWaiting (tick s) = some t) :
    step s = .next t := by
  simp only [step, hagenda, ownStep, hwaiting]

/-- With no input and nothing that has waited, a waiting mailbox command runs. -/
theorem step_command {s : State} {i : Instr} (hagenda : s.agenda = []) (hwaiting : nextWaiting (tick s) = none)
    (hcommand : nextCommand (tick s) = some i) : step s = exec i (tick s) := by
  simp only [step, hagenda, ownStep, hwaiting, hcommand]

theorem fetched_of_decodeWord {st : Stream} {w : Nat} {i : Instr} (h : decodeWord st w = some i) : fetched st w = i := by
  simp only [fetched, h]

theorem fetched_of_none {st : Stream} {w : Nat} (h : decodeWord st w = none) :
    fetched st w = .unassignedOpcode st (BitVec.ofNat 64 w) := by
  simp only [fetched, h]

/-- Settles O13: a stream's turn from what its address holds, an input's and a waiting command's from `step` itself. -/
theorem stepRuns : Obligations.StepRuns := by
  intro s core slot g i bs l s0 own laneTurn scalarTurn pc spc seen sseen
  have hlane (h : laneTurn) : LaneTurn s core slot g := by
    obtain ⟨⟨hagenda, hwaiting, hcommand, hgroup⟩, hturn, hbefore, hdue, hcan, hgranted, hhelper⟩ := h
    exact ⟨hagenda, hwaiting, hcommand, hgroup, hturn, hbefore, hdue, hcan, hgranted, hhelper⟩
  have hscalar (h : scalarTurn) : ScalarTurn s core slot g := by
    obtain ⟨⟨hagenda, hwaiting, hcommand, hgroup⟩, hturn, hdue, hcan⟩ := h
    exact ⟨hagenda, hwaiting, hcommand, hgroup, hturn, hdue, hcan⟩
  refine ⟨fun h hsub hnative hcode hdecode => ?_, fun h hsub hnative hcode hfour hlen hnone => ?_, fun h hword => ?_,
    fun h hnative hcode hdecode => ?_, fun h hnative hcode hfour hlen hnone => ?_, fun c hagenda hwaits => ?_,
    fun hagenda hwaits harrives => ?_, fun t => step_waiting, step_command⟩
  · obtain ⟨hfour, hlen, hi⟩ := decode_whole hdecode
    rw [(hlane h).step_eq, fetchIssue_native hsub hnative hcode hfour hlen, fetched_of_decodeWord hi]
  · rw [(hlane h).step_eq, fetchIssue_native hsub hnative hcode hfour hlen, fetched_of_none hnone]
  · rw [(hlane h).step_eq, fetchIssue_translated hword]
  · obtain ⟨hfour, hlen, hi⟩ := decode_whole hdecode
    rw [(hscalar h).step_eq hnative hcode hfour hlen, fetched_of_decodeWord hi]
  · rw [(hscalar h).step_eq hnative hcode hfour hlen, fetched_of_none hnone]
  · simp only [step, hagenda, hwaits]
  · simp only [step, hagenda, hwaits, harrives, if_true]

end Sys2Proof.Proofs
end

section
/-!
PROOFS of the statement about the issue step: what it adds to an instruction's effect.
-/
namespace Sys2Proof.Proofs

open Sys2Proof Sys2Proof.Machine Sys2Proof.Laws Sys2Proof.Safety

/-! ## What the issue step leaves of an effect (R45, R51, R52, R57, R192) -/

section
variable {i : Instr} {e : Iss} {d : Done} {g : Group} (hg : groupOf d.st e.core e.slot = some g)

/-- The package after an effect that raises no enabled flag as it issues. -/
def settledAfter (i : Instr) (e : Iss) (d : Done) (g : Group) : State :=
  setCore d.st e.core (coreAfter i e d d.st.opp g (coreOf d.st e.core))

include hg in
theorem landed_lets (h : d.pend ≠ none ∨ laneFp e.g.ln.fpc d.flags = none) : landed i e d = settledAfter i e d g := by
  have hraise : (if d.pend.isNone then laneFp e.g.ln.fpc d.flags else none) = none := by
    rcases h with h | h
    · exact if_neg (by simpa using h)
    · rw [h, ite_self]
  simp only [landed, hg, hraise, settledAfter]

include hg in
theorem landed_raises {t : Trap} (hp : d.pend = none) (h : laneFp e.g.ln.fpc d.flags = some t) :
    landed i e d = raiseTrap (settledAfter i e d g) e.core e.slot .lane
      { t with mask := some e.lanes, site := some ⟨e.g.ln.pc, e.cas.isSome⟩ } := by
  simp only [landed, hg, hp, Option.isNone_none, if_true, h, settledAfter]

theorem groupOf_settledAfter (slot : Nat) :
    groupOf (settledAfter i e d g) e.core slot =
      if slot = e.slot then some (groupAfter i e d g) else groupOf d.st e.core slot := by
  rw [groupOf, settledAfter, coreOf_setCore, coreAfter, mget?_mset]
  rfl

end

/-- Settles O15, from what `groupAfter` leaves of a group (`groupAfter_rest`). -/
theorem effectLands : Obligations.EffectLands := by
  intro i e d g p tr hg
  refine ⟨fun hp hfp => landed_raises hg hp hfp, fun h => ?_⟩
  rw [landed_lets hg h]
  obtain ⟨r, o, -, hafter⟩ := groupAfter_rest i e d g
  refine ⟨rfl, fun c hc => coreOf_setCore_other _ _ _ _ hc, fun slot hslot => ?_, groupAfter i e d g, ?_, ?_⟩
  · rw [groupOf_settledAfter, if_neg hslot]
  · rw [groupOf_settledAfter, if_pos rfl]
  · rw [hafter]
    refine ⟨rfl, rfl, rfl, rfl, rfl, fun hf => ?_, fun pc hf => ?_, fun hf => ?_, fun hp => ?_, fun hp => ?_⟩
    · simp [markSets, laneAfter, pcAfter, hf]
    · simp [markSets, laneAfter, pcAfter, hf]
    · simp [markSets, laneAfter, pcAfter, hf, freeNames]
    · simp [markSets, laneAfter, hp, freeNames]
    · refine ⟨by simp [markSets, laneAfter, hp, freeNames], by simp [markSets, laneAfter, hp, freeNames, Machine.setOf], fun n hn => ?_⟩
      have hset : Machine.setOf e.x = some n := hn
      simp [markSets, laneAfter, hp, freeNames, hset]

end Sys2Proof.Proofs
end

section
/-!
PROOFS of the statement about the transfers of the lane stream.
-/
namespace Sys2Proof.Proofs

open Sys2Proof Sys2Proof.Machine Sys2Proof.Laws Sys2Proof.Safety

/-! ## Transfers of the lanes taking part (R150) -/

section
variable {s : State} {e : Iss} {i : Instr} {target rcv : Nat} {gen : Bool}

/-- Without a guard, or where no active lane is left to others, a transfer is a jump. -/
theorem transfer_of_all (h : gen = false ∨ e.g.ln.em &&& ~~~ e.lanes = 0) :
    (if gen then transfer s e i target rcv else .ok (Done.jump s (BitVec.ofNat 48 target))) =
      .ok (Done.jump s (BitVec.ofNat 48 target)) := by
  rcases h with rfl | h
  · rfl
  · cases gen
    · rfl
    · exact if_pos h

/-- A transfer that leaves lanes to others pushes their entries and goes on with the lanes taking part. -/
theorem transfer_of_some {l : Lane} {m : Memory} (hgen : gen = true) (hrest : e.g.ln.em &&& ~~~ e.lanes ≠ 0)
    (hpush : pushPaths e.g.ln (coreOf s e.core).scratch (followingPc e i).addr
      (e.g.ln.pc.addr + BitVec.ofNat 48 (4 * rcv)) (e.g.ln.em &&& ~~~ e.lanes) = .ok (l, m)) :
    (if gen then transfer s e i target rcv else .ok (Done.jump s (BitVec.ofNat 48 target))) =
      .ok (Done.jump (putLane s e.core e.slot ({ l with em := e.lanes }, m)) (BitVec.ofNat 48 target)) := by
  simp only [hgen, if_true, transfer, if_neg hrest, hpush]

end

/-! ## `bra`, `brau`, `jmpi` and `call` (R174 to R177) -/

section
variable {f : LaneForm} {s : State} {e : Iss} {qs : List Queue} (hpath : e.g.ln.path = none)
include hpath

section
variable (ht : checkTransfer (issued s e qs) e (relTarget e.g.ln.pc (f.lit.getD 0)) = .ok ())
include ht

theorem bra_completes {d : Done}
    (hd : (if f.ctl.gen then transfer (issued s e qs) e (.bra f) (relTarget e.g.ln.pc (f.lit.getD 0)) (wide16 f)
      else .ok (Done.jump (issued s e qs) (BitVec.ofNat 48 (relTarget e.g.ln.pc (f.lit.getD 0))))) = .ok d) :
    Completes (.bra f) s e qs d := by
  refine completes_of (Eq.refl (execBra f s)) fun _ => ?_
  simp only [checkNest_of_outside hpath, andThen, ht]
  exact hd

theorem call_completes {l : Lane} {m : Memory} (hcas : e.cas = none)
    (hpush : pushEntry e.g.ln (coreOf (issued s e qs) e.core).scratch
      ⟨.call, e.g.ln.pc.addr + 12, 0, e.g.ln.em, e.g.ln.fmt⟩ = .ok (l, m)) :
    Completes (.call f) s e qs (Done.jump (putLane (issued s e qs) e.core e.slot ({ l with em := e.lanes }, m))
      (BitVec.ofNat 48 (relTarget e.g.ln.pc (f.lit.getD 0)))) := by
  have hcheck : andThen (checkTarget (relTarget e.g.ln.pc (f.lit.getD 0)))
      (checkPage (issued s e qs) e (relTarget e.g.ln.pc (f.lit.getD 0))) = .ok () := ht
  refine completes_of (Eq.refl (execCall f s)) fun _ => ?_
  simp only [checkNest_of_outside hpath, callTarget, hcas, Option.isSome_none, Bool.false_eq_true, if_false, hcheck, hpush]
  rfl

end

/-- The lanes in which the condition of a `brau` holds (R175). -/
def brauLanes (f : LaneForm) (s : State) (e : Iss) (qs : List Queue) : Mask :=
  e.g.ln.em &&& (if f.src2 = 1 then ~~~ predMask (issued s e qs) e.g.ln f.src1.toNat
    else predMask (issued s e qs) e.g.ln f.src1.toNat)

theorem brau_jumps (ht : checkTransfer (issued s e qs) e (relTarget e.g.ln.pc (f.lit.getD 0)) = .ok ())
    (hall : brauLanes f s e qs = e.g.ln.em) :
    Completes (.brau f) s e qs (Done.jump (issued s e qs) (BitVec.ofNat 48 (relTarget e.g.ln.pc (f.lit.getD 0)))) := by
  rw [brauLanes] at hall
  refine completes_of (Eq.refl (execBrau f s)) fun _ => ?_
  simp only [checkNest_of_outside hpath, hall, if_true, ht]

theorem brau_falls (hsome : brauLanes f s e qs ≠ e.g.ln.em) (hnone : brauLanes f s e qs = 0) :
    Completes (.brau f) s e qs (Done.plain (issued s e qs)) := by
  rw [brauLanes] at hsome hnone
  refine completes_of (Eq.refl (execBrau f s)) fun _ => ?_
  simp only [checkNest_of_outside hpath, if_neg hsome]
  exact if_pos hnone

theorem brau_traps (hsome : brauLanes f s e qs ≠ e.g.ln.em) (hany : brauLanes f s e qs ≠ 0) :
    Traps (.brau f) s e qs ⟨0x05, 0, if (brauLanes f s e qs).getLsbD (lowestLane e.g.ln.em)
      then e.g.ln.em &&& ~~~ brauLanes f s e qs else brauLanes f s e qs, none, none⟩ := by
  rw [brauLanes] at hsome hany
  refine traps_of (Eq.refl (execBrau f s)) fun _ => ?_
  simp only [checkNest_of_outside hpath, if_neg hsome, if_neg hany]
  rfl

/-- The target that the lowest lane gives a `jmpi` (R176). -/
def jmpiTarget (s : State) (e : Iss) (qs : List Queue) : Nat :=
  src64 (issued s e qs) e (fieldAt e.x 1) (lowestLane e.lanes)

/-- The lanes whose target is not that of the lowest lane (R176). -/
def jmpiDissent (s : State) (e : Iss) (qs : List Queue) : Mask :=
  e.lanes &&& maskOf (fun j => decide (src64 (issued s e qs) e (fieldAt e.x 1) j ≠ jmpiTarget s e qs))

theorem jmpi_completes {d : Done} (hagree : jmpiDissent s e qs = 0)
    (ht : checkTransfer (issued s e qs) e (jmpiTarget s e qs) = .ok ())
    (hd : (if f.ctl.gen then transfer (issued s e qs) e (.jmpi f) (jmpiTarget s e qs) (wide16 f)
      else .ok (Done.jump (issued s e qs) (BitVec.ofNat 48 (jmpiTarget s e qs)))) = .ok d) :
    Completes (.jmpi f) s e qs d := by
  simp only [jmpiTarget] at ht hd
  refine completes_of (Eq.refl (execJmpi f s)) fun _ => ?_
  simp only [checkNest_of_outside hpath, ht]
  exact (if_neg (not_not.mpr hagree)).trans hd

theorem jmpi_traps (hdissent : jmpiDissent s e qs ≠ 0) :
    Traps (.jmpi f) s e qs ⟨0x05, 0, jmpiDissent s e qs, none, none⟩ := by
  refine traps_of (Eq.refl (execJmpi f s)) fun _ => ?_
  simp only [checkNest_of_outside hpath]
  exact if_pos hdissent

end

/-- The transfers, from what each does outside a meld region. -/
theorem transfers : Sys2Proof.Rules.Transfers := by
  intro f s e qs hpath s0 l m t tgt rpc rest p c v agree
  exact ⟨fun ht => ⟨fun hall => bra_completes hpath ht (transfer_of_all hall),
      fun l' m' hgen hrest hpush => bra_completes hpath ht (transfer_of_some hgen hrest hpush), brau_jumps hpath ht⟩,
    brau_falls hpath,
    fun hagree ht => ⟨fun hall => jmpi_completes hpath hagree ht (transfer_of_all hall),
      fun l' m' hgen hrest hpush => jmpi_completes hpath hagree ht (transfer_of_some hgen hrest hpush)⟩,
    fun l' m' hcas ht hpush => call_completes hpath ht hcas hpush⟩

theorem uniformityTraps : Sys2Proof.Rules.UniformityTraps := by
  intro f s e qs hpath s0 l p c v dissent
  exact ⟨brau_traps hpath, jmpi_traps hpath⟩

/-- Settles O19: each transfer by its check and by the lanes that it leaves to others. -/
theorem laneTransfers : Obligations.LaneTransfers := ⟨transfers, uniformityTraps⟩

end Sys2Proof.Proofs
end

section
/-!
PROOFS of the statement about results of variable latency.
-/
namespace Sys2Proof.Proofs

open Sys2Proof Sys2Proof.Machine Sys2Proof.Laws Sys2Proof.Safety

/-! ## Results that complete (R52, R193, R398) -/

section
variable {core slot idx : Nat} {s : State} {g : Group} {p : Pending} (hg : groupOf s core slot = some g)
include hg

theorem sfuResult_completes (h : (g.ln.outstanding.filter (fun p => decide (p.kind = .sfu))).head? = some p) :
    exec (.sfuResult core slot) s = .next (completeTag s core slot p.tag) := by
  rw [List.head?_filter] at h
  change execSfuResult core slot s = _
  simp only [execSfuResult, hg, h]

theorem srResult_completes
    (h : ((g.ln.outstanding.filter (fun p => decide (p.kind = .stochastic))).drop idx).head? = some p) :
    exec (.srResult core slot idx) s = .next (completeTag s core slot p.tag) := by
  obtain ⟨l, hl⟩ := List.head?_eq_some_iff.mp h
  change execSrResult core slot idx s = _
  simp only [execSrResult, hg, hl]

theorem completeKind_of_pendingAt {kinds : PendingKind → Bool} (h : pendingAt s g kinds idx = some p) :
    completeKind s core slot idx kinds = completeTag s core slot p.tag := by
  simp only [completeKind, hg, h]

/-- The group with the words of a result written, its scoreboard fallen and its flags gathered. -/
def receivedBy (s : State) (g : Group) (p : Pending) : Group :=
  { (p.writes.foldl (writeName s) g) with ln := settleLane (p.writes.foldl (writeName s) g).ln p }

/-- A result that raises no enabled flag and finds its registers leaves its group with it received. -/
theorem completeTag_received (hp : pendingOf s core slot p.tag = some p) (hfp : laneFp p.fpc p.flags = none)
    (hroom : charge (receivedBy s g p) ≤ (coreOf s core).pool + charge g) :
    completeTag s core slot p.tag = setCore s core { coreOf s core with
      groups := mset (coreOf s core).groups slot
        { receivedBy s g p with ln := markSets (coreOf s core).bankSet (receivedBy s g p).ln },
      pool := (coreOf s core).pool + charge g - charge (receivedBy s g p) } := by
  have hflags : { p with flags := p.flags ||| 0 } = p := by simp
  have hnone : laneFp p.fpc (p.flags ||| 0) = none := by simpa using hfp
  rw [receivedBy] at hroom ⊢
  simp only [completeTag, hp, completeWith, hg, hflags, settlePool, if_pos hroom, hnone]

end

/-- Settles O29: each step completes a result by its tag, and what completes is received (`completeTag_received`); a write
touches nothing but registers (`writes_rest`). -/
theorem lateResults : Obligations.LateResults := by
  intro core slot idx s g p hg of come after
  refine ⟨sfuResult_completes hg, srResult_completes hg,
    fun h => congrArg Host.Outcome.next (completeKind_of_pendingAt hg h), fun h => ?_, fun hp hfp hroom => ?_⟩
  · have hkind := completeKind_of_pendingAt (kinds := fun k => decide (k = .release ∨ k = .fence)) hg h
    change execReleaseComplete core slot idx s = _
    rw [execReleaseComplete, hkind]
  · obtain ⟨r, o, hwrites⟩ := writes_rest s p.writes g
    refine ⟨_, { receivedBy s g p with ln := markSets (coreOf s core).bankSet (receivedBy s g p).ln },
      completeTag_received hg hp hfp hroom, ?_, rfl, ?_, ?_, fun n hn => ?_, rfl⟩
    · simp [groupOf]
    · simp [receivedBy, settleLane, markSets, hwrites]
    · simp [receivedBy, settleLane, markSets, hwrites]
    · simp [receivedBy, settleLane, markSets, hwrites, hn]

end Sys2Proof.Proofs
end

section
/-!
PROOFS of the statement about how the matrix instructions enter the array queue, and where they trap.
-/
namespace Sys2Proof.Proofs

open Sys2Proof Sys2Proof.Machine Sys2Proof.Laws Sys2Proof.Safety

theorem arrayInstr_enters {s : State} {e : Iss} (hroom : (coreOf s e.core).arrayQ.length < 16) (op : ArrayOp) :
    arrayInstr s e op = .ok (performed (Rules.entered s e op) e .array) := by
  simp only [arrayInstr, enqueueArray_one op hroom]

section
variable {f : LaneForm} {s : State} {e : Iss} {qs : List Queue} {c : Cohort}
  (hc : cohortOf (coreOf (issued s e qs) e.core) e.g = some c)
include hc

/-! ## `mma` (R295, R298, R306) -/

theorem mma_completes (hwhole : partialQuarters e.lanes = 0)
    (hbsel : bselOk e.g.ln.fmt c.bsl (uni32 (issued s e qs) e (fieldAt e.x 2)) = true) {passes : List ArrayEntry}
    (hpasses : enterQuarters (issued s e qs) e (c.bBase + uni32 (issued s e qs) e (fieldAt e.x 2) / 2 ^ 11)
      (uni32 (issued s e qs) e (fieldAt e.x 2) % 2 ^ 11)
      ((quartersOf e.lanes).map (passQuarter (issued s e qs) e c f.dst.toNat))
      (coreOf (issued s e qs) e.core).arrayQ = passes) (hroom : passes.length ≤ 16) :
    Completes (.mma f) s e qs (Done.later (modCore (issued s e qs) e.core (fun k => { k with arrayQ := passes }))
      (pendingResult (modCore (issued s e qs) e.core (fun k => { k with arrayQ := passes })) e .array [] 0)) := by
  refine completes_of (Eq.refl (execMma f s)) fun _ => ?_
  simp only [hc, hwhole, ne_eq, not_true_eq_false, if_false, hbsel, Bool.not_true, Bool.false_eq_true, hpasses]
  exact if_neg (Nat.not_lt.mpr hroom)

theorem mma_partial (hpartial : partialQuarters e.lanes ≠ 0) :
    Traps (.mma f) s e qs ⟨0x06, 0, BitVec.ofNat 64 (partialQuarters e.lanes), none, none⟩ := by
  refine traps_of (Eq.refl (execMma f s)) fun _ => ?_
  simp only [hc]
  exact if_pos hpartial

theorem mma_beyond_limits (hwhole : partialQuarters e.lanes = 0)
    (hbsel : bselOk e.g.ln.fmt c.bsl (uni32 (issued s e qs) e (fieldAt e.x 2)) = false) :
    Traps (.mma f) s e qs ⟨0x02, 0, BitVec.ofNat 64 (2 + f.src2.toNat * 256), none, none⟩ := by
  refine traps_of (Eq.refl (execMma f s)) fun _ => ?_
  simp only [hc, hwhole, ne_eq, not_true_eq_false, if_false, hbsel, Bool.not_false, if_true]
  exact illegalOperand_field Done 2 f.src2

/-! ## `mmz`, `mmrd` and `mmwr` (R307, R308) -/

section
variable (hroom : (coreOf (issued s e qs) e.core).arrayQ.length < 16)
include hroom

theorem mmz_completes : Completes (.mmz f) s e qs
    (performed (Rules.entered (issued s e qs) e (.zero (zeroRows c e.g f.dst.toNat))) e .array) := by
  refine completes_of (Eq.refl (execMmz f s)) fun _ => ?_
  simp only [hc]
  exact arrayInstr_enters hroom _

theorem mmrd_completes {t : State} (ht : Rules.entered (issued s e qs) e (.read f.src2.toNat
      ((lanesOf e.lanes).map (fun l => (l, laneRow c e.g f.src1.toNat l, f.src3.toNat)))) = t) :
    Completes (.mmrd f) s e qs (Done.later t (pendingResult t e .array
      (writeSized (wideType f.src2.toNat) f.dst.toNat e.lanes (fun _ => 0)) 0)) := by
  refine completes_of (Eq.refl (execMmrd f s)) fun _ => ?_
  simp only [hc, enqueueArray_one _ hroom, ht]

theorem mmwr_completes : Completes (.mmwr f) s e qs (performed (Rules.entered (issued s e qs) e
    (.write ((lanesOf e.lanes).map (fun l => (laneRow c e.g f.dst.toNat l, f.src3.toNat,
      writtenCell f.src2.toNat (src64 (issued s e qs) e (fieldAt e.x 1) l)))))) e .array) := by
  refine completes_of (Eq.refl (execMmwr f s)) fun _ => ?_
  simp only [hc]
  exact arrayInstr_enters hroom _

end

/-! ## `bfill` (R309) -/

theorem bfill_beyond_limits (hword : fillOk (uni32 (issued s e qs) e (fieldAt e.x 2)) = false) :
    Traps (.bfill f) s e qs ⟨0x02, 0, BitVec.ofNat 64 (2 + f.src2.toNat * 256), none, none⟩ := by
  refine traps_of (Eq.refl (execBfill f s)) fun _ => ?_
  simp only [hc, hword, Bool.not_false, if_true]
  exact illegalOperand_field Done 2 f.src2

variable (hword : fillOk (uni32 (issued s e qs) e (fieldAt e.x 2)) = true)
include hword

theorem bfill_misaligned (halign : uni64 (issued s e qs) e (fieldAt e.x 1) % 8 ≠ 0) :
    Traps (.bfill f) s e qs ⟨0x0C, 0, BitVec.ofNat 64 (uni64 (issued s e qs) e (fieldAt e.x 1)), none, none⟩ := by
  refine traps_of (Eq.refl (execBfill f s)) fun _ => ?_
  simp only [hc, hword, Bool.not_true, Bool.false_eq_true, if_false]
  exact if_pos halign

variable (halign : uni64 (issued s e qs) e (fieldAt e.x 1) % 8 = 0)
include halign

theorem bfill_too_far (hfar : 2 ^ 48 ≤ uni64 (issued s e qs) e (fieldAt e.x 1)) :
    Traps (.bfill f) s e qs ⟨0x0D, 0, BitVec.ofNat 64 (uni64 (issued s e qs) e (fieldAt e.x 1)), none, none⟩ := by
  refine traps_of (Eq.refl (execBfill f s)) fun _ => ?_
  simp only [hc, hword, Bool.not_true, Bool.false_eq_true, if_false, halign, ne_eq, not_true_eq_false]
  exact if_pos hfar

theorem bfill_completes (hnear : uni64 (issued s e qs) e (fieldAt e.x 1) < 2 ^ 48)
    (hroom : (coreOf (issued s e qs) e.core).arrayQ.length < 16)
    (hengine : (coreOf (issued s e qs) e.core).engine.length < 16) {n o : Nat}
    (hn : uni32 (issued s e qs) e (fieldAt e.x 2) % 2 ^ 12 = n)
    (ho : uni32 (issued s e qs) e (fieldAt e.x 2) / 2 ^ 12 % 2 ^ 11 = o) :
    Completes (.bfill f) s e qs (performed (modCore (Rules.entered (issued s e qs) e (.fill
      ⟨gidOf e.g, (issued s e qs).fresh, c.bBase + f.dst.toNat, o, n, Machine.setOf e.x, false, false, false, none, []⟩))
      e.core (fun k => { k with engine := k.engine ++ [⟨e.slot, gidOf e.g, e.g.ln.pc, (issued s e qs).fresh,
        .fill (uni64 (issued s e qs) e (fieldAt e.x 1)) (c.bBase + f.dst.toNat) o (64 * n), none, .start⟩] })) e .engine) := by
  have hfree (op : ArrayOp) : ¬ engineRoom ≤ (coreOf (Rules.entered (issued s e qs) e op) e.core).engine.length := by
    rw [Rules.entered, coreOf_modCore]
    exact Nat.not_le.mpr hengine
  refine completes_of (Eq.refl (execBfill f s)) fun _ => ?_
  simp only [hc, hword, Bool.not_true, Bool.false_eq_true, if_false, halign, ne_eq, not_true_eq_false,
    if_neg (Nat.not_le.mpr hnear), hn, ho, enqueueArray_one _ hroom, enqueueEngine, if_neg (hfree _)]
  rfl

end

theorem matrixInstructions : Sys2Proof.Rules.MatrixInstructions := by
  intro f s e qs c s0 k lanes room bsel va n o later row passes fill hc
  exact ⟨fun hwhole hbsel hroom => mma_completes hc hwhole hbsel rfl hroom, mmz_completes hc,
    fun hroom => mmrd_completes hc hroom rfl, mmwr_completes hc,
    fun hword halign hnear hroom hengine => bfill_completes hc hword halign hnear hroom hengine rfl rfl⟩

theorem matrixTraps : Sys2Proof.Rules.MatrixTraps := by
  intro f s e qs c s0 w va field2 hc
  exact ⟨mma_partial hc, mma_beyond_limits hc, bfill_beyond_limits hc, bfill_misaligned hc, bfill_too_far hc⟩

/-- Settles O41: each instruction by its checks and by the entry that it makes (`enqueueArray_one`). -/
theorem matrixIssue : Obligations.MatrixIssue := ⟨matrixInstructions, matrixTraps⟩

end Sys2Proof.Proofs
end

section
/-!
SUPPORT and PROOFS of the statement about the schedulers: which stream an opportunity is given to, which reads a bank grants,
and where a cohort is placed.
-/
namespace Sys2Proof.Proofs

open Sys2Proof Sys2Proof.Machine Sys2Proof.Laws Sys2Proof.Safety

/-! ## The first of a sorted list -/

theorem mem_insertBy {α : Type} {before : α → α → Bool} {x y : α} {l : List α} :
    y ∈ insertBy before x l ↔ y = x ∨ y ∈ l := by
  induction l with
  | nil => simp [insertBy]
  | cons z l ih =>
    simp only [insertBy]
    split
    · simp only [List.mem_cons, ih]; tauto
    · simp only [List.mem_cons]

theorem mem_sortBy {α : Type} {before : α → α → Bool} {y : α} {l : List α} : y ∈ sortBy before l ↔ y ∈ l := by
  induction l with
  | nil => rfl
  | cons x l ih => rw [sortBy, List.foldr_cons, mem_insertBy, ← sortBy, ih, List.mem_cons]

theorem mem_of_head_sortBy {α : Type} {before : α → α → Bool} {x : α} {l : List α}
    (h : (sortBy before l).head? = some x) : x ∈ l :=
  mem_sortBy.mp (List.mem_of_head? h)

theorem head_sortBy_isSome {α : Type} (before : α → α → Bool) {l : List α} (h : l ≠ []) :
    ∃ x, (sortBy before l).head? = some x := by
  obtain ⟨y, hy⟩ := List.exists_mem_of_ne_nil l h
  exact ⟨_, List.head?_eq_some_head (List.ne_nil_of_mem (mem_sortBy.mpr hy))⟩

theorem lexLt_cons_false {a b : Nat} {l m : List Nat} :
    lexLt (a :: l) (b :: m) = false ↔ b ≤ a ∧ (a = b → lexLt l m = false) := by
  simp [lexLt]

theorem lexLt_self (l : List Nat) : lexLt l l = false := by
  induction l with
  | nil => rfl
  | cons a l ih => exact lexLt_cons_false.mpr ⟨Nat.le_refl a, fun _ => ih⟩

theorem lexLt_asymm {l m : List Nat} (h : lexLt l m = true) : lexLt m l = false := by
  induction l generalizing m with
  | nil => cases m <;> cases h
  | cons a l ih =>
    cases m with
    | nil => rfl
    | cons b m =>
      simp only [lexLt, Bool.or_eq_true, Bool.and_eq_true, decide_eq_true_eq] at h
      rcases h with hlt | ⟨heq, hlm⟩
      · exact lexLt_cons_false.mpr ⟨Nat.le_of_lt hlt, fun he => by omega⟩
      · exact lexLt_cons_false.mpr ⟨Nat.le_of_eq heq, fun _ => ih hlm⟩

/-- Of lists of one length, what is not below a list that is not below a third is not below that. -/
theorem lexLt_false_trans {k l m : List Nat} (hkl : k.length = l.length) (hlm : l.length = m.length)
    (h1 : lexLt k l = false) (h2 : lexLt l m = false) : lexLt k m = false := by
  induction k generalizing l m with
  | nil => cases m <;> rfl
  | cons a k ih =>
    cases l with
    | nil => cases hkl
    | cons b l =>
      cases m with
      | nil => rfl
      | cons c m =>
        obtain ⟨hba, hab⟩ := lexLt_cons_false.mp h1
        obtain ⟨hcb, hbc⟩ := lexLt_cons_false.mp h2
        refine lexLt_cons_false.mpr ⟨Nat.le_trans hcb hba, fun hac => ?_⟩
        exact ih (Nat.succ.inj hkl) (Nat.succ.inj hlm) (hab (by omega)) (hbc (by omega))

/-- No element's key is below that of the first of a list sorted by keys of one length. -/
theorem head_sortBy_least {α : Type} (key : α → List Nat) {n : Nat} (hkey : ∀ x, (key x).length = n) {l : List α} {x : α}
    (h : (sortBy (fun a b => lexLt (key a) (key b)) l).head? = some x) : ∀ y ∈ l, lexLt (key y) (key x) = false := by
  induction l generalizing x with
  | nil => cases h
  | cons a l ih =>
    rw [sortBy, List.foldr_cons, ← sortBy] at h
    cases hs : sortBy (fun a b => lexLt (key a) (key b)) l with
    | nil =>
      have hl : ∀ y, y ∉ l := fun y hy => by simpa [hs] using mem_sortBy (before := fun a b => lexLt (key a) (key b)).mpr hy
      rw [hs] at h
      cases h
      intro y hy
      rcases List.mem_cons.mp hy with rfl | hy
      · exact lexLt_self _
      · exact absurd hy (hl y)
    | cons b m =>
      rw [hs] at ih h
      simp only [insertBy] at h
      split at h
      next hba =>
        cases h
        intro y hy
        rcases List.mem_cons.mp hy with rfl | hy
        · exact lexLt_asymm hba
        · exact ih rfl y hy
      next hba =>
        cases h
        intro y hy
        rcases List.mem_cons.mp hy with rfl | hy
        · exact lexLt_self _
        · exact lexLt_false_trans (by rw [hkey, hkey]) (by rw [hkey, hkey]) (ih rfl y hy) (by simpa using hba)

/-! ## The choice among candidates (R140, R142) -/

/-- The candidate that R142 chooses, with the counter that counts for its stream: of those passed 32 times one of highest
priority, else an oldest one. -/
def FirstChoice (count : Group → Nat) (l : List (Nat × Group)) (x : Nat × Group) : Prop :=
  (∀ y ∈ l, count y.2 = 32 → count x.2 = 32 ∧ 255 - x.2.prio ≤ 255 - y.2.prio) ∧
  ((∀ y ∈ l, count y.2 ≠ 32) → ∀ y ∈ l, x.2.age ≤ y.2.age)

theorem firstChoice_of_chosen {count : Group → Nat} {l : List (Nat × Group)} {x : Nat × Group}
    (h : chosen count l = some x) : x ∈ l ∧ FirstChoice count l x := by
  unfold chosen at h
  split at h
  next z hz =>
    cases h
    obtain ⟨hx, hcount⟩ : x ∈ l ∧ count x.2 = 32 := by simpa using mem_of_head_sortBy hz
    have hleast := head_sortBy_least (n := 3) (fun a : Nat × Group => [255 - a.2.prio, a.2.age, a.1]) (fun _ => rfl) hz
    refine ⟨hx, fun y hy hy32 => ⟨hcount, ?_⟩, fun hnone => absurd hcount (hnone x hx)⟩
    exact (lexLt_cons_false.mp (hleast y (by simp [hy, hy32]))).1
  next hnone =>
    have hleast := head_sortBy_least (n := 2) (fun a : Nat × Group => [a.2.age, a.1]) (fun _ => rfl) h
    refine ⟨mem_of_head_sortBy h, fun y hy hy32 => ?_, fun _ y hy => (lexLt_cons_false.mp (hleast y hy)).1⟩
    have hmem : y ∈ l.filter (fun g => decide (count g.2 = 32)) := by simp [hy, hy32]
    obtain ⟨z, hz⟩ := head_sortBy_isSome higher (List.ne_nil_of_mem hmem)
    rw [hz] at hnone
    cases hnone

theorem chosen_isSome (count : Group → Nat) {l : List (Nat × Group)} (h : l ≠ []) : ∃ x, chosen count l = some x := by
  unfold chosen
  split
  · exact ⟨_, rfl⟩
  · exact head_sortBy_isSome older h

/-- A slot is passed over by an opportunity: a candidate of it does not issue, and a group of lower priority does (R142). -/
theorem mem_passedOver {slot : Nat} {issued l : List (Nat × Group)} : slot ∈ passedOver issued l ↔
    ∃ h ∈ l, h.1 = slot ∧ (∀ j ∈ issued, j.1 ≠ slot) ∧ ∃ j ∈ issued, j.2.prio < h.2.prio := by
  simp only [passedOver, List.mem_map, List.mem_filter, Bool.and_eq_true, Bool.not_eq_true', List.any_eq_false,
    List.any_eq_true, decide_eq_true_eq]
  constructor
  · rintro ⟨h, ⟨hl, hother, hlower⟩, rfl⟩
    exact ⟨h, hl, rfl, hother, hlower⟩
  · rintro ⟨h, hl, rfl, hother, hlower⟩
    exact ⟨h, ⟨hl, hother, hlower⟩, rfl⟩

/-- A lane opportunity given to the choice among candidates and the groups packed with it (R140, R142). -/
theorem giveLane_issueSlot {s : State} {core : Nat} {l : List (Nat × Group)} {x : Nat × Group}
    (h : chosen (fun g => g.pass) l = some x) :
    let r := giveLane s core l (issueSlot s core l)
    r.turn = .lane core x.1 ∧ r.packed = (packedWith s core x l).map (fun y => y.1) ∧
      r.passed = passedOver (x :: packedWith s core x l) l ∧ (coreOf r core).offered = [] := by
  simp only [issueSlot, h, giveLane, true_and]
  exact congrArg Core.offered (mget_mset_same s.cores core _ Core.reset)

/-- A scalar opportunity given to the choice among its candidates. -/
theorem giveScalar_chosen {s : State} {core : Nat} {x : Nat × Group}
    (h : chosen (fun g => g.spass) (scalarCandidates s core) = some x) :
    let r := giveScalar s core
    r.turn = .scalar core x.1 ∧ r.packed = [] ∧ r.passed = passedOver [x] (scalarCandidates s core) ∧
      (coreOf r core).scalarOffered = [] := by
  simp only [giveScalar, h, true_and]
  exact congrArg Core.scalarOffered (mget_mset_same s.cores core _ Core.reset)

/-! ## A core's turn to offer (R141) -/

section
variable {s : State} {core : Nat}

theorem step_offer (hagenda : s.agenda = []) (hwaiting : nextWaiting (tick s) = none)
    (hcommand : nextCommand (tick s) = none) (hturn : s.turn = .offer core) : step s = offerStep (tick s) core := by
  simp only [step, hagenda, ownStep, hwaiting, hcommand, turn_tick, hturn]

theorem laneIssueOpportunity_gives (hturn : midTurn s.turn = false) : exec (.laneIssueOpportunity core) s =
    .next (giveLane s core (laneCandidates s core) (issueSlot s core (laneCandidates s core))) := by
  change execLaneIssueOpportunity core s = _
  rw [execLaneIssueOpportunity, if_neg (by simp [hturn])]

theorem laneIssueOpportunity_waits (hturn : midTurn s.turn = true) : exec (.laneIssueOpportunity core) s = .next s := by
  change execLaneIssueOpportunity core s = _
  rw [execLaneIssueOpportunity, if_pos hturn]

theorem offerStep_lane (hturn : midTurn s.turn = false) (hlanes : laneCandidates s core ≠ [])
    (hfirst : scalarCandidates s core = [] ∨ Config.freeBit s.fresh 793 core = true) : offerStep s core =
      .next (giveLane s core (laneCandidates s core) (issueSlot s core (laneCandidates s core))) := by
  rw [offerStep, if_pos ⟨by simpa using hlanes, by simpa using hfirst⟩, laneIssueOpportunity_gives hturn]

theorem offerStep_scalar (hscalars : scalarCandidates s core ≠ [])
    (hfirst : laneCandidates s core = [] ∨ Config.freeBit s.fresh 793 core = false) :
    offerStep s core = .next (giveScalar s core) := by
  rw [offerStep, if_neg, if_pos (by simpa using hscalars)]
  rintro ⟨hlanes, hwins⟩
  rcases hfirst with hfirst | hfirst
  · simp [hfirst] at hlanes
  · simp [hfirst, hscalars] at hwins

theorem offerStep_either (hturn : midTurn s.turn = false) (hlanes : laneCandidates s core ≠ [])
    (hscalars : scalarCandidates s core ≠ []) :
    offerStep s core = .next (giveLane s core (laneCandidates s core) (issueSlot s core (laneCandidates s core))) ∨
      offerStep s core = .next (giveScalar s core) := by
  cases hbit : Config.freeBit s.fresh 793 core
  · exact .inr (offerStep_scalar hscalars (.inr hbit))
  · exact .inl (offerStep_lane hturn hlanes (.inr hbit))

section
variable (hlanes : laneCandidates s core = []) (hscalars : scalarCandidates s core = [])
include hlanes hscalars

/-- With no candidate the turn goes to a core of the holm whose opportunities are open. -/
theorem offerStep_open {other : Nat} (hopen : openCore s (core / 8) = some other) :
    offerStep s core = .next { s with turn := .offer other } := by
  simp only [offerStep, hlanes, hscalars, hopen, List.isEmpty_nil, Bool.not_true, Bool.false_eq_true, false_and, if_false]

/-- With no candidate and no core of the holm open, the holm's next ac comes if a core of it has a group. -/
theorem offerStep_closed (hopen : openCore s (core / 8) = none) : offerStep s core =
    if (holmCores (core / 8)).any (peopled s) then acStep s (core / 8) else .next { s with turn := nextOffer s } := by
  simp only [offerStep, hlanes, hscalars, hopen, List.isEmpty_nil, Bool.not_true, Bool.false_eq_true, false_and, if_false]

end

theorem holmBalance_isNext (holm : Nat) (moving : BitVec 8) (nj : BitVec 64) :
    ∃ u, exec (.holmBalance holm moving nj) s = .next u := by
  change ∃ u, execHolmBalance holm moving nj s = .next u
  unfold execHolmBalance
  split
  · exact ⟨_, rfl⟩
  · split
    · exact ⟨_, rfl⟩
    · dsimp only
      split
      · exact ⟨_, rfl⟩
      · exact ⟨_, rfl⟩

theorem acStep_balances {holm : Nat} (hholm : holm < 128) : ∃ moving nj u,
    exec (.holmBalance holm moving nj) (beginAc s holm) = .next u ∧ acStep s holm = .next { u with turn := nextOffer u } := by
  obtain ⟨u, hu⟩ := holmBalance_isNext (s := beginAc s holm) holm (BitVec.ofNat 8 (freeWord s 791 0).toNat) (freeWord s 792 0)
  refine ⟨_, _, u, hu, ?_⟩
  simp only [acStep, prepare, if_pos hholm, hu, andNext]

end

/-! ## After a turn (R142) -/

theorem groupOf_countPassed (s : State) (core slot : Nat) (f : Group → Group) : groupOf (countPassed s core f) core slot =
    (groupOf s core slot).map (fun g => if s.passed.contains slot then f g else g) := by
  rw [groupOf, coreOf, countPassed]
  dsimp only [modCore_cores]
  rw [mget_mset_same, mget?_mapEntries, groupOf]

theorem groupOf_nextTurn (s : State) (core c slot : Nat) : groupOf (nextTurn core s) c slot = groupOf s c slot := by
  unfold nextTurn
  split <;> rfl

theorem groupOf_modGroup_slot (s : State) (core n slot : Nat) (f : Group → Group) : groupOf (modGroup s core n f) core slot =
    (groupOf s core slot).map (fun g => if slot = n then f g else g) := by
  by_cases hn : slot = n
  · subst hn; simp
  · cases hg : groupOf s core n with
    | none => simp [modGroup, hg, hn]
    | some x => rw [modGroup_some _ _ _ _ x hg, groupOf_setGroup_other _ _ _ _ _ hn]; simp [hn]

theorem laneStalled_notIssuing (s : State) (core n : Nat) :
    laneStalled (modLane s core n notIssuing) core n = laneStalled s core n := by
  cases hg : groupOf s core n with
  | none => simp [laneStalled, stallOf, modLane, hg]
  | some g =>
    simp only [laneStalled, stallOf, modLane, groupOf_modGroup_slot, hg, Option.map_some, if_true, notIssuing]
    cases hstate : g.ln.state <;> simp [restState, hstate]
    cases g.ln.handler.isSome <;> rfl

/-- A pass counter after an opportunity: cleared where its group has issued, one more where it was passed over, 32 at most. -/
def countedOn (issued passed : Bool) (v : Nat) : Nat :=
  if passed then min ((if issued then 0 else v) + 1) 32 else (if issued then 0 else v)

section
variable {s : State} {core slot n : Nat} {g y : Group} (hg : groupOf s core slot = some g)
include hg

theorem pass_afterTurn_lane (hy : groupOf (afterTurn (.lane core n) s) core slot = some y) :
    y.pass = if laneStalled s core n then g.pass else countedOn (decide (slot = n)) (s.passed.contains slot) g.pass := by
  simp only [afterTurn, groupOf_nextTurn, laneStalled_notIssuing] at hy
  split at hy
  next hstall =>
    rw [if_pos hstall]
    simp only [modLane, groupOf_modGroup_slot, hg, Option.map_some, Option.some.injEq] at hy
    subst hy
    split <;> rfl
  next hstall =>
    rw [if_neg hstall]
    simp only [modLane, groupOf_countPassed, groupOf_modGroup_slot, hg, Option.map_some, Option.some.injEq,
      modGroup_passed] at hy
    subst hy
    generalize s.passed.contains slot = passed
    by_cases hn : slot = n <;> cases passed <;> simp [hn, countedOn, passedMore]

theorem spass_afterTurn_scalar (hy : groupOf (afterTurn (.scalar core n) s) core slot = some y) :
    y.spass = if (groupOf s core n).any (fun g => g.sc.stalled) then g.spass
      else countedOn (decide (slot = n)) (s.passed.contains slot) g.spass := by
  simp only [afterTurn, groupOf_nextTurn] at hy
  split at hy
  next hstall =>
    rw [if_pos hstall]
    rw [hg] at hy
    cases hy
    rfl
  next hstall =>
    rw [if_neg hstall]
    simp only [groupOf_countPassed, groupOf_modGroup_slot, hg, Option.map_some, Option.some.injEq, modGroup_passed] at hy
    subst hy
    generalize s.passed.contains slot = passed
    by_cases hn : slot = n <;> cases passed <;> simp [hn, countedOn, passedMore]

end

theorem scheduling : Sys2Proof.Rules.Scheduling := by
  intro core slot n other s g y cs zs r z t lanes scalars holm first below counted
  refine ⟨laneIssueOpportunity_gives, laneIssueOpportunity_waits, fun hcs => ?_, fun hzs => ?_,
    fun hagenda hwaiting hcommand hturn => ?_, fun hg => ⟨pass_afterTurn_lane hg, spass_afterTurn_scalar hg⟩⟩
  · obtain ⟨x, hx⟩ := chosen_isSome (fun g => g.pass) hcs
    obtain ⟨hmem, hfirst⟩ := firstChoice_of_chosen hx
    obtain ⟨hr, hpacked, hpassed, hoffered⟩ := giveLane_issueSlot (s := s) (core := core) hx
    exact ⟨x, hmem, hfirst, hr, hpacked, by rw [hpassed]; exact mem_passedOver, hoffered⟩
  · obtain ⟨x, hx⟩ := chosen_isSome (fun g => g.spass) hzs
    obtain ⟨hmem, hfirst⟩ := firstChoice_of_chosen hx
    obtain ⟨hz, hpacked, hpassed, hoffered⟩ := giveScalar_chosen hx
    exact ⟨x, hmem, hfirst, hz, hpacked, by rw [hpassed]; exact mem_passedOver, hoffered⟩
  · have hmid : midTurn t.turn = false := by simp only [t, turn_tick, hturn, midTurn]
    rw [step_offer hagenda hwaiting hcommand hturn]
    refine ⟨fun hlanes hscalars => offerStep_lane hmid hlanes (.inl hscalars),
      fun hlanes hscalars => offerStep_scalar hscalars (.inl hlanes), offerStep_either hmid, fun hlanes hscalars => ?_⟩
    refine ⟨offerStep_open hlanes hscalars, fun hopen hpeople => ?_, fun hopen hpeople hholm => ?_⟩
    · exact (offerStep_closed hlanes hscalars hopen).trans (if_neg (by rw [hpeople]; decide))
    · obtain ⟨moving, nj, u, hu, hstep⟩ := acStep_balances (s := t) hholm
      exact ⟨moving, nj, u, hu, (offerStep_closed hlanes hscalars hopen).trans ((if_pos hpeople).trans hstep)⟩

/-! ## The banks' grants (R143, R144) -/

/-- The key by which a bank orders the reads asked of it: the starved ones by when they became so, then the others, each by their
collector's age. -/
def grantKey (a : BankRead × Nat) : List Nat :=
  match a.1.starved with
  | some t => [0, t, a.2]
  | none => [1, 0, a.2]

theorem grantKey_length (a : BankRead × Nat) : (grantKey a).length = 3 := by
  unfold grantKey; split <;> rfl

theorem grantedBefore_eq : grantedBefore = fun a b => lexLt (grantKey a) (grantKey b) := rfl

/-- The reads that a bank is asked for, each with its collector's place. -/
def asksOf (bank : Nat) (l : List Collector) : List (BankRead × Nat) :=
  l.zipIdx.filterMap (fun c => (askedOf bank c.1).map (fun r => (r, c.2)))

theorem mem_asksOf {bank m : Nat} {r : BankRead} {l : List Collector} :
    (r, m) ∈ asksOf bank l ↔ ∃ c, l[m]? = some c ∧ askedOf bank c = some r := by
  simp only [asksOf, List.mem_filterMap, Prod.exists, List.mem_zipIdx_iff_getElem?, Option.map_eq_some_iff, Prod.mk.injEq]
  constructor
  · rintro ⟨c, _, hc, _, hr, rfl, rfl⟩
    exact ⟨c, hc, hr⟩
  · rintro ⟨c, hc, hr⟩
    exact ⟨c, m, hc, r, hr, rfl, rfl⟩

theorem bankWinner_some {bank n : Nat} {l : List Collector} (h : bankWinner bank l = some n) :
    ∃ c r, l[n]? = some c ∧ askedOf bank c = some r ∧
      ∀ m x, (x, m) ∈ asksOf bank l → lexLt (grantKey (x, m)) (grantKey (r, n)) = false := by
  obtain ⟨⟨r, _⟩, hhead, rfl⟩ := Option.map_eq_some_iff.mp h
  obtain ⟨c, hc, hr⟩ := mem_asksOf.mp (mem_of_head_sortBy hhead)
  rw [grantedBefore_eq] at hhead
  exact ⟨c, r, hc, hr, fun m x hx => head_sortBy_least grantKey grantKey_length hhead _ hx⟩

/-- Not below in the order of the grants: a starved read comes first, by when it became so, then by age. -/
theorem grantKey_least {r x : BankRead} {n m : Nat} (h : lexLt (grantKey (x, m)) (grantKey (r, n)) = false) :
    (r.starved = none → x.starved = none ∧ n ≤ m) ∧
      ∀ a b, r.starved = some a → x.starved = some b → a ≤ b ∧ (a = b → n ≤ m) := by
  cases hr : r.starved <;> cases hx : x.starved <;> simp [grantKey, hr, hx, lexLt] at h ⊢ <;> omega

theorem bankWinner_none {bank : Nat} {l : List Collector} (h : bankWinner bank l = none) : ∀ c ∈ l, askedOf bank c = none := by
  intro c hc
  obtain ⟨m, hm⟩ := List.mem_iff_getElem?.mp hc
  by_contra hne
  obtain ⟨r, hr⟩ := Option.ne_none_iff_exists'.mp hne
  obtain ⟨x, hx⟩ := head_sortBy_isSome grantedBefore (List.ne_nil_of_mem (mem_asksOf.mpr ⟨c, hm, hr⟩))
  rw [bankWinner, ← asksOf, hx] at h
  cases h

/-- The one collector in use: a bank grants it the read that it asks for. -/
theorem grantBank_single (ac bank : Nat) (c : Collector) : ∃ rs, grantBank ac [c] bank = [{ c with reads := rs }] ∧
    rs.map (fun r => r.bank) = (c.reads.map (fun r => r.bank)).erase bank := by
  unfold grantBank
  split
  next hnone =>
    refine ⟨c.reads, rfl, (List.erase_of_not_mem fun hmem => ?_).symm⟩
    obtain ⟨r, hr, hbank⟩ := List.mem_map.mp hmem
    have hasked := bankWinner_none hnone c (List.mem_singleton_self c)
    exact List.find?_eq_none.mp hasked r hr (decide_eq_true hbank)
  next w hw =>
    obtain ⟨c', r, hc', -, -⟩ := bankWinner_some hw
    obtain rfl : w = 0 := by
      have hlt := (List.getElem?_eq_some_iff.mp hc').1
      simpa using hlt
    refine ⟨c.reads.eraseP (fun r => decide (r.bank = bank)), rfl, ?_⟩
    rw [List.erase_eq_eraseP', List.eraseP_map]
    rfl

theorem grantBanks_single (ac : Nat) (banks : List Nat) (c : Collector) :
    ∃ rs, banks.foldl (grantBank ac) [c] = [{ c with reads := rs }] ∧
      rs.map (fun r => r.bank) = (c.reads.map (fun r => r.bank)).diff banks := by
  induction banks generalizing c with
  | nil => exact ⟨c.reads, rfl, rfl⟩
  | cons b banks ih =>
    obtain ⟨rs, hgrant, hrs⟩ := grantBank_single ac b c
    obtain ⟨rs', hgrants, hrs'⟩ := ih { c with reads := rs }
    exact ⟨rs', by rw [List.foldl_cons, hgrant, hgrants], by rw [hrs', hrs, List.diff_cons]⟩

/-- A collector alone, whose reads lie in different banks, has all of them granted in one ac. -/
theorem grantBanks_all {ac : Nat} {c : Collector} (hnodup : (c.reads.map (fun r => r.bank)).Nodup)
    (hbanks : ∀ r ∈ c.reads, r.bank < 16) : (List.range 16).foldl (grantBank ac) [c] = [{ c with reads := [] }] := by
  obtain ⟨rs, hgrants, hrs⟩ := grantBanks_single ac (List.range 16) c
  have hnil : rs.map (fun r => r.bank) = [] := by
    rw [hrs, List.eq_nil_iff_forall_not_mem]
    intro b hb
    obtain ⟨hmem, hout⟩ := hnodup.mem_sdiff_iff.mp hb
    obtain ⟨r, hr, rfl⟩ := List.mem_map.mp hmem
    exact hout (List.mem_range.mpr (hbanks r hr))
  rw [hgrants, List.map_eq_nil_iff.mp hnil]

theorem coreGranted_single {k : Core} {c : Collector} {g : Group} (hk : k.collectors = [c])
    (hnodup : (c.reads.map (fun r => r.bank)).Nodup) (hbanks : ∀ r ∈ c.reads, r.bank < 16) (hg : mget? k.groups c.slot = some g) :
    coreGranted k = { k with
      collectors := [], granted := true, groups := mset k.groups c.slot { g with ln := freeNames g.ln c.frees },
      pool := k.pool + charge g - charge { g with ln := freeNames g.ln c.frees } } := by
  simp only [coreGranted, hk, grantBanks_all hnodup hbanks]
  simp [freeCollected, hg]

/-! ## An ac of a core (R51) -/

theorem coreAc_ungranted {s : State} {core : Nat} (h : (coreOf s core).granted = false) :
    coreAc s core = coreAc (setCore s core (coreGranted (coreOf s core))) core := by
  simp only [coreAc, modCore, coreOf_setCore, setCore_setCore, h]
  rfl

theorem coreAc_granted {s : State} {core slot : Nat} {g : Group} (h : (coreOf s core).granted = true) :
    (coreOf (coreAc s core) core).ac = (coreOf s core).ac + 1 ∧ (coreOf (coreAc s core) core).granted = false ∧
      (groupOf s core slot = some g → groupOf (coreAc s core) core slot = some { g with
        ln := laneAc ((coreOf s core).collectors.find? (fun c => decide (c.slot = slot))) (8 / issueAc s core g) g.ln }) := by
  unfold groupOf coreAc
  simp only [coreOf_modCore, h, if_true, true_and, mget?_mapEntries]
  intro hg
  rw [hg]
  rfl

theorem laneAc_none (d : Nat) (l : Lane) : laneAc none d l = { l with clock := l.clock + d } := rfl

theorem laneAc_within {c : Collector} {d : Nat} {l : Lane} (h : ¬ (l.clock - c.since) / 8 < (l.clock + d - c.since) / 8) :
    laneAc (some c) d l = { l with clock := l.clock + d } := if_neg h

/-- At the end of a step with operands still to be granted, the next issue and the landing of the last writes wait by one more. -/
theorem laneAc_ends {c : Collector} {d : Nat} {l : Lane} (h : (l.clock - c.since) / 8 < (l.clock + d - c.since) / 8) :
    laneAc (some c) d l = { l with
      clock := l.clock + d, next := l.next + 8,
      hazards := l.hazards.take (l.hazards.length - c.starts) ++
        (l.hazards.drop (l.hazards.length - c.starts)).map (fun h => { h with lands := h.lands + 8 }) } := if_pos h

theorem grants : Sys2Proof.Rules.Grants := by
  intro core slot bank n m ac d s g c c' r x l ln k ends kept
  refine ⟨rfl, coreGranted_single, fun hwin => ?_, bankWinner_none, ⟨rfl, ?_⟩, coreAc_ungranted, coreAc_granted, laneAc_none d ln,
    laneAc_within, laneAc_ends⟩
  · obtain ⟨w, y, hw, hy, hleast⟩ := bankWinner_some hwin
    exact ⟨w, y, hw, hy, fun hc' hx => grantKey_least (hleast m x (mem_asksOf.mpr ⟨c', hc', hx⟩))⟩
  · simp only [lostRead, Option.isNone_iff_eq_none]

/-! ## Groups that form, and the reserve (R137, R141, R169) -/

section
variable {s : State} {core slot : Nat} {g : Group}

theorem groupFormed_effect (hg : groupOf s core slot = some g) (hstate : g.ln.state = .forming)
    (hplane : planeAwaited (coreOf s core) g = false) : exec (.groupFormed core slot) s = .next (setGroup s core slot (
      if g.formed = true then { g with pass := 0, spass := 0, ln := { g.ln with state := .ready } } else formedGroup s g)) := by
  change execGroupFormed core slot s = _
  simp only [execGroupFormed, hg, hstate, hplane]
  cases g.formed <;> rfl

/-- Among streams that all wait for registers, those that the reserve may serve are those that need more than the pool holds. -/
theorem wantsRegisters_of_stalled {k : Core} (h : g.ln.state = .stalled .allocation) :
    wantsRegisters k g = decide (k.pool < g.ln.need) := by
  simp [wantsRegisters, lacks, h]

theorem allocationReserve_serves (hreform : reform (coreOf s core) = coreOf s core)
    (hall : ((coreOf s core).groups.filter (fun h => decide (h.2.ln.state ≠ .preempted))).all
      (fun h => decide (h.2.ln.state = .stalled .allocation)) = true)
    (hfirst : (sortBy older (((coreOf s core).groups.filter (fun h => decide (h.2.ln.state ≠ .preempted))).filter
      (fun h => decide ((coreOf s core).pool < h.2.ln.need)))).head? = some (slot, g))
    (hreserve : lacks (coreOf s core) g ≤ (coreOf s core).reserve) :
    exec (.allocationReserve core) s = .next (setCore s core (serve (coreOf s core) slot g)) := by
  change execAllocationReserve core s = _
  have hwants : ((coreOf s core).groups.filter (fun h => decide (h.2.ln.state ≠ .preempted))).filter
      (fun h => wantsRegisters (coreOf s core) h.2) = ((coreOf s core).groups.filter
        (fun h => decide (h.2.ln.state ≠ .preempted))).filter (fun h => decide ((coreOf s core).pool < h.2.ln.need)) :=
    List.filter_congr fun h hh => wantsRegisters_of_stalled (of_decide_eq_true (List.all_eq_true.mp hall h hh))
  simp only [execAllocationReserve, hreform, if_pos hall, hwants, hfirst, if_pos hreserve]

end

theorem residence : Sys2Proof.Rules.Residence :=
  fun _ _ _ _ => ⟨groupFormed_effect, allocationReserve_serves⟩

/-! ## Placement (R131 to R133, R165) -/

section
variable {s : State} {n core : Nat} {k : Kernel}

theorem firsts_contains : ((List.range 4).filterMap (fun d => ((placeOrder s d).head?).map (fun e => e.1))).contains n = true ↔
    ∃ d < 4, ∃ e, (placeOrder s d).head? = some (n, e) := by
  simp only [List.contains_iff_mem, List.mem_filterMap, List.mem_range, Option.map_eq_some_iff, Prod.exists]
  constructor
  · rintro ⟨d, hd, _, e, he, rfl⟩
    exact ⟨d, hd, e, he⟩
  · rintro ⟨d, hd, e, he⟩
    exact ⟨d, hd, n, e, he, rfl⟩

theorem noteFirst_of_first (hk : mget? s.kernels n = some k) (h : ∃ d < 4, ∃ e, (placeOrder s d).head? = some (n, e)) :
    mget? (noteFirst s).kernels n = some { k with firstAt := some (k.firstAt.getD s.now) } := by
  simp only [noteFirst, mget?_mapEntries, hk, Option.map_some, if_pos (firsts_contains.mpr h)]

theorem noteFirst_of_not_first (hk : mget? s.kernels n = some k) (h : ¬ ∃ d < 4, ∃ e, (placeOrder s d).head? = some (n, e)) :
    mget? (noteFirst s).kernels n = some { k with firstAt := none } := by
  simp only [noteFirst, mget?_mapEntries, hk, Option.map_some, if_neg (mt firsts_contains.mp h)]

theorem placeFirst_places {rest : List (Nat × Kernel)} (h : placeWhere s n k (savedOf s n k) = some core) :
    placeFirst s ((n, k) :: rest) = putCohort s n core k (savedOf s n k) := by
  simp only [placeFirst, h]

theorem placeFirst_nowhere {rest : List (Nat × Kernel)} (h : placeWhere s n k (savedOf s n k) = none) :
    placeFirst s ((n, k) :: rest) = if k.prio = 255 then expressPreempt s n k (savedOf s n k) else placeFirst s rest := by
  simp only [placeFirst, h]

/-- A cohort goes to a core of its kernel's partition that it fits, in a quad that is active, and that no kernel before it has
reserved. -/
theorem placeWhere_some {v : Option (Nat × SavedCohort)} (h : placeWhere s n k v = some core) :
    fits k v (coreOf s core) = true ∧ inSet s k core = true ∧ (quadOf s core).state = .active ∧
      reservedFrom s n k core = false := by
  obtain ⟨d, -, hbest⟩ := List.exists_of_findSome?_eq_some h
  obtain ⟨hcore, hfits⟩ := List.mem_filter.mp (mem_of_head_sortBy hbest)
  simp only [coresFor, List.mem_filter, Bool.and_eq_true, decide_eq_true_eq, Bool.not_eq_true'] at hcore
  obtain ⟨-, ⟨hset, hactive⟩, hfree⟩ := hcore
  exact ⟨hfits, hset, hactive, hfree⟩

theorem mem_victims {x : Core} {c : Cohort} : c ∈ victims s x ↔ c ∈ x.cohorts ∧
    (∃ e, mget? s.kernels c.kernel = some e ∧ e.prio < 255) ∧ (ctxOf s c.ctx).state ≠ .faulted := by
  rw [victims, mem_sortBy]
  simp [Option.any_eq_true]

section
variable (hk : mget? s.kernels n = some k) (hplace : placeable s k = true)
include hk hplace

theorem placementAging_keeps (h : s.now < k.agedAt + 1000000 ∨ 255 ≤ k.prio) : exec (.placementAging n) s =
    .next (modKernel s n (fun k =>
      { k with reserved := k.reserved || k.firstAt.any (fun t => decide (t + 1000000 ≤ s.now)) })) := by
  change execPlacementAging n s = _
  simp only [execPlacementAging, hk, if_pos hplace]
  rw [if_neg (by simp only [agingTime]; omega)]
  rfl

theorem placementAging_raises (h : k.agedAt + 1000000 ≤ s.now) (hprio : k.prio < 255) : exec (.placementAging n) s =
    .next (modKernel (modKernel s n (fun k =>
      { k with boost := min (k.boost + 1) (254 - k.prio), agedAt := k.agedAt + 1000000 })) n (fun k =>
      { k with reserved := k.reserved || k.firstAt.any (fun t => decide (t + 1000000 ≤ (modKernel s n (fun k =>
        { k with boost := min (k.boost + 1) (254 - k.prio), agedAt := k.agedAt + 1000000 })).now)) })) := by
  change execPlacementAging n s = _
  simp only [execPlacementAging, hk, if_pos hplace]
  rw [if_pos ⟨h, hprio⟩]
  rfl

end

theorem cohortPreempt_effect {c : Cohort} (hc : (coreOf s core).cohorts.find? (fun c => decide (c.slots.head? = some n)) = some c)
    (hasked : preemptAsked s core c = true) (hquiet : quiet s core c = true) :
    exec (.cohortPreempt core n) s = .next (preemptCohort s core c) := by
  change execCohortPreempt core n s = _
  simp only [execCohortPreempt, hc, if_pos (And.intro hasked hquiet)]

theorem cohortRestore_effect {v : SavedCohort} (hv : mget? s.saved n = some v) (hk : mget? s.kernels v.cohort.kernel = some k)
    (hnext : nextPlacement s (placeOrder s k.die) = some (v.cohort.kernel, core))
    (hsaved : (savedOf s v.cohort.kernel k).map (fun x => x.1) = some n) :
    exec (.cohortRestore n core) s = .next (restoreCohort s core n v) := by
  change execCohortRestore n core s = _
  simp only [execCohortRestore, hv, hk, if_pos (And.intro hnext hsaved)]

end

theorem placement : Sys2Proof.Rules.Placement := by
  intro die core n s k rest c v saved aged reserving first
  refine ⟨rfl, fun hk => ⟨noteFirst_of_first hk, noteFirst_of_not_first hk⟩, fun horder => ?_, placeWhere_some, fun hc => ?_,
    fun hk hplace => ⟨placementAging_keeps hk hplace, placementAging_raises hk hplace⟩, cohortPreempt_effect, rfl,
    cohortRestore_effect⟩
  · rw [horder]
    exact ⟨placeFirst_places, fun hnone hprio => (placeFirst_nowhere hnone).trans (if_pos hprio),
      fun hnone hprio => (placeFirst_nowhere hnone).trans (if_neg hprio)⟩
  · obtain ⟨hcohort, hkernel, hctx⟩ := mem_victims.mp hc
    exact ⟨hctx, hcohort, hkernel⟩

/-- Settles O53: the first of a sorted list is least, so the streams, reads and cores chosen are those that the rules name; each
step is what its function makes of that choice. -/
theorem schedulingAndPlacement : Obligations.SchedulingAndPlacement := ⟨scheduling, grants, residence, placement⟩

end Sys2Proof.Proofs
end
